-- ==== Sys2Proof/Word.lean ====
section
/-! DEFINITION. The word types of the S8 and the plainest arithmetic on them (spec 00 R1 to R4). -/

namespace Sys2Proof

/-- A 64-bit register value (R136). -/
abbrev Word := BitVec 64
/-- One byte of 8 bits (R3). -/
abbrev Byte := BitVec 8
/-- One slice of 4 bits (R110). -/
abbrev Nib := BitVec 4
/-- A scalar register number x0 to x31 (R136). -/
abbrev XReg := BitVec 5

/-- A sparse table: keys strictly rising; an unlisted key holds the table's default. -/
abbrev SMap (α : Type) := List (Nat × α)

end Sys2Proof
end

