-- ==== Sys2Proof/Config.lean ====
section
/-! DEFINITION. What the manual leaves open: constants without a body, so that nothing can be proved of their value. -/

namespace Sys2Proof.Config

/-- A bit the manual leaves open, fresh for each value of the counter `State.free` (log entry 8). -/
opaque freeBit : Nat → Bool
/-- A 64-bit value the manual leaves open, fresh for each value of the counter `State.free` (log entry 8). -/
opaque freeWord : Nat → BitVec 64
/-- The up port 64 to 127 that a SPREAD route entry chooses for a source and a destination endpoint (R388: a hash
the manual does not give; log entry 9). -/
opaque spreadPort : Nat → Nat → BitVec 6

/-- Whether a fused multiply-add whose product is zero times infinity raises the invalid flag when the addend is a
quiet NaN: IEEE 754-2019, which R41 follows, leaves it to the implementation (log entry 11). -/
opaque fmaQuietInvalid : Bool

/-- Which byte of a block's snapshot stands at a byte offset of its snapshot page: R421 gives the content and no layout
(log entry 19). -/
opaque snapByte : Nat → Nat → Nat
/-- The bytes of a repair map, over which measurement 4 is taken (R435; the encoding of the map is not given; log
entry 20): lanes, clusters, HBM rows, HBM channels and ports. -/
opaque repairBytes : List (Nat × Nat) → List (Nat × Nat) → List (Nat × Nat) → List Nat → List Nat → List (BitVec 8)
/-- The private key derived from the fused secret and the SHA-384 of the firmware (R435; log entry 20). -/
opaque deriveKey : Nat → Nat → Nat
/-- The certificate of a public key, which chains to Feiralys' root (R435; log entry 20). -/
opaque certificate : Nat × Nat → List (BitVec 8)
/-- The SHA-384 of what an SPDM answer signs, and the nonce of the signature (R435; log entry 20). -/
opaque spdmDigest : List Nat → Nat
opaque spdmNonce : Nat → Nat

end Sys2Proof.Config
end

