-- ==== Sys2Proof/Syntax.lean ====
section
/-! DEFINITION. The instructions and events of the S8: one constructor per row of the opcode table. The operand
structures keep the fields of the spec's formats (03 R81 to R94); an event carries what the world or the engine
brings to it. -/

namespace Sys2Proof

/-- A vector operand field: start and width code (R87). -/
structure Opnd where
  start : BitVec 10
  wcode : BitVec 4
  deriving DecidableEq, Repr

/-- The VR format (R88). -/
structure VR where
  dest : Opnd
  src1 : Opnd
  src2 : Opnd
  pred : BitVec 4
  pz : Bool
  mode : BitVec 2
  seg : BitVec 2
  ext : Bool
  sat : Bool
  fn : BitVec 3
  deriving DecidableEq, Repr

/-- The VI format (R91). -/
structure VI where
  dest : Opnd
  src1 : Opnd
  imm : BitVec 14
  pred : BitVec 4
  pz : Bool
  ext : Bool
  sat : Bool
  fn : BitVec 3
  deriving DecidableEq, Repr

/-- The VM format (R92). -/
structure VM where
  data : Opnd
  base : XReg
  stride : XReg
  idx : BitVec 14
  cls : BitVec 4
  pred : BitVec 4
  space : Bool
  hint : BitVec 2
  fn : BitVec 5
  deriving DecidableEq, Repr

/-- The VT format (R93). -/
structure VT where
  td : BitVec 3
  ta : BitVec 3
  tb : BitVec 3
  vec : Opnd
  xa : XReg
  xb : XReg
  pred : BitVec 4
  fn : BitVec 3
  deriving DecidableEq, Repr

/-- A firmware image (R434): header and body, the security version, the public key and the signature. -/
structure FwImage where
  header : List Byte
  body : List Byte
  version : Nat
  key : Nat × Nat
  sig : Nat × Nat
  deriving DecidableEq, Repr

/-- Where an error occurs (R111, R214, R243, R420): a slice bank row of a lane, a tile item's row (item numbered as
the bits of TEN, then 12 to 19 for the index tiles), a scratchpad word, a memory word, a twiddle entry, register or
CSR state of a context, a line cache, a TLB, a Causeway link or a Gloxel port, these four with the physical address of the
line, entry or flit. -/
inductive ErrSite where
  | slice (cluster lane row : Nat)
  | tile (cluster item row : Nat)
  | scratchpad (cluster offset : Nat)
  | memory (pa : Nat)
  | twiddle (cluster offset : Nat)
  | registers (ctx : Nat)
  | csrs (ctx : Nat)
  | lineCache (die : Nat) (pa : Nat)
  | tlb (die : Nat) (pa : Nat)
  | causeway (die : Nat) (pa : Nat)
  | gloxel (port : Nat) (pa : Nat)
  deriving DecidableEq, Repr

/-- A launch window (R337, R428): of a physical function (`fn` 0) the window of queue `index`, of virtual function `fn` - 1
that of its `index`-th queue. -/
structure LaunchWindow where
  fn : Nat
  index : Nat
  deriving DecidableEq, Repr

/-- An element of a packet that its target refuses, and the reason (R386). -/
structure RefusedElem where
  elem : Nat
  reason : BitVec 3
  deriving DecidableEq, Repr

/-- One row of the opcode table. First come the rows that a word decodes to, then the rows that share a word (or a
major opcode and format) with an earlier row and are told apart by a register, a record or the field fn that the
earlier row keeps, then the events. -/
inductive Instr where
  /-- Writes the 64-bit sum of two scalar registers modulo 2^64. (R150) -/
  | add (rd ra rb : XReg)
  /-- Writes the 64-bit difference of two scalar registers modulo 2^64. (R150) -/
  | sub (rd ra rb : XReg)
  /-- Writes the bitwise AND of two scalar registers. (R150) -/
  | and (rd ra rb : XReg)
  /-- Writes the bitwise OR of two scalar registers. (R150) -/
  | or (rd ra rb : XReg)
  /-- Writes the bitwise XOR of two scalar registers. (R150) -/
  | xor (rd ra rb : XReg)
  /-- Writes the first source AND NOT the second. (R150) -/
  | andn (rd ra rb : XReg)
  /-- Shifts left logically by the second source modulo 64. (R150) -/
  | sll (rd ra rb : XReg)
  /-- Shifts right logically by the second source modulo 64. (R150) -/
  | srl (rd ra rb : XReg)
  /-- Shifts right arithmetically by the second source modulo 64. (R150) -/
  | sra (rd ra rb : XReg)
  /-- Writes 1 if the first source is less than the second as signed. (R150) -/
  | slt (rd ra rb : XReg)
  /-- Writes 1 if the first source is less than the second as unsigned. (R150) -/
  | sltn (rd ra rb : XReg)
  /-- Writes the product modulo 2^64. (R150) -/
  | mul (rd ra rb : XReg)
  /-- Writes the upper 64 bits of the signed 128-bit product. (R150) -/
  | mulh (rd ra rb : XReg)
  /-- Writes the upper 64 bits of the unsigned 128-bit product. (R150) -/
  | mulhn (rd ra rb : XReg)
  /-- Writes the signed quotient truncated towards zero with the borderline cases of R39. (R150) -/
  | div (rd ra rb : XReg)
  /-- Writes the unsigned quotient with the borderline cases of R39. (R150) -/
  | divn (rd ra rb : XReg)
  /-- Writes the signed remainder with the dividend's sign. (R150) -/
  | rem (rd ra rb : XReg)
  /-- Writes the unsigned remainder. (R150) -/
  | remn (rd ra rb : XReg)
  /-- Writes the signed minimum of two registers. (R150) -/
  | min (rd ra rb : XReg)
  /-- Writes the signed maximum of two registers. (R150) -/
  | max (rd ra rb : XReg)
  /-- Writes the unsigned minimum of two registers. (R150) -/
  | minn (rd ra rb : XReg)
  /-- Writes the unsigned maximum of two registers. (R150) -/
  | maxn (rd ra rb : XReg)
  /-- Counts leading zero bits of a register, 64 for zero. (R151) -/
  | clz (rd ra : XReg)
  /-- Counts trailing zero bits of a register, 64 for zero. (R151) -/
  | ctz (rd ra : XReg)
  /-- Counts the one bits of a register. (R151) -/
  | popc (rd ra : XReg)
  /-- Extracts a bit field given by position and length. (R151) -/
  | bext (rd ra rb : XReg)
  /-- Deposits a bit field into zeros at a given position. (R151) -/
  | bins (rd ra rb : XReg)
  /-- Adds two FP32 values with one rounding. (R157) -/
  | fadd (rd ra rb : XReg) (rm : BitVec 3)
  /-- Subtracts two FP32 values with one rounding. (R157) -/
  | fsub (rd ra rb : XReg) (rm : BitVec 3)
  /-- Multiplies two FP32 values with one rounding. (R157) -/
  | fmul (rd ra rb : XReg) (rm : BitVec 3)
  /-- Divides two FP32 values with one rounding. (R157) -/
  | fdiv (rd ra rb : XReg) (rm : BitVec 3)
  /-- Adds the FP32 product to the old destination with one rounding. (R157) -/
  | fmadd (rd ra rb : XReg) (rm : BitVec 3)
  /-- Compares two FP32 values under a condition and writes 1 or 0. (R157) -/
  | fcmp (rd ra rb : XReg) (cc : BitVec 2)
  /-- Converts between FP32 and 64-bit integers. (R157) -/
  | fcvt (rd ra : XReg) (k : BitVec 2) (rm : BitVec 3)
  /-- Atomically adds to a 64-bit memory word and returns the old value. (R263) -/
  | amoAdd (rd ra rb : XReg) (scope : BitVec 3) (acq rel : Bool)
  /-- Atomically ANDs into a memory word and returns the old value. (R263) -/
  | amoAnd (rd ra rb : XReg) (scope : BitVec 3) (acq rel : Bool)
  /-- Atomically ORs into a memory word and returns the old value. (R263) -/
  | amoOr (rd ra rb : XReg) (scope : BitVec 3) (acq rel : Bool)
  /-- Atomically XORs into a memory word and returns the old value. (R263) -/
  | amoXor (rd ra rb : XReg) (scope : BitVec 3) (acq rel : Bool)
  /-- Atomically stores the signed minimum and returns the old value. (R263) -/
  | amoMin (rd ra rb : XReg) (scope : BitVec 3) (acq rel : Bool)
  /-- Atomically stores the signed maximum and returns the old value. (R263) -/
  | amoMax (rd ra rb : XReg) (scope : BitVec 3) (acq rel : Bool)
  /-- Atomically stores the unsigned minimum and returns the old value. (R263) -/
  | amoMinn (rd ra rb : XReg) (scope : BitVec 3) (acq rel : Bool)
  /-- Atomically stores the unsigned maximum and returns the old value. (R263) -/
  | amoMaxn (rd ra rb : XReg) (scope : BitVec 3) (acq rel : Bool)
  /-- Atomically swaps a memory word with a register. (R263) -/
  | amoSwp (rd ra rb : XReg) (scope : BitVec 3) (acq rel : Bool)
  /-- Atomically adds an FP32 value to a 32-bit memory word. (R263) -/
  | amoFadd (rd ra rb : XReg) (scope : BitVec 3) (acq rel : Bool)
  /-- Atomically compares a memory word with an expected value and swaps on equality. (R265) -/
  | amocas (rd ra rb : XReg) (scope : BitVec 3) (acq rel : Bool)
  /-- Waits until earlier accesses of the masked classes are performed at the scope and level. (R288) -/
  | fence (ra : XReg) (scope : BitVec 3) (visible : Bool)
  /-- Reads a CSR into a scalar register. (R158) -/
  | csrr (rd : XReg) (csr : BitVec 9)
  /-- Writes a CSR and returns its old value. (R158) -/
  | csrw (rd ra : XReg) (csr : BitVec 9)
  /-- Sets CSR bits and returns the old value. (R158) -/
  | csrs (rd ra : XReg) (csr : BitVec 9)
  /-- Clears CSR bits and returns the old value. (R158) -/
  | csrc (rd ra : XReg) (csr : BitVec 9)
  /-- Raises SW_TRAP with the code in ESUB. (R161) -/
  | trap (code : BitVec 9)
  /-- Raises BREAK with the code in ESUB. (R161) -/
  | brk (code : BitVec 9)
  /-- Returns from a trap to EPC and restores privilege. (R162) -/
  | tret
  /-- Binds, attaches or unbinds a channel number to a ring. (R301) -/
  | chBind (c : BitVec 6) (ra : XReg)
  /-- Pushes one scalar token into a channel, waiting for free slots. (R302) -/
  | chPush (c : BitVec 6) (ra : XReg) (rel : Bool)
  /-- Pops one token from a channel into a scalar register, waiting for a token. (R303) -/
  | chPop (rd : XReg) (c : BitVec 6) (i : BitVec 3)
  /-- Returns a channel's token count and head tag without consuming. (R303) -/
  | chTpop (rd : XReg) (c : BitVec 6) (i : BitVec 3)
  /-- Removes a consumer from a channel and discards its unread tokens. (R304) -/
  | chDetach (c : BitVec 6) (i : BitVec 3)
  /-- Checks a copy command record and pushes it into a copy engine's FIFO. (R327) -/
  | cpCopy (engine : Bool) (ra : XReg)
  /-- Checks a butterfly pass record and pushes it into the share's pass FIFO. (R322) -/
  | bpRun (ra : XReg)
  /-- Pushes an order to load the twiddle RAM from the scratchpad. (R326) -/
  | bpTwl (ra rb : XReg)
  /-- Checks and pushes an address-generator configuration record. (R312) -/
  | sfAg (u : BitVec 5) (ra : XReg)
  /-- Configures a route junction or a command channel. (R315) -/
  | sfRoute (u : BitVec 5) (ra : XReg)
  /-- Configures a merge junction. (R316) -/
  | sfMerge (u : BitVec 5) (ra : XReg)
  /-- Configures a reorder junction. (R317) -/
  | sfReord (u : BitVec 5) (ra : XReg)
  /-- Configures a pack junction. (R318) -/
  | sfPack (u : BitVec 5) (ra : XReg)
  /-- Configures an unpack junction. (R318) -/
  | sfUnpack (u : BitVec 5) (ra : XReg)
  /-- Binds a pipeline descriptor and assigns consumer indices. (R320) -/
  | plBind (ra : XReg)
  /-- Starts or resumes a pipeline, sending start tokens from Bound. (R320) -/
  | plStart (ra : XReg)
  /-- Stops a pipeline and resets its actors to their configurations. (R320) -/
  | plStop (ra : XReg)
  /-- Freezes a running pipeline in place. (R320) -/
  | plFreeze (ra : XReg)
  /-- Dispatches a dense matrix token that adds A times B into an accumulator. (R224) -/
  | mxMma (acc : BitVec 2) (ta tb : BitVec 3)
  /-- Dispatches a sparse matrix token using the index tile of A. (R224) -/
  | mxMms (acc : BitVec 2) (ta tb : BitVec 3)
  /-- Dispatches a token that zeroes the share's view of an accumulator. (R225) -/
  | mxZacc (acc : BitVec 2)
  /-- Dispatches a token that rounds an accumulator into a tile. (R225) -/
  | mxRnd (td : BitVec 3) (acc : BitVec 2) (rm : BitVec 3)
  /-- Grants the next token shape from remainders and sets MXM, MXN, MXK. (R222) -/
  | mxSettl (xm xn xk : XReg)
  /-- Posts a member's demand for an exchange instance. (R396) -/
  | xchPostDemand (rd ra rb : XReg)
  /-- Appends bytes to a member's stream towards one destination. (R398) -/
  | xchSend (ra rb : XReg)
  /-- Binds the receive side of an exchange instance. (R397) -/
  | xchRecv (ra rb : XReg)
  /-- Declares that the member sends nothing more in the instance. (R399) -/
  | xchEnd (ra : XReg)
  /-- Returns the bytes received so far from one source. (R399) -/
  | xchStat (rd ra rb : XReg)
  /-- Adds 1 to a milestone count as a release. (R411) -/
  | msArrive (ms : BitVec 12) (pkg : Bool)
  /-- Blocks until a milestone count reaches the target. (R411) -/
  | msWait (rd : XReg) (ms : BitVec 12) (pkg : Bool)
  /-- Adds a register value to a milestone count. (R411) -/
  | msAdd (rd : XReg) (ms : BitVec 12) (pkg : Bool)
  /-- Sets a milestone count and clears OVF. (R411) -/
  | msSet (rd : XReg) (ms : BitVec 12) (pkg : Bool)
  /-- Reads a milestone word as an acquire. (R411) -/
  | msRead (rd : XReg) (ms : BitVec 12) (pkg : Bool)
  /-- Checks a launch record and appends it to a queue, returning a status. (R338) -/
  | launch (rd ra : XReg)
  /-- Invalidates the translations of one page in every size. (R376) -/
  | tlbInvPage (ra rb : XReg)
  /-- Writes the context image and optionally parks the strand. (R353) -/
  | ctxSave (rd ra rb : XReg)
  /-- Replaces the calling context with a saved image. (R354) -/
  | ctxRest (ra rb : XReg)
  /-- Divides a cluster into lane groups running child strands. (R358) -/
  | vpart (rd ra : XReg)
  /-- Writes entries into the non-current version of a switch route table. (R391) -/
  | rtUpdWrite (rd ra : XReg)
  /-- Triggers a snapshot and returns its sequence number. (R423) -/
  | snapTrigger (rd ra : XReg)
  /-- Probes a translation without faulting and returns its flags. (R377) -/
  | pprobe (rd ra rb : XReg)
  /-- Waits until TIME reaches a deadline or an asynchronous trap falls due. (R357) -/
  | idle (ra : XReg)
  /-- Gives way to a due or newly due pre-emption, else does nothing. (R356) -/
  | yield (ra : XReg)
  /-- Sets VL to the requested length capped at VLMAX. (R160) -/
  | vsetvl (rd ra : XReg)
  /-- Adds a sign-extended immediate. (R152) -/
  | addi (rd ra : XReg) (imm : BitVec 14)
  /-- ANDs with a sign-extended immediate. (R152) -/
  | andi (rd ra : XReg) (imm : BitVec 14)
  /-- ORs with a sign-extended immediate. (R152) -/
  | ori (rd ra : XReg) (imm : BitVec 14)
  /-- XORs with a sign-extended immediate. (R152) -/
  | xori (rd ra : XReg) (imm : BitVec 14)
  /-- Shifts left logically by an immediate amount. (R152) -/
  | slli (rd ra : XReg) (sh : BitVec 6)
  /-- Shifts right logically by an immediate amount. (R152) -/
  | srli (rd ra : XReg) (sh : BitVec 6)
  /-- Shifts right arithmetically by an immediate amount. (R152) -/
  | srai (rd ra : XReg) (sh : BitVec 6)
  /-- Writes 1 if the source is less than the immediate as signed. (R152) -/
  | slti (rd ra : XReg) (imm : BitVec 14)
  /-- Writes 1 if the source is less than the extended immediate as unsigned. (R152) -/
  | sltni (rd ra : XReg) (imm : BitVec 14)
  /-- Loads a sign-extended byte. (R260) -/
  | ldb (rd ra : XReg) (imm : BitVec 10) (cls : BitVec 4)
  /-- Loads a zero-extended byte. (R260) -/
  | ldbn (rd ra : XReg) (imm : BitVec 10) (cls : BitVec 4)
  /-- Loads a sign-extended halfword. (R260) -/
  | ldh (rd ra : XReg) (imm : BitVec 10) (cls : BitVec 4)
  /-- Loads a zero-extended halfword. (R260) -/
  | ldhn (rd ra : XReg) (imm : BitVec 10) (cls : BitVec 4)
  /-- Loads a sign-extended word. (R260) -/
  | ldw (rd ra : XReg) (imm : BitVec 10) (cls : BitVec 4)
  /-- Loads a zero-extended word. (R260) -/
  | ldwn (rd ra : XReg) (imm : BitVec 10) (cls : BitVec 4)
  /-- Loads a doubleword. (R260) -/
  | ldd (rd ra : XReg) (imm : BitVec 10) (cls : BitVec 4)
  /-- Stores a byte. (R260) -/
  | stb (rs ra : XReg) (imm : BitVec 10) (cls : BitVec 4)
  /-- Stores a halfword. (R260) -/
  | sth (rs ra : XReg) (imm : BitVec 10) (cls : BitVec 4)
  /-- Stores a word. (R260) -/
  | stw (rs ra : XReg) (imm : BitVec 10) (cls : BitVec 4)
  /-- Stores a doubleword. (R260) -/
  | std (rs ra : XReg) (imm : BitVec 10) (cls : BitVec 4)
  /-- Prefetches a line into the line cache without faulting. (R261) -/
  | pf (ra : XReg) (imm : BitVec 10) (cls : BitVec 4)
  /-- Writes a dirty line back to its home and keeps it clean. (R261) -/
  | cflush (ra : XReg) (imm : BitVec 10) (cls : BitVec 4)
  /-- Writes back and removes a line from every line cache. (R261) -/
  | cinv (ra : XReg) (imm : BitVec 10) (cls : BitVec 4)
  /-- Loads a doubleword with acquire semantics at a scope. (R262) -/
  | lda (rd ra : XReg) (off : BitVec 7) (scope : BitVec 3) (cls : BitVec 4)
  /-- Stores a doubleword with release semantics at a scope. (R262) -/
  | stl (rs ra : XReg) (off : BitVec 7) (scope : BitVec 3) (cls : BitVec 4)
  /-- Branches when the two sources are equal. (R155) -/
  | beq (ra rb : XReg) (imm : BitVec 14)
  /-- Branches when the two sources differ. (R155) -/
  | bne (ra rb : XReg) (imm : BitVec 14)
  /-- Branches when the first source is less, signed. (R155) -/
  | blt (ra rb : XReg) (imm : BitVec 14)
  /-- Branches when the first source is greater or equal, signed. (R155) -/
  | bge (ra rb : XReg) (imm : BitVec 14)
  /-- Branches when the first source is less, unsigned. (R155) -/
  | bltn (ra rb : XReg) (imm : BitVec 14)
  /-- Branches when the first source is greater or equal, unsigned. (R155) -/
  | bgen (ra rb : XReg) (imm : BitVec 14)
  /-- Jumps to a register plus byte offset and writes the link. (R154) -/
  | jr (rd ra : XReg) (imm : BitVec 14)
  /-- Jumps by a word offset and writes the link. (R154) -/
  | jal (rd : XReg) (imm : BitVec 19)
  /-- Writes the sign-extended immediate shifted left by 13. (R153) -/
  | lhi (rd : XReg) (imm : BitVec 19)
  /-- Writes the PC plus a word offset. (R153) -/
  | lpc (rd : XReg) (imm : BitVec 19)
  /-- Adds integer elements with narrowing. (R174) -/
  | vadd (f : VR)
  /-- Subtracts integer elements with narrowing. (R174) -/
  | vsub (f : VR)
  /-- Subtracts source 1 from source 2 elementwise. (R174) -/
  | vrsub (f : VR)
  /-- Multiplies integer elements with narrowing. (R174) -/
  | vmul (f : VR)
  /-- Writes the floored product divided by 2^d. (R174) -/
  | vmulh (f : VR)
  /-- Adds the product to the destination element. (R174) -/
  | vmacc (f : VR)
  /-- Subtracts the product from the destination element. (R174) -/
  | vnmac (f : VR)
  /-- Divides integer elements by R39. (R174) -/
  | vdiv (f : VR)
  /-- Writes integer remainders by R39. (R174) -/
  | vrem (f : VR)
  /-- Writes the integer minimum elementwise. (R174) -/
  | vmin (f : VR)
  /-- Writes the integer maximum elementwise. (R174) -/
  | vmax (f : VR)
  /-- ANDs elements. (R174) -/
  | vand (f : VR)
  /-- ORs elements. (R174) -/
  | vor (f : VR)
  /-- XORs elements. (R174) -/
  | vxor (f : VR)
  /-- ANDs source 1 with NOT source 2. (R174) -/
  | vandn (f : VR)
  /-- Shifts elements left logically. (R174) -/
  | vsll (f : VR)
  /-- Shifts elements right logically. (R174) -/
  | vsrl (f : VR)
  /-- Shifts elements right arithmetically. (R174) -/
  | vsra (f : VR)
  /-- Counts leading zeros of each element. (R175) -/
  | vclz (f : VR)
  /-- Counts one bits of each element. (R175) -/
  | vpopc (f : VR)
  /-- Writes the absolute value of each element. (R175) -/
  | vabs (f : VR)
  /-- Compares integer elements into a predicate. (R176) -/
  | vcmp (f : VR)
  /-- Selects source 1 or source 2 by the predicate. (R175) -/
  | vsel (f : VR)
  /-- Copies source 2 into the destination. (R175) -/
  | vmv (f : VR)
  /-- Writes each element's index. (R175) -/
  | vid (f : VR)
  /-- Adds an immediate to each element. (R177) -/
  | vaddi (f : VI)
  /-- ANDs each element with an immediate. (R177) -/
  | vandi (f : VI)
  /-- ORs each element with an immediate. (R177) -/
  | vori (f : VI)
  /-- XORs each element with an immediate. (R177) -/
  | vxori (f : VI)
  /-- Shifts each element left by an immediate. (R177) -/
  | vslli (f : VI)
  /-- Shifts each element right logically by an immediate. (R177) -/
  | vsrli (f : VI)
  /-- Shifts each element right arithmetically by an immediate. (R177) -/
  | vsrai (f : VI)
  /-- Writes an immediate into each element. (R177) -/
  | vmvi (f : VI)
  /-- Compares each element with an immediate into a predicate. (R177) -/
  | vcmpi (f : VI)
  /-- Adds float elements with one rounding. (R179) -/
  | vfadd (f : VR)
  /-- Subtracts float elements with one rounding. (R179) -/
  | vfsub (f : VR)
  /-- Multiplies float elements with one rounding. (R179) -/
  | vfmul (f : VR)
  /-- Fused multiply-add into the destination. (R179) -/
  | vfmacc (f : VR)
  /-- Fused multiply-subtract from the destination. (R179) -/
  | vfnmsac (f : VR)
  /-- Divides float elements with one rounding. (R179) -/
  | vfdiv (f : VR)
  /-- Takes the square root of float elements. (R179) -/
  | vfsqrt (f : VR)
  /-- Writes minimumNumber of float elements. (R179) -/
  | vfmin (f : VR)
  /-- Writes maximumNumber of float elements. (R179) -/
  | vfmax (f : VR)
  /-- Compares float elements into a predicate. (R180) -/
  | vfcmp (f : VR)
  /-- Writes a one-hot class mask of each float element. (R181) -/
  | vfclass (f : VR)
  /-- Computes 2 to the power of each element. (R182) -/
  | vfexp2 (f : VR)
  /-- Computes the base-2 logarithm of each element. (R182) -/
  | vflog2 (f : VR)
  /-- Computes the reciprocal of each element. (R182) -/
  | vfrcp (f : VR)
  /-- Computes the reciprocal square root of each element. (R182) -/
  | vfrsqrt (f : VR)
  /-- Multiplies complex elements. (R183) -/
  | vcmul (f : VR)
  /-- Multiply-accumulates complex elements. (R183) -/
  | vcmac (f : VR)
  /-- Adds residues modulo MODQ. (R184) -/
  | vmadd (f : VR)
  /-- Subtracts residues modulo MODQ. (R184) -/
  | vmsub (f : VR)
  /-- Multiplies residues modulo MODQ. (R184) -/
  | vmmul (f : VR)
  /-- Reduces a product below q^2 modulo MODQ. (R184) -/
  | vmred (f : VR)
  /-- Converts between float formats, with the error-feedback chain under EFB. (R186) -/
  | vcvt (f : VR)
  /-- Converts float elements to clamped integers. (R188) -/
  | vftoi (f : VR)
  /-- Converts integer elements to floats. (R188) -/
  | vitof (f : VR)
  /-- Chooses the shared exponent of each 32-element block. (R189) -/
  | vbfexp (f : VR)
  /-- Writes block-floating-point mantissas under given exponents. (R191) -/
  | vbfmant (f : VR)
  /-- Converts block mantissas and exponents back to floats. (R192) -/
  | vbfval (f : VR)
  /-- Reads each element from a higher index. (R196) -/
  | vslideDown (f : VR)
  /-- Reads each element from the index XOR a distance. (R196) -/
  | vxchg (f : VR)
  /-- Gathers elements by an index vector. (R196) -/
  | vperm (f : VR)
  /-- Scatters active elements by index with an optional collision mask. (R198) -/
  | vpush (f : VR)
  /-- Packs active elements to the front. (R197) -/
  | vcompress (f : VR)
  /-- Spreads consecutive source elements to active positions. (R197) -/
  | vexpand (f : VR)
  /-- Interleaves two vectors. (R196) -/
  | vzip (f : VR)
  /-- Extracts even or odd elements of two vectors. (R196) -/
  | vunzip (f : VR)
  /-- Reverses the element order. (R196) -/
  | vrev (f : VR)
  /-- Reduces integer inputs, whole or per fibre. (R202) -/
  | vred (f : VR)
  /-- Reduces float inputs in the default or reproducible order. (R202) -/
  | vfred (f : VR)
  /-- Writes integer inclusive scans per fibre. (R203) -/
  | vscan (f : VR)
  /-- Writes float inclusive scans in ascending element order. (R203) -/
  | vfscan (f : VR)
  /-- Writes the element number of the greatest or least input. (R202) -/
  | vargmax (f : VR)
  /-- Builds a fibre mask from keys and returns the fibre count. (R205) -/
  | vsetfib (f : VR)
  /-- Broadcasts one element chosen by a scalar index. (R196) -/
  | vbcast (f : VR)
  /-- Extracts one element into a scalar register. (R206) -/
  | vext (f : VR)
  /-- Inserts a scalar value into one element. (R208) -/
  | vins (f : VR)
  /-- ANDs two predicates. (R209) -/
  | pand (f : VR)
  /-- ORs two predicates. (R209) -/
  | por (f : VR)
  /-- XORs two predicates. (R209) -/
  | pxor (f : VR)
  /-- ANDs a predicate with NOT another. (R209) -/
  | pandn (f : VR)
  /-- Sets predicate bits below a scalar count. (R209) -/
  | pset (f : VR)
  /-- Counts active set predicate bits into a scalar. (R206) -/
  | pcnt (f : VR)
  /-- Finds the first active set predicate bit. (R206) -/
  | pfirst (f : VR)
  /-- Copies a predicate, including into p13. (R209) -/
  | pmov (f : VR)
  /-- Loads a dense tile row by row. (R230) -/
  | tld (f : VT)
  /-- Loads a tile transposed. (R232) -/
  | tldt (f : VT)
  /-- Stores a tile, dense or with signpost and indices. (R233) -/
  | tst (f : VT)
  /-- Zeroes a tile and writes a valid index pattern. (R234) -/
  | tzero (f : VT)
  /-- Moves a tile or accumulator row into slices. (R235) -/
  | vtrow (f : VT)
  /-- Moves tile or accumulator columns into slices with rows on lanes. (R235) -/
  | vtcol (f : VT)
  /-- Moves slices into a tile or accumulator row. (R235) -/
  | vrowt (f : VT)
  /-- Moves slices into tile or accumulator columns. (R235) -/
  | vcolt (f : VT)
  /-- Prunes a dense tile to an N:M packed tile. (R237) -/
  | tprune (f : VT)
  /-- Writes the packed transpose of a transposable tile. (R239) -/
  | tpackt (f : VT)
  /-- Expands a packed tile into a dense tile. (R240) -/
  | tunpack (f : VT)
  /-- Validates a signpost and index array in memory. (R241) -/
  | tsigck (f : VT)
  /-- Loads a unit-stride vector. (R268) -/
  | vld (f : VM)
  /-- Loads a strided vector. (R268) -/
  | vlds (f : VM)
  /-- Loads an indexed vector. (R268) -/
  | vldx (f : VM)
  /-- Stores a unit-stride vector. (R268) -/
  | vst (f : VM)
  /-- Stores a strided vector. (R268) -/
  | vsts (f : VM)
  /-- Stores an indexed vector. (R268) -/
  | vstx (f : VM)
  /-- Performs an atomic update per active element. (R269) -/
  | vamo (f : VM)
  /-- Writes a slice range of every span lane to memory. (R271) -/
  | vspill (f : VM)
  /-- Reads a slice range of every span lane from memory. (R271) -/
  | vfill (f : VM)
  /-- Prefetches the lines a vector load would read. (R272) -/
  | vpf (f : VM)
  /-- Switches the scratchpad bank mapping of every spanned cluster. (R274) -/
  | spcfg (f : VM)
  /-- Pushes a vector as data tokens into a channel. (R305) -/
  | vchPush (f : VR)
  /-- Pops data tokens from a channel into a vector. (R305) -/
  | vchPop (f : VR)
  /-- Registers an exchange set at the arbiter. (R396) -/
  | xchPostRegister (rd ra rb : XReg)
  /-- Removes an exchange set once no instance is in progress. (R396) -/
  | xchPostDeregister (rd ra rb : XReg)
  /-- Invalidates every translation of a PASID. (R376) -/
  | tlbInvPasid (ra rb : XReg)
  /-- Invalidates every translation. (R376) -/
  | tlbInvAll (ra rb : XReg)
  /-- Makes a version current on a plane. (R391) -/
  | rtUpdFlip (rd ra : XReg)
  /-- Returns the sum of a version's outstanding packet counters. (R391) -/
  | rtUpdQuery (rd ra : XReg)
  /-- Arms the package for snapshots and clears MISSED. (R423) -/
  | snapArm (rd ra : XReg)
  /-- Returns the arming state and MISSED. (R423) -/
  | snapStatus (rd ra : XReg)
  /-- Ends the strand and frees its resources. (R356) -/
  | yieldEnd (ra : XReg)
  /-- Reads each element from a lower index, zero below. (R196) -/
  | vslideUp (f : VR)
  /-- Rotates elements modulo VL. (R196) -/
  | vslideRot (f : VR)
  /-- Broadcasts each fibre's first element across the fibre. (R196) -/
  | vbcastFib (f : VR)
  /-- Loads and validates a signposted packed tile. (R231) -/
  | tldP (f : VT)
  /-- Prunes a dense tile to a transposable N:M pattern. (R238) -/
  | tpruneT (f : VT)
  /-- A waiting fence finds its earlier accesses performed and lets later accesses proceed. (R288) -/
  | fenceComplete (ctx : Nat)
  /-- A waiting ch.push finds every free-slot count at least 1 and produces its token. (R302) -/
  | chPushResume (ctx : Nat)
  /-- A waiting ch.pop finds a token and consumes it. (R303) -/
  | chPopResume (ctx : Nat)
  /-- A matrix token reaches its completion time and its writes take effect. (R227) -/
  | mxTokenComplete (cluster share : Nat)
  /-- A xch.send waiting for the calendar is released when the grant arrives. (R398) -/
  | xchSendGrant (ctx : Nat)
  /-- A blocked ms.wait reads a count that meets its target and completes as an acquire. (R412) -/
  | msWaitSatisfied (ctx : Nat)
  /-- TIME reaches an idling strand's deadline and the idle returns. (R357) -/
  | idleDeadline (ctx : Nat)
  /-- A convoy waiting on channel counters finds room or tokens and proceeds. (R305) -/
  | vchResume (ctx : Nat)
  /-- A convoy's last row commits and it retires in program order, releasing waits and provisional effects. (R23) -/
  | convoyRetire (ctx : Nat)
  /-- An address generator fires, producing or consuming one slot. (R313) -/
  | agFiring (cluster unit : Nat)
  /-- A route junction sends its head slot to the output its key selects. (R315) -/
  | routeFiring (cluster unit : Nat)
  /-- A merge junction emits the lesser head of its two inputs. (R316) -/
  | mergeFiring (cluster unit : Nat)
  /-- A reorder junction emits, takes or passes control tokens. (R317) -/
  | reorderFiring (cluster unit : Nat)
  /-- A pack junction consumes dense elements and writes the sparse tile set. (R318) -/
  | packFiring (cluster unit : Nat)
  /-- An unpack junction produces dense elements from a sparse tile set. (R318) -/
  | unpackFiring (cluster unit : Nat)
  /-- A matrix node or copy engine takes a command from its command channel. (R321) -/
  | commandChannelTake (cluster unit : Nat)
  /-- The channel watchdog interval runs out for a stalled producer. (R310) -/
  | chStall (cluster ring : Nat)
  /-- A queued butterfly pass starts after its gate token. (R324) -/
  | bpPassStart (cluster share : Nat)
  /-- A butterfly pass ends and writes status, DONE token, flags and arrival. (R325) -/
  | bpPassEnd (cluster share : Nat)
  /-- The twiddle RAM copy ordered by bp.twl runs in FIFO order. (R326) -/
  | twiddleLoad (cluster share : Nat)
  /-- A copy engine starts its next command after its wait milestone is met. (R328) -/
  | cpCommandStart (cluster engine : Nat)
  /-- A copy command finishes and arrives on its signal milestone. (R328) -/
  | cpCommandComplete (cluster engine : Nat)
  /-- A 64-byte host store to a queue window appends a checked record. (R337) -/
  | launchWindowStore (window : LaunchWindow) (bytes : List Byte)
  /-- TIME passes a multiple of 50,000 ns and the queues are ranked for slots. (R339) -/
  | rotationBoundary
  /-- The placement unit places a mapped head or resume entry when resources allow. (R342) -/
  | placement (slot : Nat)
  /-- The grace period runs out and PREEMPT is taken at the next retirement boundary. (R348) -/
  | preemptGraceExpiry (ctx : Nat)
  /-- A strand not parked within twice the grace is stopped and reported. (R349) -/
  | preemptStop (ctx : Nat)
  /-- The host grants a page request and the waiting instruction runs again. (R374) -/
  | responseSuccess (group : Nat)
  /-- The host refuses a page request and the instruction raises XLATE. (R374) -/
  | invalidRequest (group : Nat)
  /-- The host's response failure makes every waiting instruction raise XLATE. (R374) -/
  | responseFailure
  /-- The host re-enables PRI, clearing PRIFAIL. (R427) -/
  | priReenable
  /-- A host invalidation removes matching TLB entries and completes after their accesses. (R375) -/
  | atsInvalidation (pasid : BitVec 20) (va len : Nat)
  /-- A host access to device memory snoops the line caches. (R250) -/
  | hostCxlMemAccess (pa : Nat) (write : Option (List Byte))
  /-- A remote request packet arrives and its elements are performed at the target. (R259) -/
  | requestPacket (first : Nat × List Byte) (rest : List (Nat × List Byte))
  /-- An accepted acknowledgement returns for a remote access. (R385) -/
  | ackAccepted (packet : Nat)
  /-- A visible acknowledgement returns for a remote access. (R385) -/
  | ackVisible (packet : Nat)
  /-- A refusal returns and the issuing instruction faults. (R386) -/
  | remoteNack (packet : Nat) (refused : RefusedElem)
  /-- No accepted acknowledgement arrives within 200 µs. (R259) -/
  | remoteTimeout (packet : Nat)
  /-- No visible acknowledgement arrives within 200 µs of the accepted one. (R387) -/
  | visibleAckTimeout (packet : Nat)
  /-- A plane's port goes down and its lines move to the next live plane. (R383) -/
  | gloxelPortDown (port : Nat)
  /-- A Gloxel port retrains from x8 to x4. (R436) -/
  | linkDegrade (port : Nat)
  /-- A granted exchange phase begins and the send unit transmits. (R398) -/
  | phaseStart (xset inst phase : Nat)
  /-- The calendar's end passes and unsent bytes are sent outside the schedule. (R398) -/
  | calendarEnd (xset inst : Nat)
  /-- Received stream bytes are written by the receiving unit. (R397) -/
  | exchangeArrival (xset inst : Nat)
  /-- An end marker arrives at a receiving member. (R399) -/
  | endMarkerArrival (xset inst src dst : Nat)
  /-- The primary arbiter sends the standby a heartbeat every 2 µs. (R402) -/
  | heartbeat (xset : Nat)
  /-- Ten microseconds without a heartbeat make the standby raise the generation. (R402) -/
  | standbyTakeover (xset : Nat)
  /-- A member receives the new generation, stops sending and re-posts remainders. (R402) -/
  | generationAnnouncement (xset inst member : Nat)
  /-- Host command that ends a context's strand. (R431) -/
  | qcmdEnd (ctx : Nat)
  /-- Host command that saves a context with PARK to the image at QARG. (R431) -/
  | qcmdSaveAndRelease (ctx : Nat)
  /-- Host command that ends every member of a gang and every vpart child. (R431) -/
  | qcmdEndGang (ctx : Nat)
  /-- Host command that places a broken gang's stopped member on the spare cluster. (R431) -/
  | qcmdRespawn (ctx : Nat)
  /-- Host command that clears BROKEN of a milestone. (R431) -/
  | qcmdClearBroken (target : BitVec 16)
  /-- Host command that replaces a cluster by its die's spare. (R431) -/
  | qcmdReplaceCluster (cluster : Nat)
  /-- The host writes a queue configuration block. (R429) -/
  | queueConfigWrite (queue off : Nat) (value : Word)
  /-- The host writes a milestone word through MMIO. (R408) -/
  | milestoneHostWrite (off : Nat) (value : Word)
  /-- A host read of hotness word 1 returns and clears it. (R426) -/
  | hotnessReadClear (off : Nat)
  /-- Enabling the fault queue writes held records first. (R432) -/
  | faultQueueEnable (value : Word)
  /-- The host advances HEAD, freeing room for held records. (R432) -/
  | fqHeadWrite (value : Word)
  /-- A host write to an MMIO register without behaviour of its own. (R426) -/
  | mmioRegisterWrite (off : Nat) (value : Word)
  /-- The host requests power state P0, P1 or P2. (R437) -/
  | powerStateRequest (p : BitVec 2)
  /-- The host puts stacks into or out of self-refresh. (R437) -/
  | hbmSelfRefresh (stk : BitVec 16)
  /-- The host gates or ungates clusters. (R437) -/
  | clusterGate (gates : Word)
  /-- A sensor reads 105 °C and the device enters P2 and sets TRIP. (R437) -/
  | thermalTrip
  /-- Every sensor reads below 95 °C and TRIP clears. (R437) -/
  | thermalTripClear
  /-- A DEVCTL.RESET write runs the reset and boot sequence. (R433) -/
  | deviceReset
  /-- Power-on runs the reset and boot sequence. (R433) -/
  | powerOn
  /-- A recovery image is received over MCTP in recovery mode. (R433) -/
  | recoveryImage (img : FwImage)
  /-- A host command through Nalorette advances the rollback counter. (R434) -/
  | advanceRollbackCounter (version : Nat)
  /-- SPDM request answered with the supported versions. (R435) -/
  | getVersion
  /-- SPDM request answered with the responder capabilities. (R435) -/
  | getCapabilities
  /-- SPDM request that settles the algorithms. (R435) -/
  | negotiateAlgorithms
  /-- SPDM request answered with certificate digests. (R435) -/
  | getDigests
  /-- SPDM request answered with the certificate chain. (R435) -/
  | getCertificate
  /-- SPDM request answered with a signed challenge response. (R435) -/
  | challenge
  /-- SPDM request answered with measurements 1 to 4. (R435) -/
  | getMeasurements
  /-- SPDM request that starts a session key exchange. (R435) -/
  | keyExchange
  /-- SPDM request that completes the session. (R435) -/
  | finish
  /-- Management command answered with temperature. (R435) -/
  | mgmtTemperature
  /-- Management command answered with power. (R435) -/
  | mgmtPower
  /-- Management command answered with the RAS summary. (R435) -/
  | mgmtRasSummary
  /-- Management command naming a plane's fabric manager endpoint. (R435) -/
  | nameFabricManager (plane endpoint : Nat)
  /-- The SNAP_IN pin triggers a snapshot. (R422) -/
  | snapIn
  /-- A Gloxel snapshot message arrives with a latch time. (R422) -/
  | snapshotMessage (time : Nat) (tag : BitVec 16)
  /-- Every block latches its shadow 64 cycles after the trigger is numbered. (R422) -/
  | snapshotLatch
  /-- The 1 µs drive of SNAP_OUT ends. (R422) -/
  | snapOutEnd
  /-- An uncorrectable error poisons state and is counted and reported. (R420) -/
  | uncorrectableError (site : ErrSite)
  /-- A corrected error is counted and may reach the threshold. (R420) -/
  | correctedError (site : ErrSite)
  /-- The plane's reply to an rt.upd management packet arrives, writes X[rd] and readies the waiting strand. (R390) -/
  | rtUpdReply (ctx : Nat)
  /-- A FLIP from the plane's fabric manager reaches this endpoint's ingress, which stops stamping the old version and holds new packets. (R391) -/
  | flipReachesIngress (plane : Nat) (ver : Bool)
  /-- The device sends the ATS invalidation completion once every access through a removed entry is performed or discarded. (R375) -/
  | invalidationCompletion
  /-- A requested or tripped power state takes effect within 10 µs and DEVSTATUS.PSTATE changes. (R437) -/
  | powerStateChange
  /-- Firmware finishes applying repairs and zeroing HBM, and sets BOOT = 2 and READY. (R433) -/
  | ready
  /-- A Gloxel port that was down returns, and lines can again use its plane. (R383) -/
  | portRepair (port : Nat)
  /-- At run time the device replaces a failed lane by a cluster spare once the cluster holds no strand or unit. (R436) -/
  | laneRepair (cluster lane : Nat)
  /-- A performance counter's COUNT wraps modulo 2^48, setting OVF and, with OVIE, posting a record. (R418) -/
  | counterWrap (block counter : Nat)
  deriving DecidableEq, Repr

end Sys2Proof
end

