-- ==== Sys2Proof/WellFormed.lean ====
section
/-! DEFINITION. Which instructions have an encoding with a defined effect: the field checks of R98 steps 3, 4 and 6
and of R99 step 3, each with the subcode of R100 that its failure reports. -/

namespace Sys2Proof

/-- The subcode of the first check that fails: each entry says whether its check fails, and the subcode. -/
def firstBad : List (Bool × Nat) → Option Nat
  | [] => none
  | (true, n) :: _ => some n
  | (false, _) :: l => firstBad l

/-! ## Scalar parcels -/

/-- A rounding code that a scalar FP32 instruction or mx.rnd may hold (R98 step 3, R221): EFB and 110, 111 are out. -/
def rmOk (rm : BitVec 3) : Bool := decide (rm.toNat < 4) || decide (rm.toNat = 5)

/-- A scope code that names a scope (R98 step 6). -/
def scopeOk (s : BitVec 3) : Bool := decide (s.toNat < 6)

/-- The CSR numbers that name a CSR (R141). -/
def csrKnown (c : Nat) : Bool :=
  decide (c ≤ 0x008) || (decide (0x010 ≤ c) && decide (c ≤ 0x01D)) || (decide (0x020 ≤ c) && decide (c ≤ 0x022)) ||
  (decide (0x024 ≤ c) && decide (c ≤ 0x027)) || (decide (0x100 ≤ c) && decide (c ≤ 0x107)) ||
  (decide (0x110 ≤ c) && decide (c ≤ 0x112)) || decide (c = 0x120) || decide (c = 0x121)

/-- The CSRs whose access is RO (R141): VSPAN, VLMAX, MODMU, MXLAT, CYCLE, RETIRED, TIME, LIDX0 to LIDX3. -/
def csrReadOnly (c : Nat) : Bool :=
  decide (c = 0x002) || decide (c = 0x003) || decide (c = 0x007) || decide (c = 0x01D) ||
  (decide (0x020 ≤ c) && decide (c ≤ 0x027))

/-- A CSR that csrw, csrs and csrc may name (R98 step 4). -/
def csrWritable (c : Nat) : Bool := csrKnown c && !csrReadOnly c

/-- A milestone number that the space holds (R98 step 6). -/
def msOk (ms : BitVec 12) (pkg : Bool) : Bool := pkg || decide (ms.toNat < 64)

/-! ## Vector slots: what each field of a format may hold -/

/-- What an operand field of the VR format names. -/
inductive Use where
  /-- a slice operand -/
  | slices
  /-- nothing: the field is zero -/
  | unused
  /-- a scalar register in the start (R87) -/
  | scalar
  /-- a predicate in the start, four bits (R195) -/
  | predicate
  /-- a predicate destination: any start, the width code zero (R90) -/
  | predDest
  /-- a channel number in the start (R94) -/
  | channel
  /-- the control field of R199 -/
  | control
  deriving DecidableEq, Repr

/-- Whether an operand field breaks its use. -/
def Use.bad : Use → Opnd → Bool
  | .slices, _ => false
  | .unused, o => decide (o ≠ ⟨0, 0⟩)
  | .scalar, o => !(decide (o.start.toNat < 32) && decide (o.wcode = 0))
  | .predicate, o => !(decide (o.start.toNat < 16) && decide (o.wcode = 0))
  | .predDest, o => decide (o.wcode ≠ 0)
  | .channel, o => !(decide (o.start.toNat < 64) && decide (o.wcode = 0))
  | .control, o => !(decide (o.start.toNat < 16) && decide (o.wcode = 0))

/-- What the second source may be (R89, R171, R195). -/
inductive Src2 where
  /-- any mode -/
  | any
  /-- mode 00 with this use of the field -/
  | plain (u : Use)
  /-- mode 11 only -/
  | scalar11
  /-- vbcast: mode 00 or 11, by fn -/
  | bcast
  /-- vcvt: by the widths (R186) -/
  | cvt
  deriving DecidableEq, Repr

/-- How an instruction reads fn (R171, R193). -/
inductive FnUse where
  | zero
  | upTo (n : Nat)
  | round
  deriving DecidableEq, Repr

/-- The field rules of one VR major opcode. -/
structure VrRule where
  dest : Use := .slices
  src1 : Use := .slices
  src2 : Src2 := .any
  extZ : Bool := true
  satZ : Bool := true
  pzZ : Bool := false
  fn : FnUse := .zero
  deriving DecidableEq, Repr

/-- The rule of each assigned VR major opcode, chapter by chapter (R171, R174 to R192, R193 to R209, R305) (log
entry 89). -/
def vrRule (m : Nat) : VrRule :=
  if m ≤ 0x0A then { extZ := false, satZ := false }
  else if m ≤ 0x11 then { extZ := false }
  else if m ≤ 0x13 then { src2 := .plain .unused, satZ := false }
  else if m = 0x14 then { src2 := .plain .unused, extZ := false, satZ := false }
  else if m = 0x15 then { dest := .predDest, extZ := false, fn := .upTo 5 }
  else if m = 0x16 then { extZ := false, satZ := false, pzZ := true }
  else if m = 0x17 then { src1 := .unused, extZ := false, satZ := false }
  else if m = 0x18 then { src1 := .unused, src2 := .plain .unused, extZ := false, satZ := false }
  else if m ≤ 0x55 then { fn := .round }
  else if m = 0x56 then { src2 := .plain .unused, fn := .round }
  else if m ≤ 0x58 then {}
  else if m = 0x59 then { dest := .predDest, fn := .upTo 5 }
  else if m = 0x5A then { src2 := .plain .unused }
  else if m ≤ 0x5E then { src2 := .plain .unused, fn := .round }
  else if m ≤ 0x60 then { extZ := false, fn := .round }
  else if m ≤ 0x63 then {}
  else if m = 0x64 then { src2 := .plain .unused }
  else if m = 0x65 then { src2 := .cvt, extZ := false, satZ := false, fn := .round }
  else if m = 0x66 then { src2 := .plain .unused, extZ := false, satZ := false, fn := .round }
  else if m = 0x67 then { src2 := .plain .unused, extZ := false, fn := .round }
  else if m = 0x68 then { src2 := .plain .unused, extZ := false, pzZ := true }
  else if m ≤ 0x6A then { src2 := .plain .slices, extZ := false, fn := .round }
  else if m = 0x80 then { fn := .upTo 2 }
  else if m ≤ 0x82 then {}
  else if m = 0x83 then { src2 := .plain .slices, extZ := false, fn := .upTo 7 }
  else if m ≤ 0x85 then { src2 := .plain .unused }
  else if m = 0x86 then { src2 := .plain .slices }
  else if m = 0x87 then { src2 := .plain .slices, fn := .upTo 1 }
  else if m = 0x88 then { src2 := .plain .unused }
  else if m = 0x89 then { src2 := .plain .control, extZ := false, satZ := false }
  else if m = 0x8A then { src2 := .plain .control, fn := .round }
  else if m = 0x8B then { src2 := .plain .control, extZ := false, satZ := false }
  else if m = 0x8C then { src2 := .plain .control, fn := .round }
  else if m = 0x8D then { src2 := .plain .control, extZ := false }
  else if m = 0x8E then { dest := .predDest, src2 := .plain .scalar, pzZ := true }
  else if m = 0x8F then { src2 := .bcast, fn := .upTo 1 }
  else if m = 0x90 then { dest := .scalar, src2 := .scalar11, extZ := false, pzZ := true }
  else if m = 0x91 then { src1 := .scalar, src2 := .scalar11, pzZ := true }
  else if m ≤ 0x95 then { dest := .predDest, src1 := .predicate, src2 := .plain .predicate }
  else if m = 0x96 then { dest := .predDest, src1 := .unused, src2 := .scalar11 }
  else if m ≤ 0x98 then { dest := .scalar, src1 := .predicate, src2 := .plain .unused, pzZ := true }
  else if m = 0x99 then { dest := .predDest, src1 := .predicate, src2 := .plain .unused }
  else if m = 0xE0 then { dest := .unused, src2 := .plain .channel, pzZ := true, fn := .upTo 3 }
  else { src1 := .unused, src2 := .plain .channel, fn := .upTo 7 }

/-- The operation code and the segment bit of a control field (R199). -/
def VR.redOp (f : VR) : Nat := f.src2.start.toNat % 8
def VR.redSeg (f : VR) : Bool := decide (f.src2.start.toNat / 8 % 2 = 1)

/-- Source 1, source 2 or the destination of a vcvt is T6x2 (R186); a mode 11 source has source 1's format. -/
def VR.cvtT6s1 (f : VR) : Bool := !f.ext && decide (f.src1.wcode = 3)
def VR.cvtT6s2 (f : VR) : Bool := !f.ext && decide (f.src2.wcode = 3) && decide (f.mode ≠ 3)
def VR.cvtT6d (f : VR) : Bool := !f.ext && decide (f.dest.wcode = 3)

/-- The vcvt reads source 2 (R186): a T6x2 destination from another format. -/
def VR.cvtTwo (f : VR) : Bool := f.cvtT6d && !f.cvtT6s1

/-- One width narrows into another (R46): FP32 to BF16, T8 or T6x2, and BF16 to T8 or T6x2. -/
def narrows (src dest : BitVec 4) : Bool :=
  (decide (src = 8) && (decide (dest = 4) || decide (dest = 2) || decide (dest = 3))) ||
  (decide (src = 4) && (decide (dest = 2) || decide (dest = 3)))

/-- EFB is allowed: a narrowing float conversion (R46, R186). With two sources each of the two conversions must
narrow (DEDUCED, log entry 10). -/
def VR.efbOk (f : VR) : Bool :=
  !f.ext && narrows f.src1.wcode f.dest.wcode &&
    (!f.cvtTwo || decide (f.mode = 3) || narrows f.src2.wcode f.dest.wcode)

/-- The second source breaks its rule, for any fn (R89, R99 step 3). -/
def VR.src2Bad (f : VR) : Src2 → Bool
  | .any => false
  | .plain u => decide (f.mode ≠ 0) || u.bad f.src2
  | .scalar11 => decide (f.mode ≠ 3)
  | .bcast => decide (f.mode ≠ 0) && decide (f.mode ≠ 3)
  | .cvt => !f.cvtTwo && (decide (f.mode ≠ 0) || decide (f.src2 ≠ ⟨0, 0⟩))

/-- The largest operation code of a control field (R199). -/
def redOpMax (m : Nat) : Nat :=
  if m = 0x8A ∨ m = 0x8C then 2 else if m = 0x8D then 3 else 6

/-- The major opcodes with a control field. -/
def isRed (m : Nat) : Bool := decide (0x89 ≤ m) && decide (m ≤ 0x8D)

/-- The first failing field check of a VR slot (R99 step 3, from its third point on) (log entry 89). -/
def vrCheck (m : Nat) (f : VR) : Option Nat :=
  let r := vrRule m
  let fn := f.fn.toNat
  firstBad [
    (f.ext && r.extZ, 2), (f.sat && r.satZ, 2), (f.pz && r.pzZ, 2),
    (decide (f.seg ≠ 0) && decide (f.mode ≠ 2), 2),
    (decide (f.mode = 3) && Use.scalar.bad f.src2, 2),
    (r.dest.bad f.dest, 2), (r.src1.bad f.src1, 2), (f.src2Bad r.src2, 2),
    (decide (r.fn = .zero) && decide (fn ≠ 0), 2),
    (decide (m = 0x83) && !f.ext && decide (fn ≠ 0), 2),
    (decide (m = 0xE0) && decide (4 ≤ fn), 2),
    (decide (m = 0x65) && f.sat &&
      !((f.cvtT6s1 && !f.cvtT6d) || (f.cvtTwo && f.cvtT6s2)), 2),
    (decide (m = 0x66) && f.sat && decide (f.src1.wcode ≠ 3), 2),
    ((match r.fn with | .upTo n => decide (n < fn) | _ => false), 3),
    (isRed m && decide (redOpMax m < f.redOp), 3),
    (decide (m = 0x8F) && (if fn = 0 then decide (f.mode ≠ 3) else decide (f.mode ≠ 0) || decide (f.src2 ≠ ⟨0, 0⟩)), 2),
    ((decide (m = 0x89) || decide (m = 0x8A) || decide (m = 0x8D)) && !f.redSeg && f.pz, 2),
    ((decide (m = 0x89) || decide (m = 0x8B)) && decide (3 ≤ f.redOp) && f.sat, 2),
    ((decide (m = 0x89) || decide (m = 0x8B)) && decide (f.redOp = 6) && f.ext, 2),
    (decide (r.fn = .round) && !(rmOk f.fn || (decide (fn = 4) && decide (m = 0x65) && f.efbOk)), 4)]

/-- The first failing field check of a VI slot (R171, R177); the mode and seg fields are the decoder's. -/
def viCheck (m : Nat) (f : VI) : Option Nat :=
  firstBad [
    (f.sat && decide (m ≠ 0x40) && decide (m ≠ 0x47), 2),
    (decide (m = 0x47) && decide (f.src1 ≠ ⟨0, 0⟩), 2),
    (decide (m = 0x48) && decide (f.dest.wcode ≠ 0), 2),
    (decide (0x44 ≤ m) && decide (m ≤ 0x46) && decide (64 ≤ f.imm.toNat), 2),
    (decide (m ≠ 0x48) && decide (f.fn ≠ 0), 2),
    (decide (m = 0x48) && decide (5 < f.fn.toNat), 3)]

/-- The first failing field check of a VM slot (R92, R266 to R273); bits [8:7] are the decoder's. -/
def vmCheck (m : Nat) (f : VM) : Option Nat :=
  let fn := f.fn.toNat
  firstBad [
    (decide (f.stride ≠ 0) && decide (m ≠ 0xC1) && decide (m ≠ 0xC4) && decide (m ≠ 0xC9), 2),
    (decide (m ≤ 0xC2) && decide (2 ≤ fn), 2),
    (decide (0xC3 ≤ m) && decide (m ≤ 0xC5) && decide (fn ≠ 0), 2),
    ((decide (m = 0xC7) || decide (m = 0xC8)) &&
      (decide (fn ≠ 0) || decide (f.data.wcode ≠ 0) || decide (1024 ≤ f.idx.toNat) || decide (f.pred ≠ 12)), 2),
    (decide (m = 0xC9) && (decide (4 ≤ fn) || decide (f.data.start ≠ 0)), 2),
    (decide (m = 0xCA) && (decide (f.data ≠ ⟨0, 0⟩) || decide (f.idx ≠ 0) || decide (f.cls ≠ 15) ||
      decide (f.pred ≠ 12) || !f.space || decide (f.hint ≠ 0) || decide (fn ≠ 0)), 2),
    (decide (f.hint = 3) || (f.space && decide (f.hint ≠ 0)), 3),
    (decide (m = 0xC6) && decide (10 ≤ fn % 16), 3),
    (decide (m = 0xC9) && decide (fn = 3), 3),
    (decide (m = 0xC9) && decide (fn ≠ 1) && decide (f.stride ≠ 0), 2)]

/-- The fields that a VT instruction uses (R229): td, ta, vec, xa, xb; then the fn bits it allows. -/
def vtUse (m : Nat) : (Bool × Bool × Bool × Bool × Bool) × Nat :=
  if m = 0xA0 then ((true, false, false, true, true), 4)
  else if m = 0xA1 then ((true, false, false, true, true), 4)
  else if m = 0xA2 then ((false, true, false, true, true), 4)
  else if m = 0xA3 then ((true, false, false, false, false), 1)
  else if m ≤ 0xA5 then ((false, true, true, true, false), 2)
  else if m ≤ 0xA7 then ((true, false, true, true, false), 2)
  else if m = 0xA8 then ((true, true, false, false, false), 8)
  else if m ≤ 0xAA then ((true, true, false, false, false), 1)
  else ((true, false, false, true, false), 4)

/-- The first failing field check of a VT slot (R93, R229); the reserved bits are the decoder's. -/
def vtCheck (m : Nat) (f : VT) : Option Nat :=
  let u := (vtUse m).1
  let fn := f.fn.toNat
  firstBad [
    (decide (f.tb ≠ 0), 2),
    (!u.1 && decide (f.td ≠ 0), 2), (!u.2.1 && decide (f.ta ≠ 0), 2),
    (!u.2.2.1 && decide (f.vec ≠ ⟨0, 0⟩), 2), (!u.2.2.2.1 && decide (f.xa ≠ 0), 2),
    (!u.2.2.2.2 && decide (f.xb ≠ 0), 2),
    (decide (f.pred ≠ 12) && !(decide (0xA4 ≤ m) && decide (m ≤ 0xA7)), 2),
    (decide ((vtUse m).2 ≤ fn), 2),
    ((decide (m = 0xA1) || decide (m = 0xAB)) && decide (fn % 2 = 1), 2),
    (decide (m = 0xA8) && decide (2 ≤ fn), 3),
    ((decide (m = 0xA0) || decide (m = 0xA2)) && decide (fn % 2 = 1) && decide (f.xb ≠ 0), 2)]

/-! ## Instructions -/

/-- An instruction has an encoding with a defined effect (R101). A slot's checks that need the machine's state (R99
step 4) are not among them. An event has no encoding and is well formed. -/
def wellFormed : Instr → Bool
  | .fadd _ _ _ rm => rmOk rm
  | .fsub _ _ _ rm => rmOk rm
  | .fmul _ _ _ rm => rmOk rm
  | .fdiv _ _ _ rm => rmOk rm
  | .fmadd _ _ _ rm => rmOk rm
  | .fcvt _ _ _ rm => rmOk rm
  | .amoAdd _ _ _ scope _ _ => scopeOk scope
  | .amoAnd _ _ _ scope _ _ => scopeOk scope
  | .amoOr _ _ _ scope _ _ => scopeOk scope
  | .amoXor _ _ _ scope _ _ => scopeOk scope
  | .amoMin _ _ _ scope _ _ => scopeOk scope
  | .amoMax _ _ _ scope _ _ => scopeOk scope
  | .amoMinn _ _ _ scope _ _ => scopeOk scope
  | .amoMaxn _ _ _ scope _ _ => scopeOk scope
  | .amoSwp _ _ _ scope _ _ => scopeOk scope
  | .amoFadd _ _ _ scope _ _ => scopeOk scope
  | .amocas _ _ _ scope _ _ => scopeOk scope
  | .fence _ scope _ => scopeOk scope
  | .csrr _ csr => csrKnown csr.toNat
  | .csrw _ _ csr => csrWritable csr.toNat
  | .csrs _ _ csr => csrWritable csr.toNat
  | .csrc _ _ csr => csrWritable csr.toNat
  | .sfAg u _ => decide (u.toNat < 24)
  | .sfRoute u _ => decide (u.toNat < 19)
  | .sfMerge u _ => decide (u.toNat < 16)
  | .sfReord u _ => decide (u.toNat < 16)
  | .sfPack u _ => decide (u.toNat < 16)
  | .sfUnpack u _ => decide (u.toNat < 16)
  | .mxRnd _ _ rm => rmOk rm
  | .msArrive ms pkg => msOk ms pkg
  | .msWait _ ms pkg => msOk ms pkg
  | .msAdd _ ms pkg => msOk ms pkg
  | .msSet _ ms pkg => msOk ms pkg
  | .msRead _ ms pkg => msOk ms pkg
  | .lda _ _ _ scope _ => scopeOk scope
  | .stl _ _ _ scope _ => scopeOk scope
  | .vadd f => ((vrCheck 0x00 f).isNone)
  | .vsub f => ((vrCheck 0x01 f).isNone)
  | .vrsub f => ((vrCheck 0x02 f).isNone)
  | .vmul f => ((vrCheck 0x03 f).isNone)
  | .vmulh f => ((vrCheck 0x04 f).isNone)
  | .vmacc f => ((vrCheck 0x05 f).isNone)
  | .vnmac f => ((vrCheck 0x06 f).isNone)
  | .vdiv f => ((vrCheck 0x07 f).isNone)
  | .vrem f => ((vrCheck 0x08 f).isNone)
  | .vmin f => ((vrCheck 0x09 f).isNone)
  | .vmax f => ((vrCheck 0x0A f).isNone)
  | .vand f => ((vrCheck 0x0B f).isNone)
  | .vor f => ((vrCheck 0x0C f).isNone)
  | .vxor f => ((vrCheck 0x0D f).isNone)
  | .vandn f => ((vrCheck 0x0E f).isNone)
  | .vsll f => ((vrCheck 0x0F f).isNone)
  | .vsrl f => ((vrCheck 0x10 f).isNone)
  | .vsra f => ((vrCheck 0x11 f).isNone)
  | .vclz f => ((vrCheck 0x12 f).isNone)
  | .vpopc f => ((vrCheck 0x13 f).isNone)
  | .vabs f => ((vrCheck 0x14 f).isNone)
  | .vcmp f => ((vrCheck 0x15 f).isNone)
  | .vsel f => ((vrCheck 0x16 f).isNone)
  | .vmv f => ((vrCheck 0x17 f).isNone)
  | .vid f => ((vrCheck 0x18 f).isNone)
  | .vaddi f => ((viCheck 0x40 f).isNone)
  | .vandi f => ((viCheck 0x41 f).isNone)
  | .vori f => ((viCheck 0x42 f).isNone)
  | .vxori f => ((viCheck 0x43 f).isNone)
  | .vslli f => ((viCheck 0x44 f).isNone)
  | .vsrli f => ((viCheck 0x45 f).isNone)
  | .vsrai f => ((viCheck 0x46 f).isNone)
  | .vmvi f => ((viCheck 0x47 f).isNone)
  | .vcmpi f => ((viCheck 0x48 f).isNone)
  | .vfadd f => ((vrCheck 0x50 f).isNone)
  | .vfsub f => ((vrCheck 0x51 f).isNone)
  | .vfmul f => ((vrCheck 0x52 f).isNone)
  | .vfmacc f => ((vrCheck 0x53 f).isNone)
  | .vfnmsac f => ((vrCheck 0x54 f).isNone)
  | .vfdiv f => ((vrCheck 0x55 f).isNone)
  | .vfsqrt f => ((vrCheck 0x56 f).isNone)
  | .vfmin f => ((vrCheck 0x57 f).isNone)
  | .vfmax f => ((vrCheck 0x58 f).isNone)
  | .vfcmp f => ((vrCheck 0x59 f).isNone)
  | .vfclass f => ((vrCheck 0x5A f).isNone)
  | .vfexp2 f => ((vrCheck 0x5B f).isNone)
  | .vflog2 f => ((vrCheck 0x5C f).isNone)
  | .vfrcp f => ((vrCheck 0x5D f).isNone)
  | .vfrsqrt f => ((vrCheck 0x5E f).isNone)
  | .vcmul f => ((vrCheck 0x5F f).isNone)
  | .vcmac f => ((vrCheck 0x60 f).isNone)
  | .vmadd f => ((vrCheck 0x61 f).isNone)
  | .vmsub f => ((vrCheck 0x62 f).isNone)
  | .vmmul f => ((vrCheck 0x63 f).isNone)
  | .vmred f => ((vrCheck 0x64 f).isNone)
  | .vcvt f => ((vrCheck 0x65 f).isNone)
  | .vftoi f => ((vrCheck 0x66 f).isNone)
  | .vitof f => ((vrCheck 0x67 f).isNone)
  | .vbfexp f => ((vrCheck 0x68 f).isNone)
  | .vbfmant f => ((vrCheck 0x69 f).isNone)
  | .vbfval f => ((vrCheck 0x6A f).isNone)
  | .vslideDown f => ((vrCheck 0x80 f).isNone)
  | .vxchg f => ((vrCheck 0x81 f).isNone)
  | .vperm f => ((vrCheck 0x82 f).isNone)
  | .vpush f => ((vrCheck 0x83 f).isNone)
  | .vcompress f => ((vrCheck 0x84 f).isNone)
  | .vexpand f => ((vrCheck 0x85 f).isNone)
  | .vzip f => ((vrCheck 0x86 f).isNone)
  | .vunzip f => ((vrCheck 0x87 f).isNone)
  | .vrev f => ((vrCheck 0x88 f).isNone)
  | .vred f => ((vrCheck 0x89 f).isNone)
  | .vfred f => ((vrCheck 0x8A f).isNone)
  | .vscan f => ((vrCheck 0x8B f).isNone)
  | .vfscan f => ((vrCheck 0x8C f).isNone)
  | .vargmax f => ((vrCheck 0x8D f).isNone)
  | .vsetfib f => ((vrCheck 0x8E f).isNone)
  | .vbcast f => ((vrCheck 0x8F f).isNone)
  | .vext f => ((vrCheck 0x90 f).isNone)
  | .vins f => ((vrCheck 0x91 f).isNone)
  | .pand f => ((vrCheck 0x92 f).isNone)
  | .por f => ((vrCheck 0x93 f).isNone)
  | .pxor f => ((vrCheck 0x94 f).isNone)
  | .pandn f => ((vrCheck 0x95 f).isNone)
  | .pset f => ((vrCheck 0x96 f).isNone)
  | .pcnt f => ((vrCheck 0x97 f).isNone)
  | .pfirst f => ((vrCheck 0x98 f).isNone)
  | .pmov f => ((vrCheck 0x99 f).isNone)
  | .tld f => ((vtCheck 0xA0 f).isNone)
  | .tldt f => ((vtCheck 0xA1 f).isNone)
  | .tst f => ((vtCheck 0xA2 f).isNone)
  | .tzero f => ((vtCheck 0xA3 f).isNone)
  | .vtrow f => ((vtCheck 0xA4 f).isNone)
  | .vtcol f => ((vtCheck 0xA5 f).isNone)
  | .vrowt f => ((vtCheck 0xA6 f).isNone)
  | .vcolt f => ((vtCheck 0xA7 f).isNone)
  | .tprune f => ((vtCheck 0xA8 f).isNone)
  | .tpackt f => ((vtCheck 0xA9 f).isNone)
  | .tunpack f => ((vtCheck 0xAA f).isNone)
  | .tsigck f => ((vtCheck 0xAB f).isNone)
  | .vld f => ((vmCheck 0xC0 f).isNone)
  | .vlds f => ((vmCheck 0xC1 f).isNone)
  | .vldx f => ((vmCheck 0xC2 f).isNone)
  | .vst f => ((vmCheck 0xC3 f).isNone)
  | .vsts f => ((vmCheck 0xC4 f).isNone)
  | .vstx f => ((vmCheck 0xC5 f).isNone)
  | .vamo f => ((vmCheck 0xC6 f).isNone)
  | .vspill f => ((vmCheck 0xC7 f).isNone)
  | .vfill f => ((vmCheck 0xC8 f).isNone)
  | .vpf f => ((vmCheck 0xC9 f).isNone)
  | .spcfg f => ((vmCheck 0xCA f).isNone)
  | .vchPush f => ((vrCheck 0xE0 f).isNone)
  | .vchPop f => ((vrCheck 0xE1 f).isNone)
  | .vslideUp f => ((vrCheck 0x80 f).isNone && decide (f.fn = 1))
  | .vslideRot f => ((vrCheck 0x80 f).isNone && decide (f.fn = 2))
  | .vbcastFib f => ((vrCheck 0x8F f).isNone && decide (f.fn = 1))
  | .tldP f => ((vtCheck 0xA0 f).isNone && f.fn.getLsbD 0)
  | .tpruneT f => ((vtCheck 0xA8 f).isNone && decide (f.fn = 1))
  | .add _ _ _ | .sub _ _ _ | .and _ _ _ | .or _ _ _ | .xor _ _ _ | .andn _ _ _ | .sll _ _ _ | .srl _ _ _ 
  | .sra _ _ _ | .slt _ _ _ | .sltn _ _ _ | .mul _ _ _ | .mulh _ _ _ | .mulhn _ _ _ | .div _ _ _ | .divn _ _ _ 
  | .rem _ _ _ | .remn _ _ _ | .min _ _ _ | .max _ _ _ | .minn _ _ _ | .maxn _ _ _ | .clz _ _ | .ctz _ _ 
  | .popc _ _ | .bext _ _ _ | .bins _ _ _ | .fcmp _ _ _ _ | .trap _ | .brk _ | .tret | .chBind _ _ 
  | .chPush _ _ _ | .chPop _ _ _ | .chTpop _ _ _ | .chDetach _ _ | .cpCopy _ _ | .bpRun _ | .bpTwl _ _ 
  | .plBind _ | .plStart _ | .plStop _ | .plFreeze _ | .mxMma _ _ _ | .mxMms _ _ _ | .mxZacc _ | .mxSettl _ _ _ 
  | .xchPostDemand _ _ _ | .xchSend _ _ | .xchRecv _ _ | .xchEnd _ | .xchStat _ _ _ | .launch _ _ 
  | .tlbInvPage _ _ | .ctxSave _ _ _ | .ctxRest _ _ | .vpart _ _ | .rtUpdWrite _ _ | .snapTrigger _ _ 
  | .pprobe _ _ _ | .idle _ | .yield _ | .vsetvl _ _ | .addi _ _ _ | .andi _ _ _ | .ori _ _ _ | .xori _ _ _ 
  | .slli _ _ _ | .srli _ _ _ | .srai _ _ _ | .slti _ _ _ | .sltni _ _ _ | .ldb _ _ _ _ | .ldbn _ _ _ _ 
  | .ldh _ _ _ _ | .ldhn _ _ _ _ | .ldw _ _ _ _ | .ldwn _ _ _ _ | .ldd _ _ _ _ | .stb _ _ _ _ | .sth _ _ _ _ 
  | .stw _ _ _ _ | .std _ _ _ _ | .pf _ _ _ | .cflush _ _ _ | .cinv _ _ _ | .beq _ _ _ | .bne _ _ _ 
  | .blt _ _ _ | .bge _ _ _ | .bltn _ _ _ | .bgen _ _ _ | .jr _ _ _ | .jal _ _ | .lhi _ _ | .lpc _ _ 
  | .xchPostRegister _ _ _ | .xchPostDeregister _ _ _ | .tlbInvPasid _ _ | .tlbInvAll _ _ | .rtUpdFlip _ _ 
  | .rtUpdQuery _ _ | .snapArm _ _ | .snapStatus _ _ | .yieldEnd _ => true
  | .fenceComplete _ | .chPushResume _ | .chPopResume _ | .mxTokenComplete _ _ | .xchSendGrant _ 
  | .msWaitSatisfied _ | .idleDeadline _ | .vchResume _ | .convoyRetire _ | .agFiring _ _ | .routeFiring _ _ 
  | .mergeFiring _ _ | .reorderFiring _ _ | .packFiring _ _ | .unpackFiring _ _ | .commandChannelTake _ _ 
  | .chStall _ _ | .bpPassStart _ _ | .bpPassEnd _ _ | .twiddleLoad _ _ | .cpCommandStart _ _ 
  | .cpCommandComplete _ _ | .launchWindowStore _ _ | .rotationBoundary | .placement _ | .preemptGraceExpiry _ 
  | .preemptStop _ | .responseSuccess _ | .invalidRequest _ | .responseFailure | .priReenable 
  | .atsInvalidation _ _ _ | .hostCxlMemAccess _ _ | .requestPacket _ _ | .ackAccepted _ | .ackVisible _ 
  | .remoteNack _ _ | .remoteTimeout _ | .visibleAckTimeout _ | .gloxelPortDown _ | .linkDegrade _ 
  | .phaseStart _ _ _ | .calendarEnd _ _ | .exchangeArrival _ _ | .endMarkerArrival _ _ _ _ | .heartbeat _ 
  | .standbyTakeover _ | .generationAnnouncement _ _ _ | .qcmdEnd _ | .qcmdSaveAndRelease _ | .qcmdEndGang _ 
  | .qcmdRespawn _ | .qcmdClearBroken _ | .qcmdReplaceCluster _ | .queueConfigWrite _ _ _ 
  | .milestoneHostWrite _ _ | .hotnessReadClear _ | .faultQueueEnable _ | .fqHeadWrite _ 
  | .mmioRegisterWrite _ _ | .powerStateRequest _ | .hbmSelfRefresh _ | .clusterGate _ | .thermalTrip 
  | .thermalTripClear | .deviceReset | .powerOn | .recoveryImage _ | .advanceRollbackCounter _ | .getVersion 
  | .getCapabilities | .negotiateAlgorithms | .getDigests | .getCertificate | .challenge | .getMeasurements 
  | .keyExchange | .finish | .mgmtTemperature | .mgmtPower | .mgmtRasSummary | .nameFabricManager _ _ | .snapIn 
  | .snapshotMessage _ _ | .snapshotLatch | .snapOutEnd | .uncorrectableError _ | .correctedError _ 
  | .rtUpdReply _ | .flipReachesIngress _ _ | .invalidationCompletion | .powerStateChange | .ready 
  | .portRepair _ | .laneRepair _ _ | .counterWrap _ _ => true

end Sys2Proof
end

