-- ==== Sys2Proof/Decode.lean ====
section
/-! DEFINITION. From bits to instructions and back: the scalar formats (R81 to R85), the convoy header (R86), the
vector formats (R87 to R94), the opcode map (R96, R97), and the checks of R98 and of steps 1 to 3 of R99 in their
order. The encoder is written from the same tables. -/

namespace Sys2Proof

/-- What decoding a parcel or a slot gives: an instruction, or the cause and subcode of R100. -/
inductive Dec where
  | ok (i : Instr)
  | bad (cause sub : Nat)
  deriving DecidableEq, Repr

/-- Trap causes of decoding (R165). -/
def causeIllegalOp : Nat := 0x01
def causeIllegalOperand : Nat := 0x02
def causeConvoyUnit : Nat := 0x03

/-- Goes on when `ok` holds, else fails as ILLEGAL_OP with this subcode. -/
def needOp (ok : Bool) (sub : Nat) (k : Dec) : Dec := bif ok then k else .bad causeIllegalOp sub

/-- Goes on when `ok` holds, else fails as ILLEGAL_OPERAND with this subcode (R98 step 6). -/
def needOperand (ok : Bool) (sub : Nat) (k : Dec) : Dec := bif ok then k else .bad causeIllegalOperand sub

/-- A register field is zero (R84). -/
def z5 (r : XReg) : Bool := decide (r = 0)

/-! ## Scalar R-format -/

/-- A three-register operation whose fn9 is zero. -/
def dec3 (fn : Nat) (i : Instr) : Dec := needOp (decide (fn = 0)) 2 (.ok i)

/-- A scalar FP32 operation with a rounding code in fn9[2:0] (R85). -/
def decFp (fn : Nat) (mk : BitVec 3 → Instr) : Dec :=
  needOp (decide (fn / 8 = 0)) 2 (needOp (rmOk (BitVec.ofNat 3 fn)) 4 (.ok (mk (BitVec.ofNat 3 fn))))

/-- amo by its sub-operation (R85, R96, R263). -/
def decAmo (rd ra rb : XReg) (fn : Nat) : Dec :=
  let scope := BitVec.ofNat 3 (fn / 16)
  let acq := decide (fn / 128 % 2 = 1)
  let rel := decide (fn / 256 % 2 = 1)
  let go (i : Instr) : Dec := needOperand (scopeOk scope) 4 (.ok i)
  match fn % 16 with
  | 0 => go (.amoAdd rd ra rb scope acq rel)
  | 1 => go (.amoAnd rd ra rb scope acq rel)
  | 2 => go (.amoOr rd ra rb scope acq rel)
  | 3 => go (.amoXor rd ra rb scope acq rel)
  | 4 => go (.amoMin rd ra rb scope acq rel)
  | 5 => go (.amoMax rd ra rb scope acq rel)
  | 6 => go (.amoMinn rd ra rb scope acq rel)
  | 7 => go (.amoMaxn rd ra rb scope acq rel)
  | 8 => go (.amoSwp rd ra rb scope acq rel)
  | 9 => go (.amoFadd rd ra rb scope acq rel)
  | _ => .bad causeIllegalOp 3

/-- sf by its sub-operation, with the unit numbers of R98 step 6. -/
def decSf (rd ra rb : XReg) (fn : Nat) : Dec :=
  let u := BitVec.ofNat 5 (fn / 8)
  needOp (z5 rd && z5 rb && decide (fn / 256 = 0)) 2 <|
  match fn % 8 with
  | 0 => needOperand (decide (u.toNat < 24)) 5 (.ok (.sfAg u ra))
  | 1 => needOperand (decide (u.toNat < 19)) 5 (.ok (.sfRoute u ra))
  | 2 => needOperand (decide (u.toNat < 16)) 5 (.ok (.sfMerge u ra))
  | 3 => needOperand (decide (u.toNat < 16)) 5 (.ok (.sfReord u ra))
  | 4 => needOperand (decide (u.toNat < 16)) 5 (.ok (.sfPack u ra))
  | 5 => needOperand (decide (u.toNat < 16)) 5 (.ok (.sfUnpack u ra))
  | _ => .bad causeIllegalOp 3

/-- pl by its sub-operation (R320). -/
def decPl (rd ra rb : XReg) (fn : Nat) : Dec :=
  needOp (z5 rd && z5 rb && decide (fn / 4 = 0)) 2 <|
  match fn with
  | 0 => .ok (.plBind ra)
  | 1 => .ok (.plStart ra)
  | 2 => .ok (.plStop ra)
  | _ => .ok (.plFreeze ra)

/-- mx by its sub-operation: the bits above the named ones are zero (R85, R221). -/
def decMx (rd ra rb : XReg) (fn : Nat) : Dec :=
  let rm := fn / 8 % 8
  needOp (decide (fn / 64 = 0)) 2 <|
  match fn % 8 with
  | 0 => needOp (decide (rd.toNat < 4) && decide (ra.toNat < 8) && decide (rb.toNat < 8) && decide (rm = 0)) 2
      (.ok (.mxMma (BitVec.ofNat 2 rd.toNat) (BitVec.ofNat 3 ra.toNat) (BitVec.ofNat 3 rb.toNat)))
  | 1 => needOp (decide (rd.toNat < 4) && decide (ra.toNat < 8) && decide (rb.toNat < 8) && decide (rm = 0)) 2
      (.ok (.mxMms (BitVec.ofNat 2 rd.toNat) (BitVec.ofNat 3 ra.toNat) (BitVec.ofNat 3 rb.toNat)))
  | 2 => needOp (decide (rd.toNat < 4) && z5 ra && z5 rb && decide (rm = 0)) 2 (.ok (.mxZacc (BitVec.ofNat 2 rd.toNat)))
  | 3 => needOp (decide (rd.toNat < 8) && decide (ra.toNat < 4) && z5 rb) 2 <|
      needOp (rmOk (BitVec.ofNat 3 rm)) 4
      (.ok (.mxRnd (BitVec.ofNat 3 rd.toNat) (BitVec.ofNat 2 ra.toNat) (BitVec.ofNat 3 rm)))
  | 4 => needOp (decide (rm = 0)) 2 (.ok (.mxSettl rd ra rb))
  | _ => .bad causeIllegalOp 3

/-- xch by its sub-operation (R395). xch.post decodes to the row of a demand; the record's KIND picks the row. -/
def decXch (rd ra rb : XReg) (fn : Nat) : Dec :=
  needOp (decide (fn / 8 = 0)) 2 <|
  match fn with
  | 0 => .ok (.xchPostDemand rd ra rb)
  | 1 => needOp (z5 rd) 2 (.ok (.xchSend ra rb))
  | 2 => needOp (z5 rd) 2 (.ok (.xchRecv ra rb))
  | 3 => needOp (z5 rd && z5 rb) 2 (.ok (.xchEnd ra))
  | 4 => .ok (.xchStat rd ra rb)
  | _ => .bad causeIllegalOp 3

/-- ms by its sub-operation (R85, R410). -/
def decMs (rd ra rb : XReg) (fn : Nat) : Dec :=
  let ms := BitVec.ofNat 12 (ra.toNat + 32 * rb.toNat + 1024 * (fn % 4))
  let pkg := decide (fn / 32 % 2 = 1)
  let go (i : Instr) : Dec := needOperand (msOk ms pkg) 5 (.ok i)
  needOp (decide (fn / 64 = 0)) 2 <|
  match fn / 4 % 8 with
  | 0 => needOp (z5 rd) 2 (go (.msArrive ms pkg))
  | 1 => go (.msWait rd ms pkg)
  | 2 => go (.msAdd rd ms pkg)
  | 3 => go (.msSet rd ms pkg)
  | 4 => go (.msRead rd ms pkg)
  | _ => .bad causeIllegalOp 3

/-- sysop by its sub-operation. Where a register or a record picks among rows, decoding gives the first row. -/
def decSysop (rd ra rb : XReg) (fn : Nat) : Dec :=
  needOp (decide (fn / 16 = 0)) 2 <|
  match fn with
  | 0 => needOp (z5 rd) 2 (.ok (.tlbInvPage ra rb))
  | 1 => .ok (.ctxSave rd ra rb)
  | 2 => needOp (z5 rd) 2 (.ok (.ctxRest ra rb))
  | 3 => needOp (z5 rb) 2 (.ok (.vpart rd ra))
  | 4 => needOp (z5 rb) 2 (.ok (.rtUpdWrite rd ra))
  | 5 => needOp (z5 rb) 2 (.ok (.snapTrigger rd ra))
  | 6 => .ok (.pprobe rd ra rb)
  | 7 => needOp (z5 rd && z5 rb) 2 (.ok (.idle ra))
  | 8 => needOp (z5 rd && z5 rb) 2 (.ok (.yield ra))
  | _ => .bad causeIllegalOp 3

/-- The R-format (R81, R85, R96). -/
def decR (op : Nat) (rd ra rb : XReg) (fn : Nat) : Dec :=
  match op with
  | 0x00 => dec3 fn (.add rd ra rb)
  | 0x01 => dec3 fn (.sub rd ra rb)
  | 0x02 => dec3 fn (.and rd ra rb)
  | 0x03 => dec3 fn (.or rd ra rb)
  | 0x04 => dec3 fn (.xor rd ra rb)
  | 0x05 => dec3 fn (.andn rd ra rb)
  | 0x06 => dec3 fn (.sll rd ra rb)
  | 0x07 => dec3 fn (.srl rd ra rb)
  | 0x08 => dec3 fn (.sra rd ra rb)
  | 0x09 => dec3 fn (.slt rd ra rb)
  | 0x0A => dec3 fn (.sltn rd ra rb)
  | 0x0B => dec3 fn (.mul rd ra rb)
  | 0x0C => dec3 fn (.mulh rd ra rb)
  | 0x0D => dec3 fn (.mulhn rd ra rb)
  | 0x0E => dec3 fn (.div rd ra rb)
  | 0x0F => dec3 fn (.divn rd ra rb)
  | 0x10 => dec3 fn (.rem rd ra rb)
  | 0x11 => dec3 fn (.remn rd ra rb)
  | 0x12 => dec3 fn (.min rd ra rb)
  | 0x13 => dec3 fn (.max rd ra rb)
  | 0x14 => dec3 fn (.minn rd ra rb)
  | 0x15 => dec3 fn (.maxn rd ra rb)
  | 0x16 => needOp (z5 rb && decide (fn / 4 = 0)) 2 <|
      match fn with
      | 0 => .ok (.clz rd ra)
      | 1 => .ok (.ctz rd ra)
      | 2 => .ok (.popc rd ra)
      | _ => .bad causeIllegalOp 3
  | 0x17 => dec3 fn (.bext rd ra rb)
  | 0x18 => dec3 fn (.bins rd ra rb)
  | 0x19 => decFp fn (.fadd rd ra rb)
  | 0x1A => decFp fn (.fsub rd ra rb)
  | 0x1B => decFp fn (.fmul rd ra rb)
  | 0x1C => decFp fn (.fdiv rd ra rb)
  | 0x1D => decFp fn (.fmadd rd ra rb)
  | 0x1E => needOp (decide (fn / 8 = 0)) 2 <| needOp (decide (fn < 4)) 3 (.ok (.fcmp rd ra rb (BitVec.ofNat 2 fn)))
  | 0x1F => needOp (z5 rb && decide (fn / 32 = 0)) 2 <| needOp (rmOk (BitVec.ofNat 3 fn)) 4
      (.ok (.fcvt rd ra (BitVec.ofNat 2 (fn / 8)) (BitVec.ofNat 3 fn)))
  | 0x20 => decAmo rd ra rb fn
  | 0x21 => needOp (decide (fn % 16 = 0)) 2 <| needOperand (scopeOk (BitVec.ofNat 3 (fn / 16))) 4
      (.ok (.amocas rd ra rb (BitVec.ofNat 3 (fn / 16)) (decide (fn / 128 % 2 = 1)) (decide (fn / 256 % 2 = 1))))
  | 0x28 => needOp (z5 rd && z5 rb && decide (fn / 16 = 0)) 2 <| needOperand (scopeOk (BitVec.ofNat 3 fn)) 4
      (.ok (.fence ra (BitVec.ofNat 3 fn) (decide (fn / 8 % 2 = 1))))
  | 0x29 => needOp (z5 ra && z5 rb) 2 <| needOp (csrKnown fn) 5 (.ok (.csrr rd (BitVec.ofNat 9 fn)))
  | 0x2A => needOp (z5 rb) 2 <| needOp (csrWritable fn) 5 (.ok (.csrw rd ra (BitVec.ofNat 9 fn)))
  | 0x2B => needOp (z5 rb) 2 <| needOp (csrWritable fn) 5 (.ok (.csrs rd ra (BitVec.ofNat 9 fn)))
  | 0x2C => needOp (z5 rb) 2 <| needOp (csrWritable fn) 5 (.ok (.csrc rd ra (BitVec.ofNat 9 fn)))
  | 0x2D => needOp (z5 rd && z5 ra && z5 rb) 2 (.ok (.trap (BitVec.ofNat 9 fn)))
  | 0x2E => needOp (z5 rd && z5 ra && z5 rb && decide (fn = 0)) 2 (.ok .tret)
  | 0x2F => needOp (z5 rd && z5 ra && z5 rb) 2 (.ok (.brk (BitVec.ofNat 9 fn)))
  | 0x30 => needOp (z5 rd && z5 rb && decide (fn / 64 = 0)) 2 (.ok (.chBind (BitVec.ofNat 6 fn) ra))
  | 0x31 => needOp (z5 rd && z5 rb && decide (fn / 64 % 4 = 0)) 2
      (.ok (.chPush (BitVec.ofNat 6 fn) ra (decide (fn / 256 % 2 = 1))))
  | 0x32 => needOp (z5 ra && z5 rb) 2 (.ok (.chPop rd (BitVec.ofNat 6 fn) (BitVec.ofNat 3 (fn / 64))))
  | 0x33 => needOp (z5 ra && z5 rb) 2 (.ok (.chTpop rd (BitVec.ofNat 6 fn) (BitVec.ofNat 3 (fn / 64))))
  | 0x34 => needOp (z5 rd && z5 ra && z5 rb) 2 (.ok (.chDetach (BitVec.ofNat 6 fn) (BitVec.ofNat 3 (fn / 64))))
  | 0x35 => needOp (z5 rd && z5 rb && decide (fn / 2 = 0)) 2 (.ok (.cpCopy (decide (fn % 2 = 1)) ra))
  | 0x36 => needOp (z5 rd && z5 rb && decide (fn = 0)) 2 (.ok (.bpRun ra))
  | 0x37 => needOp (z5 rd && decide (fn = 0)) 2 (.ok (.bpTwl ra rb))
  | 0x38 => decSf rd ra rb fn
  | 0x39 => decPl rd ra rb fn
  | 0x3A => decMx rd ra rb fn
  | 0x3B => decXch rd ra rb fn
  | 0x3C => decMs rd ra rb fn
  | 0x3D => needOp (z5 rb && decide (fn = 0)) 2 (.ok (.launch rd ra))
  | 0x3E => decSysop rd ra rb fn
  | 0x3F => needOp (z5 rb && decide (fn = 0)) 2 (.ok (.vsetvl rd ra))
  | _ => .bad causeIllegalOp 1

/-! ## Scalar I-format and L-format -/

/-- A load, store or line operation: class in [31:28], imm10 in [27:18] (R82). -/
def decMem (imm : Nat) (mk : BitVec 10 → BitVec 4 → Instr) : Dec :=
  .ok (mk (BitVec.ofNat 10 imm) (BitVec.ofNat 4 (imm / 1024)))

/-- lda and stl: class in [31:28], scope in [27:25], offset7 in [24:18] (R82). -/
def decAcqRel (imm : Nat) (mk : BitVec 7 → BitVec 3 → BitVec 4 → Instr) : Dec :=
  needOperand (scopeOk (BitVec.ofNat 3 (imm / 128))) 4
    (.ok (mk (BitVec.ofNat 7 imm) (BitVec.ofNat 3 (imm / 128)) (BitVec.ofNat 4 (imm / 1024))))

/-- The I-format (R81 to R83, R96); `imm` is parcel bits [31:18]. -/
def decI (op : Nat) (rd ra : XReg) (imm : Nat) : Dec :=
  let i14 := BitVec.ofNat 14 imm
  match op with
  | 0x00 => .ok (.addi rd ra i14)
  | 0x01 => .ok (.andi rd ra i14)
  | 0x02 => .ok (.ori rd ra i14)
  | 0x03 => .ok (.xori rd ra i14)
  | 0x04 => needOp (decide (imm / 64 = 0)) 2 (.ok (.slli rd ra (BitVec.ofNat 6 imm)))
  | 0x05 => needOp (decide (imm / 64 = 0)) 2 (.ok (.srli rd ra (BitVec.ofNat 6 imm)))
  | 0x06 => needOp (decide (imm / 64 = 0)) 2 (.ok (.srai rd ra (BitVec.ofNat 6 imm)))
  | 0x07 => .ok (.slti rd ra i14)
  | 0x08 => .ok (.sltni rd ra i14)
  | 0x10 => decMem imm (.ldb rd ra)
  | 0x11 => decMem imm (.ldbn rd ra)
  | 0x12 => decMem imm (.ldh rd ra)
  | 0x13 => decMem imm (.ldhn rd ra)
  | 0x14 => decMem imm (.ldw rd ra)
  | 0x15 => decMem imm (.ldwn rd ra)
  | 0x16 => decMem imm (.ldd rd ra)
  | 0x17 => decMem imm (.stb rd ra)
  | 0x18 => decMem imm (.sth rd ra)
  | 0x19 => decMem imm (.stw rd ra)
  | 0x1A => decMem imm (.std rd ra)
  | 0x1B => needOp (z5 rd) 2 (decMem imm (.pf ra))
  | 0x1C => needOp (z5 rd) 2 (decMem imm (.cflush ra))
  | 0x1D => needOp (z5 rd) 2 (decMem imm (.cinv ra))
  | 0x1E => decAcqRel imm (.lda rd ra)
  | 0x1F => decAcqRel imm (.stl rd ra)
  | 0x20 => .ok (.beq rd ra i14)
  | 0x21 => .ok (.bne rd ra i14)
  | 0x22 => .ok (.blt rd ra i14)
  | 0x23 => .ok (.bge rd ra i14)
  | 0x24 => .ok (.bltn rd ra i14)
  | 0x25 => .ok (.bgen rd ra i14)
  | 0x26 => .ok (.jr rd ra i14)
  | _ => .bad causeIllegalOp 1

/-- The L-format (R81, R96); `imm` is parcel bits [31:13]. -/
def decL (op : Nat) (rd : XReg) (imm : Nat) : Dec :=
  match op with
  | 0 => .ok (.jal rd (BitVec.ofNat 19 imm))
  | 1 => .ok (.lhi rd (BitVec.ofNat 19 imm))
  | 2 => .ok (.lpc rd (BitVec.ofNat 19 imm))
  | _ => .bad causeIllegalOp 1

/-- A scalar parcel (R78, R98 steps 1 to 4 and 6; step 5 reads the machine's state). A convoy header is none
(log entry 72). -/
def decodeScalar (w : Nat) : Dec :=
  let op := w / 4 % 64
  let rd := BitVec.ofNat 5 (w / 2 ^ 8)
  let ra := BitVec.ofNat 5 (w / 2 ^ 13)
  match w % 4 with
  | 0 => decR op rd ra (BitVec.ofNat 5 (w / 2 ^ 18)) (w / 2 ^ 23 % 512)
  | 1 => decI op rd ra (w / 2 ^ 18 % 2 ^ 14)
  | 2 => decL op rd (w / 2 ^ 13 % 2 ^ 19)
  | _ => .bad causeConvoyUnit 1

/-! ## Vector slots -/

/-- The operand field whose least bit is bit `k` (R87). -/
def opndAt (w k : Nat) : Opnd := ⟨BitVec.ofNat 10 (w / 2 ^ (k + 4)), BitVec.ofNat 4 (w / 2 ^ k)⟩

/-- A single bit as a Bool. -/
def bitAt (w k : Nat) : Bool := decide (w / 2 ^ k % 2 = 1)

/-- The fields of the VR format (R88). -/
def vrOf (w : Nat) : VR where
  dest := opndAt w 42
  src1 := opndAt w 28
  src2 := opndAt w 14
  pred := BitVec.ofNat 4 (w / 2 ^ 10)
  pz := bitAt w 9
  mode := BitVec.ofNat 2 (w / 2 ^ 7)
  seg := BitVec.ofNat 2 (w / 2 ^ 5)
  ext := bitAt w 4
  sat := bitAt w 3
  fn := BitVec.ofNat 3 w

/-- The fields of the VI format (R91). -/
def viOf (w : Nat) : VI where
  dest := opndAt w 42
  src1 := opndAt w 28
  imm := BitVec.ofNat 14 (w / 2 ^ 14)
  pred := BitVec.ofNat 4 (w / 2 ^ 10)
  pz := bitAt w 9
  ext := bitAt w 4
  sat := bitAt w 3
  fn := BitVec.ofNat 3 w

/-- The fields of the VM format (R92). -/
def vmOf (w : Nat) : VM where
  data := opndAt w 42
  base := BitVec.ofNat 5 (w / 2 ^ 37)
  stride := BitVec.ofNat 5 (w / 2 ^ 32)
  idx := BitVec.ofNat 14 (w / 2 ^ 18)
  cls := BitVec.ofNat 4 (w / 2 ^ 14)
  pred := BitVec.ofNat 4 (w / 2 ^ 10)
  space := bitAt w 9
  hint := BitVec.ofNat 2 (w / 2 ^ 5)
  fn := BitVec.ofNat 5 w

/-- The fields of the VT format (R93). -/
def vtOf (w : Nat) : VT where
  td := BitVec.ofNat 3 (w / 2 ^ 53)
  ta := BitVec.ofNat 3 (w / 2 ^ 50)
  tb := BitVec.ofNat 3 (w / 2 ^ 47)
  vec := opndAt w 33
  xa := BitVec.ofNat 5 (w / 2 ^ 28)
  xb := BitVec.ofNat 5 (w / 2 ^ 23)
  pred := BitVec.ofNat 4 (w / 2 ^ 10)
  fn := BitVec.ofNat 3 w

/-- The unit code of a major opcode; none where it is reserved (R97). -/
def vecUnit (m : Nat) : Option Nat :=
  if m ≤ 0x02 then some 0 else if m ≤ 0x08 then some 1 else if m ≤ 0x18 then some 0
  else if m < 0x40 then none else if m ≤ 0x48 then some 0
  else if m < 0x50 then none else if m ≤ 0x6A then some 1
  else if m < 0x80 then none else if m ≤ 0x99 then some 2
  else if m < 0xA0 then none else if m ≤ 0xA2 then some 3 else if m ≤ 0xAB then some 2
  else if m < 0xC0 then none else if m ≤ 0xCA then some 3
  else if m < 0xE0 then none else if m ≤ 0xE1 then some 2 else none

/-- Goes on when a field check finds nothing. -/
def checked (c : Option Nat) (k : Dec) : Dec :=
  match c with
  | none => k
  | some n => .bad causeIllegalOp n

/-- The instruction of a VR major opcode whose fields passed their checks (R97). The rows of vslide and of vbcast decode
to the first row of their major opcode, whose meaning reads the fn field that tells them apart (R196). -/
def vrInstr (m : Nat) (f : VR) : Dec :=
  match m with
  | 0x00 => .ok (.vadd f)
  | 0x01 => .ok (.vsub f)
  | 0x02 => .ok (.vrsub f)
  | 0x03 => .ok (.vmul f)
  | 0x04 => .ok (.vmulh f)
  | 0x05 => .ok (.vmacc f)
  | 0x06 => .ok (.vnmac f)
  | 0x07 => .ok (.vdiv f)
  | 0x08 => .ok (.vrem f)
  | 0x09 => .ok (.vmin f)
  | 0x0A => .ok (.vmax f)
  | 0x0B => .ok (.vand f)
  | 0x0C => .ok (.vor f)
  | 0x0D => .ok (.vxor f)
  | 0x0E => .ok (.vandn f)
  | 0x0F => .ok (.vsll f)
  | 0x10 => .ok (.vsrl f)
  | 0x11 => .ok (.vsra f)
  | 0x12 => .ok (.vclz f)
  | 0x13 => .ok (.vpopc f)
  | 0x14 => .ok (.vabs f)
  | 0x15 => .ok (.vcmp f)
  | 0x16 => .ok (.vsel f)
  | 0x17 => .ok (.vmv f)
  | 0x18 => .ok (.vid f)
  | 0x50 => .ok (.vfadd f)
  | 0x51 => .ok (.vfsub f)
  | 0x52 => .ok (.vfmul f)
  | 0x53 => .ok (.vfmacc f)
  | 0x54 => .ok (.vfnmsac f)
  | 0x55 => .ok (.vfdiv f)
  | 0x56 => .ok (.vfsqrt f)
  | 0x57 => .ok (.vfmin f)
  | 0x58 => .ok (.vfmax f)
  | 0x59 => .ok (.vfcmp f)
  | 0x5A => .ok (.vfclass f)
  | 0x5B => .ok (.vfexp2 f)
  | 0x5C => .ok (.vflog2 f)
  | 0x5D => .ok (.vfrcp f)
  | 0x5E => .ok (.vfrsqrt f)
  | 0x5F => .ok (.vcmul f)
  | 0x60 => .ok (.vcmac f)
  | 0x61 => .ok (.vmadd f)
  | 0x62 => .ok (.vmsub f)
  | 0x63 => .ok (.vmmul f)
  | 0x64 => .ok (.vmred f)
  | 0x65 => .ok (.vcvt f)
  | 0x66 => .ok (.vftoi f)
  | 0x67 => .ok (.vitof f)
  | 0x68 => .ok (.vbfexp f)
  | 0x69 => .ok (.vbfmant f)
  | 0x6A => .ok (.vbfval f)
  | 0x81 => .ok (.vxchg f)
  | 0x82 => .ok (.vperm f)
  | 0x83 => .ok (.vpush f)
  | 0x84 => .ok (.vcompress f)
  | 0x85 => .ok (.vexpand f)
  | 0x86 => .ok (.vzip f)
  | 0x87 => .ok (.vunzip f)
  | 0x88 => .ok (.vrev f)
  | 0x89 => .ok (.vred f)
  | 0x8A => .ok (.vfred f)
  | 0x8B => .ok (.vscan f)
  | 0x8C => .ok (.vfscan f)
  | 0x8D => .ok (.vargmax f)
  | 0x8E => .ok (.vsetfib f)
  | 0x90 => .ok (.vext f)
  | 0x91 => .ok (.vins f)
  | 0x92 => .ok (.pand f)
  | 0x93 => .ok (.por f)
  | 0x94 => .ok (.pxor f)
  | 0x95 => .ok (.pandn f)
  | 0x96 => .ok (.pset f)
  | 0x97 => .ok (.pcnt f)
  | 0x98 => .ok (.pfirst f)
  | 0x99 => .ok (.pmov f)
  | 0xE0 => .ok (.vchPush f)
  | 0xE1 => .ok (.vchPop f)
  | 0x80 => .ok (.vslideDown f)
  | 0x8F => .ok (.vbcast f)
  | _ => .bad causeIllegalOp 1

/-- The instruction of a VI major opcode (R97). -/
def viInstr (m : Nat) (f : VI) : Dec :=
  match m with
  | 0x40 => .ok (.vaddi f)
  | 0x41 => .ok (.vandi f)
  | 0x42 => .ok (.vori f)
  | 0x43 => .ok (.vxori f)
  | 0x44 => .ok (.vslli f)
  | 0x45 => .ok (.vsrli f)
  | 0x46 => .ok (.vsrai f)
  | 0x47 => .ok (.vmvi f)
  | 0x48 => .ok (.vcmpi f)
  | _ => .bad causeIllegalOp 1

/-- The instruction of a VT major opcode (R97). The rows of tld and of tprune decode to the first row of their major
opcode, whose meaning reads the fn field that tells them apart (R229). -/
def vtInstr (m : Nat) (f : VT) : Dec :=
  match m with
  | 0xA0 => .ok (.tld f)
  | 0xA8 => .ok (.tprune f)
  | 0xA1 => .ok (.tldt f)
  | 0xA2 => .ok (.tst f)
  | 0xA3 => .ok (.tzero f)
  | 0xA4 => .ok (.vtrow f)
  | 0xA5 => .ok (.vtcol f)
  | 0xA6 => .ok (.vrowt f)
  | 0xA7 => .ok (.vcolt f)
  | 0xA9 => .ok (.tpackt f)
  | 0xAA => .ok (.tunpack f)
  | 0xAB => .ok (.tsigck f)
  | _ => .bad causeIllegalOp 1

/-- The instruction of a VM major opcode (R97). -/
def vmInstr (m : Nat) (f : VM) : Dec :=
  match m with
  | 0xC0 => .ok (.vld f)
  | 0xC1 => .ok (.vlds f)
  | 0xC2 => .ok (.vldx f)
  | 0xC3 => .ok (.vst f)
  | 0xC4 => .ok (.vsts f)
  | 0xC5 => .ok (.vstx f)
  | 0xC6 => .ok (.vamo f)
  | 0xC7 => .ok (.vspill f)
  | 0xC8 => .ok (.vfill f)
  | 0xC9 => .ok (.vpf f)
  | 0xCA => .ok (.spcfg f)
  | _ => .bad causeIllegalOp 1

/-- One slot of a convoy, its major opcode assigned and its unit code right (R99 step 3). -/
def decodeVec (w : Nat) : Dec :=
  let m := w / 2 ^ 56
  if m < 0x40 then checked (vrCheck m (vrOf w)) (vrInstr m (vrOf w))
  else if m < 0x50 then
    needOp (decide (w / 2 ^ 5 % 16 = 0)) 2 (checked (viCheck m (viOf w)) (viInstr m (viOf w)))
  else if m < 0xA0 then checked (vrCheck m (vrOf w)) (vrInstr m (vrOf w))
  else if m < 0xC0 then
    needOp (decide (w / 2 ^ 14 % 512 = 0) && decide (w / 2 ^ 3 % 128 = 0)) 2 (checked (vtCheck m (vtOf w)) (vtInstr m (vtOf w)))
  else if m < 0xE0 then
    needOp (decide (w / 2 ^ 7 % 4 = 0)) 2 (checked (vmCheck m (vmOf w)) (vmInstr m (vmOf w)))
  else checked (vrCheck m (vrOf w)) (vrInstr m (vrOf w))

/-! ## Convoys -/

/-- A decoded convoy: waypoint bit, retire-fence bit, and each slot's word with its instruction. -/
structure ConvoyCode where
  waypoint : Bool
  fence : Bool
  slots : List (Nat × Instr)
  deriving DecidableEq, Repr

/-- A failing decode check: cause, ESUB with the slot number in [5:4] (R100), and the word EVAL holds. -/
structure DecodeTrap where
  cause : Nat
  sub : Nat
  word : Nat
  deriving DecidableEq, Repr

/-- What the driver decodes at an address. -/
inductive Decoded where
  | scalar (i : Instr)
  | convoy (c : ConvoyCode)
  | trap (t : DecodeTrap)
  deriving DecidableEq, Repr

/-- The number of vector instructions a header announces (R79, R86). -/
def convoyCount (h : Nat) : Nat := h / 4 % 4 + 1

/-- The unit code of slot `k` (R86). -/
def unitCode (h k : Nat) : Nat := h / 2 ^ (4 + 2 * k) % 4

/-- The lowest slot at or beyond the count whose unit code is nonzero (R99 step 1). -/
def strayUnit (h : Nat) : Option Nat :=
  ([0, 1, 2, 3].filter fun k => decide (convoyCount h ≤ k) && decide (unitCode h k ≠ 0)).head?

/-- The lowest slot within the count whose unit code an earlier slot has too (R99 step 2): the model's choice where two pairs
clash (log entry 94). -/
def unitClash (h : Nat) : Option Nat :=
  ([0, 1, 2, 3].filter fun k => decide (k < convoyCount h) &&
    ([0, 1, 2].any fun i => decide (i < k) && decide (unitCode h i = unitCode h k))).head?

/-- The slots in ascending order, each through R99 step 3. -/
def decodeSlots (h : Nat) : Nat → List Nat → Except DecodeTrap (List (Nat × Instr))
  | _, [] => .ok []
  | k, w :: ws =>
    match vecUnit (w / 2 ^ 56) with
    | none => .error ⟨causeIllegalOp, 1 + 16 * k, w⟩
    | some u =>
      if u ≠ unitCode h k then .error ⟨causeConvoyUnit, 3 + 16 * k, w⟩
      else match decodeVec w with
        | .bad c n => .error ⟨c, n + 16 * k, w⟩
        | .ok i =>
          match decodeSlots h (k + 1) ws with
          | .error t => .error t
          | .ok l => .ok ((w, i) :: l)

/-- A convoy: its header and its words (R86, R99 steps 1 to 3). -/
def decodeConvoy (h : Nat) (ws : List Nat) : Decoded :=
  if h / 2 ^ 14 ≠ 0 then .trap ⟨causeConvoyUnit, 1, h⟩
  else match strayUnit h with
    | some k => .trap ⟨causeConvoyUnit, 1 + 16 * k, h⟩
    | none =>
      match unitClash h with
      | some k => .trap ⟨causeConvoyUnit, 2 + 16 * k, h⟩
      | none =>
        match decodeSlots h 0 ws with
        | .error t => .trap t
        | .ok l => .convoy ⟨bitAt h 12, bitAt h 13, l⟩

/-- A whole scalar parcel, with the trap of R100 where a check fails. -/
def decodeParcel (w : Nat) : Decoded :=
  match decodeScalar w with
  | .ok i => .scalar i
  | .bad c n => .trap ⟨c, n, w⟩

/-! ## Bytes -/

/-- The number whose little-endian bytes these are (R2). -/
def leNat : List Byte → Nat
  | [] => 0
  | b :: l => b.toNat + 256 * leNat l

/-- The `n` little-endian bytes of a number. -/
def leBytes : Nat → Nat → List Byte
  | 0, _ => []
  | n + 1, w => BitVec.ofNat 8 w :: leBytes n (w / 256)

/-- `n` 64-bit words of a byte string. -/
def wordsOf : Nat → List Byte → List Nat
  | 0, _ => []
  | n + 1, l => leNat (l.take 8) :: wordsOf n (l.drop 8)

/-- The instruction at the start of a byte string: a parcel, or a header and its vector words (R78, R79). A missing
byte counts as none: the string is long enough for what it starts with. -/
def decodeBytes (l : List Byte) : Decoded :=
  let h := leNat (l.take 4)
  if h % 4 = 3 then decodeConvoy h (wordsOf (convoyCount h) (l.drop 4)) else decodeParcel h

/-- The first instruction of a decode. -/
def Decoded.first : Decoded → Option Instr
  | .scalar i => some i
  | .convoy c => c.slots.head?.map Prod.snd
  | .trap _ => none

/-- The instruction the decoder reads from bits numbered as the opcode table numbers them: 36 bytes, the longest
convoy, hold any instruction; the bits above `nbits` are zero. -/
def decodeTableWord (nbits w : Nat) : Option Instr := (decodeBytes (leBytes 36 (w % 2 ^ nbits))).first

/-! ## The encoder -/

/-- R-format word (R81). -/
def encR (op : Nat) (rd ra rb : XReg) (fn : Nat) : Nat :=
  4 * op + 2 ^ 8 * rd.toNat + 2 ^ 13 * ra.toNat + 2 ^ 18 * rb.toNat + 2 ^ 23 * fn

/-- I-format word (R81). -/
def encI (op : Nat) (rd ra : XReg) (imm : Nat) : Nat :=
  1 + 4 * op + 2 ^ 8 * rd.toNat + 2 ^ 13 * ra.toNat + 2 ^ 18 * imm

/-- L-format word (R81). -/
def encL (op : Nat) (rd : XReg) (imm : BitVec 19) : Nat := 2 + 4 * op + 2 ^ 8 * rd.toNat + 2 ^ 13 * imm.toNat

/-- A bit as a number. -/
def bitNat (b : Bool) : Nat := if b then 1 else 0

/-- fn9 of amo and amocas (R85). -/
def encAmoFn (sub : Nat) (scope : BitVec 3) (acq rel : Bool) : Nat :=
  sub + 16 * scope.toNat + 128 * bitNat acq + 256 * bitNat rel

/-- The 14-bit field of a load, store or line operation (R82). -/
def encMemImm (imm : BitVec 10) (cls : BitVec 4) : Nat := imm.toNat + 1024 * cls.toNat

/-- The 14-bit field of lda and stl (R82). -/
def encAcqRelImm (off : BitVec 7) (scope : BitVec 3) (cls : BitVec 4) : Nat :=
  off.toNat + 128 * scope.toNat + 1024 * cls.toNat

/-- ms parcel (R85): the milestone number in bits [24:13]. -/
def encMs (sub : Nat) (rd : XReg) (ms : BitVec 12) (pkg : Bool) : Nat :=
  4 * 0x3C + 2 ^ 8 * rd.toNat + 2 ^ 13 * ms.toNat + 2 ^ 23 * (4 * sub + 32 * bitNat pkg)

/-- An operand field (R87). -/
def encOpnd (o : Opnd) : Nat := o.wcode.toNat + 16 * o.start.toNat

/-- VR word (R88). -/
def encVR (m : Nat) (f : VR) : Nat :=
  2 ^ 56 * m + 2 ^ 42 * encOpnd f.dest + 2 ^ 28 * encOpnd f.src1 + 2 ^ 14 * encOpnd f.src2 + 2 ^ 10 * f.pred.toNat +
  2 ^ 9 * bitNat f.pz + 2 ^ 7 * f.mode.toNat + 2 ^ 5 * f.seg.toNat + 2 ^ 4 * bitNat f.ext + 2 ^ 3 * bitNat f.sat +
  f.fn.toNat

/-- VI word (R91). -/
def encVI (m : Nat) (f : VI) : Nat :=
  2 ^ 56 * m + 2 ^ 42 * encOpnd f.dest + 2 ^ 28 * encOpnd f.src1 + 2 ^ 14 * f.imm.toNat + 2 ^ 10 * f.pred.toNat +
  2 ^ 9 * bitNat f.pz + 2 ^ 4 * bitNat f.ext + 2 ^ 3 * bitNat f.sat + f.fn.toNat

/-- VM word (R92). -/
def encVM (m : Nat) (f : VM) : Nat :=
  2 ^ 56 * m + 2 ^ 42 * encOpnd f.data + 2 ^ 37 * f.base.toNat + 2 ^ 32 * f.stride.toNat + 2 ^ 18 * f.idx.toNat +
  2 ^ 14 * f.cls.toNat + 2 ^ 10 * f.pred.toNat + 2 ^ 9 * bitNat f.space + 2 ^ 5 * f.hint.toNat + f.fn.toNat

/-- VT word (R93). -/
def encVT (m : Nat) (f : VT) : Nat :=
  2 ^ 56 * m + 2 ^ 53 * f.td.toNat + 2 ^ 50 * f.ta.toNat + 2 ^ 47 * f.tb.toNat + 2 ^ 33 * encOpnd f.vec +
  2 ^ 28 * f.xa.toNat + 2 ^ 23 * f.xb.toNat + 2 ^ 10 * f.pred.toNat + f.fn.toNat

/-- A scalar parcel as 32 bits. -/
def par (w : Nat) : Option (Nat × Nat) := some (32, w)

/-- A convoy of one slot of this unit as 96 bits: the header (R86), then the word. -/
def one (u w : Nat) : Option (Nat × Nat) := some (96, 3 + 16 * u + 2 ^ 32 * w)

/-- The words of an instruction, as a number of bits and a value; a vector instruction stands alone in a convoy. An
event has none. -/
def encode : Instr → Option (Nat × Nat)
  | .add rd ra rb => par (encR 0x00 rd ra rb 0)
  | .sub rd ra rb => par (encR 0x01 rd ra rb 0)
  | .and rd ra rb => par (encR 0x02 rd ra rb 0)
  | .or rd ra rb => par (encR 0x03 rd ra rb 0)
  | .xor rd ra rb => par (encR 0x04 rd ra rb 0)
  | .andn rd ra rb => par (encR 0x05 rd ra rb 0)
  | .sll rd ra rb => par (encR 0x06 rd ra rb 0)
  | .srl rd ra rb => par (encR 0x07 rd ra rb 0)
  | .sra rd ra rb => par (encR 0x08 rd ra rb 0)
  | .slt rd ra rb => par (encR 0x09 rd ra rb 0)
  | .sltn rd ra rb => par (encR 0x0A rd ra rb 0)
  | .mul rd ra rb => par (encR 0x0B rd ra rb 0)
  | .mulh rd ra rb => par (encR 0x0C rd ra rb 0)
  | .mulhn rd ra rb => par (encR 0x0D rd ra rb 0)
  | .div rd ra rb => par (encR 0x0E rd ra rb 0)
  | .divn rd ra rb => par (encR 0x0F rd ra rb 0)
  | .rem rd ra rb => par (encR 0x10 rd ra rb 0)
  | .remn rd ra rb => par (encR 0x11 rd ra rb 0)
  | .min rd ra rb => par (encR 0x12 rd ra rb 0)
  | .max rd ra rb => par (encR 0x13 rd ra rb 0)
  | .minn rd ra rb => par (encR 0x14 rd ra rb 0)
  | .maxn rd ra rb => par (encR 0x15 rd ra rb 0)
  | .clz rd ra => par (encR 0x16 rd ra 0 0)
  | .ctz rd ra => par (encR 0x16 rd ra 0 1)
  | .popc rd ra => par (encR 0x16 rd ra 0 2)
  | .bext rd ra rb => par (encR 0x17 rd ra rb 0)
  | .bins rd ra rb => par (encR 0x18 rd ra rb 0)
  | .fadd rd ra rb rm => par (encR 0x19 rd ra rb rm.toNat)
  | .fsub rd ra rb rm => par (encR 0x1A rd ra rb rm.toNat)
  | .fmul rd ra rb rm => par (encR 0x1B rd ra rb rm.toNat)
  | .fdiv rd ra rb rm => par (encR 0x1C rd ra rb rm.toNat)
  | .fmadd rd ra rb rm => par (encR 0x1D rd ra rb rm.toNat)
  | .fcmp rd ra rb cc => par (encR 0x1E rd ra rb cc.toNat)
  | .fcvt rd ra k rm => par (encR 0x1F rd ra 0 (rm.toNat + 8 * k.toNat))
  | .amoAdd rd ra rb scope acq rel => par (encR 0x20 rd ra rb (encAmoFn 0 scope acq rel))
  | .amoAnd rd ra rb scope acq rel => par (encR 0x20 rd ra rb (encAmoFn 1 scope acq rel))
  | .amoOr rd ra rb scope acq rel => par (encR 0x20 rd ra rb (encAmoFn 2 scope acq rel))
  | .amoXor rd ra rb scope acq rel => par (encR 0x20 rd ra rb (encAmoFn 3 scope acq rel))
  | .amoMin rd ra rb scope acq rel => par (encR 0x20 rd ra rb (encAmoFn 4 scope acq rel))
  | .amoMax rd ra rb scope acq rel => par (encR 0x20 rd ra rb (encAmoFn 5 scope acq rel))
  | .amoMinn rd ra rb scope acq rel => par (encR 0x20 rd ra rb (encAmoFn 6 scope acq rel))
  | .amoMaxn rd ra rb scope acq rel => par (encR 0x20 rd ra rb (encAmoFn 7 scope acq rel))
  | .amoSwp rd ra rb scope acq rel => par (encR 0x20 rd ra rb (encAmoFn 8 scope acq rel))
  | .amoFadd rd ra rb scope acq rel => par (encR 0x20 rd ra rb (encAmoFn 9 scope acq rel))
  | .amocas rd ra rb scope acq rel => par (encR 0x21 rd ra rb (encAmoFn 0 scope acq rel))
  | .fence ra scope visible => par (encR 0x28 0 ra 0 (scope.toNat + 8 * bitNat visible))
  | .csrr rd csr => par (encR 0x29 rd 0 0 csr.toNat)
  | .csrw rd ra csr => par (encR 0x2A rd ra 0 csr.toNat)
  | .csrs rd ra csr => par (encR 0x2B rd ra 0 csr.toNat)
  | .csrc rd ra csr => par (encR 0x2C rd ra 0 csr.toNat)
  | .trap code => par (encR 0x2D 0 0 0 code.toNat)
  | .brk code => par (encR 0x2F 0 0 0 code.toNat)
  | .tret  => par (encR 0x2E 0 0 0 0)
  | .chBind c ra => par (encR 0x30 0 ra 0 c.toNat)
  | .chPush c ra rel => par (encR 0x31 0 ra 0 (c.toNat + 256 * bitNat rel))
  | .chPop rd c i => par (encR 0x32 rd 0 0 (c.toNat + 64 * i.toNat))
  | .chTpop rd c i => par (encR 0x33 rd 0 0 (c.toNat + 64 * i.toNat))
  | .chDetach c i => par (encR 0x34 0 0 0 (c.toNat + 64 * i.toNat))
  | .cpCopy engine ra => par (encR 0x35 0 ra 0 (bitNat engine))
  | .bpRun ra => par (encR 0x36 0 ra 0 0)
  | .bpTwl ra rb => par (encR 0x37 0 ra rb 0)
  | .sfAg u ra => par (encR 0x38 0 ra 0 (0 + 8 * u.toNat))
  | .sfRoute u ra => par (encR 0x38 0 ra 0 (1 + 8 * u.toNat))
  | .sfMerge u ra => par (encR 0x38 0 ra 0 (2 + 8 * u.toNat))
  | .sfReord u ra => par (encR 0x38 0 ra 0 (3 + 8 * u.toNat))
  | .sfPack u ra => par (encR 0x38 0 ra 0 (4 + 8 * u.toNat))
  | .sfUnpack u ra => par (encR 0x38 0 ra 0 (5 + 8 * u.toNat))
  | .plBind ra => par (encR 0x39 0 ra 0 0)
  | .plStart ra => par (encR 0x39 0 ra 0 1)
  | .plStop ra => par (encR 0x39 0 ra 0 2)
  | .plFreeze ra => par (encR 0x39 0 ra 0 3)
  | .mxMma acc ta tb => par (encR 0x3A (acc.setWidth 5) (ta.setWidth 5) (tb.setWidth 5) 0)
  | .mxMms acc ta tb => par (encR 0x3A (acc.setWidth 5) (ta.setWidth 5) (tb.setWidth 5) 1)
  | .mxZacc acc => par (encR 0x3A (acc.setWidth 5) 0 0 2)
  | .mxRnd td acc rm => par (encR 0x3A (td.setWidth 5) (acc.setWidth 5) 0 (3 + 8 * rm.toNat))
  | .mxSettl xm xn xk => par (encR 0x3A xm xn xk 4)
  | .xchPostDemand rd ra rb => par (encR 0x3B rd ra rb 0)
  | .xchSend ra rb => par (encR 0x3B 0 ra rb 1)
  | .xchRecv ra rb => par (encR 0x3B 0 ra rb 2)
  | .xchEnd ra => par (encR 0x3B 0 ra 0 3)
  | .xchStat rd ra rb => par (encR 0x3B rd ra rb 4)
  | .msArrive ms pkg => par (encMs 0 0 ms pkg)
  | .msWait rd ms pkg => par (encMs 1 rd ms pkg)
  | .msAdd rd ms pkg => par (encMs 2 rd ms pkg)
  | .msSet rd ms pkg => par (encMs 3 rd ms pkg)
  | .msRead rd ms pkg => par (encMs 4 rd ms pkg)
  | .launch rd ra => par (encR 0x3D rd ra 0 0)
  | .tlbInvPage ra rb => par (encR 0x3E 0 ra rb 0)
  | .ctxSave rd ra rb => par (encR 0x3E rd ra rb 1)
  | .ctxRest ra rb => par (encR 0x3E 0 ra rb 2)
  | .vpart rd ra => par (encR 0x3E rd ra 0 3)
  | .rtUpdWrite rd ra => par (encR 0x3E rd ra 0 4)
  | .snapTrigger rd ra => par (encR 0x3E rd ra 0 5)
  | .pprobe rd ra rb => par (encR 0x3E rd ra rb 6)
  | .idle ra => par (encR 0x3E 0 ra 0 7)
  | .yield ra => par (encR 0x3E 0 ra 0 8)
  | .vsetvl rd ra => par (encR 0x3F rd ra 0 0)
  | .addi rd ra imm => par (encI 0x00 rd ra imm.toNat)
  | .andi rd ra imm => par (encI 0x01 rd ra imm.toNat)
  | .ori rd ra imm => par (encI 0x02 rd ra imm.toNat)
  | .xori rd ra imm => par (encI 0x03 rd ra imm.toNat)
  | .slli rd ra sh => par (encI 0x04 rd ra sh.toNat)
  | .srli rd ra sh => par (encI 0x05 rd ra sh.toNat)
  | .srai rd ra sh => par (encI 0x06 rd ra sh.toNat)
  | .slti rd ra imm => par (encI 0x07 rd ra imm.toNat)
  | .sltni rd ra imm => par (encI 0x08 rd ra imm.toNat)
  | .ldb rd ra imm cls => par (encI 0x10 rd ra (encMemImm imm cls))
  | .ldbn rd ra imm cls => par (encI 0x11 rd ra (encMemImm imm cls))
  | .ldh rd ra imm cls => par (encI 0x12 rd ra (encMemImm imm cls))
  | .ldhn rd ra imm cls => par (encI 0x13 rd ra (encMemImm imm cls))
  | .ldw rd ra imm cls => par (encI 0x14 rd ra (encMemImm imm cls))
  | .ldwn rd ra imm cls => par (encI 0x15 rd ra (encMemImm imm cls))
  | .ldd rd ra imm cls => par (encI 0x16 rd ra (encMemImm imm cls))
  | .stb rs ra imm cls => par (encI 0x17 rs ra (encMemImm imm cls))
  | .sth rs ra imm cls => par (encI 0x18 rs ra (encMemImm imm cls))
  | .stw rs ra imm cls => par (encI 0x19 rs ra (encMemImm imm cls))
  | .std rs ra imm cls => par (encI 0x1A rs ra (encMemImm imm cls))
  | .pf ra imm cls => par (encI 0x1B 0 ra (encMemImm imm cls))
  | .cflush ra imm cls => par (encI 0x1C 0 ra (encMemImm imm cls))
  | .cinv ra imm cls => par (encI 0x1D 0 ra (encMemImm imm cls))
  | .lda rd ra off scope cls => par (encI 0x1E rd ra (encAcqRelImm off scope cls))
  | .stl rs ra off scope cls => par (encI 0x1F rs ra (encAcqRelImm off scope cls))
  | .beq ra rb imm => par (encI 0x20 ra rb imm.toNat)
  | .bne ra rb imm => par (encI 0x21 ra rb imm.toNat)
  | .blt ra rb imm => par (encI 0x22 ra rb imm.toNat)
  | .bge ra rb imm => par (encI 0x23 ra rb imm.toNat)
  | .bltn ra rb imm => par (encI 0x24 ra rb imm.toNat)
  | .bgen ra rb imm => par (encI 0x25 ra rb imm.toNat)
  | .jr rd ra imm => par (encI 0x26 rd ra imm.toNat)
  | .jal rd imm => par (encL 0 rd imm)
  | .lhi rd imm => par (encL 1 rd imm)
  | .lpc rd imm => par (encL 2 rd imm)
  | .vadd f => one 0 (encVR 0x00 f)
  | .vsub f => one 0 (encVR 0x01 f)
  | .vrsub f => one 0 (encVR 0x02 f)
  | .vmul f => one 1 (encVR 0x03 f)
  | .vmulh f => one 1 (encVR 0x04 f)
  | .vmacc f => one 1 (encVR 0x05 f)
  | .vnmac f => one 1 (encVR 0x06 f)
  | .vdiv f => one 1 (encVR 0x07 f)
  | .vrem f => one 1 (encVR 0x08 f)
  | .vmin f => one 0 (encVR 0x09 f)
  | .vmax f => one 0 (encVR 0x0A f)
  | .vand f => one 0 (encVR 0x0B f)
  | .vor f => one 0 (encVR 0x0C f)
  | .vxor f => one 0 (encVR 0x0D f)
  | .vandn f => one 0 (encVR 0x0E f)
  | .vsll f => one 0 (encVR 0x0F f)
  | .vsrl f => one 0 (encVR 0x10 f)
  | .vsra f => one 0 (encVR 0x11 f)
  | .vclz f => one 0 (encVR 0x12 f)
  | .vpopc f => one 0 (encVR 0x13 f)
  | .vabs f => one 0 (encVR 0x14 f)
  | .vcmp f => one 0 (encVR 0x15 f)
  | .vsel f => one 0 (encVR 0x16 f)
  | .vmv f => one 0 (encVR 0x17 f)
  | .vid f => one 0 (encVR 0x18 f)
  | .vaddi f => one 0 (encVI 0x40 f)
  | .vandi f => one 0 (encVI 0x41 f)
  | .vori f => one 0 (encVI 0x42 f)
  | .vxori f => one 0 (encVI 0x43 f)
  | .vslli f => one 0 (encVI 0x44 f)
  | .vsrli f => one 0 (encVI 0x45 f)
  | .vsrai f => one 0 (encVI 0x46 f)
  | .vmvi f => one 0 (encVI 0x47 f)
  | .vcmpi f => one 0 (encVI 0x48 f)
  | .vfadd f => one 1 (encVR 0x50 f)
  | .vfsub f => one 1 (encVR 0x51 f)
  | .vfmul f => one 1 (encVR 0x52 f)
  | .vfmacc f => one 1 (encVR 0x53 f)
  | .vfnmsac f => one 1 (encVR 0x54 f)
  | .vfdiv f => one 1 (encVR 0x55 f)
  | .vfsqrt f => one 1 (encVR 0x56 f)
  | .vfmin f => one 1 (encVR 0x57 f)
  | .vfmax f => one 1 (encVR 0x58 f)
  | .vfcmp f => one 1 (encVR 0x59 f)
  | .vfclass f => one 1 (encVR 0x5A f)
  | .vfexp2 f => one 1 (encVR 0x5B f)
  | .vflog2 f => one 1 (encVR 0x5C f)
  | .vfrcp f => one 1 (encVR 0x5D f)
  | .vfrsqrt f => one 1 (encVR 0x5E f)
  | .vcmul f => one 1 (encVR 0x5F f)
  | .vcmac f => one 1 (encVR 0x60 f)
  | .vmadd f => one 1 (encVR 0x61 f)
  | .vmsub f => one 1 (encVR 0x62 f)
  | .vmmul f => one 1 (encVR 0x63 f)
  | .vmred f => one 1 (encVR 0x64 f)
  | .vcvt f => one 1 (encVR 0x65 f)
  | .vftoi f => one 1 (encVR 0x66 f)
  | .vitof f => one 1 (encVR 0x67 f)
  | .vbfexp f => one 1 (encVR 0x68 f)
  | .vbfmant f => one 1 (encVR 0x69 f)
  | .vbfval f => one 1 (encVR 0x6A f)
  | .vslideDown f => one 2 (encVR 0x80 f)
  | .vxchg f => one 2 (encVR 0x81 f)
  | .vperm f => one 2 (encVR 0x82 f)
  | .vpush f => one 2 (encVR 0x83 f)
  | .vcompress f => one 2 (encVR 0x84 f)
  | .vexpand f => one 2 (encVR 0x85 f)
  | .vzip f => one 2 (encVR 0x86 f)
  | .vunzip f => one 2 (encVR 0x87 f)
  | .vrev f => one 2 (encVR 0x88 f)
  | .vred f => one 2 (encVR 0x89 f)
  | .vfred f => one 2 (encVR 0x8A f)
  | .vscan f => one 2 (encVR 0x8B f)
  | .vfscan f => one 2 (encVR 0x8C f)
  | .vargmax f => one 2 (encVR 0x8D f)
  | .vsetfib f => one 2 (encVR 0x8E f)
  | .vbcast f => one 2 (encVR 0x8F f)
  | .vext f => one 2 (encVR 0x90 f)
  | .vins f => one 2 (encVR 0x91 f)
  | .pand f => one 2 (encVR 0x92 f)
  | .por f => one 2 (encVR 0x93 f)
  | .pxor f => one 2 (encVR 0x94 f)
  | .pandn f => one 2 (encVR 0x95 f)
  | .pset f => one 2 (encVR 0x96 f)
  | .pcnt f => one 2 (encVR 0x97 f)
  | .pfirst f => one 2 (encVR 0x98 f)
  | .pmov f => one 2 (encVR 0x99 f)
  | .tld f => one 3 (encVT 0xA0 f)
  | .tldt f => one 3 (encVT 0xA1 f)
  | .tst f => one 3 (encVT 0xA2 f)
  | .tzero f => one 2 (encVT 0xA3 f)
  | .vtrow f => one 2 (encVT 0xA4 f)
  | .vtcol f => one 2 (encVT 0xA5 f)
  | .vrowt f => one 2 (encVT 0xA6 f)
  | .vcolt f => one 2 (encVT 0xA7 f)
  | .tprune f => one 2 (encVT 0xA8 f)
  | .tpackt f => one 2 (encVT 0xA9 f)
  | .tunpack f => one 2 (encVT 0xAA f)
  | .tsigck f => one 2 (encVT 0xAB f)
  | .vld f => one 3 (encVM 0xC0 f)
  | .vlds f => one 3 (encVM 0xC1 f)
  | .vldx f => one 3 (encVM 0xC2 f)
  | .vst f => one 3 (encVM 0xC3 f)
  | .vsts f => one 3 (encVM 0xC4 f)
  | .vstx f => one 3 (encVM 0xC5 f)
  | .vamo f => one 3 (encVM 0xC6 f)
  | .vspill f => one 3 (encVM 0xC7 f)
  | .vfill f => one 3 (encVM 0xC8 f)
  | .vpf f => one 3 (encVM 0xC9 f)
  | .spcfg f => one 3 (encVM 0xCA f)
  | .vchPush f => one 2 (encVR 0xE0 f)
  | .vchPop f => one 2 (encVR 0xE1 f)
  | .xchPostRegister rd ra rb => par (encR 0x3B rd ra rb 0)
  | .xchPostDeregister rd ra rb => par (encR 0x3B rd ra rb 0)
  | .tlbInvPasid ra rb => par (encR 0x3E 0 ra rb 0)
  | .tlbInvAll ra rb => par (encR 0x3E 0 ra rb 0)
  | .rtUpdFlip rd ra => par (encR 0x3E rd ra 0 4)
  | .rtUpdQuery rd ra => par (encR 0x3E rd ra 0 4)
  | .snapArm rd ra => par (encR 0x3E rd ra 0 5)
  | .snapStatus rd ra => par (encR 0x3E rd ra 0 5)
  | .yieldEnd ra => par (encR 0x3E 0 ra 0 8)
  | .vslideUp f => one 2 (encVR 0x80 f)
  | .vslideRot f => one 2 (encVR 0x80 f)
  | .vbcastFib f => one 2 (encVR 0x8F f)
  | .tldP f => one 3 (encVT 0xA0 f)
  | .tpruneT f => one 2 (encVT 0xA8 f)
  | .fenceComplete _ | .chPushResume _ | .chPopResume _ | .mxTokenComplete _ _ | .xchSendGrant _ 
  | .msWaitSatisfied _ | .idleDeadline _ | .vchResume _ | .convoyRetire _ | .agFiring _ _ | .routeFiring _ _ 
  | .mergeFiring _ _ | .reorderFiring _ _ | .packFiring _ _ | .unpackFiring _ _ | .commandChannelTake _ _ 
  | .chStall _ _ | .bpPassStart _ _ | .bpPassEnd _ _ | .twiddleLoad _ _ | .cpCommandStart _ _ 
  | .cpCommandComplete _ _ | .launchWindowStore _ _ | .rotationBoundary | .placement _ | .preemptGraceExpiry _ 
  | .preemptStop _ | .responseSuccess _ | .invalidRequest _ | .responseFailure | .priReenable 
  | .atsInvalidation _ _ _ | .hostCxlMemAccess _ _ | .requestPacket _ _ | .ackAccepted _ | .ackVisible _ 
  | .remoteNack _ _ | .remoteTimeout _ | .visibleAckTimeout _ | .gloxelPortDown _ | .linkDegrade _ 
  | .phaseStart _ _ _ | .calendarEnd _ _ | .exchangeArrival _ _ | .endMarkerArrival _ _ _ _ | .heartbeat _ 
  | .standbyTakeover _ | .generationAnnouncement _ _ _ | .qcmdEnd _ | .qcmdSaveAndRelease _ | .qcmdEndGang _ 
  | .qcmdRespawn _ | .qcmdClearBroken _ | .qcmdReplaceCluster _ | .queueConfigWrite _ _ _ 
  | .milestoneHostWrite _ _ | .hotnessReadClear _ | .faultQueueEnable _ | .fqHeadWrite _ 
  | .mmioRegisterWrite _ _ | .powerStateRequest _ | .hbmSelfRefresh _ | .clusterGate _ | .thermalTrip 
  | .thermalTripClear | .deviceReset | .powerOn | .recoveryImage _ | .advanceRollbackCounter _ | .getVersion 
  | .getCapabilities | .negotiateAlgorithms | .getDigests | .getCertificate | .challenge | .getMeasurements 
  | .keyExchange | .finish | .mgmtTemperature | .mgmtPower | .mgmtRasSummary | .nameFabricManager _ _ | .snapIn 
  | .snapshotMessage _ _ | .snapshotLatch | .snapOutEnd | .uncorrectableError _ | .correctedError _ 
  | .rtUpdReply _ | .flipReachesIngress _ _ | .invalidationCompletion | .powerStateChange | .ready 
  | .portRepair _ | .laneRepair _ _ | .counterWrap _ _ => none

end Sys2Proof
end

