-- ==== Sys2Proof/Machine/State.lean ====
section
/-! DEFINITION. The state of the S8 as plain data: the package, its clusters, its strand contexts, and the state
after device reset (R7, R433). -/

namespace Sys2Proof.Machine

/-! ## Records and registers shared by several units -/

/-- A milestone word (R408). -/
structure Milestone where
  count : BitVec 32 := 0
  ovf : Bool := false
  broken : Bool := false
  gang : Bool := false
  owned : Bool := false
  owner : BitVec 20 := 0
  deriving DecidableEq, Repr

/-- A milestone's name: number and space (false: a cluster milestone; R314, R410). -/
structure MsName where
  num : Nat := 0
  pkg : Bool := false
  deriving DecidableEq, Repr

/-- The captured PTE format descriptor (R363, R364); a flag byte is kept as in the table. -/
structure PteFormat where
  levels : Nat
  gran : Nat
  iw : List Nat
  leafok : BitVec 8
  lfb : Nat
  lfp : Bool
  llchk : Bool
  llp : Bool
  pres : BitVec 8
  read : BitVec 8
  write : BitVec 8
  user : BitVec 8
  acc : BitVec 8
  dirty : BitVec 8
  noex : BitVec 8
  al : Nat
  ah : Nat
  ash : Nat
  out : Bool
  aupd : Bool
  dupd : Bool
  hier : Bool
  pri : Bool
  deriving DecidableEq, Repr

/-- A launch record (R332); loop levels are (kind, extent - 1) pairs; an enabled milestone is `some`. -/
structure LaunchRec where
  entry : Word := 0
  arg : Word := 0
  lmin : Nat := 16
  lmax : Nat := 16
  share : Nat := 0
  sup : Bool := false
  pri : Nat := 0
  nag : Nat := 0
  njn : Nat := 0
  nch : Nat := 0
  gang : Nat := 1
  lazy : Bool := false
  loop : List (Nat × Nat) := []
  waitms : Option MsName := none
  waitcnt : Nat := 0
  sigms : Option MsName := none
  gangms : Option Nat := none
  queue : Nat := 0
  deriving DecidableEq, Repr

/-! ## A strand context -/

/-- Units granted to a strand in one package cluster (R342). -/
structure Grant where
  cluster : Nat
  ags : List Nat
  jns : List Nat
  rings : List Nat
  deriving DecidableEq, Repr

/-- A channel number's binding: the ring, and the descriptor as bound (R297, R351). -/
structure ChanBind where
  cluster : Nat
  ring : Nat
  desc : List Byte
  deriving DecidableEq, Repr

/-- A pipeline's state (R320). -/
inductive PipeState where
  | unbound | bound | running | frozen | done
  deriving DecidableEq, Repr

/-- A pipeline of a strand (R319, R320): the 16-byte descriptor, the package cluster, and the pre-empted mark (R348). -/
structure Pipe where
  state : PipeState := .unbound
  desc : List Byte := []
  cluster : Nat := 0
  preempted : Bool := false
  deriving DecidableEq, Repr

/-- What a blocked strand waits for (R21, R166), with the operands of the blocked instruction that its completion
needs. `engine` is a wait for room in a FIFO or for tokens or commands to complete (R21, R220, R353). -/
inductive Wait where
  | fence (mask : BitVec 16)
  | chPush (c : BitVec 6) (ra : XReg) (rel : Bool)
  | chPop (rd : XReg) (c : BitVec 6) (i : BitVec 3)
  | vch
  | msWait (ms : MsName) (target : Nat)
  | idle (deadline : Nat)
  | xchSend (ra rb : XReg)
  | rtUpd (rd : XReg)
  | vpart (rd : XReg)
  | engine
  | remote
  deriving DecidableEq, Repr

/-- Whether a context holds a strand, and whether that strand can issue (R361). Handler is resident with STATUS.EX = 1. -/
inductive CtxMode where
  | free | resident | descheduled | stopped | parked
  deriving DecidableEq, Repr

/-- A trap as it will be entered: cause, ESUB, EVAL, EPC offset rule and the element, if the cause sets one (R165). -/
structure TrapInfo where
  cause : BitVec 8
  sub : BitVec 11
  eval : Word
  elem : Option Nat := none
  /-- The unit that the fault froze: package cluster and actor number (R330). -/
  unit : Option (Nat × Nat) := none
  deriving DecidableEq, Repr

/-- Where the remote accesses of the current instruction stand (R259, R385, R386): none sent, packets under way with
the lowest refusal so far, all accepted, or refused or timed out at an element. The instruction runs again when every
packet is answered. -/
inductive Remote where
  | idle
  | waiting (worst : Option (Nat × TrapInfo))
  | ok
  | fault (elem : Nat) (t : TrapInfo)
  deriving DecidableEq, Repr

/-- One logged write of a slot to the slices: the row it belongs to, the element that made it, the slice's key and
its value (R121, R122). -/
structure SliceWrite where
  row : Nat
  elem : Nat
  key : Nat
  val : Nib
  deriving DecidableEq, Repr

/-- One logged write of a slot to a predicate bit: key of the predicate word of the lane and row (R121). -/
structure PredWrite where
  row : Nat
  elem : Nat
  key : Nat
  val : Bool
  deriving DecidableEq, Repr

/-- One logged write of bits of a memory byte (R134, R268): element, cell space, key, value and the bits written. -/
structure MemWrite where
  elem : Nat
  scratch : Bool
  key : Nat
  val : Byte
  mask : Byte
  va : Nat
  deriving DecidableEq, Repr

/-- One logged atomic update of a vamo (R269): element, cell space, the keys of its bytes, operation and operand. -/
structure AmoWrite where
  elem : Nat
  scratch : Bool
  keys : List Nat
  op : Nat
  val : Nat
  /-- The value that the slot took for the old one. -/
  old : Nat
  deriving DecidableEq, Repr

/-- One logged write to tile state (R229). -/
inductive TileWrite where
  | byte (key : Nat) (val : Byte) (mask : Byte)
  | idx (key : Nat) (val : Nib)
  | acc (key : Nat) (val : BitVec 40)
  | shape (t rows cols : Nat)
  | flags (t : Nat) (tr fb : Bool)
  /-- Zeroes the bytes of keys lo ... lo + n - 1. -/
  | clear (lo n : Nat)
  deriving DecidableEq, Repr

/-- What one slot of the open convoy has produced so far. -/
structure SlotLog where
  slices : List SliceWrite := []
  preds : List PredWrite := []
  mems : List MemWrite := []
  amos : List AmoWrite := []
  /-- A vspill that faulted: the span lane (R271). -/
  spillAt : Option Nat := none
  tiles : List TileWrite := []
  /-- FCSR flags of each element that raised some (R44). -/
  flags : List (Nat × BitVec 6) := []
  /-- The carry after each element of an error-feedback chain (R47). -/
  efc : List (Nat × BitVec 32) := []
  /-- The scalar result written at retirement (R207). -/
  scalar : Option (XReg × Word) := none
  /-- Channel effect at retirement (R126): (channel, consumer index, tokens) popped. -/
  pop : Option (Nat × Nat × Nat) := none
  /-- Channel effect at retirement (R126): (channel, slots pushed: tag and bytes). -/
  push : Option (Nat × List (BitVec 2 × List Byte)) := none
  /-- Rows of a destination that the slot commits whatever its active elements (R130): (row, start, width). -/
  rows : List (Nat × Nat × Nat) := []
  /-- The scratchpad configuration that spcfg writes at retirement (R274). -/
  spcfg : Option Word := none
  /-- Alias class of the slot's accesses, and whether its stores write through to their home (R251, R280). -/
  cls : Nat := 15
  through : Bool := false
  /-- Extra cycles of the slot, each by the row of the convoy that meets it (R117). -/
  cross : List Nat := []
  /-- vfill: the words of its range, which remain after every other slot's writes (R271). -/
  fill : List (Nat × Nib) := []
  deriving DecidableEq, Repr

/-- The convoy in the vector instruction queue whose slots execute (R22, R26): its header's address and size, the
captured values, its slots still to run, the logs of those that ran, and the lowest fault. -/
structure Convoy where
  epc : Word := 0
  size : Nat := 12
  waypoint : Bool := false
  vl : Nat := 0
  vstart : Nat := 0
  dyn : BitVec 3 := 0
  rm : Bool := false
  modq : Nat := 3
  mxm : Nat := 0
  mxn : Nat := 0
  mxk : Nat := 0
  todo : List Instr := []
  logs : List SlotLog := []
  /-- The slots commit all or nothing (R124, R190, R229, R305). -/
  atomic : Bool := false
  /-- The lowest element fault so far: element, slot and trap (R123). -/
  fault : Option (Nat × TrapInfo) := none
  /-- A fault of a whole instruction (R257) or of a scalar kind: ends the convoy with no effect of its slot. -/
  whole : Option TrapInfo := none
  deriving DecidableEq, Repr

/-- What the completion of an invalidation waits for (R375, R376): the packets numbered below `packets`, and the open
convoys of contexts, by context, address and RETIRED. The writes that must then be performed for every agent are those up to
`moment` and those of the strands of the convoys. -/
structure Inval where
  packets : Nat
  convoys : List (Nat × Word × Word)
  moment : Nat
  sids : List Nat
  deriving DecidableEq, Repr

/-- Remote accesses of an instruction that every target has answered: where the instruction stands (its address, RETIRED
and the slots that its convoy has left), and the element, address and physical address of each. -/
structure Answered where
  pc : Word
  retired : Word
  todo : Nat
  accs : List (Nat × Nat × Nat)
  deriving DecidableEq, Repr

/-- A write that some agent may not observe yet (R276 to R281): its number, the strand that made it, its alias class, its
port (a span lane; `none` is the scalar port), its instruction, the L-die of its position, its bytes (scratchpad or memory,
cell, byte before it, byte after it), and the moment at which it was performed in each view: the L-dies 0 to 7, the domain
8 and the host 9. `own`: it is performed for its own strand. `readIn`: the classes of later reads of its strand that kept
pairs with an access of class 15 put after it. Strand 0 stands for the units of the cluster that `port` gives. -/
structure Write where
  num : Nat
  sid : Nat
  cls : Nat
  port : Option Nat
  instr : Nat
  die : Nat
  bytes : List (Bool × Nat × Byte × Byte)
  seen : SMap Nat := []
  own : Bool := false
  readIn : BitVec 16 := 0
  deriving DecidableEq, Repr

/-- The moments from which a strand's later reads take their values (R280 to R288): for all classes, by class after a
fence, and those of its earlier reads by class. -/
structure Order where
  all : Nat := 0
  fences : SMap Nat := []
  reads : SMap Nat := []
  deriving DecidableEq, Repr

/-- A strand context and the strand it holds (R136 to R149, R332, R352, R361). Every CSR is a 64-bit word whose
reserved bits are 0. -/
structure Ctx where
  mode : CtxMode := .free
  wait : Option Wait := none
  x : Vector Word 32 := Vector.replicate 32 0
  pc : Word := 0
  vl : Word := 0
  vstart : Word := 0
  vspan : Word := 0
  vlmax : Word := 0
  vdirty : Word := 0
  /-- Of a vpart child, the blocks of 64 slices written since it was created or its parent was last saved or restored
  (R129). -/
  dirtySince : Word := 0
  efc : Word := 0
  modq : Word := 3
  fcsr : Word := 0
  tcfg : Vector Word 8 := Vector.replicate 8 0x230100000
  ten : Word := 0xFFF
  accfmt : Word := 0
  mxm : Word := 0
  mxn : Word := 0
  mxk : Word := 0
  mxlat : Word := 0
  retired : Word := 0
  lidx : Vector Word 4 := Vector.replicate 4 0
  status : Word := 0
  stvec : Word := 0
  cause : Word := 0
  epc : Word := 0
  eval : Word := 0
  esub : Word := 0
  eelem : Word := 0
  sscratch : Word := 0
  ptroot : Word := 0
  ptdesc : Word := 0
  pasid : Word := 0
  quantum : Word := 20
  wdog : Word := 1000
  /-- The captured descriptor; `none` is a context without a valid format (R363). -/
  desc : Option PteFormat := none
  seen : BitVec 16 := 0
  tseen : BitVec 12 := 0
  chans : SMap ChanBind := []
  pipes : SMap Pipe := []
  /-- The open convoy, at the head of the vector instruction queue (R21): one runs at a time. -/
  viq : List Convoy := []
  /-- The convoys behind it in the vector instruction queue, none of which has begun (R21, R22). -/
  queued : List Convoy := []
  /-- Asynchronous traps due (R166), in the order they fell due. -/
  async : List TrapInfo := []
  /-- A pre-emption due (R347): the TIME tick at which it fell due. -/
  preemptDue : Option Nat := none
  /-- The tick of the first PREEMPT entry not yet answered by a park (R349). -/
  preemptEntry : Option Nat := none
  /-- It had not parked in time: it is stopped, and counts as parked for the choice of victims (R349). -/
  graceOver : Bool := false
  /-- A wait of R374: the page request group whose answer the strand awaits. -/
  group : Option Nat := none
  remote : Remote := .idle
  /-- Remote accesses that the current instruction need not send again (R385). -/
  answered : List Answered := []
  /-- What orders the strand's later reads (R280 to R288). -/
  order : Order := {}
  /-- What the tlb.inv in progress waits for (R376). -/
  inval : Option Inval := none
  /-- Reply of a fabric operation awaited by rt.upd (R390). -/
  reply : Option Word := none
  poisoned : Bool := false
  /-- The last instruction retired was a convoy with the waypoint bit (R347). -/
  atWaypoint : Bool := false
  sid : Nat := 0
  queue : Nat := 0
  record : LaunchRec := {}
  recordId : Nat := 0
  gangId : Nat := 0
  member : Nat := 0
  placedAt : Nat := 0
  grants : List Grant := []
  /-- A vpart child's parent, by context number (R358). -/
  parent : Option Nat := none
  /-- Strands of the vpart children that live, and the addresses of the vpart instructions in progress (R358). -/
  children : List Nat := []
  vparts : List Word := []
  group8 : Nat := 0
  /-- The scratchpad partition of a vpart child (R255). -/
  part : Nat := 0
  /-- Address of the image of a parked strand (R355). -/
  image : Word := 0
  /-- Units whose work a fault froze and that resume at tret (R330), as actor numbers; the exception of R348: pipelines marked pre-empted restart at tret; units frozen by a fault resume (R330). -/
  frozenUnits : List (Nat × Nat) := []
  deriving DecidableEq, Repr

/-! ## A cluster -/

/-- The measurement of R310: none, running since a tick, or reported and stopped until the owner's tret. -/
inductive Stall where
  | off
  | since (t : Nat)
  | reported (sid : Nat)
  deriving DecidableEq, Repr

/-- A ring (R296, R297): its descriptor, its holders' strands, and its counters. -/
structure Ring where
  desc : List Byte := []
  sid : Nat := 0
  chan : Nat := 0
  holders : List (Nat × Nat) := []
  free : List Nat := []
  tokens : List Nat := []
  widx : Nat := 0
  ridx : List Nat := []
  eosp : Bool := false
  tags : SMap (BitVec 2) := []
  /-- Slots that a push without release produced (R284, R286). -/
  plain : List Nat := []
  /-- The moment at which each other slot was produced (R284, R285). -/
  moments : SMap Nat := []
  detached : List Nat := []
  /-- Consumer indices held by actors: (index, actor number) (R462). -/
  held : List (Nat × Nat) := []
  stall : Stall := .off
  deriving DecidableEq, Repr

/-- An address generator (R311 to R313). -/
structure Ag where
  cfg : List Byte := []
  ring : Nat := 0
  cidx : Nat := 0
  sid : Nat := 0
  started : Bool := false
  ended : Bool := false
  held : Bool := false
  frozen : Bool := false
  counters : List Nat := []
  /-- Bytes of the slot in progress that a fault interrupted, and its poisoned words. -/
  slot : List Byte := []
  bad : List Nat := []
  /-- Elements of the input slot already written (write mode). -/
  pos : Nat := 0
  /-- Control tags still to be produced, oldest first. -/
  owed : List (BitVec 2) := []
  /-- All tuples of the visit are done. -/
  visited : Bool := false
  deriving DecidableEq, Repr

/-- A junction's kind (R314). -/
inductive JnKind where
  | route | merge | reorder | pack | unpack
  deriving DecidableEq, Repr

/-- A junction (R314 to R318). -/
structure Jn where
  kind : JnKind := .route
  cfg : List Byte := []
  ins : List Nat := []
  outs : List (Option Nat) := []
  cidx : List Nat := []
  sid : Nat := 0
  ended : Bool := false
  frozen : Bool := false
  /-- An unpack junction whose set is inconsistent (R318). -/
  stopped : Bool := false
  /-- The tag counter (route) or `next` (reorder). -/
  tag : BitVec 32 := 0
  /-- The window of a reorder junction: (tag, place). -/
  window : List (BitVec 32 × Nat) := []
  /-- The position among the inputs that the next take tries first (reorder). -/
  lastIn : Nat := 0
  /-- Elements consumed (pack) or produced (unpack). -/
  count : Nat := 0
  /-- Entries gathered for the sparse tile set (pack): (element index, value). -/
  entries : SMap Nat := []
  /-- Entries gathered from poisoned data. -/
  badEntries : List Nat := []
  /-- Where the next list goes (pack): byte offset from the start of the set. -/
  listAt : Nat := 0
  /-- 64-row bands written (pack). -/
  band : Nat := 0
  deriving DecidableEq, Repr

/-- A matrix token (R221 to R227). -/
structure Token where
  op : BitVec 3
  acc : Nat
  ta : Nat
  tb : Nat
  rm : BitVec 3
  m : Nat
  n : Nat
  k : Nat
  null : Bool
  doneAt : Nat
  sid : Nat
  ctx : Nat
  lowRow : Nat
  rows : Nat
  fmtA : Word
  fmtB : Word
  accfmt : Word
  /-- Taken from a command channel (R321). -/
  fromChan : Bool := false
  /-- The dispatch that made the token, and the clusters whose nodes hold it: they run in lockstep (R227). -/
  num : Nat := 0
  span : List Nat := []
  deriving DecidableEq, Repr

/-- One share of a matrix node: token FIFO, end of the last stream in cycles, completion counters (R221, R227, R416). -/
structure Node where
  fifo : List Token := []
  streamEnd : Nat := 0
  dispatched : BitVec 32 := 0
  completed : BitVec 32 := 0
  deriving DecidableEq, Repr

/-- A command channel's configuration (R321): the ring, its consumer index, the owning strand and the milestone. -/
structure CmdChan where
  cfg : List Byte
  ring : Nat
  cidx : Nat
  sid : Nat
  /-- The next command comes from the channel rather than the FIFO (R321: alternately). -/
  turn : Bool := true
  frozen : Bool := false
  ended : Bool := false
  deriving DecidableEq, Repr

/-- An entry of a butterfly pipe's FIFO (R322, R326): a pass with its record, or a twiddle load. -/
inductive BpJob where
  | pass (rcd : List Byte) (addr : Word) (sid ctx cluster : Nat) (modq : Nat) (gate done coef pch : Option Nat)
      (cgate ccoef cpch : Nat) (lowHalf full : Bool)
  | twl (src len : Nat) (full : Bool) (sid : Nat)
  deriving DecidableEq, Repr

/-- The value of an element inside a pass (R67, R71, R72): two components and, for CX16, its own exponent. -/
structure BpVal where
  re : Int := 0
  im : Int := 0
  ex : Nat := 0
  bad : Bool := false
  deriving DecidableEq, Repr

/-- A running pass (R324, R325): groups done, slots of the coefficient and the post channel freed, the outputs by
index x, the flags, and the failing value with its index. `status` is set when the groups are done; `posted` counts the
results of R325 that are out. -/
structure BpDone where
  next : Nat := 0
  coefFreed : Nat := 0
  pchFreed : Nat := 0
  outs : SMap BpVal := []
  flags : BitVec 6 := 0
  modErr : Option (Nat × Nat) := none
  status : Option Word := none
  posted : Nat := 0
  /-- The cycle before which the pass does not end (R324). -/
  endAt : Nat := 0
  deriving DecidableEq, Repr

/-- One share of a butterfly pipe (R322, R416). -/
structure BpShare where
  fifo : List BpJob := []
  running : Option BpDone := none
  pushed : BitVec 32 := 0
  completed : BitVec 32 := 0
  deriving DecidableEq, Repr

/-- A queued copy command (R327): record, pushing strand, clusters of source and destination. -/
structure CopyCmd where
  rcd : List Byte
  sid : Nat
  ctx : Nat
  src : Nat
  dst : Nat
  /-- Taken from a command channel (R321). -/
  fromChan : Bool := false
  deriving DecidableEq, Repr

/-- A copy engine (R327, R328, R416). -/
structure Copy where
  fifo : List CopyCmd := []
  active : Option CopyCmd := none
  /-- The position in the element order at which a frozen command resumes (R330). -/
  pos : Nat := 0
  /-- Bytes that the command in progress has overwritten, as they stood before it: space, key, byte, poison (R328). -/
  saved : List (Bool × Nat × Byte × Bool) := []
  /-- The cycle before which the command in progress moves nothing (R328). -/
  readyAt : Nat := 0
  frozen : Bool := false
  pushed : BitVec 32 := 0
  completed : BitVec 32 := 0
  deriving DecidableEq, Repr

/-- A cluster's own state (R16). -/
structure Cluster where
  spcfg : Word := 0
  ms : SMap Milestone := []
  rings : SMap Ring := []
  ags : SMap Ag := []
  jns : SMap Jn := []
  nodes : SMap Node := []
  pipes : SMap BpShare := []
  bpTurn : Nat := 0
  copies : SMap Copy := []
  nodeCmd : Option CmdChan := none
  copyCmd : SMap CmdChan := []
  /-- The last actor granted, and the actors granted in this cycle (R308). -/
  lastActor : Nat := 43
  granted : List Nat := []
  lastPasid : Option Word := none
  deriving DecidableEq, Repr

/-! ## Launch queues, gangs, slots -/

/-- A software launch queue's configuration and ring indices (R334, R335, R429); records lie in device memory. -/
structure Queue where
  enable : Bool := false
  supok : Bool := false
  base : Word := 0
  log2n : Nat := 4
  pasid : Word := 0
  ptroot : Word := 0
  ptdesc : Word := 0
  stvec : Word := 0
  sscratch : Word := 0
  quantum : Nat := 20
  wdog : Nat := 1000
  maxpri : Nat := 0
  head : Nat := 0
  tail : Nat := 0
  /-- Resume entries (R355), by strand, ahead of every record. -/
  resume : List Nat := []
  /-- Boundaries waited without a slot (R340). -/
  w : Nat := 0
  /-- Status of the last record written to the window (R430). -/
  winStatus : Nat := 0
  /-- Replicas of the head that are still to be placed one at a time (R31): next replica, and the record's number. -/
  replica : Option (Nat × Nat) := none
  deriving DecidableEq, Repr

/-- A hardware launch slot (R334, R360): its queue, boundaries its head has waited, and reserved clusters (R345). -/
structure Slot where
  queue : Nat
  waited : Nat := 0
  reserved : List Nat := []
  /-- Strands against which a pre-emption for the head fell due (R347). -/
  victims : List Nat := []
  deriving DecidableEq, Repr

/-- A gang (R30, R344): its milestone, its members' strands and how many still live. -/
structure Gang where
  ms : Option Nat := none
  members : List Nat := []
  live : Nat := 0
  deriving DecidableEq, Repr

/-- A record's strands still to end before SIGMS arrives (R356). -/
structure RecLive where
  left : Nat
  sig : Option MsName
  deriving DecidableEq, Repr

/-! ## Translation -/

/-- A cached translation (R371, R372): tags, page, and the walk's result with the page's address in the output space. -/
structure TlbEntry where
  pasid : Word
  ptroot : Word
  desc : PteFormat
  page : Nat
  size : Nat
  out : Nat
  pr : Bool
  pw : Bool
  px : Bool
  pu : Bool
  acc : Bool
  dirty : Bool
  level : Nat
  deriving DecidableEq, Repr

/-- A cached non-leaf entry (R371): tags, the level below it, the shift of that level's table and the table's address in
the output space, the page number above the shift, and the permissions so far. -/
structure WalkEntry where
  pasid : Word
  ptroot : Word
  desc : PteFormat
  level : Nat
  sh : Nat
  page : Nat
  tbl : Nat
  pr : Bool
  pw : Bool
  px : Bool
  pu : Bool
  deriving DecidableEq, Repr

/-- A page request group for the host (R373). -/
structure PageReq where
  group : Nat
  pasid : Word
  pages : List Nat
  write : Bool
  exec : Bool
  user : Bool
  sub : BitVec 11
  /-- The lowest element on the first page, and the convoy slot, for the XLATE of a refusal (R374). -/
  elem : Option Nat := none
  slot : Nat := 0
  /-- The die that asks: an L-die, or 8 for the S-die. -/
  die : Nat := 8
  deriving DecidableEq, Repr

/-- A unit that waits for a page request (R330): package cluster and actor, group, and the strand that translates. -/
structure UnitAsk where
  cluster : Nat
  actor : Nat
  group : Nat
  sid : Nat
  va : Nat
  kind : Nat
  deriving DecidableEq, Repr

/-- A hotness entry (R379). -/
structure Hot where
  pasid : BitVec 20
  page : Nat
  unit : Nat
  strided : Nat
  indexed : Nat
  deriving DecidableEq, Repr

/-! ## Exchange and fabric -/

/-- The state of an instance at a member (R403). -/
inductive XState where
  | open | bound | posted | granted | ending | sent | closed
  deriving DecidableEq, Repr

/-- A send descriptor in the send queue (R398). -/
structure XSend where
  src : Nat
  len : Nat
  dest : Nat
  scratch : Bool
  ms : Option MsName
  sid : Nat
  /-- Position of its first byte in the stream. -/
  pos : Nat
  deriving DecidableEq, Repr

/-- One member's side of an instance (R393, R396 to R399). -/
structure XMem where
  state : XState := .open
  ended : Bool := false
  demand : List Nat := []
  cal : Word := 0
  calms : Option MsName := none
  cap : Nat := 0
  postSid : Nat := 0
  recv : List Byte := []
  offs : List (Nat × Nat) := []
  recvSid : Nat := 0
  sends : List XSend := []
  /-- Sends that have left the queue, transmitted whole, with bytes still to be acknowledged. -/
  unacked : List XSend := []
  /-- Bytes of the stream towards each destination: queued, transmitted, and acknowledged accepted. -/
  queued : SMap Nat := []
  sentTo : SMap Nat := []
  acked : SMap Nat := []
  /-- Bytes received from each source, and sources some of whose bytes were discarded (bit 63 of R399). -/
  received : SMap Nat := []
  discarded : List Nat := []
  marks : List Nat := []
  doneArrived : Bool := false
  /-- A fault has frozen the send unit, or the receiving unit, which after its strand's end discards (R330). -/
  sendFrozen : Bool := false
  recvFrozen : Bool := false
  discards : Bool := false
  /-- The calendar has been written to CAL (R401). -/
  told : Bool := false
  /-- The member has received the instance's generation (R402). -/
  announced : Bool := true
  /-- Pages of CAL that the host has refused (R401). -/
  refused : List Nat := []
  /-- Bytes re-posted for each destination at a takeover (R402). -/
  rest : List Nat := []
  deriving DecidableEq, Repr

/-- A granted phase (R400, R401): start time, length in quanta and the grants (sender, receiver, quanta). -/
structure Phase where
  start : Nat
  len : Nat
  grants : List (Nat × Nat × Nat)
  deriving DecidableEq, Repr

/-- Bytes of an exchange under way (R397): source and destination members, stream position, data, and the plane and version
that stamp a packet to another endpoint (R389). -/
structure XPacket where
  src : Nat
  dst : Nat
  pos : Nat
  data : List (Byte × Bool)
  stamp : Option (Nat × Bool) := none
  deriving DecidableEq, Repr

/-- An exchange instance (R393, R400 to R403). -/
structure XInst where
  gen : Nat := 0
  members : SMap XMem := []
  phases : List Phase := []
  t0 : Nat := 0
  tend : Nat := 0
  calendar : Bool := false
  /-- Bytes that each sender has transmitted in each phase: phase * 4,096 + sender. -/
  spent : SMap Nat := []
  flight : List XPacket := []
  markers : List (Nat × Nat) := []
  deriving DecidableEq, Repr

/-- An exchange set at its arbiter (R393, R394, R396). -/
structure XSet where
  domain : Bool
  n : Nat
  table : List (Nat × Nat)
  rate : Nat
  guard : Nat
  lead : Nat
  primary : Nat
  standby : Option Nat
  insts : SMap XInst := []
  /-- Instances that each member has posted. -/
  posts : SMap Nat := []
  /-- TIME of the last heartbeat (R402). -/
  lastBeat : Nat := 0
  deriving DecidableEq, Repr

/-- A packet of a remote access not yet acknowledged visible (R385, R389): the issuing context and strand, the plane
and its stamped version, its elements with their virtual addresses, whether it stores, the alias class, whether the
instruction still waits for it, and when it was sent and accepted (ticks). A unit's packet has context 256 and strand 0. -/
structure Packet where
  num : Nat
  ctx : Nat
  sid : Nat
  plane : Nat
  ver : Bool
  elems : List (Nat × Word)
  store : Bool
  cls : Nat
  waits : Bool
  accepted : Option Nat
  sentAt : Nat
  /-- The images, by PASID and address, to which the strand's context was saved after the access (R295). -/
  saved : List (Word × Word) := []
  /-- Strands that have restored a context saved after the access: their fences await it too (R295). -/
  heirs : List Nat := []
  deriving DecidableEq, Repr

/-- The Gloxel side of the package (R382 to R392, R436). Switch tables are keyed by plane, kind, switch, version and
destination (log entry 6). -/
structure Gloxel where
  endpoint : Nat := 0
  routes : SMap (BitVec 16) := []
  version : SMap Bool := []
  stamped : SMap (BitVec 32) := []
  /-- The sums of OUT over the other ingresses of a plane (R388), which the outside changes. -/
  others : SMap Nat := []
  holding : List Nat := []
  /-- The versions of this endpoint's FLIPs that have not reached its ingress, in their order, by plane. -/
  flips : SMap (List Bool) := []
  manager : SMap Nat := []
  down : List Nat := []
  degraded : List Nat := []
  packets : List Packet := []
  nextPacket : Nat := 0
  /-- Refusals that targets will return: endpoint and reason (R386); the state of the other endpoints. -/
  refusing : SMap (BitVec 3) := []
  deriving DecidableEq, Repr

/-! ## Counters, control, controller -/

/-- The snapshot registers (R421, R422). -/
structure Snap where
  armed : Bool := true
  missed : BitVec 32 := 0
  /-- A trigger whose latch is due: sequence number, TAG, and the core clock cycle or, if flagged, the TIME of it. -/
  pending : Option (Nat × BitVec 16 × Nat × Bool) := none
  hseq : Nat := 0
  htime : Nat := 0
  htag : BitVec 16 := 0
  shadow : SMap Word := []
  /-- SNAP_OUT is driven until this tick. -/
  pinOut : Option Nat := none
  /-- Messages sent to the domain, with their TIME and TAG. -/
  messages : List (Nat × BitVec 16) := []
  deriving DecidableEq, Repr

/-- A fault queue record (R432). -/
structure FqRec where
  seq : Nat
  time : Nat
  kind : Nat
  cause : BitVec 8 := 0
  esub : BitVec 16 := 0
  ctx : Nat := 0
  queue : Nat := 0
  pasid : Word := 0
  member : Nat := 0
  epc : Word := 0
  eval : Word := 0
  elem : Nat := 0
  deriving DecidableEq, Repr

/-- A set of the registers QCMD, QARG and QSTAT (R427, R428). -/
structure QPort where
  qcmd : Word := 0
  qarg : Word := 0
  stat : BitVec 8 := 0
  busy : Bool := false
  deriving DecidableEq, Repr

/-- An MSI-X vector (R425): what the host programmed, and a message held while it is masked (log entry 77). -/
structure Msix where
  addr : Word := 0
  data : BitVec 32 := 0
  masked : Bool := true
  pending : Bool := false
  deriving DecidableEq, Repr

/-- The control registers of R427; QSTAT and DEVSTATUS fields are kept apart. -/
structure Control where
  trip : Bool := false
  pstate : BitVec 2 := 0
  prifail : Bool := false
  boot : BitVec 3 := 0
  ready : Bool := false
  hbmsr : BitVec 16 := 0
  reqP : BitVec 2 := 0
  clgate : Word := 0
  /-- QCMD, QARG and QSTAT: key 0 of the physical functions, v + 1 of virtual function v. -/
  qports : SMap QPort := []
  /-- Base queue and count that physical function 0 assigned to each virtual function. -/
  vfs : SMap (Nat × Nat) := []
  /-- Status of the last record written to window i of function v, at 4,096 v + i (R430). -/
  vfWin : SMap Nat := []
  fqbase : Word := 0
  lost : BitVec 16 := 0
  fqie : Bool := false
  fqen : Bool := false
  fqlog2n : Nat := 6
  fqhead : BitVec 16 := 0
  fqtail : BitVec 16 := 0
  /-- MSI-X vectors, 2 for each function: physical functions 0 and 1, then the virtual functions; messages sent. -/
  msix : SMap Msix := []
  messages : List (Word × BitVec 32) := []
  deriving DecidableEq, Repr

/-- The image in package flash slot 0 (log entry 7): empty, with a signature that verifies. -/
def flashImage : FwImage where
  header := []
  body := []
  version := 0
  key :=
    (0x1d1c64f068cf45ffa2a63a81b7c13f6b8847a3e77ef14fe3db7fcafe0cbd10e8e826e03436d646aaef87b2e247d4af1e,
     0x8abe1d7520f9c2a45cb1eb8e95cfd55262b70b29feec5864e19c054ff99129280e4646217791811142820341263c5315)
  sig :=
    (0x1d1c64f068cf45ffa2a63a81b7c13f6b8847a3e77ef14fe3db7fcafe0cbd10e8e826e03436d646aaef87b2e247d4af1e,
     0x55ccc597ba7bdc37ef7f6d00697322d5aa455af893af5727278c92bd70b3f2c30f75bef41e45aca6c4a285d3906d6879)

/-- What the Nalorette controller holds (R434, R435) (log entry 7). -/
structure Nalo where
  slot0 : Option FwImage := some flashImage
  slot1 : Option FwImage := none
  digests : List Nat :=
    [0xe7621064df002f3dfc4ebfbb2d516984793dc57441010755c7981c139d3e89ab3bc2dfe550d90bf4d6629ada61cb86c3]
  revoked : List Nat := []
  rollback : Nat := 0
  running : Option FwImage := none
  romVersion : Nat := 0
  /-- The fused device secret, and the identity key derived from it at boot (R435). -/
  secret : Nat := 0
  identity : Option Nat := none
  /-- SPDM progress: 0 none, 1 versions, 2 capabilities, 3 algorithms; then a session's key exchange and finish. -/
  spdm : Nat := 0
  session : Nat := 0
  /-- Answers sent, newest first: kind and content. -/
  mailbox : List (String × List Nat) := []
  deriving DecidableEq, Repr

/-- The repair map (R436): spare lanes used per cluster, dies whose spare cluster is used, replaced HBM rows (stack and
row), stacks whose spare channel is used, and ports degraded to x4. -/
structure Repair where
  lanes : List (Nat × Nat) := []
  clusters : List (Nat × Nat) := []
  rows : List (Nat × Nat) := []
  channels : List Nat := []
  ports : List Nat := []
  deriving DecidableEq, Repr

/-- What the host and the package's firmware do that no row of the table names: HDM decoder 0 and the port interleave
(R425), an MSI-X vector, a repair of an HBM row or channel for the next boot (R436), a store by the host to its own
memory or by another endpoint to its own (R243, R290), OUT of the other ingresses of a plane (R388), and what a member of
an exchange at another endpoint does: it posts its demand (R396), its bytes and its end marker arrive (R397, R399), it
posts its remainder after a takeover (R402). -/
inductive Outside where
  | hdm (base size : Nat) (interleave : Bool)
  | msix (vec : Nat) (addr : Word) (data : BitVec 32) (masked : Bool)
  | hbmRow (stk row : Nat)
  | hbmChannel (stk : Nat)
  | store (pa : Nat) (bytes : List Byte)
  | otherOut (plane : Nat) (ver : Bool) (n : Nat)
  | memberPost (xset inst member : Nat) (demand : List Nat)
  | memberBytes (xset inst src dst : Nat) (data : List Byte)
  | memberEnd (xset inst src dst : Nat)
  | memberRest (xset inst member : Nat) (rest : List Nat)
  deriving DecidableEq, Repr

/-- What the agenda holds: an event of the table, an act of the outside, the issue of a driver, the passing of core clock cycles, or the
replacement of an entry of a TLB or, from 128 on, of a walk cache (log entry 2); a write's performance in a view, how far the next
accesses lag, and the eviction of a dirty line of host memory (log entries 83 and 84). -/
inductive Agendum where
  | event (i : Instr)
  | outside (o : Outside)
  | issue (driver : Nat)
  | tick (cycles : Nat)
  | evict (cache n : Nat)
  | perform (num view : Nat)
  | lag (l : List Nat)
  | clean (line : Nat)
  deriving DecidableEq, Repr

/-- The machine. -/
structure State where
  agenda : List Agendum := []
  cur : Nat := 0
  /-- Drivers that have issued in this cycle, and the context of each driver that issued last (R21). -/
  issued : List Nat := []
  lastCtx : SMap Nat := []
  free : Nat := 0
  cycle : Nat := 0
  ticks : Nat := 0
  mem : List Host.Cell := []
  memPoison : List Nat := []
  sp : List Host.Cell := []
  spPoison : List Nat := []
  twl : List Host.Cell := []
  /-- Bytes of host memory that a line cache holds dirty, as their home has them (R243, R252, R253). -/
  home : SMap Byte := []
  /-- Writes that some agent may not observe yet, oldest first, and the number of performances so far (R276 to R281). -/
  writes : List Write := []
  moment : Nat := 0
  /-- How far the elements of the next accesses lag: for a read the moments by which its value is older, for a write the
  views, as bits, in which it is not performed at once (log entry 83). -/
  lags : List Nat := []
  twlPoison : List Nat := []
  slices : SMap Nib := []
  slicePoison : List Nat := []
  preds : SMap Word := []
  tiles : List Host.Cell := []
  idxs : SMap Nib := []
  accs : SMap (BitVec 40) := []
  tilePoison : List Nat := []
  ctxs : SMap Ctx := []
  parked : List Ctx := []
  /-- Strands that have ended with copy commands still in the engines (R356): their translation contexts. -/
  ended : List Ctx := []
  clusters : SMap Cluster := []
  pms : SMap Milestone := []
  queues : SMap Queue := []
  slots : SMap Slot := []
  /-- Rotation boundaries taken (R339). -/
  boundary : Nat := 0
  gangs : SMap Gang := []
  recs : SMap RecLive := []
  nextId : Nat := 1
  /-- The micro-TLBs by cluster, the die TLBs at 64 + die, and the scalar TLB at 72; newest first (R371). -/
  tlbs : SMap (List TlbEntry) := []
  /-- The walk caches of the L-dies at 64 + die and of the S-die at 72 (R371). -/
  walks : SMap (List WalkEntry) := []
  requests : List PageReq := []
  unitAsks : List UnitAsk := []
  invals : List Inval := []
  hot : SMap Hot := []
  /-- Base and size of the host physical range of HDM decoder 0 (R369, R425). -/
  hdm : Nat × Nat := (0, 0)
  /-- HDM interleave across the two ports at 256 B (R425). -/
  interleave : Bool := false
  /-- Writes of the host and of other endpoints that wait for a stack in self-refresh (R437). -/
  waiting : List (Nat × List Byte) := []
  xsets : SMap XSet := []
  glox : Gloxel := {}
  perf : SMap Word := []
  ras : SMap Word := []
  snap : Snap := {}
  seq : Nat := 0
  ctl : Control := {}
  fq : List FqRec := []
  nalo : Nalo := {}
  repair : Repair := {}
  deriving DecidableEq, Repr

/-- The only stop the model knows. -/
inductive Fault where
  /-- Raised by `step` when the agenda or a context of the state names a driver above 63: no such driver exists (R20).
  Safe: the machine has no such state. -/
  | noSuchContext
  deriving DecidableEq, Repr

/-- Refusals. -/
inductive Refusal where
  /-- Raised by `exec` for a row that has no meaning yet, by the row's name. Safe: nothing is claimed of it. -/
  | notModelled (mnemonic : String)
  deriving DecidableEq, Repr

/-- The state right after device reset (R433 step 1): every item at the reset value of its field map (log entry
69). -/
def State.reset : State := {}

end Sys2Proof.Machine
end

