-- ==== Sys2Proof/Machine/Flags.lean ====
section
/-! DEFINITION. The number formats and the arithmetic rules of spec 02: decoding, exact arithmetic, rounding with its
flags, integers, residues, block floating point, and the FCSR flag masks (R36 to R72). -/

namespace Sys2Proof.Machine

/-! ## Flags (R44, R144): a set of FCSR[5:0] -/

abbrev FpFlags := BitVec 6

def flNX : FpFlags := 1
def flUF : FpFlags := 2
def flOF : FpFlags := 4
def flDZ : FpFlags := 8
def flNV : FpFlags := 16
def flBFO : FpFlags := 32

/-- A flag set if a condition holds. -/
def flIf (c : Bool) (f : FpFlags) : FpFlags := if c then f else 0

/-! ## Integers (R37 to R40) -/

/-- The integer of the low `w` bits of a number, signed when asked (R37). -/
def intOf (signed : Bool) (w v : Nat) : Int :=
  let u := v % 2 ^ w
  if signed && decide (2 ^ w ≤ 2 * u) then (u : Int) - 2 ^ w else u

/-- Sign-extends a field to 64 bits (R83). -/
def sext64 {n : Nat} (b : BitVec n) : Word := b.signExtend 64

/-- An exact integer as a string of `d` bits, modulo 2^d. -/
def wrapTo (d : Nat) (q : Int) : Nat := (q % (2 ^ d : Nat)).toNat

/-- Narrowing by R38: modulo 2^d, or clamped to the range that `signed` selects. -/
def narrow (sat signed : Bool) (d : Nat) (q : Int) : Nat :=
  if !sat then wrapTo d q
  else
    let lo : Int := if signed then -(2 ^ (d - 1)) else 0
    let hi : Int := if signed then 2 ^ (d - 1) - 1 else 2 ^ d - 1
    wrapTo d (if q < lo then lo else if hi < q then hi else q)

/-- Quotient by R39 at width `w`. -/
def divBy (signed : Bool) (w : Nat) (a b : Int) : Int :=
  if b = 0 then (if signed then -1 else 2 ^ w - 1)
  else if signed && decide (a = -(2 ^ (w - 1))) && decide (b = -1) then a
  else a.tdiv b

/-- Remainder by R39, with the dividend's sign. -/
def remBy (a b : Int) : Int := if b = 0 then a else a.tmod b

/-- Shifts of a `d`-bit element by an unsigned amount modulo `d` (R40). -/
def shiftLeft (d v amt : Nat) : Nat := v * 2 ^ (amt % d) % 2 ^ d
def shiftRight (d v amt : Nat) : Nat := v % 2 ^ d / 2 ^ (amt % d)
def shiftRightA (d v amt : Nat) : Nat := wrapTo d ((intOf true d v) / (2 ^ (amt % d) : Nat))

/-- The bits of a number, counted (population, leading zeros, trailing zeros) over `w` bits. -/
def popCount : Nat → Nat → Nat
  | 0, _ => 0
  | n + 1, v => v % 2 + popCount n (v / 2)
def leadZeros (w v : Nat) : Nat := if v % 2 ^ w = 0 then w else w - 1 - Nat.log2 (v % 2 ^ w)
def trailZeros : Nat → Nat → Nat
  | 0, _ => 0
  | n + 1, v => if v % 2 = 1 then 0 else 1 + trailZeros n (v / 2)

/-! ## Floating values -/

/-- A decoded float: a NaN (signalling or not), an infinity, or (-1)^neg * m * 2^e. -/
inductive FVal where
  | nan (sig : Bool)
  | inf (neg : Bool)
  | fin (neg : Bool) (m : Nat) (e : Int)
  deriving DecidableEq, Repr

/-- The float formats of R41, R48 and R53. -/
inductive Fmt where
  | fp32 | bf16 | acc40 | t8 | t6
  deriving DecidableEq, Repr

/-- Fraction bits of the IEEE-like formats (all have an 8-bit exponent with bias 127). -/
def Fmt.frac : Fmt → Nat
  | .fp32 => 23
  | .bf16 => 7
  | .acc40 => 31
  | .t8 => 0
  | .t6 => 0

/-- Bits of a format. -/
def Fmt.bits : Fmt → Nat
  | .fp32 => 32
  | .bf16 => 16
  | .acc40 => 40
  | .t8 => 8
  | .t6 => 6

/-- The format of a real operand by its width in slices (R36); width 3, T6x2, is the converter's. -/
def fmtOfWidth (w : Nat) : Option Fmt :=
  if w = 2 then some .t8 else if w = 4 then some .bf16 else if w = 8 then some .fp32
  else if w = 10 then some .acc40 else none

/-- Decodes sign, 8-bit exponent and `fb` fraction bits (R41, R53). -/
def decodeIeee (fb b : Nat) : FVal :=
  let neg := decide (b / 2 ^ (fb + 8) % 2 = 1)
  let ex := b / 2 ^ fb % 256
  let fr := b % 2 ^ fb
  if ex = 255 then (if fr = 0 then .inf neg else .nan (decide (fr / 2 ^ (fb - 1) = 0)))
  else if ex = 0 then .fin neg fr (-126 - fb)
  else .fin neg (2 ^ fb + fr) ((ex : Int) - 127 - fb)

/-- The length of the run of `bit` at the top of the low `n` bits. -/
def topRun (bit : Nat) : Nat → Nat → Nat
  | 0, _ => 0
  | n + 1, v => if v / 2 ^ n % 2 = bit then 1 + topRun bit n v else 0

/-- Magnitude of a nonzero tapered body of `n` bits, as mantissa and exponent (R48). -/
def taperedBody (n body : Nat) : Nat × Int :=
  let b := body / 2 ^ (n - 1) % 2
  let r := topRun b n body
  let k : Int := if b = 1 then (r : Int) - 1 else -r
  let rest := n - (r + 1)
  if rest = 0 then (1, 2 * k)
  else
    let e := body / 2 ^ (rest - 1) % 2
    let nf := rest - 1
    (2 ^ nf + body % 2 ^ nf, 2 * k + e - nf)

/-- Decodes a tapered value with a body of `n` bits (R48, R49). -/
def decodeTapered (n b : Nat) : FVal :=
  let neg := decide (b / 2 ^ n % 2 = 1)
  let body := b % 2 ^ n
  if body = 0 then (if neg then .nan false else .fin false 0 0)
  else .fin neg (taperedBody n body).1 (taperedBody n body).2

/-- Exact decoding of a format (R41, R48, R49, R53). -/
def decodeF : Fmt → Nat → FVal
  | .fp32, b => decodeIeee 23 b
  | .bf16, b => decodeIeee 7 b
  | .acc40, b => decodeIeee 31 b
  | .t8, b => decodeTapered 7 b
  | .t6, b => decodeTapered 5 b

/-- Shifting a mantissa right by `k` bits with rounding; the second part says whether it is inexact. Modes by R46: 0
nearest even, 1 towards zero, 2 towards minus infinity, 3 towards plus infinity. -/
def roundShift (mode : Nat) (neg : Bool) (m k : Nat) : Nat × Bool :=
  let q := m / 2 ^ k
  let r := m % 2 ^ k
  let up := if mode = 1 then false
    else if mode = 2 then neg && decide (r ≠ 0)
    else if mode = 3 then !neg && decide (r ≠ 0)
    else decide (2 ^ k < 2 * r) || (decide (2 * r = 2 ^ k) && decide (q % 2 = 1))
  (if up then q + 1 else q, decide (r ≠ 0))

/-- Rounds m * 2^e to a multiple of 2^unit, given as that multiple. -/
def roundTo (mode : Nat) (neg : Bool) (m : Nat) (e unit : Int) : Nat × Bool :=
  if unit ≤ e then (m * 2 ^ (e - unit).toNat, false) else roundShift mode neg m (unit - e).toNat

/-- Rounds a nonzero finite magnitude into sign, 8-bit exponent and `fb` fraction bits, tininess detected after
rounding (R41). -/
def roundIeee (fb mode : Nat) (neg : Bool) (m : Nat) (e : Int) : Nat × FpFlags :=
  let top : Int := e + Nat.log2 m
  let ulp : Int := (if top < -126 then -126 else top) - fb
  let (q, nx) := roundTo mode neg m e ulp
  let big := decide (2 ^ (fb + 1) ≤ q)
  let q' := if big then q / 2 else q
  let ulp' := if big then ulp + 1 else ulp
  let s := bif neg then 2 ^ (fb + 8) else 0
  if 127 < ulp' + fb then
    let toInf := decide (mode = 0) || (decide (mode = 2) && neg) || (decide (mode = 3) && !neg)
    (s + (if toInf then 255 * 2 ^ fb else 255 * 2 ^ fb - 1), flOF ||| flNX)
  else
    let tiny := decide (top < -126) &&
      !(decide (top = -127) && decide (2 ^ (fb + 1) ≤ (roundTo mode neg m e (top - fb)).1))
    let ex : Nat := if q' < 2 ^ fb then 0 else (ulp' + fb + 127).toNat
    (s + ex * 2 ^ fb + q' % 2 ^ fb, flIf nx flNX ||| flIf (nx && tiny) flUF)

/-- m1 * 2^e1 compared with m2 * 2^e2. -/
def cmpMag (m1 : Nat) (e1 : Int) (m2 : Nat) (e2 : Int) : Ordering :=
  if e1 ≤ e2 then compare m1 (m2 * 2 ^ (e2 - e1).toNat) else compare (m1 * 2 ^ (e1 - e2).toNat) m2

/-- The greatest body below 2^n whose value is at most m * 2^e, built bit by bit from bit `k - 1` down. -/
def floorBody (n : Nat) (m : Nat) (e : Int) : Nat → Nat → Nat
  | 0, acc => acc
  | k + 1, acc =>
    let t := acc + 2 ^ k
    if cmpMag (taperedBody n t).1 (taperedBody n t).2 m e = .gt then floorBody n m e k acc
    else floorBody n m e k t

/-- Rounds a nonzero finite magnitude into a tapered format with `n` body bits, always to nearest (R50). -/
def roundTapered (n : Nat) (neg : Bool) (m : Nat) (e : Int) : Nat × FpFlags :=
  let s := bif neg then 2 ^ n else 0
  let lo := floorBody n m e n 0
  if lo = 0 then (s + 1, flUF ||| flNX)
  else
    let (lm, le) := taperedBody n lo
    if cmpMag lm le m e = .eq then (s + lo, 0)
    else if lo = 2 ^ n - 1 then (s + lo, flOF ||| flNX)
    else
      let (hm, he) := taperedBody n (lo + 1)
      let b := min le he
      let mid := lm * 2 ^ (le - b).toNat + hm * 2 ^ (he - b).toNat
      match cmpMag m (e + 1) mid b with
      | .lt => (s + lo, flNX)
      | .gt => (s + lo + 1, flNX)
      | .eq => (s + (if lo % 2 = 0 then lo else lo + 1), flNX)

/-- The canonical NaN of a format, or NaR (R42, R48, R53). -/
def nanOf : Fmt → Nat
  | .fp32 => 0x7FC00000
  | .bf16 => 0x7FC0
  | .acc40 => 0x7FC0000000
  | .t8 => 0x80
  | .t6 => 0x20

/-- Rounding into an IEEE-like format with `fb` fraction bits, specials included. -/
def roundIeeeF (fb mode nan : Nat) : FVal → Nat × FpFlags
  | .nan sig => (nan, flIf sig flNV)
  | .inf neg => ((bif neg then 2 ^ (fb + 8) else 0) + 255 * 2 ^ fb, 0)
  | .fin neg m e => if m = 0 then (bif neg then 2 ^ (fb + 8) else 0, 0) else roundIeee fb mode neg m e

/-- Rounding into a tapered format, specials included (R50). -/
def roundTaperedF (n : Nat) : FVal → Nat × FpFlags
  | .nan sig => (2 ^ n, flIf sig flNV)
  | .inf neg => ((bif neg then 2 ^ n else 0) + 2 ^ n - 1, flOF ||| flNX)
  | .fin neg m e => if m = 0 then (0, 0) else roundTapered n neg m e

/-- Round(fmt, x, mode) of R10 with its flags. -/
def roundF (f : Fmt) (mode : Nat) (x : FVal) : Nat × FpFlags :=
  match f with
  | .fp32 => roundIeeeF 23 mode 0x7FC00000 x
  | .bf16 => roundIeeeF 7 mode 0x7FC0 x
  | .acc40 => roundIeeeF 31 mode 0x7FC0000000 x
  | .t8 => roundTaperedF 7 x
  | .t6 => roundTaperedF 5 x

/-- The rounding mode in force (R46): code 101 is FCSR.DYN, and EFB outside a narrowing conversion rounds RNE. -/
def modeOf (code dyn : BitVec 3) : Nat :=
  let c := if code = 5 then dyn.toNat else code.toNat
  if c < 4 then c else 0

/-! ## Exact arithmetic on decoded floats -/

def FVal.isNan : FVal → Bool
  | .nan _ => true
  | _ => false

def FVal.isSig : FVal → Bool
  | .nan s => s
  | _ => false

def FVal.isInf : FVal → Bool
  | .inf _ => true
  | _ => false

def FVal.isZero : FVal → Bool
  | .fin _ m _ => decide (m = 0)
  | _ => false

def FVal.isNeg : FVal → Bool
  | .nan _ => false
  | .inf n => n
  | .fin n _ _ => n

def FVal.negate : FVal → FVal
  | .nan s => .nan s
  | .inf n => .inf (!n)
  | .fin n m e => .fin (!n) m e

/-- A signed multiple of a power of two, and its value shifted to exponent `e`. -/
def FVal.scaled (b : Int) : FVal → Int
  | .fin neg m e => (if neg then -1 else 1) * (m * 2 ^ (e - b).toNat : Nat)
  | _ => 0

def FVal.exp : FVal → Int
  | .fin _ m e => if m = 0 then 100000 else e
  | _ => 100000

/-- The exact sum of a list of values; `rdn` gives an exact zero of mixed signs the sign minus. Infinities of opposite sign
beside a quiet NaN raise no NV (log entry 11). -/
def sumF (rdn : Bool) (l : List FVal) : FVal × FpFlags :=
  if l.any FVal.isNan then (.nan false, flIf (l.any FVal.isSig) flNV)
  else
    let pos := l.any fun x => x.isInf && !x.isNeg
    let neg := l.any fun x => x.isInf && x.isNeg
    if pos && neg then (.nan false, flNV)
    else if pos then (.inf false, 0)
    else if neg then (.inf true, 0)
    else
      let b := l.foldl (fun a x => min a x.exp) 100000
      let t : Int := l.foldl (fun a x => a + x.scaled b) 0
      if t = 0 then
        let allNeg := l.all FVal.isNeg
        let mixed := l.any FVal.isNeg && !allNeg || !(l.all FVal.isZero)
        (.fin (if mixed then rdn else allNeg) 0 0, 0)
      else (.fin (decide (t < 0)) t.natAbs b, 0)

/-- The exact product; the second part says that it is invalid: zero times infinity. -/
def prodF (a b : FVal) : FVal × Bool :=
  if a.isNan || b.isNan then (.nan (a.isSig || b.isSig), false)
  else if (a.isInf && b.isZero) || (a.isZero && b.isInf) then (.nan false, true)
  else
    let neg := a.isNeg != b.isNeg
    match a, b with
    | .fin _ m e, .fin _ m' e' => (.fin neg (m * m') (e + e'), false)
    | _, _ => (.inf neg, false)

/-- The exact sum of products and of further addends (R52, R179, R183). An invalid product raises NV; where a further
addend is a quiet NaN and nothing else is invalid, the implementation decides (log entry 11). -/
def sumOfProducts (rdn : Bool) (prods : List (FVal × FVal)) (adds : List FVal) : FVal × FpFlags :=
  let ps := prods.map fun p => prodF p.1 p.2
  let inv := ps.any Prod.snd
  let sig := adds.any FVal.isSig || prods.any fun p => p.1.isSig || p.2.isSig
  let quiet := adds.any FVal.isNan || prods.any fun p => p.1.isNan || p.2.isNan
  let r := sumF rdn (adds ++ ps.map Prod.fst)
  if inv then (.nan false, flIf (sig || !quiet || Config.fmaQuietInvalid) flNV) else r

/-- The magnitude n / d * 2^e with a sticky bit below, for d > 0. -/
def quotientF (neg : Bool) (n d : Nat) (e : Int) : FVal :=
  let s := 80 + Nat.log2 d
  let q := n * 2 ^ s / d
  let r := n * 2 ^ s % d
  .fin neg (2 * q + (if r = 0 then 0 else 1)) (e - s - 1)

/-- The quotient with its flags (R41, R179). -/
def divF (a b : FVal) : FVal × FpFlags :=
  if a.isNan || b.isNan then (.nan false, flIf (a.isSig || b.isSig) flNV)
  else
    let neg := a.isNeg != b.isNeg
    match a, b with
    | .inf _, .inf _ => (.nan false, flNV)
    | .inf _, _ => (.inf neg, 0)
    | _, .inf _ => (.fin neg 0 0, 0)
    | .fin _ m e, .fin _ m' e' =>
      if m' = 0 then (if m = 0 then (.nan false, flNV) else (.inf neg, flDZ))
      else if m = 0 then (.fin neg 0 0, 0)
      else (quotientF neg m m' (e - e'), 0)
    | _, _ => (.nan false, 0)

/-- The greatest r with r * r at most n, bit by bit from bit `k - 1`. -/
def isqrt (n : Nat) : Nat → Nat → Nat
  | 0, r => r
  | k + 1, r => if (r + 2 ^ k) * (r + 2 ^ k) ≤ n then isqrt n k (r + 2 ^ k) else isqrt n k r

/-- The square root of a number with its sticky bit: 2 * floor + (inexact). -/
def sqrtSticky (n : Nat) : Nat :=
  let r := isqrt n (Nat.log2 n / 2 + 1) 0
  2 * r + (if r * r = n then 0 else 1)

/-- The square root of m * 2^e, m > 0. -/
def rootF (m : Nat) (e : Int) : FVal :=
  let odd := e % 2 != 0
  let m' := (if odd then 2 * m else m) * 2 ^ 160
  let e' := (if odd then e - 1 else e) - 160
  .fin false (sqrtSticky m') (e' / 2 - 1)

/-- The square root with its flags (R179). -/
def sqrtF (a : FVal) : FVal × FpFlags :=
  match a with
  | .nan s => (.nan false, flIf s flNV)
  | .inf neg => if neg then (.nan false, flNV) else (.inf false, 0)
  | .fin neg m e => if m = 0 then (.fin neg 0 0, 0) else if neg then (.nan false, flNV) else (rootF m e, 0)

/-- How two values that are no NaN compare; the zeros are equal. -/
def cmpF (a b : FVal) : Ordering :=
  match a, b with
  | .inf n, .inf n' => if n = n' then .eq else if n then .lt else .gt
  | .inf n, _ => if n then .lt else .gt
  | _, .inf n => if n then .gt else .lt
  | x, y => let c := min x.exp y.exp; compare (x.scaled c) (y.scaled c)

/-- minimumNumber and maximumNumber (R43): -0 orders below +0, one NaN gives the other operand, and a signalling NaN
raises NV. -/
def minMaxF (isMax : Bool) (a b : FVal) : FVal × FpFlags :=
  let fl := flIf (a.isSig || b.isSig) flNV
  if a.isNan then (if b.isNan then (.nan false, fl) else (b, fl))
  else if b.isNan then (a, fl)
  else
    let aLess := match cmpF a b with
      | .lt => true
      | .gt => false
      | .eq => a.isNeg
    (if aLess != isMax then a else b, fl)

/-- The conditions of vfcmp (R180), and of fcmp by its first four codes (R157): result and flags. -/
def compareF (cc : Nat) (a b : FVal) : Bool × FpFlags :=
  let nan := a.isNan || b.isNan
  let sig := a.isSig || b.isSig
  let quiet := cc = 0 ∨ cc = 3
  let fl := if quiet then flIf sig flNV else flIf nan flNV
  if nan then (decide (cc = 3), fl)
  else
    let o := cmpF a b
    ((match cc with
      | 0 => o == .eq
      | 1 => o == .lt
      | 2 => o != .gt
      | 3 => false
      | 4 => o == .gt
      | _ => o != .lt), fl)

/-! ## Conversions to and from integers (R58) -/

/-- A finite value rounded to an integer, and whether it is inexact. -/
def toIntF (mode : Nat) (neg : Bool) (m : Nat) (e : Int) : Int × Bool :=
  let (q, nx) := roundTo mode neg m e 0
  (if neg then -(q : Int) else q, nx)

/-- Float to a `d`-bit integer with clamping (R58). -/
def ftoiF (signed : Bool) (d mode : Nat) (x : FVal) : Nat × FpFlags :=
  let lo : Int := if signed then -(2 ^ (d - 1)) else 0
  let hi : Int := if signed then 2 ^ (d - 1) - 1 else 2 ^ d - 1
  match x with
  | .nan _ => (0, flNV)
  | .inf neg => (wrapTo d (if neg then lo else hi), flNV)
  | .fin neg m e =>
    let (q, nx) := toIntF mode neg m e
    if q < lo then (wrapTo d lo, flNV)
    else if hi < q then (wrapTo d hi, flNV)
    else (wrapTo d q, flIf nx flNX)

/-- An integer as a value. -/
def ofIntF (i : Int) : FVal := .fin (decide (i < 0)) i.natAbs 0

/-! ## Special functions (R59): exact values with a sticky bit below -/

/-- 2^(d/2^n) for the low `n` binary digits d of a fraction, in units of 2^-256: `c` is the root that belongs to the
next digit, `acc` the product so far. -/
def exp2Frac : Nat → Nat → Nat → Nat → Nat
  | 0, _, _, acc => acc
  | n + 1, d, c, acc =>
    let c' := isqrt (c * 2 ^ 256) 258 0
    exp2Frac n d c' (if d / 2 ^ n % 2 = 1 then acc * c' / 2 ^ 256 else acc)

/-- 2^A. -/
def exp2F (a : FVal) : FVal × FpFlags :=
  match a with
  | .nan s => (.nan false, flIf s flNV)
  | .inf neg => (if neg then .fin false 0 0 else .inf false, 0)
  | .fin neg m e =>
    if m = 0 then (.fin false 1 0, 0)
    else if 10 < e + Nat.log2 m then (.fin false 1 (if neg then -2000 else 2000), 0)
    else
      let v := (FVal.fin neg m e).scaled (min e 0)
      let n := (-(min e 0)).toNat
      let i := v / (2 ^ n : Nat)
      let d := (v % (2 ^ n : Nat)).toNat
      if d = 0 then (.fin false 1 i, 0)
      else (.fin false (2 * exp2Frac n d (2 ^ 257) (2 ^ 256) + 1) (i - 257), 0)

/-- The first `n` binary digits of log2 of x in [1, 2), x in units of 2^-256. -/
def log2Digits : Nat → Nat → Nat → Nat
  | 0, _, acc => acc
  | n + 1, x, acc =>
    let y := x * x / 2 ^ 256
    if 2 ^ 257 ≤ y then log2Digits n (y / 2) (2 * acc + 1) else log2Digits n y (2 * acc)

/-- log2 A. -/
def log2F (a : FVal) : FVal × FpFlags :=
  match a with
  | .nan s => (.nan false, flIf s flNV)
  | .inf neg => if neg then (.nan false, flNV) else (.inf false, 0)
  | .fin neg m e =>
    if m = 0 then (.inf true, flDZ)
    else if neg then (.nan false, flNV)
    else
      let k := Nat.log2 m
      if m = 2 ^ k then (ofIntF (e + k), 0)
      else
        let t : Int := (e + k) * (2 ^ 96 : Nat) + log2Digits 96 (m * 2 ^ 256 / 2 ^ k) 0
        if 0 ≤ t then (.fin false (2 * t.toNat + 1) (-97), 0)
        else (.fin true (2 * (-t - 1).toNat + 1) (-97), 0)

/-- 1 / A. -/
def rcpF (a : FVal) : FVal × FpFlags := divF (.fin false 1 0) a

/-- 1 / sqrt A. -/
def rsqrtF (a : FVal) : FVal × FpFlags :=
  match a with
  | .nan s => (.nan false, flIf s flNV)
  | .inf neg => if neg then (.nan false, flNV) else (.fin false 0 0, 0)
  | .fin neg m e =>
    if m = 0 then (.inf neg, flDZ)
    else if neg then (.nan false, flNV)
    else
      let odd := e % 2 != 0
      let m' := if odd then 2 * m else m
      let e' := if odd then e - 1 else e
      let n := 100 + Nat.log2 m'
      let q := 2 ^ (2 * n) / m'
      let r := isqrt q (Nat.log2 q / 2 + 1) 0
      (.fin false (2 * r + (if r * r * m' = 2 ^ (2 * n) then 0 else 1)) (-(e' / 2) - n - 1), 0)

/-! ## Block floating point (R55 to R57, R189 to R192) -/

/-- RNE(x * 2^k) of a finite value as an integer, and whether it is inexact. -/
def rneScaled (k : Int) (neg : Bool) (m : Nat) (e : Int) : Int × Bool := toIntF 0 neg m (e + k)

/-- A component fits under block exponent E (R57, R189): only finite components are tested. -/
def bfFits (E : Nat) : FVal → Bool
  | .fin neg m e => decide ((rneScaled (142 - E) neg m e).1.natAbs ≤ 2 ^ 15 - 1)
  | _ => true

/-- The least E in 0 ... 255 under which every component fits, tried from `E` on with `n` tries left; 255 if none. -/
def bfLeast (l : List FVal) : Nat → Nat → Nat
  | 0, _ => 255
  | n + 1, E => if l.all (bfFits E) then E else bfLeast l n (E + 1)

/-- The block exponent of the active components of a block (R189): an infinite component takes 255. -/
def bfExponent (l : List FVal) : Nat := if l.any FVal.isInf then 255 else bfLeast l 256 0

/-- A mantissa under exponent E with its flags (R191), as a 16-bit string. -/
def bfMant (E : Nat) (x : FVal) : Nat × FpFlags :=
  match x with
  | .nan _ => (0, flNV)
  | .inf neg => (wrapTo 16 (if neg then -(2 ^ 15 - 1) else 2 ^ 15 - 1), flNV)
  | .fin neg m e =>
    let (q, nx) := rneScaled (142 - E) neg m e
    if 2 ^ 15 - 1 < q.natAbs then (wrapTo 16 (if neg then -(2 ^ 15 - 1) else 2 ^ 15 - 1), flOF ||| flNX)
    else (wrapTo 16 q, flIf nx flNX ||| flIf (nx && decide (q = 0)) flUF)

/-- The value m * 2^(E - 142) of a mantissa (R55). -/
def bfValue (E m : Nat) : FVal :=
  let i := intOf true 16 m
  .fin (decide (i < 0)) i.natAbs ((E : Int) - 142)

/-! ## Classes (R181) -/

/-- The class bit of a value in its format. -/
def classBit (f : Fmt) (x : FVal) : Nat :=
  match x with
  | .nan s => if s then 8 else 9
  | .inf neg => if neg then 0 else 7
  | .fin neg m e =>
    let sub := decide (f.frac ≠ 0) && decide (m < 2 ^ f.frac) && decide (e = -126 - (f.frac : Int))
    if m = 0 then (if neg then 3 else 4)
    else if sub then (if neg then 2 else 5) else (if neg then 1 else 6)

/-! ## Matrix accumulation (R54, R65, R66) -/

/-- INT40 addition: wrapping, or saturating when `sat` (R54). -/
def int40Add (sat : Bool) (s : Nat) (p : Int) : Nat := narrow sat true 40 (intOf true 40 s + p)

/-- ACC40 bits rounded to FP32 precision and back: an accumulator in FP32 mode (R54). -/
def accRound (mode : Nat) (acc40 : Bool) (x : FVal) : Nat × FpFlags :=
  if acc40 then roundF .acc40 mode x
  else ((roundF .fp32 mode x).1 * 256, (roundF .fp32 mode x).2)

end Sys2Proof.Machine
end

