-- ==== Sys2Proof/Machine/Ops.lean ====
section
/-! DEFINITION. The named operations of the machine: sparse tables, contexts and registers, spans, time, physical
memory and scratchpad cells, the fault queue, milestones, and taking a trap and returning from one. -/

namespace Sys2Proof.Machine

/-! ## Sparse tables: keys strictly rising -/

variable {α : Type}

/-- The entry of a key, if it is listed. -/
def smFind (k : Nat) : SMap α → Option α
  | [] => none
  | (k', v) :: m => if k' = k then some v else smFind k m

/-- The entry of a key; an unlisted key holds the default. -/
def smGet (d : α) (m : SMap α) (k : Nat) : α := (smFind k m).getD d

/-- Lists a key with a value. -/
def smPut (k : Nat) (v : α) : SMap α → SMap α
  | [] => [(k, v)]
  | (k', v') :: m =>
    if k < k' then (k, v) :: (k', v') :: m
    else if k = k' then (k, v) :: m
    else (k', v') :: smPut k v m

/-- Unlists a key. -/
def smDel (k : Nat) : SMap α → SMap α
  | [] => []
  | (k', v') :: m => if k = k' then m else if k < k' then (k', v') :: m else (k', v') :: smDel k m

/-- Sets a key in canonical form: the default is never listed. -/
def smSet [DecidableEq α] (d : α) (m : SMap α) (k : Nat) (v : α) : SMap α := if v = d then smDel k m else smPut k v m

/-- The keys rise strictly from above `lo`. -/
def smRising : Option Nat → SMap α → Bool
  | _, [] => true
  | lo, (k, _) :: m => (match lo with | none => true | some l => decide (l < k)) && smRising (some k) m

/-- The canonical form of a memory: keys strictly rising, and no entry equal to the default. -/
def smWf [DecidableEq α] (d : α) (m : SMap α) : Bool := smRising none m && m.all fun e => decide (e.2 ≠ d)

/-- The canonical form of a byte memory (R243): an unlisted byte reads 0. -/
def Memory.wf (m : List Host.Cell) : Bool := smWf (0 : Byte) m

/-- A list of numbers as a set: kept sorted without repeats. -/
def nsAdd (k : Nat) : List Nat → List Nat
  | [] => [k]
  | x :: l => if k < x then k :: x :: l else if k = x then x :: l else x :: nsAdd k l

def nsDel (k : Nat) (l : List Nat) : List Nat := l.filter fun x => decide (x ≠ k)

/-- The entries of a table as a list of its keys. -/
def smKeys (m : SMap α) : List Nat := m.map Prod.fst

/-! ## Contexts and their registers -/

/-- A context; an unlisted one is Free with every register at its reset value. -/
def State.ctxAt (s : State) (n : Nat) : Ctx := smGet ({} : Ctx) s.ctxs n

def State.setCtx (s : State) (n : Nat) (c : Ctx) : State := { s with ctxs := smPut n c s.ctxs }

/-- The context that issues (log entry 4). -/
def State.me (s : State) : Ctx := s.ctxAt s.cur

def State.setMe (s : State) (c : Ctx) : State := s.setCtx s.cur c

/-- X[r]; x0 reads 0 (R10, R136). -/
def Ctx.reg (c : Ctx) (r : XReg) : Word := if r = 0 then 0 else c.x[r.toNat]'r.isLt

/-- Writes X[r]; a write to x0 is discarded (R10, R136). -/
def Ctx.setReg (c : Ctx) (r : XReg) (v : Word) : Ctx := if r = 0 then c else { c with x := c.x.set r.toNat v r.isLt }

/-- Sequential flow past a scalar parcel (R79), which retires (R146). -/
def Ctx.advance (c : Ctx) : Ctx := { c with pc := c.pc + 4, retired := c.retired + 1 }

/-- A control transfer, which retires (R146). -/
def Ctx.jump (c : Ctx) (t : Word) : Ctx := { c with pc := t, retired := c.retired + 1 }

/-- Writes X[r] and goes on. -/
def State.done (s : State) (r : XReg) (v : Word) : State := s.setMe ((s.me.setReg r v).advance)

/-- Goes on with no register written. -/
def State.pass (s : State) : State := s.setMe s.me.advance

/-- STATUS fields (R147). -/
def Ctx.sup (c : Ctx) : Bool := c.status.getLsbD 0
def Ctx.psup (c : Ctx) : Bool := c.status.getLsbD 1
def Ctx.ex (c : Ctx) : Bool := c.status.getLsbD 2

/-- STATUS from its fields. -/
def statusOf (ex psup sup : Bool) : Word :=
  (if ex then 4 else 0) + (if psup then 2 else 0) + (if sup then 1 else 0)

/-- FCSR fields (R144). -/
def Ctx.dyn (c : Ctx) : BitVec 3 := c.fcsr.extractLsb' 12 3
def Ctx.enables (c : Ctx) : FpFlags := c.fcsr.extractLsb' 6 6
def Ctx.rmBit (c : Ctx) : Bool := c.fcsr.getLsbD 15

/-- Merges flags into FCSR, sticky (R44, R145). -/
def Ctx.merge (c : Ctx) (f : FpFlags) : Ctx := { c with fcsr := c.fcsr ||| f.setWidth 64 }

/-! ## The span (R17, R142) -/

/-- L, the number of span lanes. -/
def Ctx.lanes (c : Ctx) : Nat := c.vspan.toNat % 2 ^ 16
def Ctx.firstCl (c : Ctx) : Nat := c.vspan.toNat / 2 ^ 16 % 64
def Ctx.firstLn (c : Ctx) : Nat := c.vspan.toNat / 2 ^ 22 % 128
/-- VSPAN.KIND: a cluster span. -/
def Ctx.clusterSpan (c : Ctx) : Bool := c.vspan.getLsbD 29
/-- VSPAN.SHARE: 0 none, 1 lower half, 2 upper half, 3 full. -/
def Ctx.share (c : Ctx) : Nat := c.vspan.toNat / 2 ^ 30 % 4

/-- VSPAN from its fields. -/
def spanWord (share : Nat) (kind : Bool) (firstLn firstCl lanes : Nat) : Word :=
  BitVec.ofNat 64 (share * 2 ^ 30 + (if kind then 2 ^ 29 else 0) + firstLn * 2 ^ 22 + firstCl * 2 ^ 16 + lanes)

/-- The package clusters of the span, ascending. -/
def Ctx.clusters (c : Ctx) : List Nat :=
  if c.clusterSpan then (List.range (c.lanes / 128)).map (c.firstCl + ·) else [c.firstCl]

/-- Package cluster and cluster lane of span lane i (R17). -/
def Ctx.laneAt (c : Ctx) (i : Nat) : Nat × Nat := (c.firstCl + (c.firstLn + i) / 128, (c.firstLn + i) % 128)

/-- The number of a physical lane in the package. -/
def Ctx.laneNo (c : Ctx) (i : Nat) : Nat := c.firstCl * 128 + c.firstLn + i

/-- Rows of the share's view (R214): 128, 64 or 0, and the first physical row. -/
def Ctx.shareRows (c : Ctx) : Nat := if c.share = 3 then 128 else if c.share = 0 then 0 else 64
def Ctx.shareBase (c : Ctx) : Nat := if c.share = 2 then 64 else 0

/-- The node, pipe and FIFO number of the context's share: 1 for the upper half. -/
def Ctx.shareNo (c : Ctx) : Nat := if c.share = 2 then 1 else 0

/-! ## VDIRTY (R129, R358) (log entry 91) -/

/-- Slice blocks that are written. -/
def Ctx.markDirty (c : Ctx) (w : Word) : Ctx := { c with vdirty := c.vdirty ||| w, dirtySince := c.dirtySince ||| w }

/-- The blocks that vpart children of a context, resident or parked, have written in the lanes that are its own too. -/
def State.childDirty (s : State) (c : Ctx) : Word :=
  (s.ctxs.map Prod.snd ++ s.parked).foldl (fun w k => if k.sid ∈ c.children then w ||| k.dirtySince else w) 0

/-- The account of what a context's children write starts afresh. -/
def State.cleanChildren (s : State) (c : Ctx) : State :=
  if c.children.isEmpty then s
  else
    let clean := fun (k : Ctx) => if k.sid ∈ c.children then { k with dirtySince := 0 } else k
    { s with ctxs := s.ctxs.map fun e => (e.1, clean e.2), parked := s.parked.map clean }

/-- A context's own VDIRTY takes over what its children have written. -/
def State.absorb (s : State) (n : Nat) : State :=
  let c := s.ctxAt n
  if c.children.isEmpty then s
  else (s.setCtx n { c with vdirty := c.vdirty ||| s.childDirty c }).cleanChildren c

/-! ## Clusters -/

def State.clAt (s : State) (n : Nat) : Cluster := smGet ({} : Cluster) s.clusters n

def State.setCl (s : State) (n : Nat) (c : Cluster) : State := { s with clusters := smPut n c s.clusters }

/-! ## Time (R146, R437): one tick is 1/39 ns -/

/-- Ticks of a core clock cycle at P0 (1.3 GHz), P1 (1.0 GHz) and P2 (0.6 GHz) (log entry 23). -/
def State.cycleTicks (s : State) : Nat :=
  if s.ctl.pstate = 0 then 30 else if s.ctl.pstate = 1 then 39 else 65

/-- TIME in nanoseconds. -/
def State.time (s : State) : Nat := s.ticks / 39

/-- Ticks of a number of microseconds. -/
def usTicks (n : Nat) : Nat := 39000 * n

/-! ## Free values (log entry 8) -/

/-- A fresh 64-bit value that the manual leaves open, and the state after taking it. -/
def State.takeFree (s : State) : Word × State := (Config.freeWord s.free, { s with free := s.free + 1 })

/-! ## Which writes an agent observes (R276 to R288) (log entry 83) -/

/-- Bytes that a write performed for every agent at once has replaced: no earlier write is seen there any more. -/
def forget (scratch : Bool) (gone : Nat → Bool) (l : List Write) : List Write :=
  l.map fun w => { w with bytes := w.bytes.filter fun b => b.1 != scratch || !gone b.2.1 }

/-- A kept pair of two accesses of a strand by their classes and ports, or of one location; `reads`: both only read
(R280). -/
def kept (c1 c2 : Nat) (p1 p2 : Option Nat) (reads same : Bool) : Bool :=
  decide (c1 = 15) || decide (c2 = 15) ||
    (decide (c1 = c2) && !reads && (p1.isNone || p2.isNone || p1 == p2 || same))

/-- The views that a scope takes in, from a position on an L-die (R278). -/
def viewsOf (scope die : Nat) : List Nat :=
  match scope with
  | 0 => []
  | 1 | 2 => [die]
  | 3 => List.range 8
  | 4 => List.range 9
  | _ => List.range 10

/-- Writes that every agent observes are held no longer once no access lags. -/
def State.settleWrites (s : State) : State :=
  if s.lags.isEmpty ∧ s.writes.all (fun w => (List.range 10).all fun v => (smFind v w.seen).isSome) then { s with writes := [] }
  else s

/-- Two writes have a byte in common. -/
def Write.meets (w x : Write) : Bool := w.bytes.any fun b => x.bytes.any fun d => b.1 == d.1 && b.2.1 == d.2.1

/-- A write precedes a later one of its strand: by a kept pair, or by two of which the middle one is a read of class 15
(R280, R281). -/
def Write.leads (w x : Write) : Bool :=
  decide (w.sid = x.sid) && decide (w.instr < x.instr) &&
    (w.readIn.getLsbD 15 || kept w.cls x.cls w.port x.port false (w.meets x))

/-- Performs writes in views at a moment, and with a write those that lead to it, oldest first: on their own L-die, and in
the views of `back` (R281). The Bool says that the write is performed somewhere now. -/
def performList (m : Nat) (views back : Write → List Nat) : List Write → List (Write × Bool)
  | [] => []
  | w :: l =>
    let r := performList m views back l
    let led := r.any fun p => p.2 && w.leads p.1
    let v := views w ++ if led then w.die :: back w else []
    ({ w with seen := v.foldl (fun k d => if (smFind d k).isSome then k else smPut d m k) w.seen }, !v.isEmpty) :: r

def State.performWith (s : State) (views back : Write → List Nat) : State :=
  if s.writes.isEmpty then s
  else State.settleWrites { s with
    moment := s.moment + 1
    writes := (performList (s.moment + 1) views back s.writes).map Prod.fst }

/-- Performs writes in views. -/
def State.performFor (s : State) (views : Write → List Nat) : State := s.performWith views fun _ => []

/-- The newest write of each byte that an agent on an L-die reads is performed there, for every agent of that die
(R277, R279). -/
def State.observe (s : State) (die : Nat) (l : List (Bool × Nat)) : State :=
  s.performFor fun w => if (w.bytes.any fun b => l.contains (b.1, b.2.1)) = true then [die] else []

/-- The writes of a cluster's units are performed for a scope (R285). -/
def State.performUnits (s : State) (cl scope : Nat) : State :=
  s.performFor fun w => if w.sid = 0 ∧ w.port = some cl then viewsOf scope (cl / 8) else []

/-- The latest moment that a strand's reads have reached. -/
def Order.latest (o : Order) : Nat := (o.fences ++ o.reads).foldl (fun m e => max m e.2) o.all

/-- The L-die of a strand's scalar accesses, and the L-dies of its span (R278). -/
def Ctx.die (c : Ctx) : Nat := c.firstCl / 8
def Ctx.dies (c : Ctx) : List Nat := (c.clusters.map (· / 8)).eraseDups

/-- A write of the strand in the classes of a mask, or before a read in them. -/
def Write.ownIn (w : Write) (c : Ctx) (mask : BitVec 16) : Bool :=
  decide (w.sid = c.sid) && (mask.getLsbD w.cls || mask &&& w.readIn != 0)

/-- A write that the strand may have observed. -/
def Write.known (w : Write) (c : Ctx) : Bool :=
  c.dies.any fun d => (smFind d w.seen).any fun m => decide (m ≤ c.order.latest)

/-- A release at a scope from an L-die: the strand's writes in the classes of a mask, and those that it may have observed,
are performed for every agent of the scope (R282). -/
def State.releaseTo (s : State) (n : Nat) (mask : BitVec 16) (die scope : Nat) : State :=
  let c := s.ctxAt n
  s.performWith (fun w => if w.ownIn c mask || w.known c then viewsOf scope die else []) fun _ => viewsOf scope die

/-- A release of a strand at package scope: a command pushed to an engine or a unit, the end of a save and of a strand (R284,
R295, R356). -/
def State.releasePackage (s : State) (n : Nat) : State := s.releaseTo n 0xFFFF (s.ctxAt n).die 3

/-- An acquire at a moment: every later read takes its value from then on (R282). -/
def State.acquireAt (s : State) (n m : Nat) : State :=
  if s.writes.isEmpty then s
  else
    let c := s.ctxAt n
    s.setCtx n { c with order := { c.order with all := max c.order.all m } }

def State.acquire (s : State) (n : Nat) : State := s.acquireAt n s.moment

/-- A fence: a release from the position of each of the strand's accesses, after which the strand's own earlier writes
are performed for itself, and its later reads in the classes of the mask come after the fence, or at strand scope after
its earlier reads (R288, R294). -/
def State.fenceAt (s : State) (n : Nat) (mask : BitVec 16) (scope : Nat) : State :=
  if s.writes.isEmpty then s
  else
    let c := s.ctxAt n
    let s := s.performWith
      (fun w => if w.ownIn c mask then viewsOf scope w.die else if w.known c then c.dies.flatMap (viewsOf scope) else [])
      fun w => viewsOf scope w.die
    let o := c.order
    let m := if scope = 0 then o.reads.foldl (fun m e => if mask.getLsbD e.1 then max m e.2 else m) 0 else s.moment
    let o := { o with fences := (List.range 16).foldl (fun f k =>
      if mask.getLsbD k then smPut k (max m (smGet 0 f k)) f else f) o.fences }
    ({ s with writes := s.writes.map fun w =>
      if w.sid = c.sid ∧ mask.getLsbD w.cls = true then { w with own := true } else w } : State).setCtx n { c with order := o }

/-- The writes of a strand that form kept pairs with a later access by class and port are performed on their L-die before
it (R281). -/
def State.beforeAccess (s : State) (sid cls : Nat) (ports : List (Option Nat)) : State :=
  s.performFor fun w => if w.sid = sid ∧ (ports.any fun p => kept w.cls cls w.port p false false) = true then [w.die] else []

/-- The moment at which element e of an access reads: as far back as it lags, but for what orders it (R280, R281). -/
def State.readMoment (s : State) (c : Ctx) (cls e : Nat) (port : Option Nat) : Nat :=
  let o := c.order
  let reads := if cls = 15 then o.reads.foldl (fun m x => max m x.2) 0 else smGet 0 o.reads 15
  let own := s.writes.filterMap fun w =>
    if w.sid = c.sid ∧ kept w.cls cls w.port port false false = true then smFind w.die w.seen else none
  max (own.foldl max (max o.all (max reads (smGet 0 o.fences cls)))) (s.moment - s.lags.getD e 0)

/-- An agent's view of a byte, of which the newest write left `b`: of the writes from newest to oldest, the first that
`sees` admits. -/
def viewByte (scratch : Bool) (key : Nat) (sees : Write → Bool) : List Write → Byte → Byte
  | [], b => b
  | w :: l, b =>
    match w.bytes.find? fun x => x.1 == scratch && x.2.1 == key with
    | none => viewByte scratch key sees l b
    | some x => if sees w then x.2.2.2 else viewByte scratch key sees l x.2.2.1

/-- A write is performed for a read of a strand on an L-die at a moment: for its agents by then, by its own fence, or as the
first of a kept pair on one location (R281). -/
def Write.seenBy (w : Write) (c : Ctx) (cls : Nat) (port : Option Nat) (die m : Nat) : Bool :=
  (decide (w.sid = c.sid) && (w.own || kept w.cls cls w.port port false true)) ||
    (smFind die w.seen).any fun k => decide (k ≤ m)

/-- Notes the reads of an instruction, whose elements were numbered below `n`. -/
def State.afterReads (s : State) (k cls n m : Nat) : State :=
  if s.writes.isEmpty then s
  else
    let c := s.ctxAt k
    let mark := fun (w : Write) => decide (w.sid = c.sid) && (decide (cls = 15) || decide (w.cls = 15) || w.readIn.getLsbD 15)
    let writes := s.writes.map fun w => if mark w then { w with readIn := w.readIn ||| BitVec.ofNat 16 (2 ^ cls) } else w
    ({ s with lags := s.lags.drop n, writes := writes } : State).settleWrites.setCtx k
      { c with order := { c.order with reads := smPut cls (max m (smGet 0 c.order.reads cls)) c.order.reads } }

/-- A write is performed in one view. -/
def State.performOne (s : State) (num view : Nat) : State := s.performFor fun w => if w.num = num then [view] else []

/-! ## Physical memory (R246 to R248) -/

def regionOf (pa : Nat) : Nat := pa / 2 ^ 56 % 16

/-- A 60-bit address in an allowed region with its must-be-zero bits zero (R246). -/
def paOk (pa : Nat) : Bool :=
  decide (pa < 2 ^ 60) &&
  (match regionOf pa with
   | 0 => decide (pa % 2 ^ 56 < 2 ^ 40)
   | 1 => decide (pa % 2 ^ 56 < 2 ^ 52)
   | 2 => decide (pa % 2 ^ 56 < 2 ^ 53)
   | 3 => decide (pa % 2 ^ 56 < 2 ^ 40)
   | 4 => decide (pa % 2 ^ 56 < 2 ^ 43) && decide (pa / 2 ^ 37 % 8 = 0)
   | _ => false)

/-- The region 0 offset of the cell that a die-local offset reaches (R247). -/
def dieLocal (d o : Nat) : Nat :=
  let stack := 2 * d + o / 2 ^ 8 % 2
  let blk := o / 2 ^ 9
  blk * 2 ^ 12 + Nat.xor stack (blk % 16) * 2 ^ 8 + o % 2 ^ 8

/-- The memory's key of a physical byte: region 4 and the own endpoint fold onto region 0 (R246, R248). -/
def State.cell (s : State) (pa : Nat) : Nat :=
  if regionOf pa = 4 then dieLocal (pa / 2 ^ 40 % 8) (pa % 2 ^ 37)
  else if regionOf pa = 2 ∧ pa / 2 ^ 40 % 2 ^ 13 = s.glox.endpoint then pa % 2 ^ 40
  else pa

/-- The stack of a byte of local HBM, by its key (R247). -/
def stackOf (key : Nat) : Nat := Nat.xor (key / 2 ^ 8 % 16) (key / 2 ^ 12 % 16)

/-- A physical byte lies in a stack in self-refresh: every access to it waits (R437). -/
def State.asleep (s : State) (pa : Nat) : Bool :=
  s.ctl.hbmsr != 0 && regionOf (s.cell pa) == 0 && s.ctl.hbmsr.getLsbD (stackOf (s.cell pa))

/-- One byte of physical memory (log entry 5). -/
def State.readByte (s : State) (pa : Nat) : Byte := smGet 0 s.mem (s.cell pa)

/-- The package's controller, the host and other endpoints write past the line caches. -/
def State.writeByte (s : State) (pa : Nat) (b : Byte) : State :=
  { s with
    mem := smSet 0 s.mem (s.cell pa) b
    home := smDel (s.cell pa) s.home
    writes := forget false (fun k => decide (k = s.cell pa)) s.writes }

/-- The line cache writes a dirty line of host memory back to its home (R252) (log entry 84). -/
def State.cleanLine (s : State) (line : Nat) : State :=
  { s with home := s.home.filter fun e => decide (e.1 / 64 ≠ line) }

/-- `n` bytes from a physical address. -/
def State.readPhys (s : State) (pa : Nat) : Nat → List Byte
  | 0 => []
  | n + 1 => s.readByte pa :: s.readPhys (pa + 1) n

/-- The 8-byte words of memory that `n` bytes from a physical address touch. -/
def State.wordsAt (s : State) (pa n : Nat) : List Nat :=
  if n = 0 then [] else
  (List.range ((pa + n - 1) / 8 - pa / 8 + 1)).map fun i => s.cell (8 * (pa / 8 + i)) / 8

/-- Some word that the bytes touch is poisoned (R243, R275). -/
def State.poisonPhys (s : State) (pa n : Nat) : Bool := (s.wordsAt pa n).any fun w => s.memPoison.contains w

/-- Writes bytes; a word all of whose 8 bytes the store covers loses its poison (R275). -/
def State.writeBytes (s : State) (pa : Nat) : List Byte → State
  | [] => s
  | b :: l => (s.writeByte pa b).writeBytes (pa + 1) l

def State.clearPoison (s : State) (pa n : Nat) : State :=
  let whole := (List.range (n / 8 + 1)).filterMap fun i =>
    let a := (pa + 7) / 8 * 8 + 8 * i
    if a + 8 ≤ pa + n then some (s.cell a / 8) else none
  { s with memPoison := s.memPoison.filter fun w => !whole.contains w }

def State.writePhys (s : State) (pa : Nat) (l : List Byte) : State :=
  (s.writeBytes pa l).clearPoison pa l.length

/-- Some byte of a range lies in a stack in self-refresh. -/
def State.asleepRange (s : State) (pa n : Nat) : Bool :=
  s.ctl.hbmsr != 0 && (List.range n).any fun i => s.asleep (pa + i)

/-- Writes bytes, or lets the write wait while a byte's stack is in self-refresh (R437). -/
def State.writeAwake (s : State) (pa : Nat) (l : List Byte) : State :=
  if s.asleepRange pa l.length then { s with waiting := s.waiting ++ [(pa, l)] } else s.writePhys pa l

/-- The oldest waiting write whose stacks are awake is performed. -/
def State.wakeWrite (s : State) : State :=
  match s.waiting.find? fun w => !s.asleepRange w.1 w.2.length with
  | some w => ({ s with waiting := s.waiting.erase w } : State).writePhys w.1 w.2
  | none => s

/-- A host physical address as a device physical address: the HDM range is region 0 (R369) (log entry 68). -/
def State.hostPa (s : State) (h : Nat) : Nat :=
  if s.hdm.1 ≤ h ∧ h < s.hdm.1 + s.hdm.2 then h - s.hdm.1 else 2 ^ 56 + h % 2 ^ 52

/-! ## The scratchpad (R254, R255) -/

/-- XOR of the `c`-bit chunks of a number, `n` chunks from bit 0 (R255). -/
def foldChunks (c : Nat) : Nat → Nat → Nat
  | 0, _ => 0
  | n + 1, v => Nat.xor (v % 2 ^ c) (foldChunks c n (v / 2 ^ c))

/-- PARTS of a scratchpad configuration, and its mapping bit. -/
def spParts (cfg : Word) : Nat := cfg.toNat / 16 % 4
def spLinear (cfg : Word) : Bool := cfg.getLsbD 0

/-- Bank and row of a scratchpad offset under a configuration (R255). -/
def spBankRow (cfg : Word) (a : Nat) : Nat × Nat :=
  let p := spParts cfg
  let c := 8 - p
  let g := a / 2 ^ (22 - p)
  let w := a / 8 % 2 ^ (19 - p)
  let row := w / 2 ^ c
  let b := if spLinear cfg then w % 2 ^ c else Nat.xor (w % 2 ^ c) (foldChunks c 11 row)
  (g * 2 ^ c + b, row)

/-- The cell that an absolute scratchpad offset of a cluster names, as the key of the scratchpad's table. -/
def State.spCell (s : State) (cl a : Nat) : Nat :=
  let (bank, row) := spBankRow (s.clAt cl).spcfg (a % 2 ^ 22)
  cl * 2 ^ 22 + bank * 2 ^ 14 + row * 8 + a % 8

def State.readSp (s : State) (cl a : Nat) : Byte := smGet 0 s.sp (s.spCell cl a)

def State.writeSp (s : State) (cl a : Nat) (b : Byte) : State :=
  { s with sp := smSet 0 s.sp (s.spCell cl a) b, writes := forget true (fun k => decide (k = s.spCell cl a)) s.writes }

def State.readSpBytes (s : State) (cl a : Nat) : Nat → List Byte
  | 0 => []
  | n + 1 => s.readSp cl a :: s.readSpBytes cl (a + 1) n

def State.writeSpList (s : State) (cl a : Nat) : List Byte → State
  | [] => s
  | b :: l => (s.writeSp cl a b).writeSpList cl (a + 1) l

/-- The words of the scratchpad's cells that `n` bytes touch. -/
def State.spWordsAt (s : State) (cl a n : Nat) : List Nat :=
  if n = 0 then [] else
  (List.range ((a + n - 1) / 8 - a / 8 + 1)).map fun i => s.spCell cl (8 * (a / 8 + i)) / 8

def State.poisonSp (s : State) (cl a n : Nat) : Bool := (s.spWordsAt cl a n).any fun w => s.spPoison.contains w

def State.clearSpPoison (s : State) (cl a n : Nat) : State :=
  let whole := (List.range (n / 8 + 1)).filterMap fun i =>
    let b := (a + 7) / 8 * 8 + 8 * i
    if b + 8 ≤ a + n then some (s.spCell cl b / 8) else none
  { s with spPoison := s.spPoison.filter fun w => !whole.contains w }

def State.writeSpBytes (s : State) (cl a : Nat) (l : List Byte) : State :=
  (s.writeSpList cl a l).clearSpPoison cl a l.length

/-- Bytes a strand can address in the scratchpad, and what is added to its offsets: a vpart child has one partition
(R255). -/
def State.spWindow (s : State) (c : Ctx) (cl : Nat) : Nat × Nat :=
  let p := spParts (s.clAt cl).spcfg
  if c.parent.isSome ∧ 0 < p then (2 ^ (22 - p), (c.part % 2 ^ p) * 2 ^ (22 - p)) else (2 ^ 22, 0)

/-! ## Numbered events and the fault queue (R424, R432) -/

/-- A record's 64 bytes (R432). -/
def fqBytes (r : FqRec) : List Byte :=
  leBytes 8 r.seq ++ leBytes 8 r.time ++ leBytes 1 r.kind ++ leBytes 1 r.cause.toNat ++ leBytes 2 r.esub.toNat ++
  leBytes 2 r.ctx ++ leBytes 2 r.queue ++ leBytes 4 r.pasid.toNat ++ leBytes 2 r.member ++ leBytes 2 0 ++
  leBytes 8 r.epc.toNat ++ leBytes 8 r.eval.toNat ++ leBytes 4 r.elem ++ leBytes 12 0

/-- The ring is full: TAIL + 1 = HEAD modulo 2^LOG2N. -/
def Control.fqFull (c : Control) : Bool := decide ((c.fqtail.toNat + 1) % 2 ^ c.fqlog2n = c.fqhead.toNat % 2 ^ c.fqlog2n)

/-- Raises an MSI-X vector: its message goes to the host, or waits while the vector is masked (R425) (log entry 77). -/
def Control.raise (c : Control) (vec : Nat) : Control :=
  let v := smGet ({} : Msix) c.msix vec
  if v.masked then { c with msix := smPut vec { v with pending := true } c.msix }
  else { c with messages := c.messages ++ [(v.addr, v.data)] }

/-- The physical address of the ring's next record. -/
def State.fqPa (s : State) : Nat := s.hostPa (s.ctl.fqbase.toNat + 64 * s.ctl.fqtail.toNat)

/-- A record can be written: the queue is enabled and has room, and the ring's memory is awake (R432, R437). -/
def State.fqOpen (s : State) : Bool := s.ctl.fqen && !s.ctl.fqFull && !s.asleepRange s.fqPa 64

/-- Writes one record at TAIL, advances TAIL and, with IE, raises vector 0. -/
def State.fqWrite (s : State) (r : FqRec) : State :=
  let s := s.writePhys s.fqPa (fqBytes r)
  let c := { s.ctl with fqtail := BitVec.ofNat 16 ((s.ctl.fqtail.toNat + 1) % 2 ^ s.ctl.fqlog2n) }
  { s with ctl := if c.fqie then c.raise 0 else c }

/-- Writes held records, oldest first, while the queue takes them. -/
def State.fqFlush : Nat → State → State
  | 0, s => s
  | n + 1, s =>
    match s.fq with
    | [] => s
    | r :: l => if s.fqOpen then State.fqFlush n ({ s with fq := l }.fqWrite r) else s

/-- Numbers and posts a record: written at once where possible, else held up to 256, else dropped and counted. -/
def State.post (s : State) (r : FqRec) : State :=
  let s : State := { s with seq := s.seq + 1 }
  let r := { r with seq := s.seq, time := s.time }
  if s.fq.isEmpty && s.fqOpen then s.fqWrite r
  else if s.fq.length < 256 then { s with fq := s.fq ++ [r] }
  else { s with ctl := { s.ctl with lost := if s.ctl.lost.toNat < 2 ^ 16 - 1 then s.ctl.lost + 1 else s.ctl.lost } }

/-- A record about a context. -/
def State.recordOf (s : State) (n kind : Nat) : FqRec :=
  let c := s.ctxAt n
  { seq := 0, time := 0, kind := kind, ctx := n, queue := c.queue, pasid := c.pasid, member := c.member }

/-! ## RAS counters (R420): keys block * 64 + 3 * source, then ERRCNT, ERRLOC, ERRTHR -/

/-- The words of a source; ERRTHR reads 1,024 until written (log entry 61). -/
def State.rasWord (s : State) (block src i : Nat) : Word :=
  smGet (if i = 2 then 1024 else 0) s.ras (block * 64 + 3 * src + i)

def State.setRas (s : State) (block src i : Nat) (v : Word) : State :=
  { s with ras := smPut (block * 64 + 3 * src + i) v s.ras }

/-- Counts an uncorrectable error and posts its record (R420). -/
def State.countUe (s : State) (block src : Nat) (loc : Word) : State :=
  let w := (s.rasWord block src 0).toNat
  let ue := w / 2 ^ 16 % 2 ^ 16
  let w' := if ue < 2 ^ 16 - 1 then w + 2 ^ 16 else w
  let s := (s.setRas block src 0 (BitVec.ofNat 64 w')).setRas block src 1 loc
  s.post { seq := 0, time := 0, kind := 8, eval := loc }

/-- Counts a corrected error; a count that reaches a multiple of THR posts a record (R420). -/
def State.countCe (s : State) (block src : Nat) (loc : Word) : State :=
  let w := (s.rasWord block src 0).toNat
  let ce := w / 2 ^ 32
  let w' := if ce < 2 ^ 32 - 1 then w + 2 ^ 32 else w
  let thr := (s.rasWord block src 2).toNat
  let s := (s.setRas block src 0 (BitVec.ofNat 64 w')).setRas block src 1 loc
  if thr ≠ 0 ∧ w' ≠ w ∧ (ce + 1) % thr = 0 then s.post { seq := 0, time := 0, kind := 8, eval := loc } else s

/-! ## Performance counters (R417 to R419): keys block * 64 + 2 * i for CTL, + 1 for COUNT -/

/-- Blocks: clusters 0 to 63, L-dies 64 to 71, the S-die 72. -/
def blockCounters (block : Nat) : Nat := if block < 64 then 16 else 32

/-- Adds `n` events to a counter of a block; a wrap sets OVF and, with OVIE, posts a record (R418). -/
def State.perfAdd (s : State) (block i n : Nat) : State :=
  let ctl := smGet (0 : Word) s.perf (block * 64 + 2 * i)
  let v := (smGet (0 : Word) s.perf (block * 64 + 2 * i + 1)).toNat + n
  let s : State := { s with perf := smSet 0 s.perf (block * 64 + 2 * i + 1) (BitVec.ofNat 64 (v % 2 ^ 48)) }
  if v < 2 ^ 48 then s
  else
    let s : State := { s with perf := smSet 0 s.perf (block * 64 + 2 * i) (ctl ||| 0x400) }
    if ctl.getLsbD 9 then s.post { seq := 0, time := 0, kind := 7 } else s

/-- Counts `n` events in a counter of a block that selects them. -/
def State.perf1 (s : State) (block code : Nat) (pasids : List Word) (n i : Nat) : State :=
  let ctl := smGet (0 : Word) s.perf (block * 64 + 2 * i)
  let on := ctl.getLsbD 8 && decide (ctl.toNat % 256 = code) &&
    (!ctl.getLsbD 11 || pasids.any fun p => decide (ctl.toNat / 2 ^ 12 % 2 ^ 20 = p.toNat % 2 ^ 20))
  if on then s.perfAdd block i n else s

/-- Counts `n` events of a block to which strands of some PASIDs gave rise. -/
def State.perfCountOf (s : State) (block code : Nat) (pasids : List Word) (n : Nat) : State :=
  if s.perf.isEmpty || n = 0 then s
  else (List.range (blockCounters block)).foldl (fun s i => s.perf1 block code pasids n i) s

def State.perfCount (s : State) (block code : Nat) (pasid : Option Word) (n : Nat) : State :=
  s.perfCountOf block code pasid.toList n

/-! ## Trap causes (R165) -/

def causePriv : BitVec 8 := 0x04
def causeMisalign : BitVec 8 := 0x05
def causeTileOff : BitVec 8 := 0x06
def causeTileShape : BitVec 8 := 0x07
def causeSparseMeta : BitVec 8 := 0x08
def causeModRange : BitVec 8 := 0x09
def causeFpExc : BitVec 8 := 0x0A
def causeXlate : BitVec 8 := 0x10
def causeProt : BitVec 8 := 0x11
def causeXlateHost : BitVec 8 := 0x12
def causePteFmt : BitVec 8 := 0x13
def causeMemPoison : BitVec 8 := 0x18
def causeRemoteTimeout : BitVec 8 := 0x19
def causeRemoteNack : BitVec 8 := 0x1A
def causeChStall : BitVec 8 := 0x20
def causeChMisuse : BitVec 8 := 0x21
def causeXchOver : BitVec 8 := 0x22
def causeXchGen : BitVec 8 := 0x23
def causeGangBroken : BitVec 8 := 0x24
def causeMsOverflow : BitVec 8 := 0x25
def causeSwTrap : BitVec 8 := 0x28
def causeBreak : BitVec 8 := 0x29
def causePreempt : BitVec 8 := 0x30
def causeHwUe : BitVec 8 := 0x31
def causeOp : BitVec 8 := 0x01
def causeOperand : BitVec 8 := 0x02
def causeUnit : BitVec 8 := 0x03

/-- A trap of a scalar instruction. -/
def trapOf (cause : BitVec 8) (sub : Nat) (eval : Word) : TrapInfo :=
  { cause := cause, sub := BitVec.ofNat 11 sub, eval := eval }

/-! ## Milestones (R408, R412, R415) -/

/-- The word of a milestone's fields, and back (R408). -/
def Milestone.toWord (m : Milestone) : Word :=
  BitVec.ofNat 64 (m.owner.toNat * 2 ^ 36 + (if m.owned then 2 ^ 35 else 0) + (if m.broken then 2 ^ 34 else 0) +
    (if m.gang then 2 ^ 33 else 0) + (if m.ovf then 2 ^ 32 else 0) + m.count.toNat)

/-- A milestone: a package milestone, or a milestone of a cluster. -/
def State.msAt (s : State) (cl : Nat) (n : MsName) : Milestone :=
  if n.pkg then smGet ({} : Milestone) s.pms n.num else smGet ({} : Milestone) (s.clAt cl).ms n.num

def State.setMs (s : State) (cl : Nat) (n : MsName) (m : Milestone) : State :=
  if n.pkg then { s with pms := smPut n.num m s.pms }
  else let c := s.clAt cl; s.setCl cl { c with ms := smPut n.num m c.ms }

/-- The number that EVAL holds of a milestone: number + 4,096 * space (R165). -/
def MsName.eval (n : MsName) : Word := BitVec.ofNat 64 (n.num + if n.pkg then 4096 else 0)

/-- The context that holds a strand, if it lives in one. -/
def State.ctxOf (s : State) (sid : Nat) : Option Nat :=
  (s.ctxs.find? fun e => decide (e.2.mode ≠ .free) && decide (e.2.sid = sid)).map Prod.fst

/-- A trap falls due against a context asynchronously (R166). -/
def State.due (s : State) (n : Nat) (t : TrapInfo) : State :=
  let c := s.ctxAt n
  s.setCtx n { c with async := c.async ++ [t] }

/-- The context of a strand wherever it is: resident, parked, or ended with copy commands left. -/
def State.strandCtx (s : State) (sid : Nat) : Option Ctx :=
  match s.ctxOf sid with
  | some n => some (s.ctxAt n)
  | none => (s.parked ++ s.ended).find? fun c => decide (c.sid = sid)

/-- A trap falls due against a strand; a parked strand takes it when it is back. `none`: the strand has ended. -/
def State.dueStrand (s : State) (sid : Nat) (t : TrapInfo) : Option State :=
  match s.ctxOf sid with
  | some n => some (s.due n t)
  | none =>
    if s.parked.any fun c => decide (c.sid = sid) then
      some { s with parked := s.parked.map fun c => if c.sid = sid then { c with async := c.async ++ [t] } else c }
    else none

/-- An arrival from the fabric owned by a strand (R414, R415); `none` is the placement unit. -/
def State.arrive (s : State) (cl : Nat) (n : MsName) (owner : Option Nat) : State :=
  let m := s.msAt cl n
  if m.count.toNat < 2 ^ 32 - 1 then s.setMs cl n { m with count := m.count + 1 }
  else
    let s := s.setMs cl n { m with ovf := true }
    match owner.bind fun k => s.dueStrand k (trapOf causeMsOverflow 0 n.eval) with
    | some s => s
    | none => s.post { seq := 0, time := 0, kind := 6, cause := causeMsOverflow, eval := n.eval }

/-! ## Taking a trap and returning from one (R162, R163, R359) -/

/-- The entry itself. Younger provisional effects are gone with the open convoy and those behind it. With STATUS.EX = 1 it is a double trap:
the record is posted and the context stops. -/
def State.enterPlain (s : State) (n : Nat) (t : TrapInfo) (epc : Word) : State :=
  let c := s.ctxAt n
  if c.ex then
    (s.post { s.recordOf n 1 with
      cause := t.cause, esub := t.sub.setWidth 16, epc := epc, eval := t.eval, elem := t.elem.getD 0 }).setCtx n
      { c with mode := .stopped, viq := [], queued := [], wait := none }
  else
    let s := s.fenceAt n 0xFFFF 0
    let c := s.ctxAt n
    s.setCtx n { c with
    mode := .resident
    viq := []
    queued := []
    wait := none
    group := none
    remote := .idle
    inval := none
    cause := t.cause.setWidth 64
    esub := t.sub.setWidth 64
    epc := epc
    eval := t.eval
    eelem := (match t.elem with | some k => BitVec.ofNat 64 k | none => c.eelem)
    status := statusOf true c.sup true
    frozenUnits := c.frozenUnits ++ t.unit.toList
    pc := c.stvec }

/-- A gang member's uncorrectable error (R359): it stops and is poisoned, the record is posted, and the gang's
milestone is broken; members blocked in ms.wait on it take GANG_BROKEN at once. -/
def State.breakGang (s : State) (n : Nat) (t : TrapInfo) (epc : Word) : State :=
  let c := s.ctxAt n
  let s := s.setCtx n { c with mode := .stopped, poisoned := true, viq := [], queued := [], wait := none }
  let s := s.post { s.recordOf n 5 with
    cause := t.cause, esub := t.sub.setWidth 16, epc := epc, eval := t.eval, elem := t.elem.getD 0 }
  match c.record.gangms with
  | none => s
  | some g =>
    let name : MsName := { num := g, pkg := true }
    let s := s.setMs 0 name { s.msAt 0 name with broken := true }
    s.ctxs.foldl (fun s e =>
      match e.2.wait with
      | some (.msWait w _) => if w = name then s.enterPlain e.1 (trapOf causeGangBroken 0 name.eval) e.2.pc else s
      | _ => s) s

/-- Entering a trap in a context, with EPC given (R163): HW_UE of a gang member breaks the gang. -/
def State.enterTrap (s : State) (n : Nat) (t : TrapInfo) (epc : Word) : State :=
  if t.cause = causeHwUe ∧ 1 < (s.ctxAt n).record.gang then s.breakGang n t epc else s.enterPlain n t epc

/-- The current instruction traps; EPC is its own address (R165). -/
def State.trap (s : State) (cause : BitVec 8) (sub : Nat) (eval : Word) : State :=
  s.enterTrap s.cur (trapOf cause sub eval) s.me.pc

/-- A supervisor instruction in user mode (R98 step 5); EVAL holds the parcel, which `parcel` gives (R100). -/
def State.trapPriv (s : State) (sub parcel : Nat) : State := s.trap causePriv sub (BitVec.ofNat 64 parcel)

/-- tret in supervisor mode (R162). -/
def Ctx.tret (c : Ctx) : Ctx :=
  { c with pc := c.epc, status := statusOf false false c.psup, retired := c.retired + 1 }

/-- The parcel of an instruction, for EVAL (R100). -/
def parcelOf (i : Instr) : Nat := match encode i with | some (_, w) => w | none => 0

/-! ## CSR-like configuration words of tiles (R215 to R217) -/

def tcM (w : Word) : Nat := w.toNat / 2 ^ 33 % 32
def tcN (w : Word) : Nat := w.toNat / 2 ^ 29 % 16
def tcCols (w : Word) : Nat := w.toNat / 2 ^ 21 % 256
def tcRows (w : Word) : Nat := w.toNat / 2 ^ 13 % 256
def tcFmt (w : Word) : Nat := w.toNat % 8
def tcTR (w : Word) : Bool := w.getLsbD 38
def tcFB (w : Word) : Bool := w.getLsbD 39

/-- TCFG from its fields (R215). -/
def tcWord (fb tr : Bool) (m n cols rows fmt : Nat) : Word :=
  BitVec.ofNat 64 ((if fb then 2 ^ 39 else 0) + (if tr then 2 ^ 38 else 0) + m * 2 ^ 33 + n * 2 ^ 29 + cols * 2 ^ 21 +
    rows * 2 ^ 13 + fmt)

def Ctx.tc (c : Ctx) (t : Nat) : Word := if h : t < 8 then c.tcfg[t] else 0
def Ctx.setTc (c : Ctx) (t : Nat) (w : Word) : Ctx := if h : t < 8 then { c with tcfg := c.tcfg.set t w } else c

/-- Columns that a tile holds: the packed columns of a packed tile (R215). -/
def tcHeld (w : Word) : Nat := if tcM w ≤ 1 then tcCols w else tcCols w * tcN w / tcM w

/-- ACCFMT mode of an accumulator (R217). -/
def Ctx.accMode (c : Ctx) (a : Nat) : Nat := c.accfmt.toNat / 4 ^ a % 4

/-! ## The strand's matrix tokens (R221, R227) -/

/-- A token of the strand is still in a node of its span. -/
def State.tokensLeft (s : State) (c : Ctx) : Bool :=
  c.clusters.any fun cl => (s.clAt cl).nodes.any fun e => e.2.fifo.any fun t => decide (t.sid = c.sid)

end Sys2Proof.Machine
end

