-- ==== Sys2Proof/Machine/Translate.lean ====
section
/-! DEFINITION. Translation: the PTE format descriptor, the walk, the cached translations, host page requests and the
hotness tables (spec 13, R362 to R381). -/

namespace Sys2Proof.Machine

/-- The result of an operation of one instruction: a value, a trap with the state to take it in, pages to ask the
host for (R373), or a state in which the instruction waits and will run again. -/
inductive Res (α : Type) where
  | ok (v : α) (s : State)
  | trap (t : TrapInfo) (s : State)
  | ask (r : PageReq) (s : State)
  | wait (s : State)
  deriving Repr

/-- Goes on with a value, or passes a trap or a request on. -/
def Res.andThen {α β : Type} (r : Res α) (k : α → State → Res β) : Res β :=
  match r with
  | .ok v s => k v s
  | .trap t s => .trap t s
  | .ask q s => .ask q s
  | .wait s => .wait s

/-! ## The descriptor (R363 to R365) -/

/-- Byte i of a byte string; 0 beyond its end. -/
def byteAt (l : List Byte) (i : Nat) : Nat := (l.getD i 0).toNat

/-- A flag byte: position, INV, ABSENT (R364). -/
def flagPos (b : BitVec 8) : Nat := b.toNat % 64
def flagInv (b : BitVec 8) : Bool := b.getLsbD 6
def flagAbsent (b : BitVec 8) : Bool := b.getLsbD 7

/-- The seven flags of a format. -/
def PteFormat.flags (d : PteFormat) : List (BitVec 8) := [d.pres, d.read, d.write, d.user, d.acc, d.dirty, d.noex]

/-- VAB (R365). -/
def PteFormat.vab (d : PteFormat) : Nat := d.gran + d.iw.foldl (· + ·) 0

/-- A list of numbers has no repeats. -/
def noRepeats : List Nat → Bool
  | [] => true
  | x :: l => !l.contains x && noRepeats l

/-- The format that 32 bytes describe, where they break no limit of R364 and R365. -/
def parseFormat (l : List Byte) : Option PteFormat :=
  let b := byteAt l
  let levels := b 0
  let d : PteFormat := {
    levels := levels, gran := b 1, iw := ((List.range 5).map fun k => b (2 + k)).take levels
    leafok := BitVec.ofNat 8 (b 7), lfb := b 8, lfp := (b 9) % 2 == 1, llchk := (b 9) / 2 % 2 == 1
    llp := (b 9) / 4 % 2 == 1
    pres := BitVec.ofNat 8 (b 10), read := BitVec.ofNat 8 (b 11), write := BitVec.ofNat 8 (b 12)
    user := BitVec.ofNat 8 (b 13), acc := BitVec.ofNat 8 (b 14), dirty := BitVec.ofNat 8 (b 15)
    noex := BitVec.ofNat 8 (b 16)
    al := b 17, ah := b 18, ash := b 19, out := b 20 == 1
    aupd := (b 21) % 2 == 1, dupd := (b 21) / 2 % 2 == 1, hier := (b 21) / 4 % 2 == 1, pri := (b 21) / 8 % 2 == 1 }
  let ok :=
    decide (2 ≤ levels) && decide (levels ≤ 5) &&
    (b 1 == 12 || b 1 == 14 || b 1 == 16) &&
    ((List.range 5).all fun k => if k < levels then decide (1 ≤ b (2 + k)) && decide (b (2 + k) ≤ 13) else b (2 + k) == 0) &&
    (b 7) / 2 ^ (levels - 1) == 1 && (b 7) % 2 == 0 &&
    decide (b 8 < 64) && decide (b 9 < 8) &&
    (d.flags.all fun f => !flagAbsent f || decide (f.toNat = 128)) &&
    decide (d.al ≤ d.ah) && decide (d.ah ≤ 63) &&
    decide (b 20 ≤ 1) && decide (b 21 < 16) &&
    ((List.range 10).all fun k => b (22 + k) == 0) &&
    decide (d.vab ≤ 57) && !flagAbsent d.pres &&
    noRepeats ((d.flags.filter fun f => !flagAbsent f).map flagPos) &&
    (d.flags.all fun f => flagAbsent f || decide (flagPos f < d.al) || decide (d.ah < flagPos f)) &&
    (decide (d.lfb < d.al) || decide (d.ah < d.lfb)) &&
    decide (d.ah - d.al + 1 + d.ash ≤ if d.out then 60 else 52) &&
    (!d.pri || !d.out)
  if ok then some d else none

/-- What a capture of the table at DESC finds (R363). -/
inductive Capture where
  | ok (d : PteFormat)
  | invalid
  | poison
  deriving DecidableEq, Repr

/-- The descriptor at a device physical address can be read: its stacks are awake (R437). -/
def State.descAwake (s : State) (ptdesc : Word) : Bool :=
  !paOk ptdesc.toNat || !s.asleepRange ptdesc.toNat 32

/-- Reads the 32 bytes at DESC, a device physical address (R362, R363). -/
def State.captureDesc (s : State) (ptdesc : Word) : Capture :=
  let pa := ptdesc.toNat
  if !paOk pa || decide (regionOf pa = 3) then .invalid
  else if s.poisonPhys pa 32 then .poison
  else match parseFormat (s.readPhys pa 32) with
    | some d => .ok d
    | none => .invalid

/-! ## The walk (R366 to R368) -/

/-- Access kinds as ESUB codes them (R165): 0 read, 1 write, 2 fetch, 3 atomic. -/
abbrev AccKind := Nat

/-- Flag(pte, F) of a flag that is not ABSENT. -/
def pteBit (pte : Nat) (f : BitVec 8) : Bool := (decide (pte / 2 ^ flagPos f % 2 = 1)) != flagInv f

/-- A flag that grants when ABSENT (R367): PRES, READ, WRITE, USER. -/
def pteGrant (pte : Nat) (f : BitVec 8) : Bool := flagAbsent f || pteBit pte f

/-- NOEX holds; ABSENT counts as granting execution (R367). -/
def pteNoex (pte : Nat) (f : BitVec 8) : Bool := !flagAbsent f && pteBit pte f

/-- Out(pte) (R366). -/
def PteFormat.outOf (d : PteFormat) (pte : Nat) : Nat := pte / 2 ^ d.al % 2 ^ (d.ah - d.al + 1) * 2 ^ d.ash

/-- An output as a device physical address (R369). -/
def State.outPa (s : State) (d : PteFormat) (a : Nat) : Nat := if d.out then a else s.hostPa a

/-- An output that the format's address space allows (R366). -/
def PteFormat.outOk (d : PteFormat) (a : Nat) : Bool := if d.out then paOk a else decide (a < 2 ^ 52)

/-- A translated page with its effective flags (R367, R377); `out` is its address in the output space. -/
structure PageInfo where
  size : Nat
  out : Nat
  level : Nat
  r : Bool
  w : Bool
  x : Bool
  u : Bool
  a : Bool
  d : Bool
  deriving DecidableEq, Repr

/-- Where a walk stands: the level, the shift above the level's index, the table's address in the output space, and the
permissions of the levels above under HIER. -/
structure WalkPoint where
  level : Nat
  sh : Nat
  tbl : Nat
  r : Bool := true
  w : Bool := true
  x : Bool := true
  u : Bool := true
  deriving DecidableEq, Repr

/-- How a walk ends. -/
inductive WalkRes where
  /-- A leaf whose permissions allow the access; the entries (address, value) that need ACC or DIRTY set; the non-leaf
  entries passed. -/
  | page (i : PageInfo) (upd : List (Nat × Nat)) (steps : List WalkPoint)
  /-- fault(NP, k). -/
  | absent (k : Nat)
  /-- A denial from USER or NOEX. -/
  | prot (k : Nat)
  /-- A denial from READ or WRITE. -/
  | denied (k : Nat)
  /-- fault(FMT, k). -/
  | format (k : Nat)
  /-- A table read met poisoned data. -/
  | poison (k : Nat)
  /-- A table lies in a stack in self-refresh: the walk waits (R437). -/
  | asleep
  deriving DecidableEq, Repr

/-- The checks of R367 on effective flags: none, USER or NOEX (true), READ or WRITE (false) (log entry 43). -/
def permCheck (kind : AccKind) (user : Bool) (r w x u : Bool) : Option Bool :=
  if user && !u then some true
  else if kind == 2 && !x then some true
  else if (kind == 0 || kind == 3) && !r then some false
  else if (kind == 1 || kind == 3) && !w then some false
  else none

/-- Sets a flag of an entry: to 1, or to 0 when inverted. -/
def pteSet (pte : Nat) (f : BitVec 8) : Nat :=
  if flagAbsent f || pteBit pte f then pte
  else if flagInv f then pte - 2 ^ flagPos f else pte + 2 ^ flagPos f

/-- A table's address is one the walk may read (R366): 8-aligned, allowed, and not in region 3. -/
def State.tableOk (s : State) (d : PteFormat) (tbl : Nat) : Bool :=
  decide (tbl % 8 = 0) && d.outOk tbl && decide (regionOf (s.outPa d tbl) ≠ 3)

/-- An address in the output space that a leaf may yield (R246, R366): in its limits at every byte, and in region 3 only
below 2^26. -/
def State.leafOk (s : State) (d : PteFormat) (o : Nat) : Bool :=
  d.outOk o && !(regionOf (s.outPa d o) == 3 && decide (2 ^ 26 ≤ s.outPa d o % 2 ^ 56))

/-- The levels of the walk from a point on. `upd` holds the entries above whose ACC is to be set, `np` the first of them
that AUPD forbids; `steps` the non-leaf entries passed. `probe` makes no update (R368) (log entry 44). -/
def State.walkFrom (s : State) (d : PteFormat) (kind : AccKind) (user probe : Bool) (va : Nat) :
    List Nat → WalkPoint → List (Nat × Nat) → Option Nat → List WalkPoint → WalkRes
  | [], p, _, _, _ => .format p.level
  | iw :: rest, p, upd, np, steps =>
    let k := p.level
    let sh := p.sh - iw
    let addr := s.outPa d (p.tbl + 8 * (va / 2 ^ sh % 2 ^ iw))
    if s.asleep addr then .asleep
    else if s.poisonPhys addr 8 then .poison k
    else
      let pte := leNat (s.readPhys addr 8)
      if !pteBit pte d.pres then .absent k
      else
        let last := rest.isEmpty
        let r := pteGrant pte d.read
        let w := pteGrant pte d.write
        let x := !pteNoex pte d.noex
        let u := pteGrant pte d.user
        let acc := pteGrant pte d.acc
        let dirty := pteGrant pte d.dirty
        let (r', w', x', u') := if d.hier then (p.r && r, p.w && w, p.x && x, p.u && u) else (r, w, x, u)
        let leaf := last || (decide (pte / 2 ^ d.lfb % 2 = 1) == d.lfp)
        let denied := if d.hier || leaf then permCheck kind user r w x u else none
        match (if d.hier then denied else none) with
        | some true => .prot k
        | some false => .denied k
        | none =>
          if leaf then
            if !d.leafok.getLsbD k then .format k
            else if last && d.llchk && (decide (pte / 2 ^ d.lfb % 2 = 1) != d.llp) then .format k
            else match denied with
              | some true => .prot k
              | some false => .denied k
              | none =>
                let store := kind == 1 || kind == 3
                let out := d.outOf pte / 2 ^ sh * 2 ^ sh
                let newPte := if store then pteSet (pteSet pte d.acc) d.dirty else pteSet pte d.acc
                match np.or (if (!acc && !d.aupd) || (store && !dirty && !d.dupd) then some k else none) with
                | some j => .absent j
                | none =>
                  if !s.leafOk d (out + va % 2 ^ sh) then .format k
                  else .page {
                    size := sh, out := out, level := k, r := r', w := w', x := x', u := u'
                    a := acc || !probe, d := dirty || (store && !probe) }
                    (if newPte = pte then upd else upd ++ [(addr, newPte)]) steps
          else if !s.tableOk d (d.outOf pte) then .format k
          else
            let needA := d.hier && !acc
            let q : WalkPoint := { level := k + 1, sh := sh, tbl := d.outOf pte, r := r', w := w', x := x', u := u' }
            s.walkFrom d kind user probe va rest q
              (if needA then upd ++ [(addr, pteSet pte d.acc)] else upd)
              (np.or (if needA && !d.aupd then some k else none)) (steps ++ [q])

/-- A canonical virtual address of a format (R366). -/
def PteFormat.canonical (d : PteFormat) (va : Nat) : Bool :=
  va / 2 ^ (d.vab - 1) == 0 || va / 2 ^ (d.vab - 1) == 2 ^ (64 - d.vab + 1) - 1

/-- The walk of R366 for one access, from the root. -/
def State.walk (s : State) (c : Ctx) (d : PteFormat) (kind : AccKind) (user probe : Bool) (va : Nat) : WalkRes :=
  let root := c.ptroot.toNat / 8 * 8
  if !d.canonical va then .absent 0
  else if !s.tableOk d root then .format 0
  else s.walkFrom d kind user probe va d.iw { level := 0, sh := d.vab, tbl := root } [] none []

/-! ## Cached translations (R371, R372) (log entry 71) -/

/-- A cached entry whose tags are the context's and whose page holds the address. -/
def TlbEntry.serves (e : TlbEntry) (c : Ctx) (d : PteFormat) (va : Nat) : Bool :=
  decide (e.pasid = c.pasid) && decide (e.ptroot = c.ptroot) && decide (e.desc = d) && decide (va / 2 ^ e.size = e.page)

/-- The entry that a page becomes. -/
def TlbEntry.ofPage (c : Ctx) (d : PteFormat) (va : Nat) (i : PageInfo) : TlbEntry :=
  { pasid := c.pasid, ptroot := c.ptroot, desc := d, page := va / 2 ^ i.size, size := i.size, out := i.out,
    pr := i.r, pw := i.w, px := i.x, pu := i.u, acc := i.a, dirty := i.d, level := i.level }

/-- Whether an entry serves an access: permissions hold, and the flags that the access needs are cached set. -/
def TlbEntry.allows (e : TlbEntry) (kind : AccKind) (user probe : Bool) : Bool :=
  (permCheck kind user e.pr e.pw e.px e.pu).isNone &&
    (probe || (e.acc && (e.dirty || !(kind == 1 || kind == 3))))

/-- The address in the output space that an entry gives. -/
def TlbEntry.addr (e : TlbEntry) (va : Nat) : Nat := e.out + va % 2 ^ e.size

/-- Two entries translate one page for one set of tags. -/
def TlbEntry.same (e o : TlbEntry) : Bool :=
  decide (o.pasid = e.pasid) && decide (o.ptroot = e.ptroot) && decide (o.desc = e.desc) &&
    decide (o.page = e.page) && decide (o.size = e.size)

/-- The site of the S-die, whose scalar TLB serves fetch and scalar accesses; a site below 64 is a package cluster. -/
abbrev sDie : Nat := 72

/-- The site's die: 64 + an L-die, or the S-die. -/
def siteDie (site : Nat) : Nat := if site < 64 then 64 + site / 8 else sDie

/-- Entries that a cache keeps with a new one: 64 of a micro-TLB and 1,024 of the scalar TLB, the newest, and 8 of each of
the 1,024 sets of a die TLB. -/
def tlbKeep (cache : Nat) (e : TlbEntry) (l : List TlbEntry) : List TlbEntry :=
  let l := l.filter fun o => !e.same o
  if cache < 64 then (e :: l).take 64
  else if cache < sDie then
    let mine := l.filter fun o => decide (o.page % 1024 = e.page % 1024)
    let gone := mine.drop 7
    e :: l.filter fun o => !gone.contains o
  else (e :: l).take 1024

/-- Installs a translation in one cache in place of an older one of the same page. -/
def State.installIn (s : State) (cache : Nat) (e : TlbEntry) : State :=
  { s with tlbs := smPut cache (tlbKeep cache e (smGet [] s.tlbs cache)) s.tlbs }

/-- Installs a translation for a site: in the cluster's micro-TLB and its die's TLB, or in the scalar TLB. -/
def State.install (s : State) (site : Nat) (e : TlbEntry) : State :=
  if site < 64 then (s.installIn site e).installIn (siteDie site) e else s.installIn sDie e

/-- The cached entry that serves an access in one cache. -/
def State.hitIn (s : State) (cache : Nat) (c : Ctx) (d : PteFormat) (kind : AccKind) (user : Bool) (va : Nat) :
    Option TlbEntry :=
  (smGet [] s.tlbs cache).find? fun e => e.serves c d va && e.allows kind user false

/-- The cached entry that serves an access from a site. -/
def State.hit (s : State) (site : Nat) (c : Ctx) (d : PteFormat) (kind : AccKind) (user : Bool) (va : Nat) :
    Option TlbEntry :=
  if site < 64 then (s.hitIn site c d kind user va).or (s.hitIn (siteDie site) c d kind user va)
  else s.hitIn sDie c d kind user va

/-- A walk cache's entry of a point that a walk passed. -/
def WalkEntry.ofPoint (c : Ctx) (d : PteFormat) (va : Nat) (p : WalkPoint) : WalkEntry :=
  { pasid := c.pasid, ptroot := c.ptroot, desc := d, level := p.level, sh := p.sh, page := va / 2 ^ p.sh, tbl := p.tbl,
    pr := p.r, pw := p.w, px := p.x, pu := p.u }

/-- The point that a walk cache's entry gives. -/
def WalkEntry.point (e : WalkEntry) : WalkPoint :=
  { level := e.level, sh := e.sh, tbl := e.tbl, r := e.pr, w := e.pw, x := e.px, u := e.pu }

/-- The points of an address that a die's walk cache holds. -/
def State.walkHits (s : State) (site : Nat) (c : Ctx) (d : PteFormat) (va : Nat) : List WalkEntry :=
  (smGet [] s.walks (siteDie site)).filter fun e =>
    decide (e.pasid = c.pasid) && decide (e.ptroot = c.ptroot) && decide (e.desc = d) && decide (va / 2 ^ e.sh = e.page)

/-- The deepest of some cached points. -/
def deepest (l : List WalkEntry) : Option WalkEntry :=
  l.foldl (fun b e => match b with | some x => if x.level < e.level then some e else b | none => some e) none

/-- A cached point's own permissions and those above it deny an access under HIER (R367). -/
def WalkEntry.denies (e : WalkEntry) (d : PteFormat) (kind : AccKind) (user : Bool) : Bool :=
  d.hier && (permCheck kind user e.pr e.pw e.px e.pu).isSome

/-- A site's walk: from the deepest cached point, and again from the root where that does not succeed, or where the levels
above deny the access (R367, R372). -/
def State.siteWalk (s : State) (site : Nat) (c : Ctx) (d : PteFormat) (kind : AccKind) (user probe : Bool) (va : Nat) :
    WalkRes :=
  match deepest (s.walkHits site c d va) with
  | none => s.walk c d kind user probe va
  | some e =>
    if e.denies d kind user then s.walk c d kind user probe va
    else match s.walkFrom d kind user probe va (d.iw.drop e.level) e.point [] none [] with
    | .page i upd steps => .page i upd steps
    | _ => s.walk c d kind user probe va

/-- Keeps the non-leaf entries of a walk in the die's walk cache, 512 at most, the newest first. -/
def State.keepSteps (s : State) (site : Nat) (c : Ctx) (d : PteFormat) (va : Nat) (l : List WalkPoint) : State :=
  if l.isEmpty then s
  else
    let k := siteDie site
    let new := l.map (WalkEntry.ofPoint c d va)
    { s with walks := smPut k ((new ++ (smGet [] s.walks k).filter fun e => !new.contains e).take 512) s.walks }

/-- Writes the flag updates of a walk (R368). -/
def State.setFlags (s : State) : List (Nat × Nat) → State
  | [] => s
  | (a, v) :: l => (s.writePhys a (leBytes 8 v)).setFlags l

/-! ## One access -/

/-- ESUB of XLATE and PROT (R165). -/
def accSub (kind : AccKind) (user refused : Bool) : Nat :=
  kind + (if user then 4 else 0) + (if refused then 8 else 0)

/-- A page request for one page (R373). -/
def pageReq (site : Nat) (c : Ctx) (kind : AccKind) (user : Bool) (page : Nat) : PageReq :=
  { group := 0, pasid := c.pasid, pages := [page], write := decide (kind = 1 ∨ kind = 3), exec := decide (kind = 2),
    user := user, sub := BitVec.ofNat 11 (accSub kind user false), die := siteDie site - 64 }

/-- A fault that the host may resolve, or the trap where PRI is off or has failed (R367, R373, R374). -/
def State.askOr (s : State) (site : Nat) (c : Ctx) (d : PteFormat) (kind : AccKind) (user : Bool) (va : Nat)
    (cause : BitVec 8) : Res Nat :=
  if !d.pri then .trap (trapOf cause (accSub kind user false) (BitVec.ofNat 64 va)) s
  else if s.ctl.prifail then .trap (trapOf causeXlate (accSub kind user true) (BitVec.ofNat 64 va)) s
  else .ask (pageReq site c kind user (va / 2 ^ d.gran * 2 ^ d.gran)) s

/-- PROT of region 3 (R461). -/
def protTrap (kind : AccKind) (user : Bool) (va : Nat) : TrapInfo :=
  trapOf causeProt (accSub kind user false) (BitVec.ofNat 64 va)

/-- Counts the misses that start a walk (R419). -/
def State.countMiss (s : State) (site : Nat) (c : Ctx) : State :=
  let s := if site < 64 then (s.perfCount site 0x0C (some c.pasid) 1).perfCount (siteDie site) 0x40 (some c.pasid) 1 else s
  s.perfCount (siteDie site) 0x41 (some c.pasid) 1

/-- What an access meets at an offset of region 3 (R461): nothing, or a trap. -/
abbrev Gate := Nat → Option TrapInfo

/-- The gate of an access that never reaches region 3. -/
def Ctx.noMmio (c : Ctx) (kind : AccKind) (va : Nat) : Gate := fun _ => some (protTrap kind (!c.sup) va)

/-- A gate's answer for a device physical address. -/
def Gate.at (g : Gate) (pa : Nat) : Option TrapInfo := if regionOf pa = 3 then g (pa % 2 ^ 56) else none

/-- Translates one virtual address for an access of a context at a site, to the output space (R366 to R369, R372). An
access that its gate stops is not performed and updates no flag. -/
def State.translateOut (s : State) (site : Nat) (c : Ctx) (kind : AccKind) (gate : Gate) (va : Nat) : Res Nat :=
  let user := !c.sup
  match c.desc with
  | none => .trap (trapOf causePteFmt 7 (BitVec.ofNat 64 va)) s
  | some d =>
    match s.hit site c d kind user va with
    | some e =>
      if !s.leafOk d (e.addr va) then .trap (trapOf causePteFmt e.level (BitVec.ofNat 64 va)) s
      else match gate.at (s.outPa d (e.addr va)) with
      | some t => .trap t s
      | none =>
        .ok (e.addr va) (if site < 64 ∧ (s.hitIn site c d kind user va).isNone then
          (s.perfCount site 0x0C (some c.pasid) 1).installIn site e else s)
    | none =>
      let sleeps := Res.wait s
      let s := s.countMiss site c
      match s.siteWalk site c d kind user false va with
      | .page i upd steps =>
        let o := i.out + va % 2 ^ i.size
        match gate.at (s.outPa d o) with
        | some t => .trap t s
        | none => .ok o (((s.setFlags upd).install site (TlbEntry.ofPage c d va i)).keepSteps site c d va steps)
      | .absent _ => s.askOr site c d kind user va causeXlate
      | .denied _ => s.askOr site c d kind user va causeProt
      | .prot _ => .trap (trapOf causeProt (accSub kind user false) (BitVec.ofNat 64 va)) s
      | .format k => .trap (trapOf causePteFmt k (BitVec.ofNat 64 va)) s
      | .poison _ => .trap (trapOf causeMemPoison 0 (BitVec.ofNat 64 va)) s
      | .asleep => sleeps

/-- An address of the context's output space as a device physical address (R369). -/
def State.ctxPa (s : State) (c : Ctx) (o : Nat) : Nat := match c.desc with | some d => s.outPa d o | none => o

/-- Translates one virtual address of a scalar access or a fetch to a device physical address. -/
def State.translate (s : State) (c : Ctx) (kind : AccKind) (gate : Gate) (va : Nat) : Res Nat :=
  (s.translateOut sDie c kind gate va).andThen fun o s' => .ok (s'.ctxPa c o) s'

/-- The bytes from a virtual address to the end of its smallest page: a wide access is translated page by page. -/
def Ctx.granBytes (c : Ctx) : Nat := match c.desc with | some d => 2 ^ d.gran | none => 4096

/-! ## Host page requests (R167, R373) -/

/-- The requests, oldest first, for whose pages the host has given credits. -/
def sentFrom : Nat → List PageReq → List PageReq
  | _, [] => []
  | room, q :: l => if q.pages.length ≤ room then q :: sentFrom (room - q.pages.length) l else []

/-- The requests that are at the host: at most 512 pages are outstanding (R373, R425). -/
def State.sent (s : State) : List PageReq := sentFrom 512 s.requests

/-- Counts the pages of the groups that have gone to the host and were not in an earlier list (R419). -/
def State.countSent (s : State) (before : List PageReq) : State :=
  (s.sent.filter fun q => !before.any fun o => decide (o.group = q.group)).foldl
    (fun s q => s.perfCount 72 0x42 (some q.pasid) q.pages.length) s

/-- A page request takes the next group number; it goes to the host when there are credits for it (R373). -/
def State.request (s : State) (q : PageReq) : State :=
  ({ s with nextId := s.nextId + 1, requests := s.requests ++ [{ q with group := s.nextId }] } : State).countSent s.sent

/-- The context waits in XLATE_HOST for a page request group; the wait is recorded (R167, R432). -/
def State.hostWait (s : State) (n : Nat) (r : PageReq) : State :=
  let c := s.ctxAt n
  let g := s.nextId
  let s := s.request { r with pages := r.pages.take 32 }
  let s := s.setCtx n { c with mode := .descheduled, group := some g, viq := [], queued := [], wait := none }
  s.post { s.recordOf n 4 with cause := causeXlateHost, epc := c.pc, eval := BitVec.ofNat 64 (r.pages.headD 0) }

/-- Ends an instruction by its result: a trap with EPC at the instruction, or the wait for the host. -/
def State.finish (s : State) (r : Res Unit) : State :=
  match r with
  | .ok _ s' => s'
  | .trap t s' => s'.enterTrap s.cur t s.me.pc
  | .ask q s' => s'.hostWait s.cur q
  | .wait s' => s'

/-! ## Hotness (R379, R380): keys die * 4096 + index -/

/-- Saturating addition at 2^21 - 1. -/
def sat21 (a b : Nat) : Nat := min (a + b) (2 ^ 21 - 1)

/-- Adds to the entry of one hotness page the `n` elements of an access whose first byte lies in it; an entry of another
page loses the access's `total`. Kind 0 unit, 1 strided, 2 indexed (log entry 70). -/
def State.hotAdd (s : State) (die : Nat) (pasid : Word) (va kind n total : Nat) : State :=
  let page := va / 2 ^ 16 % 2 ^ 41
  let idx := Nat.xor (Nat.xor (va / 2 ^ 16 % 4096) (va / 2 ^ 28 % 4096)) (Nat.xor (va / 2 ^ 40 % 4096) (pasid.toNat % 4096))
  let key := die * 4096 + idx
  let pid := BitVec.ofNat 20 pasid.toNat
  let fresh : Hot := Hot.mk pid page (if kind = 0 then sat21 0 n else 0) (if kind = 1 then sat21 0 n else 0)
    (if kind = 2 then sat21 0 n else 0)
  let entry : Hot :=
    match smFind key s.hot with
    | none => fresh
    | some h =>
      if h.pasid = pid ∧ h.page = page then
        Hot.mk pid page (if kind = 0 then sat21 h.unit n else h.unit) (if kind = 1 then sat21 h.strided n else h.strided)
          (if kind = 2 then sat21 h.indexed n else h.indexed)
      else
        let h' := Hot.mk h.pasid h.page (h.unit - total) (h.strided - total) (h.indexed - total)
        if h'.unit = 0 ∧ h'.strided = 0 ∧ h'.indexed = 0 then fresh else h'
  { s with hot := smPut key entry s.hot }

end Sys2Proof.Machine
end

