-- ==== Sys2Proof/Machine/Csr.lean ====
section
/-! DEFINITION. The control and status registers: what each number reads, what a write must satisfy, and what it
changes (R141 to R149, R158, R215 to R220, R362, R363). -/

namespace Sys2Proof.Machine

/-- MODMU of a modulus: the floor of 2^62 / q (R60, R143). -/
def modMu (q : Word) : Word := BitVec.ofNat 64 (2 ^ 62 / (q.toNat % 2 ^ 30))

/-- The value of a CSR of a context (R141). An unassigned number reads 0; the decoder never lets one through. -/
def State.csrRead (s : State) (c : Ctx) (n : Nat) : Word :=
  if 0x010 ≤ n ∧ n ≤ 0x017 then c.tc (n - 0x010)
  else match n with
  | 0x000 => c.vl
  | 0x001 => c.vstart
  | 0x002 => c.vspan
  | 0x003 => c.vlmax
  | 0x004 => c.vdirty ||| s.childDirty c
  | 0x005 => c.efc
  | 0x006 => c.modq
  | 0x007 => modMu c.modq
  | 0x008 => c.fcsr
  | 0x018 => c.ten
  | 0x019 => c.accfmt
  | 0x01A => c.mxm
  | 0x01B => c.mxn
  | 0x01C => c.mxk
  | 0x01D => c.mxlat
  | 0x020 => BitVec.ofNat 64 s.cycle
  | 0x021 => c.retired
  | 0x022 => BitVec.ofNat 64 s.time
  | 0x024 => c.lidx[0]
  | 0x025 => c.lidx[1]
  | 0x026 => c.lidx[2]
  | 0x027 => c.lidx[3]
  | 0x100 => c.status
  | 0x101 => c.stvec
  | 0x102 => c.cause
  | 0x103 => c.epc
  | 0x104 => c.eval
  | 0x105 => c.esub
  | 0x106 => c.eelem
  | 0x107 => c.sscratch
  | 0x110 => c.ptroot
  | 0x111 => c.ptdesc
  | 0x112 => c.pasid
  | 0x120 => c.quantum
  | 0x121 => c.wdog
  | _ => 0

/-- The low bits of a value: bits at and above `n` are Z fields and dropped (R158). -/
def lowBits (n : Nat) (v : Word) : Word := BitVec.ofNat 64 (v.toNat % 2 ^ n)

/-- Clears the low bits of a value. -/
def clearLow (n : Nat) (v : Word) : Word := BitVec.ofNat 64 (v.toNat / 2 ^ n * 2 ^ n)

/-- A TCFG value that keeps every constraint of R215, for a share of `cap` rows. -/
def tcfgOk (cap : Nat) (w : Word) : Bool :=
  let m := tcM w
  let n := tcN w
  (m == 1 || m == 2 || m == 4 || m == 8 || m == 16) &&
  decide (1 ≤ n) && (if m = 1 then n == 1 else decide (n < m)) &&
  decide (1 ≤ tcCols w) && decide (tcCols w ≤ 128) && (m == 1 || tcCols w % m == 0) &&
  decide (1 ≤ tcRows w) && decide (tcRows w ≤ cap) && decide (tcFmt w ≤ 4)

/-- How a write of a CSR ends. -/
inductive CsrWrite where
  | ok (c : Ctx)
  /-- A value that breaks a constraint of the field map (R158). -/
  | illegal
  /-- A change of STATUS.SUP (R147). -/
  | readOnly
  /-- The descriptor capture met a poisoned word (R363). -/
  | poison
  deriving DecidableEq, Repr

/-- A field constraint. -/
def csrIf (ok : Bool) (c : Ctx) : CsrWrite := if ok then .ok c else .illegal

/-- Writes a value to a writable CSR: Z fields are dropped first, then the constraints are checked (R142 to R149,
R158, R215 to R218, R362). -/
def State.csrWrite (s : State) (c : Ctx) (n : Nat) (v : Word) : CsrWrite :=
  if 0x010 ≤ n ∧ n ≤ 0x017 then
    let w := BitVec.ofNat 64 (v.toNat % 2 ^ 40 / 2 ^ 13 * 2 ^ 13 + v.toNat % 8)
    csrIf (tcfgOk c.shareRows w) (c.setTc (n - 0x010) w)
  else match n with
  | 0x000 => csrIf (decide (v.toNat % 2 ^ 20 ≤ c.vlmax.toNat)) { c with vl := lowBits 20 v }
  | 0x001 => csrIf (decide (v.toNat % 2 ^ 20 < c.vlmax.toNat)) { c with vstart := lowBits 20 v }
  | 0x004 => .ok { c with vdirty := lowBits 16 v }
  | 0x005 => csrIf (decide (v.toNat / 2 ^ 23 % 256 ≠ 255)) { c with efc := lowBits 32 v }
  | 0x006 => let q := v.toNat % 2 ^ 30
    csrIf (decide (q % 2 = 1) && decide (3 ≤ q)) { c with modq := lowBits 30 v }
  | 0x008 => csrIf (decide (v.toNat / 2 ^ 12 % 8 ≤ 4)) { c with fcsr := lowBits 16 v }
  | 0x018 => .ok { c with ten := lowBits 12 v }
  | 0x019 => .ok { c with accfmt := lowBits 8 v }
  | 0x01A => csrIf (decide (v.toNat % 256 ≤ c.shareRows)) { c with mxm := lowBits 8 v }
  | 0x01B => csrIf (decide (v.toNat % 256 ≤ 128)) { c with mxn := lowBits 8 v }
  | 0x01C => csrIf (decide (v.toNat % 256 ≤ c.shareRows)) { c with mxk := lowBits 8 v }
  | 0x100 => if v.getLsbD 0 = c.sup then .ok { c with status := lowBits 3 v } else .readOnly
  | 0x101 => .ok { c with stvec := clearLow 2 v }
  | 0x102 => .ok { c with cause := lowBits 8 v }
  | 0x103 => .ok { c with epc := clearLow 2 v }
  | 0x104 => .ok { c with eval := v }
  | 0x105 => .ok { c with esub := lowBits 11 v }
  | 0x106 => .ok { c with eelem := lowBits 20 v }
  | 0x107 => .ok { c with sscratch := v }
  | 0x110 => .ok { c with ptroot := clearLow 3 (lowBits 60 v) }
  | 0x111 =>
    let p := clearLow 5 (lowBits 60 v)
    match s.captureDesc p with
    | .ok d => .ok { c with ptdesc := p, desc := some d }
    | .invalid => .illegal
    | .poison => .poison
  | 0x112 => .ok { c with pasid := lowBits 20 v }
  | 0x120 => csrIf (decide (1 ≤ v.toNat % 2 ^ 16) && decide (v.toNat % 2 ^ 16 ≤ 20)) { c with quantum := lowBits 16 v }
  | 0x121 => .ok { c with wdog := lowBits 32 v }
  | _ => .illegal

/-- TILE_OFF of a CSR instruction (R214, R219): subcode and EVAL. `new` is the value that a write would leave. -/
def Ctx.csrTileOff (c : Ctx) (n : Nat) (new : Option Word) : Option (Nat × Nat) :=
  if (decide (0x010 ≤ n) && decide (n ≤ 0x019)) || n == 0x01D then
    if c.share = 0 then some (1, 0)
    else if n ≤ 0x017 then (if c.ten.getLsbD (n - 0x010) then none else some (0, n - 0x010))
    else if n = 0x019 then
      match new with
      | none => none
      | some v =>
        ((List.range 4).find? fun a => !c.ten.getLsbD (8 + a) && decide (v.toNat / 4 ^ a % 4 ≠ c.accMode a)).map fun a => (0, 8 + a)
    else none
  else none

/-- A CSR access that waits for the strand's matrix tokens (R220). -/
def csrWaits (n : Nat) (write : Bool) : Bool :=
  (decide (0x010 ≤ n) && decide (n ≤ 0x017)) || (write && (n == 0x018 || n == 0x019))

/-- Blocks the current instruction until room or completion; it executes again (R21, R220) (log entry 27). -/
def State.block (s : State) : State := s.setMe { s.me with wait := some .engine }

/-- csrr (R158). -/
def State.csrReadOp (s : State) (i : Instr) (rd : XReg) (n : Nat) : State :=
  let c := s.me
  if 0x100 ≤ n ∧ !c.sup then s.trapPriv 0 (parcelOf i)
  else match c.csrTileOff n none with
  | some (sub, ev) => s.trap causeTileOff sub (BitVec.ofNat 64 ev)
  | none => if csrWaits n false && s.tokensLeft c then s.block else s.done rd (s.csrRead c n)

/-- csrw, csrs and csrc (R158): the old value and X[ra] are read before anything is written. A write of VDIRTY counts for
the children's lanes too (log entry 91). -/
def State.csrWriteOp (s : State) (i : Instr) (rd : XReg) (n : Nat) (f : Word → Word) : State :=
  let c := s.me
  let old := s.csrRead c n
  if 0x100 ≤ n ∧ !c.sup then s.trapPriv 0 (parcelOf i)
  else match c.csrTileOff n (some (lowBits 8 (f old))) with
  | some (sub, ev) => s.trap causeTileOff sub (BitVec.ofNat 64 ev)
  | none =>
    if csrWaits n true && s.tokensLeft c then s.block
    else if n == 0x111 && !s.descAwake (clearLow 5 (lowBits 60 (f old))) then s.block
    else match s.csrWrite c n (f old) with
    | .ok c' => (if n = 4 then s.cleanChildren c else s).setMe ((c'.setReg rd old).advance)
    | .illegal => s.trap causeOperand 6 (BitVec.ofNat 64 (parcelOf i))
    | .readOnly => s.trap causeOp 5 (BitVec.ofNat 64 (parcelOf i))
    | .poison => s.trap causeMemPoison 0 (clearLow 5 (lowBits 60 (f old)))

/-- csrr. -/
def execCsrr (rd : XReg) (csr : BitVec 9) (s : State) : Host.Outcome State Fault Refusal :=
  .next (s.csrReadOp (.csrr rd csr) rd csr.toNat)

/-- csrw: the new value is X[ra]. -/
def execCsrw (rd ra : XReg) (csr : BitVec 9) (s : State) : Host.Outcome State Fault Refusal :=
  .next (s.csrWriteOp (.csrw rd ra csr) rd csr.toNat fun _ => s.me.reg ra)

/-- csrs: the new value is v | X[ra]. -/
def execCsrs (rd ra : XReg) (csr : BitVec 9) (s : State) : Host.Outcome State Fault Refusal :=
  .next (s.csrWriteOp (.csrs rd ra csr) rd csr.toNat fun v => v ||| s.me.reg ra)

/-- csrc: the new value is v & ~X[ra]. -/
def execCsrc (rd ra : XReg) (csr : BitVec 9) (s : State) : Host.Outcome State Fault Refusal :=
  .next (s.csrWriteOp (.csrc rd ra csr) rd csr.toNat fun v => v &&& ~~~(s.me.reg ra))

/-- vsetvl (R160): VL := min(X[ra], VLMAX). -/
def execVsetvl (rd ra : XReg) (s : State) : Host.Outcome State Fault Refusal :=
  let c := s.me
  let n := if c.vlmax.toNat < (c.reg ra).toNat then c.vlmax else c.reg ra
  .next (s.setMe (({ c with vl := n }.setReg rd n).advance))

/-- trap (R161). -/
def execTrap (code : BitVec 9) (s : State) : Host.Outcome State Fault Refusal :=
  .next (s.trap causeSwTrap code.toNat 0)

/-- brk (R161). -/
def execBrk (code : BitVec 9) (s : State) : Host.Outcome State Fault Refusal :=
  .next (s.trap causeBreak code.toNat 0)

end Sys2Proof.Machine
end

