-- ==== Sys2Proof/Machine/Operands.lean ====
section
/-! DEFINITION. Vector operands: where an element lives, what a slot of the open convoy reads and writes, the element
loop, the footprint and width checks of R99 step 4, and the capture of a convoy (R10, R22, R88 to R99, R110 to R135,
R169, R170). -/

namespace Sys2Proof.Machine

/-! ## Operand fields -/

/-- Width in slices of a width code (R87). -/
def widthOf (w : BitVec 4) : Nat := if w = 0 then 16 else w.toNat

end Sys2Proof.Machine

namespace Sys2Proof

/-- Width in slices of an operand (R87). -/
def Opnd.w (o : Opnd) : Nat := Machine.widthOf o.wcode

/-- First slice of an operand (R87). -/
def Opnd.s (o : Opnd) : Nat := o.start.toNat

/-- The scalar register that a field names (R87). -/
def Opnd.reg (o : Opnd) : XReg := BitVec.ofNat 5 o.start.toNat

/-- The index field of the VM format as an operand (R92). -/
def VM.index (f : VM) : Opnd := ⟨BitVec.ofNat 10 (f.idx.toNat / 16), BitVec.ofNat 4 f.idx.toNat⟩

end Sys2Proof

namespace Sys2Proof.Machine

/-- The machine as a slot sees it: the state before the convoy, its context, and the open convoy. -/
structure VEnv where
  s : State
  c : Ctx
  cv : Convoy
  deriving Repr

def VEnv.L (v : VEnv) : Nat := v.c.lanes
def VEnv.laneOf (v : VEnv) (e : Nat) : Nat := e % v.L
def VEnv.row (v : VEnv) (e : Nat) : Nat := e / v.L

/-- The number of the slot that runs. -/
def VEnv.slot (v : VEnv) : Nat := v.cv.logs.length

/-- The key of slice `i` of span lane `l` (R110). -/
def VEnv.sliceKey (v : VEnv) (l i : Nat) : Nat := v.c.laneNo l * 1024 + i

/-- The key of the first slice of element `e` of an operand (R10). -/
def VEnv.elemKey (v : VEnv) (o : Opnd) (e : Nat) : Nat := v.sliceKey (v.laneOf e) (o.s + o.w * v.row e)

/-! ## Reads inside a convoy (R119 to R121) -/

/-- The last write of a log to a key in exactly one row. -/
def lastIn (row key : Nat) (l : List SliceWrite) : Option Nib :=
  (l.findRev? fun w => decide (w.key = key) && decide (w.row = row)).map SliceWrite.val

/-- What slot `slot` reads of a slice at a row: the write of the highest earlier slot in that row, else the last of
its own writes in earlier rows (`own`, newest first), else the value before the convoy. -/
def VEnv.slice (v : VEnv) (own : List SliceWrite) (row key : Nat) : Nib :=
  match v.cv.logs.reverse.findSome? fun g => lastIn row key g.slices with
  | some x => x
  | none =>
    match own.find? fun w => decide (w.key = key) && decide (w.row < row) with
    | some w => w.val
    | none => smGet 0 v.s.slices key

/-- The bits of `w` slices from a key, the first slice in bits [3:0]. -/
def VEnv.slicesFrom (v : VEnv) (own : List SliceWrite) (row key : Nat) : Nat → Nat
  | 0 => 0
  | n + 1 => (v.slice own row key).toNat + 16 * v.slicesFrom own row (key + 1) n

/-- Get(op, e), read at a row (R10, R121). -/
def VEnv.getAt (v : VEnv) (own : List SliceWrite) (o : Opnd) (e row : Nat) : Nat :=
  v.slicesFrom own row (v.elemKey o e) o.w

/-- Get(op, e) of an instruction that reads everything before it writes: at the element's own row (R120). -/
def VEnv.get (v : VEnv) (o : Opnd) (e : Nat) : Nat := v.getAt [] o e (v.row e)

/-- Src(op, j) (R193): zero bits at and beyond VL. -/
def VEnv.src (v : VEnv) (o : Opnd) (j : Nat) : Nat := if j < v.cv.vl then v.get o j else 0

/-- Put(op, e, x): the writes of an element, first slice first. -/
def VEnv.putFrom (row e key : Nat) : Nat → Nat → List SliceWrite
  | 0, _ => []
  | n + 1, x => { row := row, elem := e, key := key, val := BitVec.ofNat 4 x } :: VEnv.putFrom row e (key + 1) n (x / 16)

def VEnv.put (v : VEnv) (o : Opnd) (e x : Nat) : List SliceWrite :=
  VEnv.putFrom (v.row e) e (v.elemKey o e) o.w x

/-! ## Predicates (R139, R140) -/

/-- The key of predicate `p` of a lane. -/
def VEnv.predKey (v : VEnv) (l p : Nat) : Nat := v.c.laneNo l * 16 + p

/-- P[p][e] as the slot reads it (R10, R121, R140). -/
def VEnv.pred (v : VEnv) (p e : Nat) : Bool :=
  if p = 12 then decide (e < v.cv.vl)
  else if p = 14 then decide (v.laneOf e < v.cv.mxm)
  else if p = 15 then decide (e < v.cv.mxn)
  else
    let key := v.predKey (v.laneOf e) p
    let row := v.row e
    match v.cv.logs.reverse.findSome? fun g =>
        (g.preds.findRev? fun w => decide (w.key = key) && decide (w.row = row)).map PredWrite.val with
    | some b => b
    | none => (smGet (0 : Word) v.s.preds key).getLsbD row

/-- Act(e) (R10). -/
def VEnv.act (v : VEnv) (p : BitVec 4) (e : Nat) : Bool :=
  decide (v.cv.vstart ≤ e) && decide (e < v.cv.vl) && v.pred p.toNat e

def VEnv.putPred (v : VEnv) (p e : Nat) (b : Bool) : PredWrite :=
  { row := v.row e, elem := e, key := v.predKey (v.laneOf e) p, val := b }

/-! ## Poisoned bank rows (R111) -/

/-- The location that EVAL holds of the first poisoned bank row that `n` slices from a key touch (log entry 90). -/
def VEnv.poisonFrom (v : VEnv) (key n : Nat) : Option Nat :=
  if v.s.slicePoison.isEmpty then none
  else ((List.range ((key + n - 1) / 16 - key / 16 + 1)).find? fun i => v.s.slicePoison.contains (key / 16 + i)).map
    fun i => 16 * (key / 16 + i)

/-- The first poisoned bank row that a write of `n` slices from a key covers only in part. -/
def VEnv.poisonPart (v : VEnv) (key n : Nat) : Option Nat :=
  if n = 16 ∧ key % 16 = 0 then none else v.poisonFrom key n

/-- HW_UE of a slice row (R111, R165). -/
def hwUeSlice (loc : Nat) : TrapInfo := trapOf causeHwUe 1 (BitVec.ofNat 64 loc)

/-- The fault of an active element whose sources or whose partial destination write meet a poisoned row. -/
def VEnv.poisonCheck (v : VEnv) (srcs : List (Opnd × Nat)) (dest : Option (Opnd × Nat)) : Option TrapInfo :=
  match srcs.findSome? fun p => v.poisonFrom (v.elemKey p.1 p.2) p.1.w with
  | some k => some (hwUeSlice k)
  | none => (dest.bind fun p => v.poisonPart (v.elemKey p.1 p.2) p.1.w).map hwUeSlice

/-! ## Source 2 (R89, R170) -/

/-- The element of source 2 that element e reads. -/
def src2Elem (f : VR) (e : Nat) : Nat :=
  if f.mode = 0 then e else if f.mode = 1 then 0 else e % 2 ^ (f.seg.toNat + 1)

/-- The bits of source 2 for element e, and their width in bits. -/
def VEnv.s2 (v : VEnv) (own : List SliceWrite) (f : VR) (e : Nat) : Nat × Nat :=
  if f.mode = 3 then ((v.c.reg f.src2.reg).toNat, 64)
  else (v.getAt own f.src2 (src2Elem f e) (v.row e), 4 * f.src2.w)

/-- Source 2 of an XFER instruction: read at its own source row (R121). -/
def VEnv.s2x (v : VEnv) (f : VR) (e : Nat) : Nat :=
  if f.mode = 3 then (v.c.reg f.src2.reg).toNat else v.get f.src2 (src2Elem f e)

/-! ## The element loop (R169) -/

/-- What a slot has done so far: its log with slices and predicates newest first, and its first fault. -/
structure VAcc where
  log : SlotLog := {}
  fault : Option (Nat × TrapInfo) := none
  deriving Repr

/-- Where an instruction writes its elements. -/
inductive VDest where
  | slices (o : Opnd)
  | pred (p : Nat)
  deriving DecidableEq, Repr

/-- Writes element e. -/
def VEnv.write (v : VEnv) (d : VDest) (a : VAcc) (e x : Nat) : VAcc :=
  match d with
  | .slices o => { a with log := { a.log with slices := (v.put o e x).reverse ++ a.log.slices } }
  | .pred p => { a with log := { a.log with preds := v.putPred p e (x % 2 == 1) :: a.log.preds } }

/-- The value and flags of an element, or its fault; it sees the slot's own writes so far. -/
abbrev ElemFn := List SliceWrite → Nat → Except TrapInfo (Nat × FpFlags)

/-- FP_EXC of an element (R45). -/
def fpExc (fl : FpFlags) : TrapInfo := trapOf causeFpExc fl.toNat 0

/-- One element of the loop of R169 (log entry 90). -/
def VEnv.elem (v : VEnv) (d : VDest) (pred : BitVec 4) (pz : Bool) (srcs : Nat → List (Opnd × Nat)) (F : ElemFn)
    (a : VAcc) (e : Nat) : VAcc :=
  match a.fault with
  | some _ => a
  | none =>
    if v.act pred e then
      match if v.s.slicePoison.isEmpty then none
        else v.poisonCheck (srcs e) (match d with | .slices o => some (o, e) | .pred _ => none) with
      | some t => { a with fault := some (e, t) }
      | none =>
        match F a.log.slices e with
        | .error t => { a with fault := some (e, t) }
        | .ok (x, fl) =>
          if fl &&& v.c.enables ≠ 0 then { a with fault := some (e, fpExc fl) }
          else
            let a := v.write d a e x
            if fl = 0 then a else { a with log := { a.log with flags := (e, fl) :: a.log.flags } }
    else if pz then v.write d a e 0 else a

/-- The elements VSTART ... VL - 1. -/
def VEnv.elems (v : VEnv) : List Nat := (List.range (v.cv.vl - v.cv.vstart)).map (v.cv.vstart + ·)

/-- The active elements, ascending. -/
def VEnv.actives (v : VEnv) (p : BitVec 4) : List Nat := v.elems.filter (v.act p)

/-- The reads of source 2 that are charged to element e: its own, or for a replicated source (modes 01 and 10, R115) at
the lowest active element of the slot those of every element that uses it (R111). -/
def src2Reads (f : VR) (act users : List Nat) (e : Nat) : List (Opnd × Nat) :=
  if f.mode = 3 then []
  else if f.mode = 0 then (if users.contains e then [(f.src2, e)] else [])
  else if act.head? = some e then ((users.map (src2Elem f)).eraseDups).map fun k => (f.src2, k) else []

/-- The source reads of an element of a VR instruction, for the poison check. -/
def VEnv.srcs (v : VEnv) (one two dst : Bool) (f : VR) (e : Nat) : List (Opnd × Nat) :=
  let act := v.actives f.pred
  (if one then [(f.src1, e)] else []) ++ (if two then src2Reads f act act e else []) ++ (if dst then [(f.dest, e)] else [])

/-- The fault at the lowest element, and of those at one element the first. -/
def lowestFault (l : List (Option (Nat × TrapInfo))) : Option (Nat × TrapInfo) :=
  l.foldl (fun a b => match a, b with
    | some x, some y => if y.1 < x.1 then some y else some x
    | some x, none => some x
    | none, b => b) none

/-- The rows of an operand that a slot commits (R130). -/
def VEnv.rowsOf (v : VEnv) (o : Opnd) : List (Nat × Nat × Nat) :=
  if v.cv.vstart < v.cv.vl then
    (List.range (v.row (v.cv.vl - 1) - v.row v.cv.vstart + 1)).map fun i =>
      let r := v.row v.cv.vstart + i
      (r, o.s + o.w * r, o.w)
  else []

/-- The log in program order, with the rows of its destination. -/
def VEnv.close (v : VEnv) (d : Option Opnd) (a : VAcc) : VAcc :=
  { a with log := { a.log with
      slices := a.log.slices.reverse
      preds := a.log.preds.reverse
      flags := a.log.flags.reverse
      rows := match d with | some o => v.rowsOf o | none => a.log.rows } }

/-- The loop of R169. -/
def VEnv.loop (v : VEnv) (d : VDest) (pred : BitVec 4) (pz : Bool) (srcs : Nat → List (Opnd × Nat)) (F : ElemFn) : VAcc :=
  v.close (match d with | .slices o => some o | .pred _ => none)
    (v.elems.foldl (v.elem d pred pz srcs F) {})

/-- A loop that reads all before it writes (R120): F sees no write of its own. -/
def VEnv.loopX (v : VEnv) (d : VDest) (pred : BitVec 4) (pz : Bool) (srcs : Nat → List (Opnd × Nat)) (F : Nat → Nat) :
    VAcc :=
  v.loop d pred pz srcs fun _ e => .ok (F e, 0)

/-- The accumulated effect of a slot that writes its slices and predicates at once, in program order, with the rows of
its destination that hold a written element or lie from VSTART to VL - 1. -/
def VEnv.atOnce (v : VEnv) (o : Opnd) (slices : List SliceWrite) (preds : List PredWrite) : VAcc :=
  let extra := (slices.map SliceWrite.row).eraseDups.map fun r => (r, o.s + o.w * r, o.w)
  { log := { slices := slices, preds := preds, rows := (v.rowsOf o ++ extra).eraseDups } }

/-! ## Operand checks of R99 step 4 -/

/-- Rows of an operand of n elements (R114). -/
def rowCount (L n : Nat) : Nat := if L = 0 then 0 else (n + L - 1) / L

/-- What step 4 checks of one slot, in its order. -/
structure OperandSpec where
  /-- A predicate destination, and whether p13 is allowed (R90). -/
  predDest : Option (Nat × Bool) := none
  /-- A tile or accumulator number out of range (R93). -/
  badItem : Bool := false
  badWidth : Bool := false
  oddWidth : Bool := false
  /-- Operands with their row counts (R114, R115). -/
  foot : List (Opnd × Nat) := []
  /-- A slice range (R132). -/
  range : Option (Nat × Nat) := none
  /-- Remaining checks of the description: cause and subcode. -/
  rest : List (Bool × BitVec 8 × Nat) := []
  deriving Repr

/-- The first failing check (R99 step 4). -/
def OperandSpec.first (o : OperandSpec) : Option (BitVec 8 × Nat) :=
  let bad (b : Bool) (c : BitVec 8) (n : Nat) : Bool × BitVec 8 × Nat := (b, c, n)
  let l := [
    bad (match o.predDest with | some (p, p13) => !(decide (p < 12) || (p13 && p == 13)) | none => false) causeOperand 3,
    bad o.badItem causeOperand 5, bad o.badWidth causeOperand 2, bad o.oddWidth causeOperand 7,
    bad (o.foot.any fun p => decide (1024 < p.1.s + p.1.w * p.2)) causeOperand 1,
    bad (match o.range with | some (s, n) => decide (1024 < s + n) | none => false) causeOperand 1] ++ o.rest
  (l.find? Prod.fst).map Prod.snd

/-- A width is one of a list. -/
def inWidths (l : List Nat) (o : Opnd) : Bool := l.contains o.w

/-- The real float widths (R178). -/
def floatW : List Nat := [2, 4, 8]

/-- The footprint of source 2 (R115). -/
def foot2 (rows : Nat) (f : VR) : List (Opnd × Nat) :=
  if f.mode = 3 then [] else if f.mode = 0 then [(f.src2, rows)] else [(f.src2, 1)]

/-- Source 2 has an allowed width, or is a scalar. -/
def src2W (l : List Nat) (f : VR) : Bool := decide (f.mode = 3) || inWidths l f.src2

/-- Step 4 of a VR slot by its major opcode, for a context and the captured VL, VSTART and MODQ (log entry 86). -/
def vrSpec (L vl vstart mq m : Nat) (f : VR) : OperandSpec :=
  let rows := rowCount L vl
  let brows := rowCount L ((vl + 31) / 32)
  let d := (f.dest, rows)
  let a := (f.src1, rows)
  let b := foot2 rows f
  let cw := if f.ext then [8, 16] else floatW
  let modDest := decide (8 < f.dest.w) || decide (2 ^ (4 * f.dest.w) < mq)
  if m ≤ 0x11 then { foot := d :: a :: b }
  else if m ≤ 0x14 then { foot := [d, a] }
  else if m = 0x15 then { predDest := some (f.dest.s, false), foot := a :: b }
  else if m = 0x16 then { foot := d :: a :: b }
  else if m = 0x17 then { foot := d :: b }
  else if m = 0x18 then { foot := [d] }
  else if m = 0x56 then { badWidth := !(inWidths floatW f.dest && inWidths floatW f.src1), foot := [d, a] }
  else if m ≤ 0x58 then
    { badWidth := !(inWidths floatW f.dest && inWidths floatW f.src1 && src2W floatW f), foot := d :: a :: b }
  else if m = 0x59 then
    { predDest := some (f.dest.s, false), badWidth := !(inWidths floatW f.src1 && src2W floatW f), foot := a :: b }
  else if m = 0x5A then { badWidth := !inWidths floatW f.src1 || decide (f.dest.w < 3), foot := [d, a] }
  else if m ≤ 0x5E then { badWidth := !(inWidths floatW f.src1 && inWidths [2, 4] f.dest), foot := [d, a] }
  else if m ≤ 0x60 then
    { badWidth := !(inWidths [8, 16] f.dest && inWidths [8, 16] f.src1 && src2W [8, 16] f), foot := d :: a :: b }
  else if m ≤ 0x63 then
    { badWidth := decide (8 < f.src1.w) || (decide (f.mode ≠ 3) && decide (8 < f.src2.w)) || modDest,
      foot := d :: a :: b }
  else if m = 0x64 then { badWidth := modDest, foot := [d, a] }
  else if m = 0x65 then
    let ws := if f.ext then [8, 16] else [2, 3, 4, 8, 10]
    { badWidth := !(inWidths ws f.dest && inWidths ws f.src1 && (!f.cvtTwo || src2W ws f)),
      foot := d :: a :: (if f.cvtTwo then b else []) }
  else if m = 0x66 then { badWidth := !inWidths [2, 3, 4, 8, 10] f.src1, foot := [d, a] }
  else if m = 0x67 then { badWidth := !inWidths [2, 4, 8, 10] f.dest, foot := [d, a] }
  else if m = 0x68 then
    { badWidth := !(inWidths [2] f.dest && inWidths cw f.src1), foot := [(f.dest, brows), a],
      rest := [(decide (vstart % 32 ≠ 0), causeOperand, 9)] }
  else if m = 0x69 then
    { badWidth := !(inWidths [if f.ext then 8 else 4] f.dest && inWidths cw f.src1 && inWidths [2] f.src2),
      foot := [d, a, (f.src2, brows)] }
  else if m = 0x6A then
    { badWidth := !(inWidths cw f.dest && inWidths [if f.ext then 8 else 4] f.src1 && inWidths [2] f.src2),
      foot := [d, a, (f.src2, brows)] }
  else if m ≤ 0x82 then { badWidth := decide (f.src1.w ≠ f.dest.w), foot := d :: a :: b }
  else if m = 0x83 then { badWidth := decide (f.src1.w ≠ f.dest.w), foot := d :: a :: b }
  else if m = 0x84 ∨ m = 0x85 ∨ m = 0x88 ∨ m = 0x8F then { badWidth := decide (f.src1.w ≠ f.dest.w), foot := [d, a] }
  else if m = 0x86 ∨ m = 0x87 then
    { badWidth := decide (f.src1.w ≠ f.dest.w) || decide (f.src2.w ≠ f.dest.w), foot := d :: a :: b }
  else if m ≤ 0x8D then
    let op := f.redOp
    let scan := m == 0x8B || m == 0x8C
    let flt := m == 0x8A || m == 0x8C
    { badWidth :=
        if flt then !(inWidths floatW f.src1 && inWidths floatW f.dest) || decide (f.dest.w < f.src1.w)
        else if m = 0x8D then (decide (2 ≤ op) && !inWidths floatW f.src1) || decide (f.dest.w < 5)
        else decide (op = 6) && (decide (8 < f.src1.w) || decide (2 ^ (4 * f.dest.w) < mq))
      foot := [if scan || f.redSeg then d else (f.dest, 1), a] }
  else if m = 0x8E then { predDest := some (f.dest.s, true), foot := [a] }
  else if m = 0x90 then { foot := [a] }
  else if m = 0x91 then { foot := [d] }
  else if m ≤ 0x96 then { predDest := some (f.dest.s, false) }
  else if m ≤ 0x98 then {}
  else if m = 0x99 then { predDest := some (f.dest.s, true) }
  else if m = 0xE0 then { foot := [a], rest := [(decide (vstart ≠ 0), causeOperand, 11)] }
  else { foot := [d], rest := [(decide (vstart ≠ 0), causeOperand, 11)] }

/-- Step 4 of a VI slot. -/
def viSpec (L vl m : Nat) (f : VI) : OperandSpec :=
  let rows := rowCount L vl
  if m = 0x48 then { predDest := some (f.dest.s, false), foot := [(f.src1, rows)] }
  else if m = 0x47 then { foot := [(f.dest, rows)] }
  else { foot := [(f.dest, rows), (f.src1, rows)] }

/-- Step 4 of a VM slot but for spcfg (R132, R133, R267, R269, R271, R272). -/
def vmSpec (L vl m : Nat) (f : VM) : OperandSpec :=
  let rows := rowCount L vl
  let kind := f.fn.toNat % 4
  let odd := decide (f.data.w % 2 = 1)
  if m = 0xC0 ∨ m = 0xC3 then { foot := [(f.data, rows)] }
  else if m = 0xC1 ∨ m = 0xC4 then { oddWidth := odd, foot := [(f.data, rows)] }
  else if m = 0xC2 ∨ m = 0xC5 then { oddWidth := odd, foot := [(f.data, rows), (f.index, rows)] }
  else if m = 0xC6 then
    let w := f.data.w
    { badWidth := if f.fn.toNat % 16 = 9 then decide (w ≠ 8) else decide (w ≠ 8) && decide (w ≠ 16),
      oddWidth := odd, foot := [(f.data, rows), (f.index, rows)] }
  else if m ≤ 0xC8 then { range := some (f.data.s, f.idx.toNat % 1024 + 1) }
  else if m = 0xC9 then
    { oddWidth := decide (kind ≠ 0) && odd, foot := if kind = 2 then [(f.index, rows)] else [] }
  else {}

/-- The width that a tile's format takes in a move (R236): none for T6. -/
def tileMoveW (fmt : Nat) : Option Nat :=
  match fmt with
  | 0 => some 4
  | 1 => some 2
  | 3 => some 2
  | 4 => some 1
  | _ => none

/-- Step 4 of a VT slot (R93, R229, R232, R236). -/
def vtSpec (c : Ctx) (vl m : Nat) (f : VT) : OperandSpec :=
  let rows := rowCount c.lanes vl
  if 0xA4 ≤ m ∧ m ≤ 0xA7 then
    let item := if m ≤ 0xA5 then f.ta else f.td
    let acc := f.fn.toNat % 2 == 1
    { badItem := acc && decide (4 ≤ item.toNat),
      badWidth := if acc then !inWidths [8, 10] f.vec else decide (tileMoveW (tcFmt (c.tc item.toNat)) ≠ some f.vec.w)
      foot := [(f.vec, rows)] }
  else if m = 0xA1 then
    let fmt := tcFmt (c.tc f.td.toNat)
    { badWidth := !(fmt == 0 || fmt == 1 || fmt == 3) }
  else {}

/-! ## Capturing a convoy (R22, R99 step 4) -/

/-- The major opcode and format of a vector instruction. -/
inductive VForm where
  | vr (m : Nat) (f : VR)
  | vi (m : Nat) (f : VI)
  | vm (m : Nat) (f : VM)
  | vt (m : Nat) (f : VT)
  | none
  deriving DecidableEq, Repr

/-- The word of a vector slot carries its major opcode in the top byte (R88). -/
def majorOf (i : Instr) : Nat :=
  match encode i with
  | some (96, w) => w / 2 ^ 88
  | _ => 256

/-- The vector form of an instruction, read from its own word. -/
def formOf (i : Instr) : VForm :=
  match encode i with
  | some (96, w) =>
    let x := w / 2 ^ 32
    let m := x / 2 ^ 56
    if m < 0x40 then .vr m (vrOf x) else if m < 0x50 then .vi m (viOf x) else if m < 0xA0 then .vr m (vrOf x)
    else if m < 0xC0 then .vt m (vtOf x) else if m < 0xE0 then .vm m (vmOf x) else .vr m (vrOf x)
  | _ => .none

/-- A slot that makes its convoy commit all or nothing: XFER and VT instructions, vch and vbfexp (R124, R190, R229,
R305); vfill makes only itself so (R271). -/
def isAtomic (i : Instr) : Bool :=
  let m := majorOf i
  (decide (0x80 ≤ m) && decide (m ≤ 0xAB)) || m == 0xE0 || m == 0xE1 || m == 0x68

/-- spcfg's checks (R273): whether a pipeline of the strand or of its children runs is `running`. -/
def spcfgSpec (c : Ctx) (running : Bool) (f : VM) : OperandSpec :=
  let v := (c.reg f.base).toNat
  { rest := [(!c.clusterSpan, causePriv, 2), (decide (v % 16 / 2 ≠ 0) || decide (64 ≤ v), causeOperand, 6),
      (running, causeOperand, 10)] }

/-- A pipeline of the strand or of its vpart children is Running. -/
def State.pipesRunning (s : State) (c : Ctx) : Bool :=
  (c.pipes.any fun e => decide (e.2.state = .running)) ||
  c.children.any fun sid => match s.strandCtx sid with
    | some k => k.pipes.any fun e => decide (e.2.state = .running)
    | none => false

/-- Step 4 of one slot. -/
def State.slotSpec (s : State) (c : Ctx) (i : Instr) : OperandSpec :=
  match formOf i with
  | .vr m f => vrSpec c.lanes c.vl.toNat c.vstart.toNat c.modq.toNat m f
  | .vi m f => viSpec c.lanes c.vl.toNat m f
  | .vm m f => if m = 0xCA then spcfgSpec c (s.pipesRunning c) f else vmSpec c.lanes c.vl.toNat m f
  | .vt m f => vtSpec c c.vl.toNat m f
  | .none => {}

/-- Step 4 of a convoy: a vamo beside an XFER, VT or vbfexp slot first, then the slots (R99, R125). The result is the
cause, the subcode, and the slot. -/
def State.convoyCheck (s : State) (c : Ctx) (l : List Instr) : Option (BitVec 8 × Nat × Nat) :=
  match l.findIdx? fun i => majorOf i == 0xC6 with
  | some k => if l.any isAtomic then some (causeOperand, 8, k) else first 0 l
  | none => first 0 l
where
  first (k : Nat) : List Instr → Option (BitVec 8 × Nat × Nat)
    | [] => none
    | i :: t =>
      match (s.slotSpec c i).first with
      | some (cause, sub) => some (cause, sub, k)
      | none => first (k + 1) t

/-- A convoy as the driver places it in the VIQ, with the values then in force (R22). -/
def Ctx.capture (c : Ctx) (size : Nat) (waypoint : Bool) (l : List Instr) : Convoy :=
  { epc := c.pc, size := size, waypoint := waypoint, vl := c.vl.toNat, vstart := c.vstart.toNat, dyn := c.dyn,
    rm := c.rmBit, modq := c.modq.toNat, mxm := c.mxm.toNat, mxn := c.mxn.toNat, mxk := c.mxk.toNat, todo := l,
    atomic := l.any isAtomic }

/-! ## Running one slot -/

/-- A fault of the slot in ESUB's layout: its number in [10:9] (R148), or in [5:4] for ILLEGAL_OPERAND (R100). -/
def TrapInfo.atSlot (t : TrapInfo) (k : Nat) : TrapInfo :=
  { t with sub := t.sub + BitVec.ofNat 11 (if t.cause = causeOperand then 16 * k else 512 * k) }

/-- Adds a slot's log to the convoy; the lowest element's fault is kept, and of one element the first slot's (R123). -/
def Convoy.push (cv : Convoy) (a : VAcc) : Convoy :=
  let k := cv.logs.length
  let f := match cv.fault, a.fault with
    | none, none => none
    | none, some (e, t) => some (e, t.atSlot k)
    | some g, none => some g
    | some (e', t'), some (e, t) => if e < e' then some (e, t.atSlot k) else some (e', t')
  { cv with logs := cv.logs ++ [a.log], todo := cv.todo.tail, fault := f }

/-- A slot that faults as a whole: the convoy will have no effect (R257, R165) but for the stores that a vspill, whose
log is given, or the MEM slot may have performed (R271, R293). The first such slot counts. -/
def Convoy.pushWhole (cv : Convoy) (log : SlotLog) (t : TrapInfo) : Convoy :=
  let k := cv.logs.length
  { cv with logs := cv.logs ++ [log], todo := cv.todo.tail,
            whole := match cv.whole with | some w => some w | none => some (t.atSlot k) }

/-- What a slot gives: its log with its first element fault, a whole-instruction fault, or a page request; the first
two with the state after translation (cached entries, flag bits, hotness). A slot that waits runs again. -/
inductive SlotRes where
  | done (a : VAcc) (s : State)
  | whole (log : SlotLog) (t : TrapInfo) (s : State)
  | ask (q : PageReq) (s : State)
  | wait (s : State)
  deriving Repr

/-- The trap of a failing check of R99 step 4, EVAL the slot's word (R100). -/
def State.trapSlot (s : State) (cause : BitVec 8) (sub slot word : Nat) : State :=
  s.trap cause (sub + 16 * slot) (BitVec.ofNat 64 word)

/-- The 64-bit word of a vector instruction. -/
def slotWord (i : Instr) : Nat := parcelOf i / 2 ^ 32

/-- A row of an operand of width w from slice a lies in two bank rows (R117). -/
def rowCrosses (a w r : Nat) : Bool := decide ((a + w * r) / 16 ≠ (a + w * r + w - 1) / 16) && decide (w ≠ 0)

/-- The first slice operand of an instruction is a destination. -/
def writesFirst (i : Instr) : Bool :=
  match formOf i with
  | .vr m _ => !([0x15, 0x59, 0x8E, 0x90, 0xE0].contains m)
  | .vi m _ => m != 0x48
  | .vm m _ => decide (m ≤ 0xC2)
  | .vt m _ => decide (m ≤ 0xA5)
  | .none => false

/-- The slice operands that an instruction reads, with their row counts: vmacc and its kin read their destination too. -/
def State.readsOf (s : State) (c : Ctx) (i : Instr) : List (Opnd × Nat) :=
  let l := (s.slotSpec c i).foot
  let m := majorOf i
  (if writesFirst i then l.drop 1 else l) ++ (if [0x05, 0x06, 0x53, 0x54, 0x60].contains m then l.take 1 else [])

/-- The rows of an operand that an instruction reads, each with the row of its convoy in which it reads them: a permute
every row of its sources, a block conversion the rows of its blocks' exponents, a replicated source one row once, any
other the rows from VSTART's to the last (log entry 60). -/
def VEnv.readRows (v : VEnv) (m : Nat) (p : Opnd × Nat) (second : Bool) : List (Nat × Nat) :=
  let lo := v.row v.cv.vstart
  let span := fun a b => (List.range (b + 1 - a)).map (a + ·)
  if p.2 = 1 then [(0, lo)]
  else if (decide (0x80 ≤ m ∧ m ≤ 0x88) || m == 0x8F) then (List.range p.2).map fun r => (r, max r lo)
  else if second && (m == 0x69 || m == 0x6A) then
    (span (v.row (v.cv.vstart / 32)) (v.row ((v.cv.vl - 1) / 32))).map fun r => (r, max (32 * r) lo)
  else (span lo (v.row (v.cv.vl - 1))).map fun r => (r, r)

/-- The extra cycles of a slot, each by the row of its convoy: one for each row that it reads or writes and that crosses
(R117). -/
def VEnv.crossings (v : VEnv) (i : Instr) (g : SlotLog) : List Nat :=
  if v.s.perf.isEmpty ∨ v.cv.vl ≤ v.cv.vstart then []
  else
    let m := majorOf i
    let reads := (v.s.readsOf v.c i).zipIdx.flatMap fun p =>
      ((v.readRows m p.1 (decide (p.2 = 1))).filter fun r => rowCrosses p.1.1.s p.1.1.w r.1).map Prod.snd
    reads ++ ((g.rows.filter fun r => rowCrosses r.2.1 r.2.2 0).map fun r => max r.1 (v.row v.cv.vstart))

/-- Alias class of an instruction's accesses (R229, R267), and whether its stores write through (R251). -/
def clsOf (i : Instr) : Nat := match formOf i with | .vm _ f => f.cls.toNat | _ => 15
def throughOf (i : Instr) : Bool := match formOf i with | .vm _ f => f.hint == 1 | _ => false

/-- A slot's log with what it takes from the instruction itself. -/
def VEnv.tagLog (v : VEnv) (i : Instr) (g : SlotLog) : SlotLog :=
  { g with cross := v.crossings i g, cls := clsOf i, through := throughOf i }

/-- Runs one vector instruction in the current context: the next slot of the open convoy, or a convoy of its own, which
is captured first and passes step 4 of R99 before it has any effect (log entry 1). -/
def State.runSlot (s : State) (i : Instr) (run : VEnv → SlotRes) : State :=
  let c := s.me
  let go (cv : Convoy) : State :=
    let v : VEnv := { s := s, c := c, cv := cv }
    match run v with
    | .done a s' => s'.setMe { s'.me with viq := [cv.push { a with log := v.tagLog i a.log }] }
    | .whole g t s' => s'.setMe { s'.me with viq := [cv.pushWhole (v.tagLog i g) t] }
    | .ask q s' => s'.hostWait s.cur { q with slot := cv.logs.length }
    | .wait s' => s'.setMe { s'.me with viq := [cv] }
  match c.viq with
  | cv :: _ => go cv
  | [] =>
    match s.convoyCheck c [i] with
    | some (cause, sub, k) => s.trapSlot cause sub k (slotWord i)
    | none => go (c.capture 12 false [i])

/-- A slot without memory or tile accesses. -/
def State.runPlain (s : State) (i : Instr) (run : VEnv → VAcc) : Host.Outcome State Fault Refusal :=
  .next (s.runSlot i fun v => .done (run v) v.s)

end Sys2Proof.Machine
end

