-- ==== Sys2Proof/Machine/Access.lean ====
section
/-! DEFINITION. How an instruction reaches memory: the fabric's routes and packets, the bytes that a set of elements
names in the virtual space or the scratchpad, run-ahead translation with its fault choice, and hotness counts (R244 to
R246, R255, R257, R259, R368 to R373, R380, R383 to R389, R461). -/

namespace Sys2Proof.Machine

/-! ## Routes and packets (R383, R386, R388, R389) -/

/-- The key of a switch table's entry. -/
def routeKey (plane : Nat) (spine : Bool) (sw : Nat) (ver : Bool) (dest : Nat) : Nat :=
  (((plane * 2 + (if spine then 1 else 0)) * 128 + sw) * 2 + (if ver then 1 else 0)) * 8192 + dest

/-- The output port of a valid entry. -/
def State.routePort (s : State) (plane : Nat) (spine : Bool) (sw : Nat) (ver : Bool) (dest : Nat) : Option Nat :=
  let e := smGet 0 s.glox.routes (routeKey plane spine sw ver dest)
  if !e.getLsbD 15 then none
  else if e.getLsbD 7 && !spine then some (64 + (Config.spreadPort s.glox.endpoint dest).toNat)
  else some (e.toNat % 128)

/-- A packet of this endpoint reaches its destination: at most up once and then down (R382, R389, R392). -/
def State.routed (s : State) (plane : Nat) (ver : Bool) (dest : Nat) : Bool :=
  let src := s.glox.endpoint
  match s.routePort plane false (src / 64) ver dest with
  | none => false
  | some p =>
    if p < 64 then decide (src / 64 = dest / 64) && decide (p = dest % 64)
    else match s.routePort plane true (p - 64) ver dest with
      | none => false
      | some q =>
        match s.routePort plane false q ver dest with
        | none => false
        | some r => decide (q = dest / 64) && decide (r = dest % 64)

/-- The plane of a line (R383). -/
def linePlane (pa : Nat) : Nat := Nat.xor (pa / 2 ^ 6 % 16) (pa / 2 ^ 10 % 16)

/-- A plane, moved to the next live one when its port is down (R383). -/
def State.livePlane (s : State) (p : Nat) : Nat :=
  (((List.range 16).map fun i => (p + i) % 16).find? fun q => !s.glox.down.contains q).getD p

/-- The plane on which a line's packets travel. -/
def State.planeOf (s : State) (pa : Nat) : Nat := s.livePlane (linePlane pa)

/-- A plane that has given its packets away still has some under way, or no plane is live (R383): the planes from `p` on, up
to the live one that takes them. -/
def State.draining (s : State) (p : Nat) : Bool :=
  let busy := fun (q : Nat) => decide (smGet 0 s.glox.stamped (q * 2) ≠ 0) || decide (smGet 0 s.glox.stamped (q * 2 + 1) ≠ 0)
  (((List.range 16).map fun i => (p + i) % 16).takeWhile fun q => s.glox.down.contains q).any busy ||
    s.glox.down.contains (s.livePlane p)

/-- A plane takes no new packet now: it drains, or holds packets for a FLIP (R383, R391). -/
def State.heldFrom (s : State) (p : Nat) : Bool := s.glox.holding.contains (s.livePlane p) || s.draining p

/-- The plane of a line takes no new packet now. -/
def State.planeHeld (s : State) (pa : Nat) : Bool := s.heldFrom (linePlane pa)

/-- The version that the ingress stamps. -/
def State.verOf (s : State) (plane : Nat) : Bool := smGet false s.glox.version plane

/-- OUT[v] of this endpoint's ingress to a plane. -/
def outKey (plane : Nat) (ver : Bool) : Nat := plane * 2 + if ver then 1 else 0

/-- A physical address of another endpoint. -/
def State.remotePa (s : State) (pa : Nat) : Bool :=
  decide (regionOf pa = 2) && decide (pa / 2 ^ 40 % 2 ^ 13 ≠ s.glox.endpoint)

/-- The refusal that a packet to an address will meet: no route, or what its target refuses (R386) (log entry 49). -/
def State.refusal (s : State) (pa : Nat) : Option Nat :=
  let dest := pa / 2 ^ 40 % 2 ^ 13
  let plane := s.planeOf pa
  if !s.routed plane (s.verOf plane) dest then some 1
  else (smFind dest s.glox.refusing).map BitVec.toNat

/-- One remote access of an instruction: of an element, the bytes on one line or, in a request packet, at one endpoint. -/
structure RemoteAcc where
  elem : Nat
  va : Nat
  pa : Nat
  deriving DecidableEq, Repr

/-- REMOTE_NACK of an access (R386). -/
def nackOf (va reason : Nat) : TrapInfo := trapOf causeRemoteNack reason (BitVec.ofNat 64 va)

/-- Two accesses travel in one packet: in a request packet the elements of one endpoint within a batch of 256 (R259),
else the accesses to one line (R383). -/
def samePacket (request : Bool) (a b : RemoteAcc) : Bool :=
  if request then decide (b.pa / 2 ^ 40 = a.pa / 2 ^ 40) && decide (b.elem / 256 = a.elem / 256)
  else decide (b.pa / 64 = a.pa / 64)

/-- The packets of a list of accesses, each headed by its lowest element. -/
def packetsOf (request : Bool) (l : List RemoteAcc) : List (List RemoteAcc) :=
  l.foldl (fun gs a =>
    if gs.any fun g => g.head?.any fun h => samePacket request h a then
      gs.map fun g => if g.head?.any fun h => samePacket request h a then g ++ [a] else g
    else gs ++ [[a]]) []

/-- The remote accesses that the bytes of an element make, each with the first of its bytes (R259, R383). -/
def State.remoteParts (s : State) (request : Bool) (e va : Nat) (l : List Nat) : List RemoteAcc :=
  (packetsOf request ((l.filter s.remotePa).map fun pa => { elem := e, va := va, pa := pa })).filterMap List.head?

/-- Counts a packet's stamp (R389). -/
def State.stamp (s : State) (plane : Nat) (ver : Bool) : State :=
  let k := outKey plane ver
  { s with glox := { s.glox with stamped := smPut k (smGet 0 s.glox.stamped k + 1) s.glox.stamped } }

/-- Sends one packet of a strand in a context, for which its instruction waits or not. -/
def State.sendPacket (s : State) (ctx sid : Nat) (waits store : Bool) (cls : Nat) (l : List RemoteAcc) : State :=
  match l with
  | [] => s
  | a :: _ =>
    let plane := s.planeOf a.pa
    let ver := s.verOf plane
    let g := s.glox
    let p : Packet := {
      num := g.nextPacket, ctx := ctx, sid := sid, plane := plane, ver := ver
      elems := l.map fun b => (b.elem, BitVec.ofNat 64 b.va)
      store := store, cls := cls, waits := waits, accepted := none, sentAt := s.ticks }
    ({ s with glox := { g with packets := g.packets ++ [p], nextPacket := g.nextPacket + 1 } } : State).stamp plane ver

/-- These accesses of the current instruction, once answered. -/
def Ctx.answeredNow (c : Ctx) (l : List RemoteAcc) : Answered :=
  { pc := c.pc, retired := c.retired, todo := (match c.viq with | cv :: _ => cv.todo.length | [] => 0)
    accs := l.map fun a => (a.elem, a.va, a.pa) }

/-- The accesses are answered: the instruction does not send them again, and forgets those of earlier instructions. -/
def Ctx.answer (c : Ctx) (l : List RemoteAcc) : Ctx :=
  let a := c.answeredNow l
  { c with
    remote := .idle
    answered := a :: c.answered.filter fun b =>
      decide (b.pc = a.pc) && decide (b.retired = a.retired) && decide (b.todo = a.todo) }

/-- The refusal that a whole packet will meet, of its lowest element (R386). -/
def State.packetRefusal (s : State) (g : List RemoteAcc) : Option (Nat × TrapInfo) :=
  g.head?.bind fun a => (s.refusal a.pa).map fun r => (a.elem, nackOf a.va r)

/-- What an instruction with these remote accesses does now: go on when its packets are accepted, end with its lowest
refusal, or send the packets that no refusal stops and wait. A plane that holds new packets makes it try again (R391). -/
inductive RemoteGo where
  | go (s : State)
  | fault (elem : Nat) (t : TrapInfo) (s : State)
  | wait (s : State)
  deriving Repr

def State.remoteGo (s : State) (request store : Bool) (cls : Nat) (l : List RemoteAcc) : RemoteGo :=
  let c := s.me
  if l.isEmpty || c.answered.contains (c.answeredNow l) then .go s
  else match c.remote with
  | .ok => .go (s.setMe (c.answer l))
  | .fault e t => .fault e t (s.setMe { c with remote := .idle })
  | .waiting _ => .wait s
  | .idle =>
    let ps := packetsOf request l
    if ps.any fun g => g.head?.any fun a => s.planeHeld a.pa then .wait (s.setMe { c with wait := some .engine })
    else
      let worst := lowestFault (ps.map s.packetRefusal)
      match ps.filter (fun g => (s.packetRefusal g).isNone), worst with
      | [], some (e, t) => .fault e t s
      | sent, _ =>
        let s := sent.foldl (fun s g => s.sendPacket s.cur c.sid true store cls g) s
        .wait (s.setMe { s.me with remote := .waiting worst, wait := some .remote })

/-! ## Bytes and elements -/

/-- One byte that an access names: its space, its cell's key, and its address as the strand wrote it. -/
structure Loc where
  scratch : Bool
  key : Nat
  va : Nat
  deriving DecidableEq, Repr

/-- One element of a memory instruction: its number for EELEM, the package cluster of its lane, the byte address of its
first byte, its first bit in that byte and its length in bits. -/
structure Elem where
  e : Nat
  cl : Nat
  va : Nat
  bit : Nat
  bits : Nat
  deriving DecidableEq, Repr

/-- Bytes that an element touches. -/
def Elem.bytes (x : Elem) : Nat := (x.bit + x.bits + 7) / 8

/-- The address of byte i, modulo 2^64. -/
def Elem.byteVa (x : Elem) (i : Nat) : Nat := (x.va + i) % 2 ^ 64

/-- A byte of memory or of the scratchpad's cells (log entry 3). -/
def State.locByte (s : State) (l : Loc) : Byte := if l.scratch then smGet 0 s.sp l.key else smGet 0 s.mem l.key

/-- The byte's word is poisoned. -/
def State.locPoison (s : State) (l : Loc) : Bool :=
  if l.scratch then s.spPoison.contains (l.key / 8) else s.memPoison.contains (l.key / 8)

/-- MEM_POISON of a byte (R275): the address of the line, or the scratchpad offset of the word. -/
def poisonTrap (l : Loc) : TrapInfo :=
  trapOf causeMemPoison 0 (BitVec.ofNat 64 (if l.scratch then l.va / 8 * 8 else l.va / 64 * 64))

/-- Bytes as a number, first byte lowest. -/
def locsNat (f : Loc → Byte) : List Loc → Nat
  | [] => 0
  | l :: t => (f l).toNat + 256 * locsNat f t

/-! ## Translation of the pages of an instruction (R257, R370, R373) -/

/-- The pages translated so far, by cluster and page, with their addresses in the output space, and the failures met. -/
structure PageAcc where
  s : State
  pages : SMap Nat := []
  bad : List Nat := []
  first : Option (Sum TrapInfo PageReq) := none
  asks : List Nat := []
  /-- A table on some walk lies in a stack in self-refresh. -/
  sleeps : Bool := false
  deriving Repr

/-- The key of a page that a site translates. -/
def pageKey (site p : Nat) : Nat := site * 2 ^ 64 + p

/-- Adds the page of one address that element `x` touches. -/
def PageAcc.add (c : Ctx) (kind : AccKind) (x : Elem) (a : PageAcc) (va : Nat) : PageAcc :=
  let g := c.granBytes
  let p := pageKey x.cl (va / g)
  if (smFind p a.pages).isSome || a.bad.contains p then a
  else
    let fail (f : Sum TrapInfo PageReq) (s : State) : PageAcc :=
      { a with s := s, bad := p :: a.bad, first := a.first.or (some f) }
    match a.s.translateOut x.cl c kind (c.noMmio kind va) va with
    | .ok o s' => { a with s := s', pages := smPut p (o - va % g) a.pages }
    | .trap t s' => fail (.inl { t with elem := some x.e }) s'
    | .ask q s' =>
      { fail (.inr { q with elem := some x.e }) s' with
        asks := if q.pages.all fun y => a.asks.contains y then a.asks else a.asks ++ q.pages }
    | .wait s' => { a with s := s', sleeps := true }

/-- The first address of an element in each page of `g` bytes that it touches. -/
def Elem.pageVas (g : Nat) (x : Elem) : List Nat :=
  x.va :: (List.range ((x.va % g + x.bytes - 1) / g)).map fun i => (x.va / g + i + 1) * g % 2 ^ 64

/-- Adds the pages of an element. -/
def PageAcc.addElem (c : Ctx) (kind : AccKind) (a : PageAcc) (x : Elem) : PageAcc :=
  (x.pageVas c.granBytes).foldl (PageAcc.add c kind x) a

/-- The bytes of a translated element, each mapped from the output space by itself (R369). -/
def PageAcc.locs (c : Ctx) (a : PageAcc) (x : Elem) : List (Loc × Nat) :=
  let g := c.granBytes
  (List.range x.bytes).map fun i =>
    let va := x.byteVa i
    let pa := a.s.ctxPa c (smGet 0 a.pages (pageKey x.cl (va / g)) + va % g)
    ({ scratch := false, key := a.s.cell pa, va := va }, pa)

/-- The L-die that counts an element: its lane's, and 0 for the scalar TLB (R380). -/
def Elem.die (x : Elem) : Nat := if x.cl < 64 then x.cl / 8 else 0

/-- Hotness of one access: on each die, the elements by the hotness page of their first byte, for every page that the
access touches there (R380). -/
def State.hotCount (s : State) (c : Ctx) (kind : Nat) (els : List Elem) : State :=
  let keys := (els.flatMap fun x => (x.pageVas (2 ^ 16)).map fun a => (x.die, a / 2 ^ 16)).eraseDups
  keys.foldl (fun s k =>
    let mine := els.filter fun x => decide (x.die = k.1)
    s.hotAdd k.1 c.pasid (k.2 * 2 ^ 16) kind (mine.filter fun x => decide (x.va / 2 ^ 16 = k.2)).length mine.length) s

/-- The bytes of a scratchpad element, relative to the strand's window (R244, R255). -/
def State.spLocs (s : State) (c : Ctx) (x : Elem) : List Loc :=
  let w := s.spWindow c x.cl
  (List.range x.bytes).map fun i =>
    let a := x.byteVa i
    { scratch := true, key := s.spCell x.cl (a + w.2), va := a }

/-- An element that reaches beyond the addressable scratchpad. -/
def State.spBeyond (s : State) (c : Ctx) (x : Elem) : Option Nat :=
  let size := (s.spWindow c x.cl).1
  if size ≤ x.va then some x.va
  else if size < x.va + x.bytes then some size
  else none

/-- Extra cycles of scratchpad accesses (R256): in each batch of up to 256 elements of a cluster, the words of one bank
are served one after another (log entry 60). -/
def bankExtra : Nat → List (List Nat) → Nat
  | 0, _ => 0
  | _ + 1, [] => 0
  | n + 1, l =>
    let banks := (l.take 256).flatten.eraseDups.map fun w => w / 2 ^ 11
    (banks.foldl (fun m b => max m (banks.count b)) 1 - 1) + bankExtra n (l.drop 256)

/-- Counts the bank conflicts of an instruction's scratchpad elements. -/
def State.countBanks (s : State) (c : Ctx) (els : List Elem) : State :=
  if s.perf.isEmpty then s
  else (els.map Elem.cl).eraseDups.foldl (fun s cl =>
    let words := (els.filter fun x => decide (x.cl = cl)).map fun x => (s.spLocs c x).map fun b => b.key / 8
    s.perfCount cl 0x04 (some c.pasid) (bankExtra words.length words)) s

/-- The bytes of each element of an instruction, or its whole fault, its page requests, or its wait. The last part
is the lowest element that the fabric refused. `hot` lists the elements as the dies count them, whatever the outcome of
the translation. -/
def State.resolve (s : State) (c : Ctx) (kind : AccKind) (scratch : Bool) (hotKind : Nat) (cls : Nat)
    (els hot : List Elem) : Res ((Elem → List Loc) × Option (Nat × TrapInfo)) :=
  if scratch then
    match els.findSome? fun x => (s.spBeyond c x).map fun a => (x.e, a) with
    | some (e, a) => .trap { protTrap kind (!c.sup) a with elem := some e } s
    | none => .ok (s.spLocs c, none) (s.countBanks c els)
  else
    let a := els.foldl (PageAcc.addElem c kind) { s := s }
    match a.first with
    | some (.inl t) => .trap t (a.s.hotCount c hotKind hot)
    | some (.inr q) => .ask { q with pages := a.asks.take 32 } (a.s.hotCount c hotKind hot)
    | none =>
      if a.sleeps || (a.s.ctl.hbmsr != 0 && els.any fun x => (a.locs c x).any fun b => a.s.asleep b.2) then .wait s.block else
      let rem := els.flatMap fun x => a.s.remoteParts (decide (hotKind ≠ 0)) x.e x.va ((a.locs c x).map Prod.snd)
      let out := fun x => (a.locs c x).map Prod.fst
      match a.s.remoteGo (decide (hotKind ≠ 0)) (kind == 1 || kind == 3) cls rem with
      | .go s' => .ok (out, none) (s'.hotCount c hotKind hot)
      | .fault e t s' => .ok (out, some (e, t)) (s'.hotCount c hotKind hot)
      | .wait s' => .wait s'

/-- One access of a context that does not issue from a convoy (a scalar access, a record): its bytes. -/
def State.scalarLocs (s : State) (c : Ctx) (kind : AccKind) (cls va n : Nat) : Res (List Loc) :=
  let x : Elem := { e := 0, cl := sDie, va := va, bit := 0, bits := 8 * n }
  match s.resolve c kind false 0 cls [x] [x] with
  | .ok (l, none) s' => .ok (l x) s'
  | .ok (_, some (_, t)) s' => .trap t s'
  | .trap t s' => .trap { t with elem := none } s'
  | .ask q s' => .ask { q with elem := none } s'
  | .wait s' => .wait s'

/-- Bytes that an agent on an L-die reads at their newest values (R277, R279) (log entry 3). -/
def State.observeLocs (s : State) (die : Nat) (l : List Loc) : State := s.observe die (l.map fun b => (b.scratch, b.key))

/-- Reads `n` bytes of a record or an operand in memory: MEM_POISON where a word is poisoned. -/
def State.readVirt (s : State) (c : Ctx) (cls va n : Nat) : Res (List Byte) :=
  (s.scalarLocs c 0 cls va n).andThen fun l s' =>
    match l.find? s'.locPoison with
    | some b => .trap (poisonTrap b) s'
    | none => .ok (l.map s'.locByte) (s'.observeLocs c.die l)

/-- A strand or a unit writes one located byte; of host memory a line cache holds it dirty (R243). -/
def State.setLoc (s : State) (l : Loc) (b : Byte) : State :=
  let s : State := { s with writes := forget l.scratch (fun k => decide (k = l.key)) s.writes }
  if l.scratch then { s with sp := smSet 0 s.sp l.key b }
  else { s with
    mem := smSet 0 s.mem l.key b
    home := if regionOf l.key = 1 ∧ smFind l.key s.home = none then smPut l.key (smGet 0 s.mem l.key) s.home else s.home }

/-- Writes located bytes and clears the poison of every word that they cover whole. -/
def State.setLocs (s : State) (l : List (Loc × Byte)) : State :=
  let s := l.foldl (fun s p => s.setLoc p.1 p.2) s
  let whole (scratch : Bool) (w : Nat) : Bool :=
    (List.range 8).all fun i => l.any fun p => p.1.scratch == scratch && p.1.key == 8 * w + i
  { s with
    memPoison := s.memPoison.filter fun w => !whole false w
    spPoison := s.spPoison.filter fun w => !whole true w }

/-- A store of bytes: a word that it covers only in part must not be poisoned (R275). -/
def State.storeLocs (s : State) (l : List Loc) (bs : List Byte) : Res Unit :=
  let covered (b : Loc) : Bool :=
    (List.range 8).all fun i => l.any fun p => p.scratch == b.scratch && p.key == b.key / 8 * 8 + i
  match l.find? fun b => s.locPoison b && !covered b with
  | some b => .trap (poisonTrap b) s
  | none => .ok () (s.setLocs (l.zip bs))

/-! ## The strands' accesses (R277 to R281) -/

/-- A byte as a read of a strand at a moment observes it. -/
def State.seenByte (s : State) (c : Ctx) (cls : Nat) (port : Option Nat) (die m : Nat) (l : Loc) : Byte :=
  if s.writes.isEmpty then s.locByte l
  else viewByte l.scratch l.key (fun w => w.seenBy c cls port die m) s.writes.reverse (s.locByte l)

/-- One element that a strand writes: its number, port, L-die and bytes. -/
structure WriteAt where
  elem : Nat
  port : Option Nat
  die : Nat
  locs : List Loc
  deriving Repr

/-- Writes made between two states are held as agents come to observe them: `lag` says in which views an element's write is
not performed at once, and `left` is what remains of the list of lags. -/
def State.noteWith (s t : State) (lag : Nat → Nat) (left : List Nat) (sid cls : Nat) (l : List WriteAt) : State :=
  let m := s.moment + 1
  let new := l.zipIdx.map fun p =>
    ({ num := m * 2 ^ 20 + p.2, sid := sid, cls := cls, port := p.1.port, instr := m, die := p.1.die
       bytes := p.1.locs.map fun b => (b.scratch, b.key, s.locByte b, t.locByte b) } : Write)
  let views := fun (w : Write) => match (l.zipIdx.find? fun p => decide (m * 2 ^ 20 + p.2 = w.num)) with
    | some p => (List.range 10).filter fun v => !(lag p.1.elem).testBit v
    | none => []
  ({ t with moment := s.moment, lags := left, writes := s.writes ++ new } : State).performFor views

/-- The writes that an instruction of a strand, or a unit, made between two states, as agents come to observe them: each
where it does not lag, with the kept pairs before it (R279, R281) (log entry 83). -/
def State.noteWrites (s t : State) (sid cls : Nat) (l : List WriteAt) : State :=
  if s.writes.isEmpty ∧ s.lags.isEmpty then t
  else s.noteWith t (fun e => s.lags.getD e 0) (s.lags.drop (l.foldl (fun k x => max k (x.elem + 1)) 0)) sid cls l

/-- A unit's write, of a class of its own: its strand's kept pairs do not take it in (R279, R285). -/
def State.noteUnit (s t : State) (cl : Nat) (l : List Loc) : State :=
  s.noteWrites t 0 (16 + s.moment) [{ elem := 0, port := some cl, die := cl / 8, locs := l }]

end Sys2Proof.Machine
end

