-- ==== Sys2Proof/Machine/Channels.lean ====
section
/-! DEFINITION. Channels: rings, the channel descriptor, and the scalar and vector channel instructions (R296 to R306). -/

namespace Sys2Proof.Machine

/-! ## Rings (R297 to R299) -/

/-- A little-endian field of a record: `n` bytes from byte `i`. -/
def fieldAt (l : List Byte) (i n : Nat) : Nat := leNat ((l.drop i).take n)

def Ring.base (r : Ring) : Nat := fieldAt r.desc 0 4
def Ring.slots (r : Ring) : Nat := fieldAt r.desc 4 2 + 1
/-- Slot bytes. -/
def Ring.size (r : Ring) : Nat := 8 * (fieldAt r.desc 6 2 + 1)
def Ring.cons (r : Ring) : Nat := byteAt r.desc 9
def Ring.actorProducer (r : Ring) : Bool := byteAt r.desc 10 % 2 == 1
def Ring.actorConsumer (r : Ring) (i : Nat) : Bool := byteAt r.desc 11 / 2 ^ i % 2 == 1

/-- The offset of slot j. -/
def Ring.slotAt (r : Ring) (j : Nat) : Nat := r.base + j * r.size

/-- Consumers still attached (R304). -/
def Ring.attached (r : Ring) : List Nat := (List.range r.cons).filter fun i => !r.detached.contains i

/-- F_i, T_i and read index_i. -/
def Ring.freeOf (r : Ring) (i : Nat) : Nat := r.free.getD i 0
def Ring.tokensOf (r : Ring) (i : Nat) : Nat := r.tokens.getD i 0
def Ring.readAt (r : Ring) (i : Nat) : Nat := r.ridx.getD i 0

/-- F_i is at least n for every attached consumer. -/
def Ring.room (r : Ring) (n : Nat) : Bool := r.attached.all fun i => decide (n ≤ r.freeOf i)

/-- The lowest attached consumer whose F_i is too small (R310). -/
def Ring.lacking (r : Ring) (n : Nat) : Option Nat := r.attached.find? fun i => decide (r.freeOf i < n)

/-- A token as it is produced or seen: tag (0 DATA, 1 EOR, 2 EOS, 3 FLUSH), slot bytes, and the poisoned 8-byte words
among them. -/
structure Tok where
  tag : BitVec 2
  data : List Byte
  bad : List Nat := []
  /-- Produced by a push without release (R284, R286). -/
  plain : Bool := false
  deriving DecidableEq, Repr

/-- A control token (R298). -/
def ctlTok (tag : BitVec 2) : Tok := { tag := tag, data := [] }

/-- A ring that some channel number binds; a free ring keeps its counters (R297) but is none. -/
def State.ringAt (s : State) (cl n : Nat) : Option Ring :=
  match smFind n (s.clAt cl).rings with
  | some r => if r.holders.isEmpty then none else some r
  | none => none

def State.setRing (s : State) (cl n : Nat) (r : Ring) : State :=
  let c := s.clAt cl
  s.setCl cl { c with rings := smPut n r c.rings }

/-- Marks the word of an absolute offset as poisoned. -/
def State.addSpPoison (s : State) (cl a : Nat) : State := { s with spPoison := nsAdd (s.spCell cl a / 8) s.spPoison }

/-- Slot j of a ring. -/
def State.slotTok (s : State) (cl : Nat) (r : Ring) (j : Nat) : Tok :=
  { tag := smGet 0 r.tags j, data := s.readSpBytes cl (r.slotAt j) r.size,
    bad := (List.range (r.size / 8)).filter fun k => s.poisonSp cl (r.slotAt j + 8 * k) 8, plain := r.plain.contains j }

/-- The head that consumer i sees. -/
def State.headTok (s : State) (cl : Nat) (r : Ring) (i : Nat) : Option Tok :=
  if 0 < r.tokensOf i then some (s.slotTok cl r (r.readAt i)) else none

/-- Fills slot j: bytes after the token's are zero. -/
def State.putTok (s : State) (cl : Nat) (r : Ring) (j : Nat) (t : Tok) : State :=
  let l := (t.data ++ List.replicate (r.size - t.data.length) 0).take r.size
  t.bad.foldl (fun s k => s.addSpPoison cl (r.slotAt j + 8 * k)) (s.writeSpBytes cl (r.slotAt j) l)

/-- Replaces each attached consumer's entry of a list of counters. -/
def Ring.onAttached (r : Ring) (f : Nat → Nat) (l : List Nat) : List Nat :=
  (List.range r.cons).map fun i => if r.detached.contains i then l.getD i 0 else f (l.getD i 0)

/-- A production (R297); with no consumer attached it is discarded as it is made (R304). -/
def State.produce (s : State) (cl n : Nat) (l : List Tok) : State :=
  match s.ringAt cl n with
  | none => s
  | some r =>
    let k := l.length
    let live := !r.attached.isEmpty
    let place := fun (p : Tok × Nat) => (r.widx + p.2) % r.slots
    let s := if live then l.zipIdx.foldl (fun s p => s.putTok cl r (place p) p.1) s else s
    s.setRing cl n { r with
      widx := (r.widx + k) % r.slots
      eosp := r.eosp || l.any (fun t => decide (t.tag = 2))
      free := r.onAttached (fun x => x - k) r.free
      tokens := r.onAttached (fun x => x + k) r.tokens
      tags := if live then l.zipIdx.foldl (fun m p => smSet 0 m (place p) p.1.tag) r.tags else r.tags
      plain := if live then l.zipIdx.foldl (fun m p => if p.1.plain then nsAdd (place p) m else nsDel (place p) m) r.plain else r.plain
      moments := if live then l.zipIdx.foldl (fun m p => if p.1.plain then m else smPut (place p) s.moment m) r.moments else r.moments }

/-- The pop of k slots by consumer i is an acquire of their producers, as each was when it produced; a push without release
gives none (R284 to R286). -/
def State.acquireSlots (s : State) (n : Nat) (r : Ring) (i k : Nat) : State :=
  (List.range k).foldl (fun s j =>
    let p := (r.readAt i + j) % r.slots
    if r.plain.contains p then s else s.acquireAt n (smGet 0 r.moments p)) s

/-- A consumption of n tokens by consumer i (R297); F_i grows, so a measurement of R310 starts afresh. -/
def State.consume (s : State) (cl n i k : Nat) : State :=
  match s.ringAt cl n with
  | none => s
  | some r =>
    s.setRing cl n { r with
      tokens := r.tokens.set i (r.tokensOf i - k)
      free := if r.detached.contains i then r.free else r.free.set i (r.freeOf i + k)
      ridx := r.ridx.set i ((r.readAt i + k) % r.slots)
      stall := if k = 0 then r.stall else .off }

/-! ## Channel numbers and the checks of R306 -/

/-- The ring to which a channel number is bound. -/
def State.chanAt (s : State) (c : Ctx) (n : Nat) : Option (Nat × Nat × Ring) :=
  (smFind n c.chans).bind fun b => (s.ringAt b.cluster b.ring).map fun r => (b.cluster, b.ring, r)

/-- What a channel instruction does. -/
inductive ChanOp where
  | push
  | pop (i : Nat)
  | detach (i : Nat)
  deriving DecidableEq, Repr

/-- The first failing check of R306 on a bound channel: cause and subcode. -/
def Ring.check (r : Ring) : ChanOp → Option (BitVec 8 × Nat)
  | .push => if r.actorProducer then some (causeChMisuse, 2) else if r.eosp then some (causeChMisuse, 7) else none
  | .pop i =>
    if r.cons ≤ i then some (causeOperand, 5)
    else if r.actorConsumer i then some (causeChMisuse, 2)
    else if r.detached.contains i then some (causeChMisuse, 3) else none
  | .detach i =>
    if r.cons ≤ i then some (causeOperand, 5) else if r.detached.contains i then some (causeChMisuse, 3) else none

/-- The channel that an instruction names, or the cause and subcode of its trap. -/
def State.chanCheck (s : State) (c : Ctx) (n : Nat) (op : ChanOp) : Except (BitVec 8 × Nat) (Nat × Nat × Ring) :=
  match s.chanAt c n with
  | none => .error (causeChMisuse, 1)
  | some (cl, k, r) => match r.check op with
    | some e => .error e
    | none => .ok (cl, k, r)

/-- The trap of a failed check: EVAL is the channel number, or the instruction word (R100, R165, R306). -/
def chanTrap (n word : Nat) (e : BitVec 8 × Nat) : TrapInfo :=
  trapOf e.1 e.2 (BitVec.ofNat 64 (if e.1 = causeOperand then word else n))

/-! ## ch.bind (R299, R301) -/

/-- A descriptor keeps the limits of R299, for a span of `clusters` clusters. -/
def chanDescOk (clusters : Nat) (d : List Byte) : Bool :=
  let r : Ring := { desc := d }
  let cons := byteAt d 9
  decide (r.base % 8 = 0) && decide (r.base < 2 ^ 22) && decide (r.slots ≤ 4096) && decide (r.size ≤ 4096) &&
  decide (byteAt d 8 < clusters) && decide (1 ≤ cons) && decide (cons ≤ 8) && decide (byteAt d 10 < 4) &&
  decide (byteAt d 11 < 2 ^ cons) && decide (fieldAt d 14 2 = 0) && decide (r.base + r.slots * r.size ≤ 2 ^ 22)

/-- Two descriptors agree in bytes 0 to 11, the ATTACH bit aside. -/
def chanDescEq (a b : List Byte) : Bool :=
  a.take 10 == b.take 10 && byteAt a 10 % 2 == byteAt b 10 % 2 && byteAt a 11 == byteAt b 11

/-- The binding that a gang member made under a channel number. -/
def State.peerBind (s : State) (c : Ctx) (member peer : Nat) : Option ChanBind :=
  if c.gangId = 0 then none
  else (s.ctxs.find? fun e => decide (e.2.mode ≠ .free) && decide (e.2.gangId = c.gangId) && decide (e.2.member = member)).bind
    fun e => smFind peer e.2.chans

/-- The context whose grant a strand draws on: a vpart child's is its parent's (R301, R358). -/
def State.grantCtx (s : State) (c : Ctx) : Ctx := match c.parent with | some p => s.ctxAt p | none => c

/-- The grant in a package cluster. -/
def State.grantIn (s : State) (c : Ctx) (cl : Nat) : Option Grant :=
  (s.grantCtx c).grants.find? fun g => decide (g.cluster = cl)

/-- The lowest-numbered free ring of the grant in a cluster (log entry 54). -/
def State.freeRing (s : State) (c : Ctx) (cl : Nat) : Option Nat :=
  (s.grantIn c cl).bind fun g => g.rings.find? fun n => (s.ringAt cl n).isNone

/-- Which actors of a cluster a pipeline names: 0 to 23 AGs, 24 to 39 junctions, 40 to 43 engines (R307, R319). -/
def descMembers (d : List Byte) : List Nat :=
  ((List.range 24).filter fun n => (fieldAt d 4 4).testBit n) ++
  ((List.range 16).filterMap fun n => if (fieldAt d 8 2).testBit n then some (24 + n) else none) ++
  ((List.range 4).filterMap fun n => if (byteAt d 10).testBit n then some (40 + n) else none)

/-- The rings that a configured actor joins: inputs and outputs. -/
def Cluster.actorRings (k : Cluster) (a : Nat) : List Nat :=
  if a < 24 then (match smFind a k.ags with | some g => [g.ring] | none => [])
  else if a < 40 then (match smFind (a - 24) k.jns with | some j => j.ins ++ j.outs.filterMap id | none => [])
  else if a = 41 then (match k.nodeCmd with | some m => [m.ring] | none => [])
  else match smFind a k.copyCmd with | some m => [m.ring] | none => []

/-- A ring belongs to a pipeline of the strand that is neither Unbound nor Done. -/
def State.inPipeline (s : State) (c : Ctx) (cl ring : Nat) : Bool :=
  c.pipes.any fun e =>
    decide (e.2.cluster = cl) && (e.2.state == .bound || e.2.state == .running || e.2.state == .frozen) &&
    (descMembers e.2.desc).any fun a => ((s.clAt cl).actorRings a).contains ring

/-- A free ring: its tokens are discarded and freed, its other counters stay (R297, R301) (log entry 79). -/
def Ring.freed (r : Ring) : Ring :=
  { r with
    holders := [], held := [], stall := .off, tokens := r.tokens.map fun _ => 0
    free := r.free.zipWith (· + ·) r.tokens }

/-- Removes a holder of a ring; a ring that no other strand holds is free again. -/
def State.unbindRing (s : State) (cl ring sid n : Nat) : State :=
  match s.ringAt cl ring with
  | none => s
  | some r =>
    let h := r.holders.filter fun p => !(decide (p.1 = sid) && decide (p.2 = n))
    s.setRing cl ring (if h.isEmpty then r.freed else { r with holders := h })

/-- A number of the current context becomes a further holder of a ring. -/
def State.holdRing (s : State) (n cl ring : Nat) : State :=
  match s.ringAt cl ring with
  | none => s
  | some r => s.setRing cl ring { r with holders := r.holders ++ [(s.me.sid, n)] }

/-- Binds a number of the current context to a ring that it holds. -/
def State.mapChan (s : State) (n cl ring : Nat) (d : List Byte) : State :=
  let c := s.me
  (s.setMe { c with chans := smPut n { cluster := cl, ring := ring, desc := d } c.chans }).pass

/-- A ring as ch.bind creates it. -/
def newRing (d : List Byte) (sid n : Nat) : Ring :=
  let r : Ring := { desc := d }
  { desc := d, sid := sid, chan := n, holders := [(sid, n)], free := List.replicate r.cons r.slots, tokens := List.replicate r.cons 0,
    ridx := List.replicate r.cons 0 }

/-- ch.bind with a descriptor (R301). -/
def State.bindChan (s : State) (n word : Nat) (d : List Byte) : Res Unit :=
  let c := s.me
  let illegal := Res.trap (trapOf causeOperand 12 (BitVec.ofNat 64 word)) s
  if !chanDescOk c.clusters.length d then illegal
  else if byteAt d 10 / 2 % 2 = 1 then
    match s.peerBind c (byteAt d 12) (byteAt d 13) with
    | none => illegal
    | some b => if chanDescEq d b.desc then .ok () ((s.holdRing n b.cluster b.ring).mapChan n b.cluster b.ring d) else illegal
  else
    let cl := c.clusters.getD (byteAt d 8) 0
    match s.freeRing c cl with
    | none => .trap (trapOf causeChMisuse 9 (BitVec.ofNat 64 n)) s
    | some k => .ok () ((s.setRing cl k (newRing d c.sid n)).mapChan n cl k d)

/-- ch.bind. -/
def execChBind (c : BitVec 6) (ra : XReg) (s : State) : Host.Outcome State Fault Refusal :=
  let m := s.me
  let n := c.toNat
  let word := parcelOf (.chBind c ra)
  if m.reg ra = 0 then
    match smFind n m.chans with
    | none => .next s.pass
    | some b =>
      if s.inPipeline m b.cluster b.ring then .next (s.trap causeOperand 10 (BitVec.ofNat 64 word))
      else
        let s := s.unbindRing b.cluster b.ring m.sid n
        .next (s.setMe { m with chans := smDel n m.chans }).pass
  else if (smFind n m.chans).isSome then .next (s.trap causeChMisuse 6 (BitVec.ofNat 64 n))
  else .next (s.finish ((s.readVirt m 15 (m.reg ra).toNat 16).andThen fun d s' => s'.bindChan n word d))

/-! ## ch.push, ch.pop, ch.tpop and ch.detach (R302 to R304) -/

/-- A channel trap of a scalar instruction. -/
def State.trapChan (s : State) (n word : Nat) (e : BitVec 8 × Nat) : State :=
  s.enterTrap s.cur (chanTrap n word e) s.me.pc

/-- ch.push: one DATA token, or the wait for room. With .rel it is a release for the channel's cluster (R284). -/
def execChPush (c : BitVec 6) (ra : XReg) (rel : Bool) (s : State) : Host.Outcome State Fault Refusal :=
  match s.chanCheck s.me c.toNat .push with
  | .error e => .next (s.trapChan c.toNat (parcelOf (.chPush c ra rel)) e)
  | .ok (cl, k, r) =>
    if r.room 1 then
      let s' := if rel then s.releaseTo s.cur 0xFFFF (cl / 8) 1 else s
      .next (s'.produce cl k [{ tag := 0, data := leBytes 8 (s.me.reg ra).toNat, plain := !rel }]).pass
    else .next (s.setMe { s.me with wait := some (.chPush c ra rel) })

/-- The offset of a poisoned word of a slot. -/
def Ring.badWord (r : Ring) (i k : Nat) : TrapInfo := trapOf causeMemPoison 0 (BitVec.ofNat 64 (r.slotAt (r.readAt i) + 8 * k))

/-- ch.pop. -/
def execChPop (rd : XReg) (c : BitVec 6) (i : BitVec 3) (s : State) : Host.Outcome State Fault Refusal :=
  match s.chanCheck s.me c.toNat (.pop i.toNat) with
  | .error e => .next (s.trapChan c.toNat (parcelOf (.chPop rd c i)) e)
  | .ok (cl, k, r) =>
    match s.headTok cl r i.toNat with
    | none => .next (s.setMe { s.me with wait := some (.chPop rd c i) })
    | some t =>
      if t.bad.contains 0 then .next (s.enterTrap s.cur (r.badWord i.toNat 0) s.me.pc)
      else .next (((s.acquireSlots s.cur r i.toNat 1).consume cl k i.toNat 1).done rd (BitVec.ofNat 64 (leNat (t.data.take 8))))

/-- ch.tpop. -/
def execChTpop (rd : XReg) (c : BitVec 6) (i : BitVec 3) (s : State) : Host.Outcome State Fault Refusal :=
  match s.chanCheck s.me c.toNat (.pop i.toNat) with
  | .error e => .next (s.trapChan c.toNat (parcelOf (.chTpop rd c i)) e)
  | .ok (_, _, r) =>
    let t := r.tokensOf i.toNat
    let v := if t = 0 then 4 else t * 2 ^ 16 + (smGet 0 r.tags (r.readAt i.toNat)).toNat
    .next ((s.acquireSlots s.cur r i.toNat (min t 1)).done rd (BitVec.ofNat 64 v))

/-- ch.detach: the unread tokens are discarded; F_i takes no further part. -/
def execChDetach (c : BitVec 6) (i : BitVec 3) (s : State) : Host.Outcome State Fault Refusal :=
  match s.chanCheck s.me c.toNat (.detach i.toNat) with
  | .error e => .next (s.trapChan c.toNat (parcelOf (.chDetach c i)) e)
  | .ok (cl, k, r) =>
    .next (s.setRing cl k { r with tokens := r.tokens.set i.toNat 0, detached := nsAdd i.toNat r.detached }).pass

/-- Performs the operation of another context as its own, and gives the issue back. -/
def State.onBehalf (s : State) (n : Nat) (f : State → Host.Outcome State Fault Refusal) :
    Host.Outcome State Fault Refusal :=
  match f { s with cur := n } with
  | .next t => .next { t with cur := s.cur }
  | o => o

/-- A blocked operation of a context can go on: its channel has room or a token, or its check now fails. -/
def State.chanReady (s : State) (c : Ctx) (n : Nat) (op : ChanOp) (need : Nat) : Bool :=
  match s.chanCheck c n op with
  | .error _ => true
  | .ok (_, _, r) => match op with
    | .push => r.room need
    | .pop i => decide (need ≤ r.tokensOf i)
    | .detach _ => true

/-- A waiting ch.push finds room. -/
def execChPushResume (ctx : Nat) (s : State) : Host.Outcome State Fault Refusal :=
  let c := s.ctxAt ctx
  match c.wait with
  | some (.chPush n ra rel) =>
    if s.chanReady c n.toNat .push 1 then (s.setCtx ctx { c with wait := none }).onBehalf ctx (execChPush n ra rel)
    else .next s
  | _ => .next s

/-- A waiting ch.pop finds a token. -/
def execChPopResume (ctx : Nat) (s : State) : Host.Outcome State Fault Refusal :=
  let c := s.ctxAt ctx
  match c.wait with
  | some (.chPop rd n i) =>
    if s.chanReady c n.toNat (.pop i.toNat) 1 then (s.setCtx ctx { c with wait := none }).onBehalf ctx (execChPop rd n i)
    else .next s
  | _ => .next s

/-! ## vch.push and vch.pop (R305, R126) -/

/-- The channel number of a vector channel instruction, and the closing tag of a push or the index of a pop. -/
def vchChan (f : VR) : Nat := f.src2.s % 64
def vchClosing (f : VR) : Nat := f.fn.toNat % 4

/-- Data tokens that VL elements of width w take in slots of Z bytes. -/
def dataToks (vl w z : Nat) : Nat := ((vl * 4 * w + 7) / 8 + z - 1) / z

/-- The slots that a push needs. -/
def pushNeed (vl : Nat) (f : VR) (r : Ring) : Nat := dataToks vl f.src1.w r.size + if vchClosing f = 0 then 0 else 1

/-- The tokens of a push: the elements as one bit string, inactive elements zero, then the closing token. -/
def VEnv.pushToks (v : VEnv) (f : VR) (r : Ring) : List (BitVec 2 × List Byte) :=
  let w := 4 * f.src1.w
  let n := dataToks v.cv.vl f.src1.w r.size
  let bits := (List.range v.cv.vl).foldr (fun e a => (if v.act f.pred e then v.get f.src1 e else 0) + 2 ^ w * a) 0
  let bytes := leBytes (n * r.size) bits
  ((List.range n).map fun k => ((0 : BitVec 2), (bytes.drop (k * r.size)).take r.size)) ++
    (if vchClosing f = 0 then [] else [(BitVec.ofNat 2 (vchClosing f), [])])

/-- The strand waits for channel counters; its convoy stays open and the slot runs again. -/
def State.vchWait (v : VEnv) : SlotRes := .wait (v.s.setMe { v.c with wait := some .vch })

/-- vch.push. -/
def execVchPush (f : VR) (s : State) : Host.Outcome State Fault Refusal :=
  .next (s.runSlot (.vchPush f) fun v =>
    match v.s.chanCheck v.c (vchChan f) .push with
    | .error e => .whole {} (chanTrap (vchChan f) (slotWord (.vchPush f)) e) v.s
    | .ok (_, _, r) =>
      let n := pushNeed v.cv.vl f r
      if r.slots < n then .whole {} (chanTrap (vchChan f) 0 (causeChMisuse, 4)) v.s
      else if !r.room n then State.vchWait v
      else
        let bad := (v.actives f.pred).findSome? fun e => (v.poisonCheck [(f.src1, e)] none).map fun t => (e, t)
        .done { log := { push := some ((vchChan f), v.pushToks f r) }, fault := bad } v.s)

/-- vch.pop. -/
def execVchPop (f : VR) (s : State) : Host.Outcome State Fault Refusal :=
  .next (s.runSlot (.vchPop f) fun v =>
    let i := f.fn.toNat
    match v.s.chanCheck v.c (vchChan f) (.pop i) with
    | .error e => .whole {} (chanTrap (vchChan f) (slotWord (.vchPop f)) e) v.s
    | .ok (cl, _, r) =>
      let n := dataToks v.cv.vl f.dest.w r.size
      if r.slots < n then .whole {} (chanTrap (vchChan f) 0 (causeChMisuse, 4)) v.s
      else if r.tokensOf i < n then State.vchWait v
      else
        let toks := (List.range n).map fun k => v.s.slotTok cl r ((r.readAt i + k) % r.slots)
        if toks.any fun t => decide (t.tag ≠ 0) then .whole {} (chanTrap (vchChan f) 0 (causeChMisuse, 5)) v.s
        else
          let bits := leNat (toks.flatMap Tok.data)
          let w := 4 * f.dest.w
          let badAt := fun (word : Nat) => match toks[word / (r.size / 8)]? with
            | some t => t.bad.contains (word % (r.size / 8))
            | none => false
          let a := v.loop (.slices f.dest) f.pred f.pz (fun _ => []) fun _ e =>
            match (List.range ((w * e + w - 1) / 64 - w * e / 64 + 1)).find? fun k => badAt (w * e / 64 + k) with
            | some k =>
              let word := w * e / 64 + k
              let slot := (r.readAt i + word / (r.size / 8)) % r.slots
              .error (trapOf causeMemPoison 0 (BitVec.ofNat 64 (r.slotAt slot + 8 * (word % (r.size / 8)))))
            | none => .ok (bits / 2 ^ (w * e) % 2 ^ w, 0)
          .done { a with log := { a.log with pop := some ((vchChan f), i, n) } } v.s)

/-- The slot at which an open convoy waits can go on. -/
def State.vchReady (s : State) (c : Ctx) : Bool :=
  match c.viq with
  | [] => true
  | cv :: _ => match cv.todo with
    | .vchPush f :: _ => match s.chanAt c (vchChan f) with
      | some (_, _, r) => s.chanReady c (vchChan f) .push (pushNeed cv.vl f r)
      | none => true
    | .vchPop f :: _ => match s.chanAt c (vchChan f) with
      | some (_, _, r) => s.chanReady c (vchChan f) (.pop f.fn.toNat) (dataToks cv.vl f.dest.w r.size)
      | none => true
    | _ => true

/-- A convoy waiting on channel counters goes on. -/
def execVchResume (ctx : Nat) (s : State) : Host.Outcome State Fault Refusal :=
  let c := s.ctxAt ctx
  if c.wait = some .vch ∧ s.vchReady c = true then .next (s.setCtx ctx { c with wait := none }) else .next s

end Sys2Proof.Machine
end

