-- ==== Sys2Proof/Machine/Lanes.lean ====
section
/-! DEFINITION. The lane arithmetic instructions: integer, immediate, real and complex float, modular, conversions and
block floating point (spec 06, R169 to R192). -/

namespace Sys2Proof.Machine

/-! ## Reading operands (R170) -/

/-- S1(e) as a bit string. -/
def VEnv.s1 (v : VEnv) (own : List SliceWrite) (f : VR) (e : Nat) : Nat := v.getAt own f.src1 e (v.row e)

/-- D(e), the destination element before the instruction writes it. -/
def VEnv.old (v : VEnv) (own : List SliceWrite) (o : Opnd) (e : Nat) : Nat := v.getAt own o e (v.row e)

/-- Int(S1(e)) and Int(S2(e)). -/
def VEnv.i1 (v : VEnv) (own : List SliceWrite) (f : VR) (e : Nat) : Int := intOf (!f.ext) (4 * f.src1.w) (v.s1 own f e)
def VEnv.i2 (v : VEnv) (own : List SliceWrite) (f : VR) (e : Nat) : Int :=
  intOf (!f.ext) (v.s2 own f e).2 (v.s2 own f e).1

/-- Destination width in bits. -/
def VR.d (f : VR) : Nat := 4 * f.dest.w

/-- Nar(Q) of a VR instruction. -/
def VR.nar (f : VR) (q : Int) : Nat := narrow f.sat (!f.ext) (4 * f.dest.w) q

/-! ## Integer instructions (R174, R175) -/

/-- The loop of a two-source integer instruction: F sees a, b and the raw bits of source 2. -/
def VEnv.int2 (v : VEnv) (f : VR) (F : Int → Int → Nat → Nat) : VAcc :=
  v.loop (.slices f.dest) f.pred f.pz (v.srcs true true false f) fun own e =>
    .ok (F (v.i1 own f e) (v.i2 own f e) (v.s2 own f e).1, 0)

/-- The same with the old destination. -/
def VEnv.int3 (v : VEnv) (f : VR) (F : Int → Int → Int → Int) : VAcc :=
  v.loop (.slices f.dest) f.pred f.pz (v.srcs true true true f) fun own e =>
    .ok (VR.nar f (F (intOf (!f.ext) (VR.d f) (v.old own f.dest e)) (v.i1 own f e) (v.i2 own f e)), 0)

/-- The operation width W of a division (R174): mode 11 counts as 16 slices. -/
def divWidth (f : VR) : Nat := 4 * Nat.max f.src1.w (Nat.max (if f.mode = 3 then 16 else f.src2.w) f.dest.w)

def execVadd (f : VR) (s : State) := s.runPlain (.vadd f) fun v => v.int2 f fun a b _ => VR.nar f (a + b)
def execVsub (f : VR) (s : State) := s.runPlain (.vsub f) fun v => v.int2 f fun a b _ => VR.nar f (a - b)
def execVrsub (f : VR) (s : State) := s.runPlain (.vrsub f) fun v => v.int2 f fun a b _ => VR.nar f (b - a)
def execVmul (f : VR) (s : State) := s.runPlain (.vmul f) fun v => v.int2 f fun a b _ => VR.nar f (a * b)
def execVmulh (f : VR) (s : State) :=
  s.runPlain (.vmulh f) fun v => v.int2 f fun a b _ => VR.nar f (a * b / (2 ^ VR.d f : Nat))
def execVmacc (f : VR) (s : State) := s.runPlain (.vmacc f) fun v => v.int3 f fun d a b => d + a * b
def execVnmac (f : VR) (s : State) := s.runPlain (.vnmac f) fun v => v.int3 f fun d a b => d - a * b
def execVdiv (f : VR) (s : State) :=
  s.runPlain (.vdiv f) fun v => v.int2 f fun a b _ => VR.nar f (divBy (!f.ext) (divWidth f) a b)
def execVrem (f : VR) (s : State) := s.runPlain (.vrem f) fun v => v.int2 f fun a b _ => VR.nar f (remBy a b)
def execVmin (f : VR) (s : State) :=
  s.runPlain (.vmin f) fun v => v.int2 f fun a b _ => VR.nar f (if b < a then b else a)
def execVmax (f : VR) (s : State) :=
  s.runPlain (.vmax f) fun v => v.int2 f fun a b _ => VR.nar f (if a < b then b else a)
def execVand (f : VR) (s : State) :=
  s.runPlain (.vand f) fun v => v.int2 f fun a b _ => Nat.land (wrapTo (VR.d f) a) (wrapTo (VR.d f) b)
def execVor (f : VR) (s : State) :=
  s.runPlain (.vor f) fun v => v.int2 f fun a b _ => Nat.lor (wrapTo (VR.d f) a) (wrapTo (VR.d f) b)
def execVxor (f : VR) (s : State) :=
  s.runPlain (.vxor f) fun v => v.int2 f fun a b _ => Nat.xor (wrapTo (VR.d f) a) (wrapTo (VR.d f) b)
def execVandn (f : VR) (s : State) :=
  s.runPlain (.vandn f) fun v => v.int2 f fun a b _ =>
    Nat.land (wrapTo (VR.d f) a) (2 ^ VR.d f - 1 - wrapTo (VR.d f) b)
def execVsll (f : VR) (s : State) :=
  s.runPlain (.vsll f) fun v => v.int2 f fun a _ n => shiftLeft (VR.d f) (wrapTo (VR.d f) a) n
def execVsrl (f : VR) (s : State) :=
  s.runPlain (.vsrl f) fun v => v.int2 f fun a _ n => shiftRight (VR.d f) (wrapTo (VR.d f) a) n
def execVsra (f : VR) (s : State) :=
  s.runPlain (.vsra f) fun v => v.int2 f fun a _ n => shiftRightA (VR.d f) (wrapTo (VR.d f) a) n

/-- The loop of a one-source integer instruction over the raw bits of source 1. -/
def VEnv.int1 (v : VEnv) (f : VR) (F : Nat → Nat) : VAcc :=
  v.loop (.slices f.dest) f.pred f.pz (v.srcs true false false f) fun own e => .ok (F (v.s1 own f e), 0)

def execVclz (f : VR) (s : State) :=
  s.runPlain (.vclz f) fun v => v.int1 f fun x => VR.nar f (leadZeros (4 * f.src1.w) x : Nat)
def execVpopc (f : VR) (s : State) :=
  s.runPlain (.vpopc f) fun v => v.int1 f fun x => VR.nar f (popCount (4 * f.src1.w) x : Nat)
def execVabs (f : VR) (s : State) :=
  s.runPlain (.vabs f) fun v => v.int1 f fun x => VR.nar f ((intOf (!f.ext) (4 * f.src1.w) x).natAbs : Nat)

/-- vmv (R175): source 2 alone. -/
def execVmv (f : VR) (s : State) :=
  s.runPlain (.vmv f) fun v =>
    v.loop (.slices f.dest) f.pred f.pz (v.srcs false true false f) fun own e => .ok (VR.nar f (v.i2 own f e), 0)

/-- vid (R175). -/
def execVid (f : VR) (s : State) :=
  s.runPlain (.vid f) fun v =>
    v.loop (.slices f.dest) f.pred f.pz (fun _ => []) fun _ e => .ok (VR.nar f (e : Nat), 0)

/-- vsel (R175): every element of VSTART ... VL - 1 is written, so the loop runs under p12. -/
def execVsel (f : VR) (s : State) :=
  s.runPlain (.vsel f) fun v =>
    v.loop (.slices f.dest) 12 false
      (fun e => (if v.pred f.pred.toNat e then [(f.src1, e)] else []) ++
        src2Reads f v.elems (v.elems.filter fun x => !v.pred f.pred.toNat x) e)
      fun own e => .ok (VR.nar f (if v.pred f.pred.toNat e then v.i1 own f e else v.i2 own f e), 0)

/-- The conditions of vcmp (R176). -/
def intCond (cc : Nat) (a b : Int) : Bool :=
  match cc with
  | 0 => decide (a = b)
  | 1 => decide (a ≠ b)
  | 2 => decide (a < b)
  | 3 => decide (b ≤ a)
  | 4 => decide (a ≤ b)
  | _ => decide (b < a)

/-- A truth value as an element. -/
def bitOf (b : Bool) : Nat := if b then 1 else 0

/-- vcmp (R176). -/
def execVcmp (f : VR) (s : State) :=
  s.runPlain (.vcmp f) fun v =>
    v.loop (.pred f.dest.s) f.pred f.pz (v.srcs true true false f) fun own e =>
      .ok (bitOf (intCond f.fn.toNat (v.i1 own f e) (v.i2 own f e)), 0)

/-! ## Immediate forms (R177) -/

/-- The loop of a VI instruction: F sees a and i. -/
def VEnv.imm (v : VEnv) (f : VI) (F : Int → Int → Nat) : VAcc :=
  v.loop (.slices f.dest) f.pred f.pz (fun e => [(f.src1, e)]) fun own e =>
    .ok (F (intOf (!f.ext) (4 * f.src1.w) (v.getAt own f.src1 e (v.row e))) f.imm.toInt, 0)

def VI.d (f : VI) : Nat := 4 * f.dest.w
def VI.nar (f : VI) (q : Int) : Nat := narrow f.sat (!f.ext) (4 * f.dest.w) q

/-- The shift amount imm14[5:0]. -/
def VI.amount (f : VI) : Nat := f.imm.toNat % 64

def execVaddi (f : VI) (s : State) := s.runPlain (.vaddi f) fun v => v.imm f fun a i => VI.nar f (a + i)
def execVandi (f : VI) (s : State) :=
  s.runPlain (.vandi f) fun v => v.imm f fun a i => Nat.land (wrapTo (VI.d f) a) (wrapTo (VI.d f) i)
def execVori (f : VI) (s : State) :=
  s.runPlain (.vori f) fun v => v.imm f fun a i => Nat.lor (wrapTo (VI.d f) a) (wrapTo (VI.d f) i)
def execVxori (f : VI) (s : State) :=
  s.runPlain (.vxori f) fun v => v.imm f fun a i => Nat.xor (wrapTo (VI.d f) a) (wrapTo (VI.d f) i)
def execVslli (f : VI) (s : State) :=
  s.runPlain (.vslli f) fun v => v.imm f fun a _ => shiftLeft (VI.d f) (wrapTo (VI.d f) a) (VI.amount f)
def execVsrli (f : VI) (s : State) :=
  s.runPlain (.vsrli f) fun v => v.imm f fun a _ => shiftRight (VI.d f) (wrapTo (VI.d f) a) (VI.amount f)
def execVsrai (f : VI) (s : State) :=
  s.runPlain (.vsrai f) fun v => v.imm f fun a _ => shiftRightA (VI.d f) (wrapTo (VI.d f) a) (VI.amount f)
def execVmvi (f : VI) (s : State) :=
  s.runPlain (.vmvi f) fun v =>
    v.loop (.slices f.dest) f.pred f.pz (fun _ => []) fun _ _ => .ok (VI.nar f f.imm.toInt, 0)
def execVcmpi (f : VI) (s : State) :=
  s.runPlain (.vcmpi f) fun v =>
    v.loop (.pred f.dest.s) f.pred f.pz (fun e => [(f.src1, e)]) fun own e =>
      .ok (bitOf (intCond f.fn.toNat (intOf (!f.ext) (4 * f.src1.w) (v.getAt own f.src1 e (v.row e))) f.imm.toInt), 0)

/-! ## Real floating point (R178 to R182) -/

/-- Dec of an element of `w` slices; of a T6x2 element, the half selected (R36, R186). -/
def decW (w : Nat) (half : Bool) (x : Nat) : FVal :=
  if w = 3 then decodeF .t6 (if half then x / 64 % 64 else x % 64)
  else match fmtOfWidth w with
    | some fm => decodeF fm (x % 2 ^ fm.bits)
    | none => .nan false

/-- Rounding into the format of `w` slices. -/
def roundW (w mode : Nat) (x : FVal) : Nat × FpFlags :=
  match fmtOfWidth w with
  | some fm => roundF fm mode x
  | none => (0, 0)

/-- The width that source 2 has: in mode 11, source 1's (R170). -/
def VR.w2 (f : VR) : Nat := if f.mode = 3 then f.src1.w else f.src2.w

def VEnv.f1 (v : VEnv) (own : List SliceWrite) (f : VR) (e : Nat) : FVal := decW f.src1.w f.sat (v.s1 own f e)
def VEnv.f2 (v : VEnv) (own : List SliceWrite) (f : VR) (e : Nat) : FVal := decW (VR.w2 f) f.sat (v.s2 own f e).1
def VEnv.fd (v : VEnv) (own : List SliceWrite) (f : VR) (e : Nat) : FVal := decW f.dest.w false (v.old own f.dest e)

/-- The rounding mode of a slot (R46). -/
def VEnv.mode (v : VEnv) (f : VR) : Nat := modeOf f.fn v.cv.dyn

/-- The loop of a float instruction: an exact value and its flags, rounded once into the destination. -/
def VEnv.real (v : VEnv) (f : VR) (mode : Nat) (two dst : Bool)
    (F : List SliceWrite → Nat → FVal × FpFlags) : VAcc :=
  v.loop (.slices f.dest) f.pred f.pz (v.srcs true two dst f) fun own e =>
    let x := F own e
    let r := roundW f.dest.w mode x.1
    .ok (r.1, x.2 ||| r.2)

def execVfadd (f : VR) (s : State) :=
  s.runPlain (.vfadd f) fun v =>
    v.real f (v.mode f) true false fun own e => sumF (v.mode f == 2) [v.f1 own f e, v.f2 own f e]
def execVfsub (f : VR) (s : State) :=
  s.runPlain (.vfsub f) fun v =>
    v.real f (v.mode f) true false fun own e => sumF (v.mode f == 2) [v.f1 own f e, (v.f2 own f e).negate]
def execVfmul (f : VR) (s : State) :=
  s.runPlain (.vfmul f) fun v =>
    v.real f (v.mode f) true false fun own e => sumOfProducts (v.mode f == 2) [(v.f1 own f e, v.f2 own f e)] []
def execVfmacc (f : VR) (s : State) :=
  s.runPlain (.vfmacc f) fun v =>
    v.real f (v.mode f) true true fun own e =>
      sumOfProducts (v.mode f == 2) [(v.f1 own f e, v.f2 own f e)] [v.fd own f e]
def execVfnmsac (f : VR) (s : State) :=
  s.runPlain (.vfnmsac f) fun v =>
    v.real f (v.mode f) true true fun own e =>
      sumOfProducts (v.mode f == 2) [((v.f1 own f e).negate, v.f2 own f e)] [v.fd own f e]
def execVfdiv (f : VR) (s : State) :=
  s.runPlain (.vfdiv f) fun v => v.real f (v.mode f) true false fun own e => divF (v.f1 own f e) (v.f2 own f e)
def execVfsqrt (f : VR) (s : State) :=
  s.runPlain (.vfsqrt f) fun v => v.real f (v.mode f) false false fun own e => sqrtF (v.f1 own f e)
def execVfmin (f : VR) (s : State) :=
  s.runPlain (.vfmin f) fun v => v.real f 0 true false fun own e => minMaxF false (v.f1 own f e) (v.f2 own f e)
def execVfmax (f : VR) (s : State) :=
  s.runPlain (.vfmax f) fun v => v.real f 0 true false fun own e => minMaxF true (v.f1 own f e) (v.f2 own f e)

/-- vfcmp (R180). -/
def execVfcmp (f : VR) (s : State) :=
  s.runPlain (.vfcmp f) fun v =>
    v.loop (.pred f.dest.s) f.pred f.pz (v.srcs true true false f) fun own e =>
      let r := compareF f.fn.toNat (v.f1 own f e) (v.f2 own f e)
      .ok (bitOf r.1, r.2)

/-- vfclass (R181). -/
def execVfclass (f : VR) (s : State) :=
  s.runPlain (.vfclass f) fun v => v.int1 f fun x =>
    2 ^ classBit ((fmtOfWidth f.src1.w).getD .fp32) (decW f.src1.w false x)

def execVfexp2 (f : VR) (s : State) :=
  s.runPlain (.vfexp2 f) fun v => v.real f 0 false false fun own e => exp2F (v.f1 own f e)
def execVflog2 (f : VR) (s : State) :=
  s.runPlain (.vflog2 f) fun v => v.real f 0 false false fun own e => log2F (v.f1 own f e)
def execVfrcp (f : VR) (s : State) :=
  s.runPlain (.vfrcp f) fun v => v.real f 0 false false fun own e => rcpF (v.f1 own f e)
def execVfrsqrt (f : VR) (s : State) :=
  s.runPlain (.vfrsqrt f) fun v => v.real f 0 false false fun own e => rsqrtF (v.f1 own f e)

/-! ## Complex values (R52, R183) -/

/-- The components of a complex element: CB16 of width 8, CF32 of width 16. -/
def decC (w x : Nat) : FVal × FVal :=
  if w = 8 then (decodeF .bf16 (x % 2 ^ 16), decodeF .bf16 (x / 2 ^ 16 % 2 ^ 16))
  else (decodeF .fp32 (x % 2 ^ 32), decodeF .fp32 (x / 2 ^ 32 % 2 ^ 32))

/-- Rounds both components; a NaN in either makes the canonical complex NaN (R42, R52). -/
def roundC (w mode : Nat) (re im : FVal) : Nat × FpFlags :=
  let fm := if w = 8 then Fmt.bf16 else Fmt.fp32
  let a := roundF fm mode re
  let b := roundF fm mode im
  (if re.isNan || im.isNan then nanOf fm * 2 ^ fm.bits + nanOf fm else b.1 * 2 ^ fm.bits + a.1, a.2 ||| b.2)

/-- The loop of a complex product; `dst` adds the old destination. -/
def VEnv.complex (v : VEnv) (f : VR) (dst : Bool) : VAcc :=
  v.loop (.slices f.dest) f.pred f.pz (v.srcs true true dst f) fun own e =>
    let mode := v.mode f
    let a := decC f.src1.w (v.s1 own f e)
    let b := decC (VR.w2 f) (v.s2 own f e).1
    let bi := if f.ext then b.2.negate else b.2
    let d := decC f.dest.w (v.old own f.dest e)
    let re := sumOfProducts (mode == 2) [(a.1, b.1), (a.2.negate, bi)] (if dst then [d.1] else [])
    let im := sumOfProducts (mode == 2) [(a.1, bi), (a.2, b.1)] (if dst then [d.2] else [])
    let r := roundC f.dest.w mode re.1 im.1
    .ok (r.1, re.2 ||| im.2 ||| r.2)

def execVcmul (f : VR) (s : State) := s.runPlain (.vcmul f) fun v => v.complex f false
def execVcmac (f : VR) (s : State) := s.runPlain (.vcmac f) fun v => v.complex f true

/-! ## Residues (R184, R185) -/

/-- MOD_RANGE with the offending input (R61, R165). -/
def modRange (x : Nat) : TrapInfo := trapOf causeModRange 0 (BitVec.ofNat 64 x)

/-- The loop of a two-source modular instruction; source 1 is checked before source 2. -/
def VEnv.mod2 (v : VEnv) (f : VR) (F : Nat → Nat → Nat → Nat) : VAcc :=
  v.loop (.slices f.dest) f.pred f.pz (v.srcs true true false f) fun own e =>
    let a := v.s1 own f e
    let b := (v.s2 own f e).1
    if v.cv.modq ≤ a then .error (modRange a)
    else if v.cv.modq ≤ b then .error (modRange b)
    else .ok (F v.cv.modq a b, 0)

def execVmadd (f : VR) (s : State) := s.runPlain (.vmadd f) fun v => v.mod2 f fun q a b => (a + b) % q
def execVmsub (f : VR) (s : State) := s.runPlain (.vmsub f) fun v => v.mod2 f fun q a b => (a + q - b) % q
def execVmmul (f : VR) (s : State) := s.runPlain (.vmmul f) fun v => v.mod2 f fun q a b => a * b % q
def execVmred (f : VR) (s : State) :=
  s.runPlain (.vmred f) fun v =>
    v.loop (.slices f.dest) f.pred f.pz (v.srcs true false false f) fun own e =>
      let a := v.s1 own f e
      if v.cv.modq * v.cv.modq ≤ a then .error (modRange a) else .ok (a % v.cv.modq, 0)

/-! ## Conversions (R186 to R188) -/

/-- Rounding into a width that may be T6x2's half. -/
def roundT (w mode : Nat) (x : FVal) : Nat × FpFlags := if w = 3 then roundF .t6 mode x else roundW w mode x

/-- One step of the error-feedback chain (R47): carry `c` as FP32 bits; result, flags and next carry (log entry 93). -/
def efbStep (w c : Nat) (x : FVal) : Nat × FpFlags × Nat :=
  if x.isNan || x.isInf then
    let r := roundT w 0 x
    (r.1, r.2, 0)
  else
    let t := decodeF .fp32 (roundF .fp32 0 (sumF false [x, decodeF .fp32 c]).1).1
    let r := roundT w 0 t
    if t.isInf then (r.1, r.2 ||| flOF ||| flNX, 0)
    else (r.1, r.2, (roundF .fp32 0 (sumF false [t, (decW w false r.1).negate]).1).1)

/-- One element of vcvt to or from the real formats with no chain. -/
def VEnv.cvtElem (v : VEnv) (f : VR) (mode : Nat) (own : List SliceWrite) (e : Nat) : Nat × FpFlags :=
  if f.dest.w = 3 ∧ f.src1.w = 3 then (v.s1 own f e, 0)
  else if f.dest.w = 3 then
    let a := roundF .t6 mode (decW f.src1.w false (v.s1 own f e))
    let b := roundF .t6 mode (v.f2 own f e)
    (b.1 * 64 + a.1, a.2 ||| b.2)
  else roundW f.dest.w mode (v.f1 own f e)

/-- One element of vcvt under EFB with carry `c`. -/
def VEnv.efbElem (v : VEnv) (f : VR) (own : List SliceWrite) (c e : Nat) : Nat × FpFlags × Nat :=
  let a := efbStep f.dest.w c (decW f.src1.w false (v.s1 own f e))
  if f.dest.w = 3 then
    let b := efbStep 3 a.2.2 (v.f2 own f e)
    (b.1 * 64 + a.1, a.2.1 ||| b.2.1, b.2.2)
  else a

/-- One element of the chain's loop, with the carry. -/
def VEnv.efbLoop (v : VEnv) (f : VR) (p : VAcc × Nat) (e : Nat) : VAcc × Nat :=
  let r := v.efbElem f p.1.log.slices p.2 e
  let a := v.elem (.slices f.dest) f.pred f.pz (v.srcs true f.cvtTwo false f) (fun _ _ => .ok (r.1, r.2.1)) p.1 e
  if v.act f.pred e && a.fault.isNone then
    ({ a with log := { a.log with efc := a.log.efc ++ [(e, BitVec.ofNat 32 r.2.2)] } }, r.2.2)
  else (a, p.2)

/-- vcvt runs the error-feedback chain: code 100, or dynamic EFB on a narrowing conversion (R46). -/
def VEnv.efb (v : VEnv) (f : VR) : Bool :=
  (decide (f.fn = 4) || (decide (f.fn = 5) && decide (v.cv.dyn = 4))) && f.efbOk

def execVcvt (f : VR) (s : State) :=
  s.runPlain (.vcvt f) fun v =>
    if f.ext then
      v.loop (.slices f.dest) f.pred f.pz (v.srcs true false false f) fun own e =>
        let a := decC f.src1.w (v.s1 own f e)
        .ok (roundC f.dest.w (v.mode f) a.1 a.2)
    else if v.efb f then
      v.close (some f.dest) (v.elems.foldl (v.efbLoop f) ({}, v.c.efc.toNat)).1
    else
      v.loop (.slices f.dest) f.pred f.pz (v.srcs true f.cvtTwo false f) fun own e =>
        .ok (v.cvtElem f (v.mode f) own e)

/-- vftoi (R58, R188). -/
def execVftoi (f : VR) (s : State) :=
  s.runPlain (.vftoi f) fun v =>
    v.loop (.slices f.dest) f.pred f.pz (v.srcs true false false f) fun own e =>
      .ok (ftoiF (!f.ext) (VR.d f) (v.mode f) (v.f1 own f e))

/-- vitof (R58, R188). -/
def execVitof (f : VR) (s : State) :=
  s.runPlain (.vitof f) fun v =>
    v.loop (.slices f.dest) f.pred f.pz (v.srcs true false false f) fun own e =>
      .ok (roundW f.dest.w (v.mode f) (ofIntF (v.i1 own f e)))

/-! ## Block floating point (R189 to R192) -/

/-- The components of a float element, complex when `ext`. -/
def parts (ext : Bool) (w x : Nat) : List FVal := if ext then [(decC w x).1, (decC w x).2] else [decW w false x]

/-- The active elements of block b, for vbfexp: predicate true and below VL, VSTART or not. -/
def VEnv.block (v : VEnv) (f : VR) (b : Nat) : List Nat :=
  ((List.range 32).map (32 * b + ·)).filter fun e => decide (e < v.cv.vl) && v.pred f.pred.toNat e

/-- The value of E(b). -/
def VEnv.blockExp (v : VEnv) (f : VR) (b : Nat) : Nat :=
  bfExponent ((v.block f b).flatMap fun e => parts f.ext f.src1.w (v.get f.src1 e))

/-- The blocks that vbfexp writes: VSTART div 32 ... ceil(VL / 32) - 1. -/
def VEnv.blocks (v : VEnv) : List Nat :=
  (List.range ((v.cv.vl + 31) / 32 - v.cv.vstart / 32)).map (v.cv.vstart / 32 + ·)

/-- vbfexp (R189, R190): all exponents are chosen before any is written. A poisoned exponent row that it writes in part is
charged to the first element of its block (log entry 90). -/
def execVbfexp (f : VR) (s : State) :=
  s.runPlain (.vbfexp f) fun v =>
    let bs := v.blocks
    let bad := bs.findSome? fun b => (v.block f b).findSome? fun e =>
      (v.poisonCheck [(f.src1, e)] none).map fun t => (e, t)
    let part := bs.findSome? fun b => (v.poisonCheck [] (some (f.dest, b))).map fun t => (32 * b, t)
    match lowestFault [bad, part] with
    | some p => { fault := some p }
    | none => { log := {
        slices := bs.flatMap fun b => v.put f.dest b (v.blockExp f b)
        rows := (bs.map v.row).eraseDups.map fun r => (r, f.dest.s + f.dest.w * r, f.dest.w) } }

/-- The exponent that element e reads: element e div 32 of the exponent operand, in e's row (R121). -/
def VEnv.expOf (v : VEnv) (own : List SliceWrite) (f : VR) (e : Nat) : Nat := v.getAt own f.src2 (e / 32) (v.row e)

/-- The sources of a block conversion, for the poison check. -/
def blockSrcs (f : VR) (e : Nat) : List (Opnd × Nat) := [(f.src1, e), (f.src2, e / 32)]

/-- vbfmant (R191). -/
def execVbfmant (f : VR) (s : State) :=
  s.runPlain (.vbfmant f) fun v =>
    v.loop (.slices f.dest) f.pred f.pz (blockSrcs f) fun own e =>
      let E := v.expOf own f e
      let ms := (parts f.ext f.src1.w (v.s1 own f e)).map (bfMant E)
      .ok (ms.foldr (fun m acc => m.1 + 2 ^ 16 * acc) 0, ms.foldl (fun fl m => fl ||| m.2) 0)

/-- vbfval (R192). -/
def execVbfval (f : VR) (s : State) :=
  s.runPlain (.vbfval f) fun v =>
    v.loop (.slices f.dest) f.pred f.pz (blockSrcs f) fun own e =>
      let E := v.expOf own f e
      let m := v.s1 own f e
      .ok (if f.ext then roundC f.dest.w (v.mode f) (bfValue E m) (bfValue E (m / 2 ^ 16))
        else roundW f.dest.w (v.mode f) (bfValue E m))

end Sys2Proof.Machine
end

