-- ==== Sys2Proof/Machine/Cross.lean ====
section
/-! DEFINITION. The cross-lane instructions: permutes, vpush, reductions, scans, argmax, fibres, scalar results and the
predicate instructions (spec 07, R193 to R209). -/

namespace Sys2Proof.Machine

/-! ## Permutes (R196) -/

/-- A permute: element e takes source 1's element `F e`, or zero. -/
def VEnv.permute (v : VEnv) (f : VR) (two : Bool) (F : Nat → Option Nat) : VAcc :=
  v.loopX (.slices f.dest) f.pred f.pz
    (fun e => (match F e with | some j => (if j < v.cv.vl then [(f.src1, j)] else []) | none => []) ++
      v.srcs false two false f e)
    fun e => match F e with | some j => v.src f.src1 j | none => 0

/-- vslide by its direction: 0 down, 1 up, 2 rot. -/
def State.slide (s : State) (f : VR) : Host.Outcome State Fault Refusal :=
  s.runPlain (.vslideDown f) fun v => v.permute f true fun e =>
    let n := v.s2x f e
    if f.fn = 0 then some (e + n)
    else if f.fn = 1 then (if n ≤ e then some (e - n) else none)
    else some ((e + n) % v.cv.vl)

def execVslideDown (f : VR) (s : State) := s.slide f
def execVslideUp (f : VR) (s : State) := s.slide { f with fn := 1 }
def execVslideRot (f : VR) (s : State) := s.slide { f with fn := 2 }
def execVxchg (f : VR) (s : State) :=
  s.runPlain (.vxchg f) fun v => v.permute f true fun e => some (Nat.xor e (v.s2x f e))
def execVperm (f : VR) (s : State) := s.runPlain (.vperm f) fun v => v.permute f true fun e => some (v.s2x f e)
def execVrev (f : VR) (s : State) := s.runPlain (.vrev f) fun v => v.permute f false fun e => some (v.cv.vl - 1 - e)

/-- A two-source permute: element e takes the given element of the given operand. -/
def VEnv.permute2 (v : VEnv) (f : VR) (F : Nat → Opnd × Nat) : VAcc :=
  v.loopX (.slices f.dest) f.pred f.pz (fun e => if (F e).2 < v.cv.vl then [F e] else []) fun e => v.src (F e).1 (F e).2

def execVzip (f : VR) (s : State) :=
  s.runPlain (.vzip f) fun v => v.permute2 f fun e => if e % 2 = 0 then (f.src1, e / 2) else (f.src2, e / 2)
def execVunzip (f : VR) (s : State) :=
  s.runPlain (.vunzip f) fun v => v.permute2 f fun e =>
    let j := 2 * e + f.fn.toNat % 2
    if j < v.cv.vl then (f.src1, j) else (f.src2, j - v.cv.vl)

/-- A fibre starts at element 0 and where p13 is set (R201); without segments the whole vector is one fibre. -/
def VEnv.fibreStart (v : VEnv) (seg : Bool) (e : Nat) : Bool := decide (e = 0) || (seg && v.pred 13 e)

/-- The start of the fibre that holds element e, searched downwards. -/
def VEnv.startOf (v : VEnv) : Nat → Nat
  | 0 => 0
  | e + 1 => if v.fibreStart true (e + 1) then e + 1 else v.startOf e

/-- vbcast (R196): one element by a scalar index, or under fn 001 each fibre's first element. -/
def State.bcast (s : State) (f : VR) : Host.Outcome State Fault Refusal :=
  s.runPlain (.vbcast f) fun v => v.permute f false fun e =>
    if f.fn = 1 then some (v.startOf e) else some (v.c.reg f.src2.reg).toNat

def execVbcast (f : VR) (s : State) := s.bcast f
def execVbcastFib (f : VR) (s : State) := s.bcast { f with fn := 1, mode := 0 }

/-! ## vcompress, vexpand and vpush (R197, R198) -/

/-- The first active element whose source reads meet a poisoned row (R111). -/
def VEnv.firstPoison (v : VEnv) (p : BitVec 4) (srcs : Nat → List (Opnd × Nat)) (dest : Nat → Option (Opnd × Nat)) :
    Option (Nat × TrapInfo) :=
  if v.s.slicePoison.isEmpty then none
  else (v.actives p).findSome? fun e => (v.poisonCheck (srcs e) (dest e)).map fun t => (e, t)

def execVcompress (f : VR) (s : State) :=
  s.runPlain (.vcompress f) fun v =>
    let act := v.actives f.pred
    let w := (act.zipIdx v.cv.vstart).flatMap fun p => v.put f.dest p.2 (v.get f.src1 p.1)
    let j := v.cv.vstart + act.length
    let z := if f.pz then ((List.range (v.cv.vl - j)).map (j + ·)).flatMap fun i => v.put f.dest i 0 else []
    match v.firstPoison f.pred (fun e => [(f.src1, e)])
        (fun e => some (f.dest, v.cv.vstart + (act.filter fun x => decide (x < e)).length)) with
    | some p => { fault := some p }
    | none => v.atOnce f.dest (w ++ z) []

def execVexpand (f : VR) (s : State) :=
  s.runPlain (.vexpand f) fun v =>
    let act := v.actives f.pred
    let rank := fun e => v.cv.vstart + (act.filter fun x => decide (x < e)).length
    v.loopX (.slices f.dest) f.pred f.pz (fun e => [(f.src1, rank e)]) fun e => v.src f.src1 (rank e)

/-- vpush with its collision mask. -/
def execVpush (f : VR) (s : State) :=
  s.runPlain (.vpush f) fun v =>
    let hits := (v.actives f.pred).filterMap fun e =>
      let i := v.get f.src2 e
      if i < v.cv.vl then some (e, i) else none
    let w := hits.flatMap fun p => v.put f.dest p.2 (v.get f.src1 p.1)
    let cnt := fun j => (hits.filter fun p => decide (p.2 = j)).length
    let z := if f.pz then v.elems.flatMap fun j => if cnt j = 0 then v.put f.dest j 0 else [] else []
    let m := if f.ext then v.elems.map fun j => v.putPred f.fn.toNat j (decide (2 ≤ cnt j)) else []
    match v.firstPoison f.pred (fun e => [(f.src1, e), (f.src2, e)])
        (fun e => (hits.find? fun p => decide (p.1 = e)).map fun p => (f.dest, p.2)) with
    | some p => { fault := some p }
    | none => v.atOnce f.dest (w ++ z) m

/-! ## Reductions (R199 to R202, R204) -/

/-- The fibres as start and end, all of the vector when `seg` is false. -/
def VEnv.fibres (v : VEnv) (seg : Bool) : List (Nat × Nat) :=
  let starts := (List.range v.cv.vl).filter (v.fibreStart seg)
  starts.zip (starts.tail ++ [v.cv.vl])

/-- Active inputs of a range: elements from VSTART on that are active. -/
def VEnv.inputs (v : VEnv) (p : BitVec 4) (a b : Nat) : List Nat :=
  ((List.range (b - a)).map (a + ·)).filter (v.act p)

/-- The input of an integer reduction: Int, or for and, or, xor the value mod 2^d (R200) (log entry 75). -/
def VEnv.redIn (v : VEnv) (f : VR) (e : Nat) : Int :=
  let x := v.get f.src1 e
  if f.redOp = 6 then (x : Nat)
  else
    let a := intOf (!f.ext) (4 * f.src1.w) x
    if f.redOp < 3 then a else (wrapTo (VR.d f) a : Nat)

/-- One step of an integer reduction. -/
def redStep (op : Nat) (a b : Int) : Int :=
  match op with
  | 1 => if b < a then b else a
  | 2 => if a < b then b else a
  | 3 => (Nat.land a.toNat b.toNat : Nat)
  | 4 => (Nat.lor a.toNat b.toNat : Nat)
  | 5 => (Nat.xor a.toNat b.toNat : Nat)
  | _ => a + b

/-- The identity of an integer reduction (R64). -/
def redIdentity (f : VR) : Int :=
  let d := VR.d f
  match f.redOp with
  | 1 => if f.ext then 2 ^ d - 1 else 2 ^ (d - 1) - 1
  | 2 => if f.ext then 0 else -(2 ^ (d - 1))
  | 3 => 2 ^ d - 1
  | _ => 0

/-- The combination of active inputs, narrowed once; the identity when there are none (R202). -/
def VEnv.redOf (v : VEnv) (f : VR) (l : List Nat) : Nat :=
  match l with
  | [] => VR.nar f (redIdentity f)
  | e :: t =>
    let x := t.foldl (fun a e => redStep f.redOp a (v.redIn f e)) (v.redIn f e)
    if f.redOp = 6 then (x % v.cv.modq).toNat else VR.nar f x

/-- The first active input that faults: a poisoned row, or a residue at or above MODQ in a modular sum (R61, R204). -/
def VEnv.redFault (v : VEnv) (f : VR) (msum : Bool) : Option (Nat × TrapInfo) :=
  (v.actives f.pred).findSome? fun e =>
    match v.poisonCheck [(f.src1, e)] none with
    | some t => some (e, t)
    | none =>
      if msum && decide (v.cv.modq ≤ v.get f.src1 e) then some (e, modRange (v.get f.src1 e)) else none

/-- Writes fibre results: element 0 without SEG; with SEG each start from VSTART on, and zeros elsewhere when
pz (log entry 13). -/
def VEnv.putFibres (v : VEnv) (f : VR) (results : List (Nat × Nat)) : VAcc :=
  if v.cv.vl ≤ v.cv.vstart then {}
  else if f.redSeg then
    let res := results.filter fun p => decide (v.cv.vstart ≤ p.1)
    v.atOnce f.dest
      ((if f.pz then (v.elems.filter fun e => !res.any fun p => decide (p.1 = e)).flatMap fun e => v.put f.dest e 0
        else []) ++ res.flatMap fun p => v.put f.dest p.1 p.2) []
  else { log := { slices := results.flatMap fun p => v.put f.dest 0 p.2, rows := [(0, f.dest.s, f.dest.w)] } }

/-- The poison of a partial write of a result's bank row, charged to the fibre's start; at a VSTART of VL or more
nothing is written. -/
def VEnv.resFault (v : VEnv) (f : VR) : Option (Nat × TrapInfo) :=
  if v.cv.vl ≤ v.cv.vstart then none
  else (v.fibres f.redSeg).findSome? fun p =>
    if f.redSeg && decide (p.1 < v.cv.vstart) then none
    else (v.poisonCheck [] (some (f.dest, p.1))).map fun t => (p.1, t)

/-- vred. -/
def execVred (f : VR) (s : State) :=
  s.runPlain (.vred f) fun v =>
    match lowestFault [v.redFault f (f.redOp == 6), v.resFault f] with
    | some p => { fault := some p }
    | none => v.putFibres f ((v.fibres f.redSeg).map fun p => (p.1, v.redOf f (v.inputs f.pred p.1 p.2)))

/-- A float and the flags gathered on the way to it. -/
abbrev Flagged := FVal × FpFlags

/-- The identity of a float reduction (R64) (log entry 12). -/
def fIdentity (op : Nat) : FVal := if op = 1 then .inf false else if op = 2 then .inf true else .fin true 0 0

/-- One step: a sum rounded once into the destination, or min or max by R43. -/
def fStep (w mode op : Nat) (a b : Flagged) : Flagged :=
  let x := if op = 0 then sumF (mode == 2) [a.1, b.1] else minMaxF (op == 2) a.1 b.1
  let fl := a.2 ||| b.2 ||| x.2
  if op = 0 then
    -- the identity combined with itself stays the identity, which T8 does not hold
    if a.1 = .fin true 0 0 ∧ b.1 = .fin true 0 0 then (.fin true 0 0, fl)
    else
      let r := roundW w mode x.1
      (decW w false r.1, fl ||| r.2)
  else (x.1, fl)

/-- One level of the tree: positions 2i and 2i + 1 (R62). -/
def fLevel (w mode op : Nat) : List Flagged → List Flagged
  | a :: b :: l => fStep w mode op a b :: fLevel w mode op l
  | l => l

/-- `n` levels. -/
def fTree (w mode op : Nat) : Nat → List Flagged → List Flagged
  | 0, l => l
  | n + 1, l => fTree w mode op n (fLevel w mode op l)

/-- Number of levels of a tree over n leaves. -/
def levels (n : Nat) : Nat := if n ≤ 1 then 0 else Nat.log2 (n - 1) + 1

/-- Pads a list to n entries. -/
def padTo (n : Nat) (x : Flagged) (l : List Flagged) : List Flagged := l ++ List.replicate (n - l.length) x

/-- The tree over a list padded to 2^k leaves. -/
def fTreeOf (w mode op k : Nat) (l : List Flagged) : Flagged :=
  ((fTree w mode op k (padTo (2 ^ k) (fIdentity op, 0) l)).head?).getD (fIdentity op, 0)

/-- Combines from left to right. -/
def fChain (w mode op : Nat) : List Flagged → Flagged
  | [] => (fIdentity op, 0)
  | a :: l => l.foldl (fStep w mode op) a

/-- Groups of n leaves. -/
def chunks (n : Nat) : Nat → List Flagged → List (List Flagged)
  | 0, _ => []
  | k + 1, l => if l.isEmpty then [] else l.take n :: chunks n k (l.drop n)

/-- The default order (R62): each lane combines its rows in order, then the tree over the lanes. -/
def fDefault (w mode op L : Nat) (l : List Flagged) : Flagged :=
  let rows := rowCount L l.length
  let lane := fun i => fChain w mode op ((List.range rows).map fun r => l.getD (r * L + i) (fIdentity op, 0))
  fTreeOf w mode op (levels L) ((List.range L).map lane)

/-- The reproducible order (R63): a tree of five levels per 32-element block, then the blocks from left to right. -/
def fRepro (w mode op : Nat) (l : List Flagged) : Flagged :=
  fChain w mode op ((chunks 32 (l.length / 32 + 1) l).map (fTreeOf w mode op 5))

/-- A leaf: an active input converts exactly into the destination format, a signalling NaN raising NV; any other
position enters as the identity. -/
def VEnv.leaf (v : VEnv) (f : VR) (e : Nat) : Flagged :=
  if v.act f.pred e then
    let x := decW f.src1.w false (v.get f.src1 e)
    (x, flIf x.isSig flNV)
  else (fIdentity f.redOp, 0)

/-- The result of a fibre: bits and flags. The identity itself converts into the destination with no flag, and a minimum or
maximum of NaNs alone is what the padded tree gives (log entry 12). -/
def VEnv.fredOf (v : VEnv) (f : VR) (a b : Nat) : Nat × FpFlags :=
  let l := (List.range (b - a)).map fun i => v.leaf f (a + i)
  let mode := v.mode f
  let r := if v.cv.rm then fRepro f.dest.w mode f.redOp l else fDefault f.dest.w mode f.redOp v.L l
  ((roundW f.dest.w mode r.1).1, r.2)

/-- vfred (R123, R124, R204). -/
def execVfred (f : VR) (s : State) :=
  s.runPlain (.vfred f) fun v =>
    let bad := v.redFault f false
    let fs := if v.cv.vl ≤ v.cv.vstart then [] else v.fibres f.redSeg
    let rs := fs.map fun p => (p.1, v.fredOf f p.1 p.2)
    -- a fibre with a poisoned input, or one that an earlier slot did not produce, has no result, and so no exception of its own
    let exc := (fs.zip rs).find? fun p => decide (p.2.2.2 &&& v.c.enables ≠ 0) &&
      (match lowestFault [bad, v.cv.fault] with | some b => decide (p.1.2 ≤ b.1) | none => true)
    match lowestFault [bad, v.resFault f, exc.map fun p => (p.2.1, fpExc p.2.2.2)] with
    | some p => { fault := some p }
    | none =>
      let a := v.putFibres f (rs.map fun p => (p.1, p.2.1))
      { a with log := { a.log with
          flags := (rs.filter fun p => decide (p.2.2 ≠ 0)).map fun p => (p.1, p.2.2) } }

/-- Whether an input of vargmax beats the best so far: strictly greater, or strictly less. -/
def VEnv.argBetter (v : VEnv) (f : VR) (e best : Nat) : Bool :=
  let op := f.redOp
  if op < 2 then
    let a := intOf (!f.ext) (4 * f.src1.w) (v.get f.src1 e)
    let b := intOf (!f.ext) (4 * f.src1.w) (v.get f.src1 best)
    if op = 0 then decide (b < a) else decide (a < b)
  else
    let o := cmpF (decW f.src1.w false (v.get f.src1 e)) (decW f.src1.w false (v.get f.src1 best))
    if op = 2 then o == .gt else o == .lt

/-- The element number of vargmax over inputs; NaN inputs are skipped (R202). -/
def VEnv.argOf (v : VEnv) (f : VR) (l : List Nat) : Nat :=
  let l := if f.redOp < 2 then l else l.filter fun e => !(decW f.src1.w false (v.get f.src1 e)).isNan
  match l with
  | [] => 2 ^ VR.d f - 1
  | e :: t => t.foldl (fun b e => if v.argBetter f e b then e else b) e

/-- vargmax. -/
def execVargmax (f : VR) (s : State) :=
  s.runPlain (.vargmax f) fun v =>
    match lowestFault [v.redFault f false, v.resFault f] with
    | some p => { fault := some p }
    | none => v.putFibres f ((v.fibres f.redSeg).map fun p => (p.1, v.argOf f (v.inputs f.pred p.1 p.2)))

/-! ## Scans (R203) -/

/-- vscan: each active element's inputs from its fibre's start, or VSTART, up to itself. -/
def execVscan (f : VR) (s : State) :=
  s.runPlain (.vscan f) fun v =>
    v.loop (.slices f.dest) f.pred f.pz (fun e => [(f.src1, e)]) fun _ e =>
      if f.redOp = 6 ∧ v.cv.modq ≤ v.get f.src1 e then .error (modRange (v.get f.src1 e))
      else .ok (v.redOf f (v.inputs f.pred (if f.redSeg then v.startOf e else 0) (e + 1)), 0)

/-- One element of vfscan: the slot so far and r. -/
def VEnv.scanStep (v : VEnv) (f : VR) (p : VAcc × FVal) (e : Nat) : VAcc × FVal :=
  let r := if v.fibreStart f.redSeg e then fIdentity f.redOp else p.2
  let x := fStep f.dest.w (v.mode f) f.redOp (r, 0) (v.leaf f e)
  let bits := (roundW f.dest.w (v.mode f) x.1).1
  (v.elem (.slices f.dest) f.pred f.pz (fun e => [(f.src1, e)]) (fun _ _ => .ok (bits, x.2)) p.1 e, x.1)

/-- vfscan, strictly in ascending element order. -/
def execVfscan (f : VR) (s : State) :=
  s.runPlain (.vfscan f) fun v =>
    v.close (some f.dest) (v.elems.foldl (v.scanStep f) ({}, fIdentity f.redOp)).1

/-! ## Fibres and scalar results (R205 to R208) -/

/-- The previous active element below e, from VSTART on. -/
def VEnv.prevAct (v : VEnv) (p : BitVec 4) (e : Nat) : Option Nat := ((v.inputs p v.cv.vstart e).reverse).head?

/-- A key starts a fibre (R205). -/
def VEnv.newKey (v : VEnv) (f : VR) (e : Nat) : Bool :=
  v.act f.pred e &&
  (match v.prevAct f.pred e with
   | none => true
   | some q => decide (v.get f.src1 e ≠ v.get f.src1 q))

/-- vsetfib. -/
def execVsetfib (f : VR) (s : State) :=
  s.runPlain (.vsetfib f) fun v =>
    match v.firstPoison f.pred (fun e => [(f.src1, e)]) (fun _ => none) with
    | some p => { fault := some p }
    | none => { log := {
        preds := v.elems.map fun e => v.putPred f.dest.s e (v.newKey f e)
        scalar := some (f.src2.reg, BitVec.ofNat 64 (v.elems.filter (v.newKey f)).length) } }

/-- vext (R206). -/
def execVext (f : VR) (s : State) :=
  s.runPlain (.vext f) fun v =>
    let i := (v.c.reg f.src2.reg).toNat
    if v.act f.pred i then
      match v.poisonCheck [(f.src1, i)] none with
      | some t => { fault := some (i, t) }
      | none => { log := { scalar := some (f.dest.reg,
          BitVec.ofNat 64 (wrapTo 64 (intOf (!f.ext) (4 * f.src1.w) (v.get f.src1 i)))) } }
    else { log := { scalar := some (f.dest.reg, 0) } }

/-- vins (R208). -/
def execVins (f : VR) (s : State) :=
  s.runPlain (.vins f) fun v =>
    let i := (v.c.reg f.src1.reg).toNat
    if v.act f.pred i then
      match v.poisonCheck [] (some (f.dest, i)) with
      | some t => { fault := some (i, t) }
      | none => { log := {
          slices := v.put f.dest i ((v.c.reg f.src2.reg).toNat % 2 ^ VR.d f)
          rows := [(v.row i, f.dest.s + f.dest.w * v.row i, f.dest.w)] } }
    else {}

/-- The elements that pcnt counts and pfirst searches. -/
def VEnv.setBits (v : VEnv) (f : VR) : List Nat := (v.actives f.pred).filter (v.pred f.src1.s)

def execPcnt (f : VR) (s : State) :=
  s.runPlain (.pcnt f) fun v =>
    { log := { scalar := some (f.dest.reg, BitVec.ofNat 64 (v.setBits f).length) } }
def execPfirst (f : VR) (s : State) :=
  s.runPlain (.pfirst f) fun v =>
    { log := { scalar := some (f.dest.reg,
        match (v.setBits f).head? with | some e => BitVec.ofNat 64 e | none => BitVec.ofNat 64 (2 ^ 64 - 1)) } }

/-! ## Predicate instructions (R209) -/

/-- The loop of a predicate instruction. -/
def VEnv.predOp (v : VEnv) (f : VR) (F : Nat → Bool) : VAcc :=
  v.loopX (.pred f.dest.s) f.pred f.pz (fun _ => []) fun e => bitOf (F e)

def execPand (f : VR) (s : State) :=
  s.runPlain (.pand f) fun v => v.predOp f fun e => v.pred f.src1.s e && v.pred f.src2.s e
def execPor (f : VR) (s : State) :=
  s.runPlain (.por f) fun v => v.predOp f fun e => v.pred f.src1.s e || v.pred f.src2.s e
def execPxor (f : VR) (s : State) :=
  s.runPlain (.pxor f) fun v => v.predOp f fun e => v.pred f.src1.s e != v.pred f.src2.s e
def execPandn (f : VR) (s : State) :=
  s.runPlain (.pandn f) fun v => v.predOp f fun e => v.pred f.src1.s e && !v.pred f.src2.s e
def execPset (f : VR) (s : State) :=
  s.runPlain (.pset f) fun v => v.predOp f fun e => decide (e < (v.c.reg f.src2.reg).toNat)
def execPmov (f : VR) (s : State) :=
  s.runPlain (.pmov f) fun v => v.predOp f fun e => v.pred f.src1.s e

end Sys2Proof.Machine
end

