-- ==== Sys2Proof/Machine/Fabric.lean ====
section
/-! DEFINITION. The stream fabric: unit accesses and their faults, the records of sf, address generators, junctions,
pipelines and the stopped consumer (R307 to R321, R330, R462). -/

namespace Sys2Proof.Machine

/-! ## Milestone fields (R314) -/

/-- The enabled milestone of a field. -/
def msField (l : List Byte) (i : Nat) : Option MsName :=
  let w := fieldAt l i 4
  if w / 2 ^ 15 % 2 = 1 then some { num := w % 2 ^ 12, pkg := decide (w / 2 ^ 12 % 2 = 1) } else none

/-- A milestone field keeps its layout. -/
def msFieldOk (l : List Byte) (i : Nat) : Bool :=
  let w := fieldAt l i 4
  decide (w < 2 ^ 16) && decide (w / 2 ^ 13 % 4 = 0) &&
    (match msField l i with | some m => m.pkg || decide (m.num < 64) | none => true)

/-- The arrival of a unit's milestone, owned by a strand. -/
def State.arriveField (s : State) (cl : Nat) (l : List Byte) (i sid : Nat) : State :=
  match msField l i with
  | some m => (s.performUnits cl (if m.pkg then 3 else 1)).arrive cl m (some sid)
  | none => s

/-! ## Units: who owns them, and whether they run -/

/-- The pipeline that names an actor of a cluster: context, number, pipeline. -/
def State.pipeOf (s : State) (cl a : Nat) : Option (Nat × Nat × Pipe) :=
  s.ctxs.findSome? fun e =>
    if e.2.mode = .free then none
    else (e.2.pipes.find? fun p => decide (p.2.state ≠ .unbound) && decide (p.2.cluster = cl) &&
      (descMembers p.2.desc).contains a).map fun p => (e.1, p.1, p.2)

/-- The Running pipeline of an actor: its context. -/
def State.runsIn (s : State) (cl a : Nat) : Option Nat :=
  match s.pipeOf cl a with
  | some (n, _, p) => if p.state = .running then some n else none
  | none => none

def State.setPipe (s : State) (n num : Nat) (p : Pipe) : State :=
  let c := s.ctxAt n
  s.setCtx n { c with pipes := smPut num p c.pipes }

/-- A unit waits for a page request (R330). -/
def State.unitAsked (s : State) (cl a : Nat) : Bool :=
  s.unitAsks.any fun u => decide (u.cluster = cl) && decide (u.actor = a)

/-- Freezes or resumes the send unit (side 0) or receiving unit (side 1) of an exchange member; the unit of member m of
instance g of set x has the numbers 64 + x and (4,096 g + m) * 4 + side. -/
def State.markExchange (s : State) (set a : Nat) (b : Bool) : State :=
  { s with xsets := s.xsets.map fun x => if x.1 ≠ set then x else (x.1, { x.2 with insts := x.2.insts.map fun i =>
      if i.1 ≠ a / 4 / 4096 then i else (i.1, { i.2 with members := i.2.members.map fun m =>
        if m.1 ≠ a / 4 % 4096 then m
        else (m.1, if a % 4 = 0 then { m.2 with sendFrozen := b } else { m.2 with recvFrozen := b }) }) }) }

/-- Freezes or resumes a unit. -/
def State.markUnit (s : State) (cl a : Nat) (b : Bool) : State :=
  let k := s.clAt cl
  if 64 ≤ cl then s.markExchange (cl - 64) a b
  else if a < 24 then (match smFind a k.ags with
    | some g => s.setCl cl { k with ags := smPut a { g with frozen := b } k.ags } | none => s)
  else if a < 40 then (match smFind (a - 24) k.jns with
    | some j => s.setCl cl { k with jns := smPut (a - 24) { j with frozen := b } k.jns } | none => s)
  else if a = 41 then s.setCl cl { k with nodeCmd := k.nodeCmd.map fun m => { m with frozen := b } }
  else if a < 44 then
    let k := match smFind a k.copyCmd with
      | some m => { k with copyCmd := smPut a { m with frozen := b } k.copyCmd } | none => k
    s.setCl cl (match smFind (a - 42) k.copies with
      | some e => { k with copies := smPut (a - 42) { e with frozen := b } k.copies } | none => k)
  else s

/-- Copy engines drop the frozen command of a strand that ends (log entry 40). -/
def State.dropCopies (s : State) (sid : Nat) : State :=
  { s with clusters := s.clusters.map fun k => (k.1, { k.2 with copies := k.2.copies.map fun e =>
      (e.1, match e.2.active with
        | some x => if x.sid = sid ∧ e.2.frozen = true then
            { e.2 with active := none, saved := [], frozen := false, completed := e.2.completed + 1 } else e.2
        | none => e.2) }) }

/-- What an exchange unit of a strand that has ended does (R330, R405): a frozen receiving unit discards what follows, a
frozen sending unit sends no more bytes, and the member sends its end markers after its unsent bytes. -/
def XMem.orphan (m : XMem) (n sid : Nat) : XMem :=
  let d := if m.recvFrozen = true ∧ m.recvSid = sid then
      { m with discarded := List.range n, discards := true, recvFrozen := false } else m
  let d := if d.sendFrozen && (d.sends ++ d.unacked).any (fun q => decide (q.sid = sid)) then
      { d with sends := [], unacked := d.unacked.filter (fun q => decide (q.pos + q.len ≤ smGet 0 d.sentTo q.dest))
               queued := d.sentTo, sendFrozen := false } else d
  if d.postSid = sid ∧ d.state ≠ .open ∧ d.state ≠ .bound then
    { d with ended := true, state := if d.state = .granted then .ending else d.state } else d

/-- The exchange units of a strand that has ended. -/
def State.dropExchange (s : State) (sid : Nat) : State :=
  { s with xsets := s.xsets.map fun x => (x.1, { x.2 with insts := x.2.insts.map fun i => (i.1, { i.2 with
      members := i.2.members.map fun m => (m.1, m.2.orphan x.2.n sid) }) }) }

/-- A fault of a unit (R330): it freezes, with its pipeline, and the strand takes the fault asynchronously; a strand that
has ended cannot, and the unit abandons its work. -/
def State.freezeUnit (s : State) (cl a sid : Nat) (t : TrapInfo) : State :=
  let s := s.markUnit cl a true
  let s := match s.pipeOf cl a with
    | some (n, num, p) => if p.state = PipeState.running then s.setPipe n num { p with state := .frozen } else s
    | none => s
  (s.dueStrand sid { t with elem := none, unit := some (cl, a) }).getD ((s.dropCopies sid).dropExchange sid)

/-- The units that a tret resumes, with their pipelines (R330). -/
def State.resumeUnits (s : State) (n : Nat) (l : List (Nat × Nat)) : State :=
  let s := l.foldl (fun s u => s.markUnit u.1 u.2 false) s
  let c := s.ctxAt n
  s.setCtx n { c with pipes := c.pipes.map fun e =>
    (e.1, if e.2.state = .frozen ∧ (l.any fun u => decide (u.1 = e.2.cluster) && (descMembers e.2.desc).contains u.2) = true
      then { e.2 with state := PipeState.running } else e.2) }

/-- A unit awaits the host for a page. -/
def State.askUnit (s : State) (cl a sid : Nat) (q : PageReq) : State :=
  let g := s.nextId
  { s.request q with
           unitAsks := s.unitAsks ++ [UnitAsk.mk cl a g sid (q.pages.headD 0) (q.sub.toNat % 4)] }

/-! ## Unit accesses (R285, R330) -/

/-- A byte with its poison. -/
abbrev PByte := Byte × Bool

/-- Counts the bank conflicts among the words of a unit's access, sixteen at a time (R256) (log entry 60). -/
def State.countUnit (s : State) (cl : Nat) (pasid : Word) (l : List Loc) : State :=
  if s.perf.isEmpty then s
  else
    let words := (l.map fun b => b.key / 8).eraseDups
    let extra := (List.range (words.length / 16 + 1)).map fun i => bankExtra 1 (((words.drop (16 * i)).take 16).map fun w => [w])
    s.perfCount cl 0x04 (some pasid) extra.sum

/-- The bytes of an engine access: an absolute scratchpad offset of a cluster, or a virtual address of the strand. An access
to another endpoint travels in packets, which that endpoint acknowledges later (R385, R389). -/
def State.unitLocs (s : State) (c : Ctx) (kind : AccKind) (scratch : Bool) (cl a n : Nat) : Res (List Loc) :=
  if scratch then
    if 2 ^ 22 < a + n then .trap (protTrap kind (!c.sup) a) s
    else
      let l : List Loc := (List.range n).map fun i => { scratch := true, key := s.spCell cl (a + i), va := a + i }
      .ok l (s.countUnit cl c.pasid l)
  else
    let x : Elem := { e := 0, cl := cl, va := a, bit := 0, bits := 8 * n }
    let p := PageAcc.addElem c kind { s := s } x
    match p.first with
    | some (.inl t) => .trap { t with elem := none } p.s
    | some (.inr q) => .ask q p.s
    | none =>
      let l := p.locs c x
      if p.sleeps || l.any (fun b => p.s.asleep b.2) then .wait p.s else
      let far := (p.s.remoteParts false 0 a (l.map Prod.snd)).map fun b => [b]
      if far.any fun g => g.any fun b => p.s.planeHeld b.pa then .wait p.s
      else match lowestFault (far.map p.s.packetRefusal) with
      | some (_, t) => .trap t p.s
      | none => .ok (l.map Prod.fst) (far.foldl (fun s g => s.sendPacket 256 0 false (decide (kind = 1)) 15 g) p.s)

/-- The RAS source of a poisoned byte: the cluster's scratchpad, the die's stack, or the host link. -/
def State.countPoison (s : State) (cl : Nat) (l : Loc) : State :=
  if l.scratch then s.countUe cl 2 (BitVec.ofNat 64 l.va)
  else if regionOf l.key = 0 then s.countUe (64 + stackOf l.key / 2) 3 (BitVec.ofNat 64 l.key)
  else s.countUe 72 6 (BitVec.ofNat 64 l.key)

/-- Counts the poison of a slot at an offset that a firing reads and carries on (R330). -/
def State.countTok (s : State) (cl at0 : Nat) (t : Tok) : State :=
  match t.bad with
  | k :: _ => s.countUe cl 2 (BitVec.ofNat 64 (at0 + 8 * k))
  | [] => s

/-- Reads bytes; poisoned words are carried on and counted. -/
def State.unitRead (s : State) (c : Ctx) (scratch : Bool) (cl a n : Nat) : Res (List PByte) :=
  (s.unitLocs c 0 scratch cl a n).andThen fun l s' =>
    let s'' := match l.find? s'.locPoison with | some b => s'.countPoison cl b | none => s'
    .ok (l.map fun b => (s'.locByte b, s'.locPoison b)) (s''.observeLocs (cl / 8) l)

/-- Several reads in order. -/
def State.unitReads (s : State) (c : Ctx) (scratch : Bool) (cl : Nat) : List (Nat × Nat) → Res (List (List PByte))
  | [] => .ok [] s
  | (a, n) :: l => (s.unitRead c scratch cl a n).andThen fun d s' =>
    (s'.unitReads c scratch cl l).andThen fun t s'' => .ok (d :: t) s''

/-- Writes located bytes as one write: a word covered whole takes the poison of its bytes, and one covered in part
keeps its own besides. -/
def State.putPBytes (s : State) (l : List (Loc × PByte)) : State :=
  let s := s.setLocs (l.map fun p => (p.1, p.2.1))
  l.foldl (fun s p =>
    if !p.2.2 then s
    else if p.1.scratch then { s with spPoison := nsAdd (p.1.key / 8) s.spPoison }
    else { s with memPoison := nsAdd (p.1.key / 8) s.memPoison }) s

/-- Writes bytes. -/
def State.unitWrite (s : State) (c : Ctx) (scratch : Bool) (cl a : Nat) (d : List PByte) : Res Unit :=
  (s.unitLocs c 1 scratch cl a d.length).andThen fun l s' => .ok () (s'.noteUnit (s'.putPBytes (l.zip d)) cl l)

/-- Writes several pieces in their order; those before a fault are performed. -/
def State.unitWrites (s : State) (c : Ctx) (scratch : Bool) (cl : Nat) : List (Nat × List PByte) → Res Unit
  | [] => .ok () s
  | (a, d) :: l => (s.unitWrite c scratch cl a d).andThen fun _ s' => s'.unitWrites c scratch cl l

/-- A token's bytes with their poison, and back. -/
def Tok.pbytes (t : Tok) : List PByte := t.data.zipIdx.map fun p => (p.1, t.bad.contains (p.2 / 8))
def dataTok (l : List PByte) : Tok :=
  { tag := 0, data := l.map Prod.fst,
    bad := ((l.zipIdx.filter fun p => p.1.2).map fun p => p.2 / 8).eraseDups }

/-- What a firing comes to: its rule does not hold, it lacks only room in some rings, it fires, or it stops with the
state so changed (a fault, a page request). -/
inductive Fire where
  | idle
  | room (rings : List Nat)
  | go (s : State)
  | stop (s : State)
  deriving Repr

/-- A firing that an access may stop. -/
def Fire.ofRes {α : Type} (cl a sid : Nat) (r : Res α) (k : α → State → Fire) : Fire :=
  match r with
  | .ok x s => k x s
  | .trap t s => .stop (s.freezeUnit cl a sid t)
  | .ask q s => .stop (s.askUnit cl a sid q)
  | .wait s => .stop s

/-- The rings of a list without room for one slot each time that the list names them. -/
def State.noRoom (s : State) (cl : Nat) (l : List Nat) : List Nat :=
  l.filter fun n => match s.ringAt cl n with | some r => !r.room (l.count n) | none => true

/-! ## Address generators (R311 to R313) -/

def Ag.mode (g : Ag) : Nat := byteAt g.cfg 0 % 4
def Ag.scratch (g : Ag) : Bool := byteAt g.cfg 0 / 4 % 2 == 1
def Ag.elem (g : Ag) : Nat := if g.mode = 0 then 8 else 2 ^ byteAt g.cfg 3
def Ag.start (g : Ag) : Nat := byteAt g.cfg 4
def Ag.nc (g : Ag) : Nat := byteAt g.cfg 5
def Ag.runs (g : Ag) : Nat := byteAt g.cfg 6
def Ag.bound (g : Ag) (i : Nat) : Nat := fieldAt g.cfg (16 + 8 * i) 4
def Ag.stride (g : Ag) (i : Nat) : Int := intOf true 32 (fieldAt g.cfg (20 + 8 * i) 4)

/-- a := BASE + sum of c_i * s_i modulo 2^64. -/
def Ag.addr (g : Ag) : Nat :=
  wrapTo 64 (((List.range g.nc).map fun i => (g.counters.getD i 0 : Int) * g.stride i).foldl (· + ·) (fieldAt g.cfg 8 8 : Int))

/-- Counts one tuple: the new counters and how many counters wrapped. -/
def countUp (bound : Nat → Nat) : Nat → List Nat → List Nat × Nat
  | _, [] => ([], 0)
  | i, c :: l => if c + 1 < bound i then ((c + 1) :: l, 0) else let r := countUp bound (i + 1) l; (0 :: r.1, r.2 + 1)

/-- The AG after one tuple, and whether a run ended. -/
def Ag.tuple (g : Ag) : Ag × Bool :=
  let r := countUp g.bound 0 g.counters
  ({ g with counters := r.1, visited := decide (r.2 = g.nc) }, (List.range r.2).any fun i => g.runs.testBit i)

/-- An AG reset to its configuration (R320). -/
def Ag.resetUnit (g : Ag) : Ag :=
  { g with started := false, ended := false, held := false, frozen := false, counters := List.replicate g.nc 0,
           slot := [], bad := [], pos := 0, owed := [], visited := false }

/-- A visit begins from all counters zero. -/
def Ag.begin (g : Ag) : Ag :=
  { g with started := true, held := false, counters := List.replicate g.nc 0, visited := false, pos := 0 }

def State.setAg (s : State) (cl a : Nat) (g : Ag) : State :=
  let k := s.clAt cl
  s.setCl cl { k with ags := smPut a g k.ags }

/-- The end of a visit: the AG is out of it, or begins the next if a finish token is held; its own finish token goes to
every AG whose START names it. -/
def State.endVisit (s : State) (cl a : Nat) (g : Ag) : State :=
  let g := { g with started := false }
  let s := s.setAg cl a (if g.held then g.begin else g)
  (s.clAt cl).ags.foldl (fun s e =>
    if e.2.start = a ∧ !e.2.ended then
      match smFind e.1 (s.clAt cl).ags with
      | some h => s.setAg cl e.1 (if h.started then { h with held := true } else h.begin)
      | none => s
    else s) s

/-- What stops a port's accesses: a fault, a page request, or a stack in self-refresh (R437). -/
inductive PortStop where
  | trap (t : TrapInfo)
  | ask (q : PageReq)
  | asleep
  deriving DecidableEq, Repr

/-- A unit with its firing stopped: frozen, waiting for the host, or trying again later. -/
def State.stopUnit (s : State) (cl a sid : Nat) : PortStop → State
  | .trap t => s.freezeUnit cl a sid t
  | .ask q => s.askUnit cl a sid q
  | .asleep => s

/-- Gathers elements into the slot until it closes: the AG, whether a run ended, and what stops it first. -/
def State.agGather (cl z : Nat) (c : Ctx) : Nat → State → Ag → (Ag × Bool × Option PortStop × State)
  | 0, s, g => (g, false, none, s)
  | n + 1, s, g =>
    let a := g.addr
    let r : Res (List PByte) :=
      if g.mode = 0 then .ok ((leBytes 8 a).map fun b => (b, false)) s else s.unitRead c g.scratch cl a g.elem
    match r with
    | .ok d s' =>
      let at0 := g.slot.length
      let bad := ((d.zipIdx.filter fun p => p.1.2).map fun p => (at0 + p.2) / 8)
      let h : Ag := { g with slot := g.slot ++ d.map Prod.fst, bad := g.bad ++ bad }
      let t := h.tuple
      if t.2 ∨ t.1.visited ∨ z ≤ t.1.slot.length then (t.1, t.2, none, s') else State.agGather cl z c n s' t.1
    | .trap t s' => (g, false, some (.trap t), s')
    | .ask q s' => (g, false, some (.ask q), s')
    | .wait s' => (g, false, some .asleep, s')

/-- An AG that produces: an owed control token, then a slot, then the EOS of a chained AG whose source has ended. -/
def State.fireSource (s : State) (cl a : Nat) (g : Ag) (c : Ctx) : Fire :=
  let last := g.start ≠ 0xFF ∧ !g.started ∧ !g.held ∧
    (match smFind g.start (s.clAt cl).ags with | some h => h.ended | none => false) = true
  if g.owed = [] ∧ !g.started ∧ ¬last then .idle
  else if s.noRoom cl [g.ring] ≠ [] then .room [g.ring]
  else match g.owed with
    | t :: l => .go ((s.setAg cl a { g with owed := l, ended := decide (t = 2) }).produce cl g.ring [ctlTok t])
    | [] =>
      if !g.started then .go ((s.setAg cl a { g with ended := true }).produce cl g.ring [ctlTok 2])
      else
        let z := match s.ringAt cl g.ring with | some r => r.size | none => 8
        match s.agGather cl z c (z / g.elem + 1) g with
        | (g', _, some x, s') => .stop ((s'.setAg cl a g').stopUnit cl a c.sid x)
        | (g', run, none, s') =>
          let eor : List (BitVec 2) := if run then [1] else []
          let fin : List (BitVec 2) :=
            if !g'.visited then [] else if g.start = 0xFF then [2] else if run then [] else [1]
          let tok : Tok := { tag := 0, data := g'.slot, bad := g'.bad.eraseDups }
          let g'' := { g' with slot := [], bad := [], owed := eor ++ fin }
          let s'' := if g'.visited then s'.endVisit cl a g'' else s'.setAg cl a g''
          .go (s''.produce cl g.ring [tok])

/-- Writes the elements of the input slot from `pos` on. -/
def State.agScatter (cl : Nat) (c : Ctx) (d : List PByte) : Nat → State → Ag → (Ag × Option PortStop × State)
  | 0, s, g => (g, none, s)
  | n + 1, s, g =>
    if d.length < (g.pos + 1) * g.elem then (g, none, s)
    else match s.unitWrite c g.scratch cl g.addr ((d.drop (g.pos * g.elem)).take g.elem) with
      | .ok _ s' =>
        let h : Ag := { g with pos := g.pos + 1 }
        let t := h.tuple
        if t.2 ∨ t.1.visited then (t.1, none, s') else State.agScatter cl c d n s' t.1
      | .trap t s' => (g, some (.trap t), s')
      | .ask q s' => (g, some (.ask q), s')
      | .wait s' => (g, some .asleep, s')

/-- A write-mode AG consumes one slot. -/
def State.fireSink (s : State) (cl a : Nat) (g : Ag) (c : Ctx) : Fire :=
  match (s.ringAt cl g.ring).bind fun r => (s.headTok cl r g.cidx).map fun t => (t, r.slotAt (r.readAt g.cidx)) with
  | none => .idle
  | some (t, at0) =>
    let eat (s : State) : State := s.consume cl g.ring g.cidx 1
    if t.tag = 2 then .go (eat (s.setAg cl a { g with ended := true, pos := 0 }))
    else if t.tag ≠ 0 then .go (eat s)
    else if !g.started then (if g.start = 0xFF then .go (eat s) else .idle)
    else match State.agScatter cl c t.pbytes (t.data.length + 1) s g with
      | (g', some x, s') => .stop ((s'.setAg cl a g').stopUnit cl a c.sid x)
      | (g', none, s') =>
        let g'' := { g' with pos := 0 }
        let s' := s'.countTok cl at0 t
        .go (eat (if g'.visited then s'.endVisit cl a g'' else s'.setAg cl a g''))

/-- The firing rule and effect of an AG. -/
def State.fireAg (s : State) (cl a : Nat) : Fire :=
  match s.runsIn cl a, smFind a (s.clAt cl).ags with
  | some n, some g =>
    if g.ended ∨ g.frozen ∨ s.unitAsked cl a = true then .idle
    else if g.mode = 2 then s.fireSink cl a g (s.ctxAt n) else s.fireSource cl a g (s.ctxAt n)
  | _, _ => .idle

/-! ## Junctions (R314 to R318) -/

def State.setJn (s : State) (cl u : Nat) (j : Jn) : State :=
  let k := s.clAt cl
  s.setCl cl { k with jns := smPut u j k.jns }

/-- A junction reset to its configuration (R320). -/
def Jn.resetUnit (j : Jn) : Jn :=
  { j with ended := false, frozen := false, stopped := false, tag := BitVec.ofNat 32 (fieldAt j.cfg 24 4), window := [],
           lastIn := 0, count := 0, entries := [], badEntries := [], listAt := 0, band := 0 }

/-- The head of input i with its ring and the offset of its slot. -/
def State.jnHead (s : State) (cl : Nat) (j : Jn) (i : Nat) : Option (Tok × Ring × Nat) :=
  (j.ins[i]?).bind fun n => (s.ringAt cl n).bind fun r =>
    let ci := j.cidx.getD i 255
    (s.headTok cl r ci).map fun t => (t, r, r.slotAt (r.readAt ci))

/-- Consumes the head of input i. -/
def State.jnEat (s : State) (cl : Nat) (j : Jn) (i : Nat) : State :=
  s.consume cl (j.ins.getD i 64) (j.cidx.getD i 255) 1

/-- Consumes the heads of several inputs; inputs on one ring share its index, and so its head (R462) (log entry 53). -/
def State.jnEatAll (s : State) (cl : Nat) (j : Jn) (l : List Nat) : State :=
  (l.map fun i => (j.ins.getD i 64, j.cidx.getD i 255)).eraseDups.foldl (fun s p => s.consume cl p.1 p.2 1) s

/-- MEM_POISON of interpreted bytes: the offset of the first poisoned word among them (R330). -/
def Tok.interp (t : Tok) (slotAt off n : Nat) : Option TrapInfo :=
  (t.bad.find? fun k => decide (8 * k < off + n) && decide (off < 8 * k + 8)).map fun k =>
    trapOf causeMemPoison 0 (BitVec.ofNat 64 (slotAt + 8 * k))

/-- The key of a slot (R314). -/
def Jn.keyBytes (j : Jn) : Nat := 2 ^ (byteAt j.cfg 17 % 4)
def Jn.key (j : Jn) (t : Tok) : Int :=
  intOf (byteAt j.cfg 17 / 4 % 2 == 1) (8 * j.keyBytes) (fieldAt t.data (byteAt j.cfg 16) j.keyBytes)

def Jn.named (j : Jn) : List Nat := j.outs.filterMap id

/-- Stores the tag in a slot. -/
def stampTok (t : Tok) (off : Nat) (tag : BitVec 32) : Tok :=
  { t with data := t.data.take off ++ leBytes 4 tag.toNat ++ t.data.drop (off + 4) }

/-- Ends a junction: its milestone receives an arrival (R314). -/
def State.endJn (s : State) (cl u sid : Nat) (j : Jn) : State :=
  (s.setJn cl u { j with ended := true }).arriveField cl j.cfg 60 sid

/-- Produces one token into each ring of a list. -/
def State.produceAll (s : State) (cl : Nat) (l : List Nat) (t : Tok) : State := l.foldl (fun s n => s.produce cl n [t]) s

/-- A route firing (R315). -/
def State.fireRoute (s : State) (cl u : Nat) (j : Jn) (c : Ctx) : Fire :=
  match s.jnHead cl j 0 with
  | none => .idle
  | some (t, _, sa) =>
    if t.tag ≠ 0 then
      match s.noRoom cl j.named with
      | [] =>
        let s' := (s.jnEat cl j 0).produceAll cl j.named (ctlTok t.tag)
        .go (if t.tag = 2 then s'.endJn cl u c.sid j else s')
      | l => .room l
    else
      let stamp := byteAt j.cfg 21 % 2 == 1
      let toff := byteAt j.cfg 20
      match (t.interp sa (byteAt j.cfg 16) j.keyBytes).or (if stamp then t.interp sa toff 4 else none) with
      | some x => .stop (s.freezeUnit cl (24 + u) c.sid x)
      | none =>
        let o := fieldAt j.cfg 28 4 / 16 ^ ((j.key t / (2 ^ byteAt j.cfg 18 : Nat)) % 8).toNat % 16
        let outs := if o = 15 then [] else (j.outs.getD o none).toList
        match s.noRoom cl outs with
        | [] =>
          let t' := if stamp then stampTok t toff j.tag else t
          let s' := (if stamp then s.setJn cl u { j with tag := j.tag + 1 } else s).countTok cl sa t
          .go ((s'.jnEat cl j 0).produceAll cl outs t')
        | l => .room l

/-- What a merge does with two heads (R316): the inputs it consumes and the tag it produces. -/
def mergePick (tl tr : BitVec 2) (rightLess : Bool) : List Nat × BitVec 2 :=
  if tl = 3 then ([0], 3) else if tr = 3 then ([1], 3)
  else if tl = 0 ∧ tr = 0 then (if rightLess then [1] else [0], 0)
  else if tl = 0 then ([0], 0) else if tr = 0 then ([1], 0)
  else if tl = tr then ([0, 1], tl)
  else if tl = 1 then ([0], 1) else ([1], 1)

/-- A merge firing (R316). -/
def State.fireMerge (s : State) (cl u : Nat) (j : Jn) (c : Ctx) : Fire :=
  match s.jnHead cl j 0, s.jnHead cl j 1 with
  | some (tl, _, al), some (tr, _, ar) =>
    let off := byteAt j.cfg 16
    let both := decide (tl.tag = 0) && decide (tr.tag = 0)
    match if both then (tl.interp al off j.keyBytes).or (tr.interp ar off j.keyBytes) else none with
    | some x => .stop (s.freezeUnit cl (24 + u) c.sid x)
    | none =>
      let p := mergePick tl.tag tr.tag (both && decide (j.key tr < j.key tl))
      match s.noRoom cl j.named with
      | [] =>
        let h := if p.2 ≠ 0 then (ctlTok p.2, 0) else if p.1 = [0] then (tl, al) else (tr, ar)
        let s' := ((s.countTok cl h.2 h.1).jnEatAll cl j p.1).produceAll cl j.named h.1
        .go (if p.2 = 2 then s'.endJn cl u c.sid j else s')
      | l => .room l
  | _, _ => .idle

/-- The tag of a slot. -/
def Jn.tagOf (j : Jn) (t : Tok) : Nat := fieldAt t.data (byteAt j.cfg 20) 4

/-- The lowest tag of the window with its place. -/
def Jn.lowest (j : Jn) : Option (Nat × Nat) :=
  j.window.foldl (fun a w => match a with
    | none => some (w.1.toNat, w.2)
    | some b => if w.1.toNat < b.1 then some (w.1.toNat, w.2) else a) none

/-- The lowest place of the window that is not in use. -/
def Jn.freePlace (j : Jn) (win : Nat) : Option Nat :=
  (List.range win).find? fun p => !j.window.any fun w => decide (w.2 = p)

/-- A reorder firing (R317): emit, take, control, the first that can. The lowest tag is the lowest of the window and
of the DATA heads (log entry 14). -/
def State.fireReorder (s : State) (cl u : Nat) (j : Jn) (c : Ctx) : Fire :=
  let n := j.ins.length
  let heads := (List.range n).map fun i => s.jnHead cl j i
  let all := heads.all Option.isSome
  let datas := heads.filterMap fun h => h.bind fun p => if p.1.tag = 0 then some p else none
  match datas.findSome? fun p => p.1.interp p.2.2 (byteAt j.cfg 20) 4 with
  | some x => .stop (s.freezeUnit cl (24 + u) c.sid x)
  | none =>
    let work := fieldAt j.cfg 56 4
    let win := fieldAt j.cfg 22 2
    let out := j.named
    let z := match s.ringAt cl (out.headD 64) with | some r => r.size | none => 8
    let emit : Option (Nat × Nat) := j.lowest.bind fun w =>
      if w.1 = j.tag.toNat ∨ (all && datas.all fun p => decide (w.1 ≤ j.tagOf p.1)) = true then some w else none
    let full := s.noRoom cl out
    match emit, full with
    | some w, [] =>
      let at0 := work + w.2 * z
      let t : Tok := { tag := 0, data := s.readSpBytes cl at0 z,
                       bad := (List.range (z / 8)).filter fun k => s.poisonSp cl (at0 + 8 * k) 8 }
      let j := { j with tag := BitVec.ofNat 32 (w.1 + 1), window := j.window.filter fun x => decide (x.2 ≠ w.2) }
      .go (((s.countTok cl at0 t).setJn cl u j).produceAll cl out t)
    | _, _ =>
      let order := (List.range n).map fun i => (j.lastIn + i) % n
      let take := order.findSome? fun i => (heads.getD i none).bind fun p => if p.1.tag = 0 then some (i, p.1, p.2.2) else none
      match take, j.freePlace win with
      | some (i, t, sa), some place =>
        let at0 := work + place * z
        let locs := (List.range z).map fun b => ({ scratch := true, key := s.spCell cl (at0 + b), va := at0 + b } : Loc)
        let s := (s.countTok cl sa t).putPBytes (locs.zip t.pbytes)
        .go ((s.setJn cl u { j with window := j.window ++ [(BitVec.ofNat 32 (j.tagOf t), place)],
                                    lastIn := (i + 1) % n }).jnEat cl j i)
      | _, _ =>
        if j.window = [] ∧ all = true then
          if full ≠ [] then .room full
          else
            let tags := heads.filterMap fun h => h.map fun p => p.1.tag
            let eos := tags.all fun t => decide (t = 2)
            let eat := (List.range n).filter fun i => eos || decide (tags.getD i 2 ≠ 2)
            let t : BitVec 2 := if eos then 2 else if tags.contains 3 then 3 else 1
            let s' := (s.jnEatAll cl j eat).produceAll cl out (ctlTok t)
            .go (if eos then s'.endJn cl u c.sid j else s')
        else if emit.isSome then .room full else .idle

/-! ### Sparse tile sets (R76, R77, R318) -/

/-- Bits of an element of a format code of R76, and bytes of a list entry. -/
def setBits (fmt : Nat) : Nat :=
  match fmt with
  | 0 => 16
  | 1 => 8
  | 2 => 6
  | 3 => 8
  | 4 => 4
  | _ => 32
def entryBytes (fmt : Nat) : Nat := if setBits fmt ≤ 16 then 4 else 8

/-- A zero of a format: an integer 0, or a float of either sign. -/
def setZero (fmt x : Nat) : Bool :=
  match fmt with
  | 0 => (decodeF .bf16 x).isZero
  | 1 => (decodeF .t8 x).isZero
  | 2 => (decodeF .t6 x).isZero
  | 5 => (decodeF .fp32 x).isZero
  | _ => x == 0

/-- The local coordinate of row a and column c: the Morton code of six bits each (R77). -/
def morton (a c : Nat) : Nat :=
  (List.range 6).foldl (fun m i => m + (c / 2 ^ i % 2) * 2 ^ (2 * i) + (a / 2 ^ i % 2) * 2 ^ (2 * i + 1)) 0

def Jn.rows (j : Jn) : Nat := fieldAt j.cfg 32 4
def Jn.cols (j : Jn) : Nat := fieldAt j.cfg 36 4
def Jn.fmt (j : Jn) : Nat := byteAt j.cfg 40
def Jn.setSpace (j : Jn) : Bool := byteAt j.cfg 41 % 2 == 1
def Jn.setAt (j : Jn) : Nat := fieldAt j.cfg 48 8
def Jn.tileCols (j : Jn) : Nat := (j.cols + 63) / 64
def Jn.bands (j : Jn) : Nat := (j.rows + 63) / 64

/-- Bytes without poison. -/
def clean (l : List Byte) : List PByte := l.map fun b => (b, false)

/-- The header of the set (log entry 52). -/
def Jn.header (j : Jn) : List Byte :=
  leBytes 4 j.rows ++ leBytes 4 j.cols ++ leBytes 1 j.fmt ++ leBytes 1 (entryBytes j.fmt) ++ leBytes 6 0

/-- The entries of tile column tc of a band, by ascending coordinate: coordinate, value, poison. -/
def Jn.tileEntries (j : Jn) (band tc : Nat) : List (Nat × Nat × Bool) :=
  let mine := j.entries.filterMap fun e =>
    let r := e.1 / j.cols
    let c := e.1 % j.cols
    if r / 64 = band ∧ c / 64 = tc then some (morton (r % 64) (c % 64), e.2, j.badEntries.contains e.1) else none
  mine.mergeSort fun a b => decide (a.1 ≤ b.1)

/-- The bytes of a list entry. -/
def entryPBytes (fmt : Nat) (e : Nat × Nat × Bool) : List PByte :=
  let v := if entryBytes fmt = 4 then e.2.1 + e.1 * 2 ^ 16 else e.2.1 + e.1 * 2 ^ 32
  (leBytes (entryBytes fmt) v).map fun b => (b, e.2.2)

/-- The pieces that complete a band, and the junction after it. -/
def Jn.bandPieces (j : Jn) : List (Nat × List PByte) × Jn :=
  let r := (List.range j.tileCols).foldl (fun (p : List (Nat × List PByte) × Nat) tc =>
    let l := j.tileEntries j.band tc
    let dir := j.setAt + 16 + 8 * (j.band * j.tileCols + tc)
    let data := l.flatMap (entryPBytes j.fmt)
    (p.1 ++ [(dir, clean (leBytes 4 p.2 ++ leBytes 4 l.length))] ++
      l.zipIdx.map (fun (e : (Nat × Nat × Bool) × Nat) => (j.setAt + p.2 + entryBytes j.fmt * e.2, entryPBytes j.fmt e.1)),
     p.2 + data.length)) ([], j.listAt)
  (r.1, { j with band := j.band + 1, listAt := r.2, entries := j.entries.filter fun e => decide ((j.band + 1) * 64 * j.cols ≤ e.1) })

/-- The pieces of all bands that `count` elements complete. -/
def Jn.packBands : Nat → Jn → List (Nat × List PByte) × Jn
  | 0, j => ([], j)
  | n + 1, j =>
    if j.band < j.bands ∧ min ((j.band + 1) * 64) j.rows * j.cols ≤ j.count then
      let p := j.bandPieces
      let q := Jn.packBands n p.2
      (p.1 ++ q.1, q.2)
    else ([], j)

/-- The header, where it is still to be written. -/
def Jn.packHead (j : Jn) : List (Nat × List PByte) × Jn :=
  if j.listAt = 0 then ([(j.setAt, clean j.header)], { j with listAt := 16 + 8 * j.bands * j.tileCols }) else ([], j)

/-- The elements of a slot that a pack junction takes. One whose stored bits are 0 has no entry, also where it is poisoned (log
entry 52). -/
def Jn.gather (j : Jn) (t : Tok) : Jn :=
  let b := setBits j.fmt
  let n := min (8 * t.data.length / b) (j.rows * j.cols - j.count)
  let bits := leNat t.data
  let l := (List.range n).filterMap fun i =>
    let x := bits / 2 ^ (b * i) % 2 ^ b
    if setZero j.fmt x then none else some (j.count + i, x)
  let bad := (List.range n).filterMap fun i =>
    if t.bad.contains (b * i / 64) || t.bad.contains ((b * i + b - 1) / 64) then some (j.count + i) else none
  { j with count := j.count + n, entries := j.entries ++ l, badEntries := j.badEntries ++ bad }

/-- The work area after a firing: the manual does not give its contents (log entry 15). -/
def State.scramble (s : State) (cl at0 n : Nat) : State :=
  { (s.writeSpBytes cl at0 ((List.range n).map fun i => BitVec.ofNat 8 (Config.freeWord (s.free + i)).toNat)) with
    free := s.free + n }

/-- A pack firing (R318). -/
def State.firePack (s : State) (cl u : Nat) (j : Jn) (c : Ctx) : Fire :=
  match s.jnHead cl j 0 with
  | none => .idle
  | some (t, _, sa) =>
    let h := j.packHead
    let j1 := if t.tag = 0 then h.2.gather t else if t.tag = 2 then { h.2 with count := h.2.rows * h.2.cols } else h.2
    let b := Jn.packBands (j1.bands + 1) j1
    Fire.ofRes cl (24 + u) c.sid (s.unitWrites c j.setSpace cl (h.1 ++ b.1)) fun _ s' =>
      let s' := if t.tag = 0 ∧ j1.count ≠ h.2.count then s'.scramble cl (fieldAt j.cfg 56 4) (64 * j.cols * entryBytes j.fmt) else s'
      let s' := ((s'.countTok cl sa t).setJn cl u b.2).jnEat cl j 0
      .go (if t.tag = 2 then s'.endJn cl u c.sid b.2 else s')

/-- The value of one element of the set, zero where no entry exists, with its poison. An entry is matched by its stored
coordinate, also where it is poisoned (log entry 88). -/
def State.setElem (s : State) (cl : Nat) (j : Jn) (c : Ctx) (dir : List PByte) (i : Nat) : Res (Nat × Bool) :=
  let r := i / j.cols
  let col := i % j.cols
  let d := 8 * (r / 64 * j.tileCols + col / 64)
  let raw := (dir.drop d).take 8
  let off := leNat ((raw.take 4).map Prod.fst)
  let n := leNat ((raw.drop 4).map Prod.fst)
  let eb := entryBytes j.fmt
  (s.unitReads c j.setSpace cl ((List.range n).map fun k => (j.setAt + off + eb * k, eb))).andThen fun l s' =>
    let want := morton (r % 64) (col % 64)
    let hit := l.find? fun e => decide (leNat (e.map Prod.fst) / 2 ^ (4 * eb) % 2 ^ 12 = want)
    let bad := raw.any Prod.snd
    match hit with
    | none => .ok (0, bad) s'
    | some e => .ok (leNat (e.map Prod.fst) % 2 ^ setBits j.fmt, bad || e.any Prod.snd) s'

/-- The elements of one slot of an unpack junction: the slot's bits and the poisoned words among them. -/
def State.setElems (cl : Nat) (j : Jn) (c : Ctx) (dir : List PByte) : List Nat → State → Nat → Res (Nat × List Nat)
  | [], s, _ => .ok (0, []) s
  | i :: l, s, k =>
    let b := setBits j.fmt
    (s.setElem cl j c dir i).andThen fun x s' =>
      (State.setElems cl j c dir l s' (k + 1)).andThen fun r s'' =>
        .ok (x.1 + 2 ^ b * r.1, (if x.2 then [b * k / 64, (b * k + b - 1) / 64] else []) ++ r.2) s''

/-- The header agrees with the record, and no list passes the end of the lists: the end that the counts give
(log entry 16) (log entry 87). -/
def Jn.setOk (j : Jn) (head dir : List PByte) : Bool :=
  let n := j.bands * j.tileCols
  let eb := entryBytes j.fmt
  let e := (List.range n).map fun k =>
    let raw := ((dir.drop (8 * k)).take 8).map Prod.fst
    (leNat (raw.take 4), leNat (raw.drop 4))
  let lists := (e.map Prod.snd).foldl (· + ·) 0 * eb
  head.map Prod.fst == j.header && e.all fun p => decide (p.1 + p.2 * eb ≤ 16 + 8 * n + lists)

/-- An unpack firing (R318). -/
def State.fireUnpack (s : State) (cl u : Nat) (j : Jn) (c : Ctx) : Fire :=
  match s.noRoom cl j.named with
  | [] =>
    let total := j.rows * j.cols
    if j.listAt ≠ 0 ∧ total ≤ j.count then
      .go ((s.produceAll cl j.named (ctlTok 2)).endJn cl u c.sid j)
    else
      let n := j.bands * j.tileCols
      Fire.ofRes cl (24 + u) c.sid (s.unitReads c j.setSpace cl ((j.setAt, 16) :: (List.range n).map fun k => (j.setAt + 16 + 8 * k, 8)))
        fun l s' =>
          let dir := (l.drop 1).flatten
          if j.listAt = 0 ∧ !j.setOk (l.headD []) dir then
            let s' := s'.setJn cl u { j with stopped := true }
            .stop (match s'.ctxOf c.sid with
              | some k => s'.due k (trapOf causeChMisuse 8 (BitVec.ofNat 64 (byteAt j.cfg 8)))
              | none => s')
          else if total = 0 then .go ((s'.produceAll cl j.named (ctlTok 2)).endJn cl u c.sid { j with listAt := 1 })
          else
            let z := match s'.ringAt cl (j.named.headD 64) with | some r => r.size | none => 8
            let b := setBits j.fmt
            let m := min (8 * z / b) (total - j.count)
            Fire.ofRes cl (24 + u) c.sid (State.setElems cl j c dir ((List.range m).map (j.count + ·)) s' 0) fun x s'' =>
              .go ((s''.setJn cl u { j with count := j.count + m, listAt := 1 }).produceAll cl j.named
                { tag := 0, data := leBytes z x.1, bad := x.2.eraseDups })
  | l => .room l

/-- The firing rule and effect of a junction. -/
def State.fireJn (s : State) (cl u : Nat) : Fire :=
  match s.runsIn cl (24 + u), smFind u (s.clAt cl).jns with
  | some n, some j =>
    let c := s.ctxAt n
    if j.ended ∨ j.frozen ∨ j.stopped ∨ s.unitAsked cl (24 + u) = true then .idle
    else match j.kind with
      | .route => s.fireRoute cl u j c
      | .merge => s.fireMerge cl u j c
      | .reorder => s.fireReorder cl u j c
      | .pack => s.firePack cl u j c
      | .unpack => s.fireUnpack cl u j c
  | _, _ => .idle

/-! ## Firings as events (R308, R320) -/

/-- A member has ended. -/
def Cluster.memberEnded (k : Cluster) (a : Nat) : Bool :=
  if a < 24 then (match smFind a k.ags with | some g => g.ended | none => false)
  else if a < 40 then (match smFind (a - 24) k.jns with | some j => j.ended | none => false)
  else if a = 41 then (match k.nodeCmd with | some m => m.ended | none => false)
  else match smFind a k.copyCmd with | some m => m.ended | none => false

/-- A Running pipeline whose every member has ended is Done, and its milestone receives an arrival. -/
def State.checkDone (s : State) (n num : Nat) (p : Pipe) : State :=
  if p.state = .running ∧ ((descMembers p.desc).all fun a => (s.clAt p.cluster).memberEnded a) = true then
    (s.setPipe n num { p with state := .done }).arriveField p.cluster p.desc 12 (s.ctxAt n).sid
  else s

/-- The arbiter may grant an actor in this cycle: at most four firings, and one of each actor (R308). -/
def State.mayFire (s : State) (cl a : Nat) : Bool :=
  let l := (s.clAt cl).granted
  decide (l.length < 4) && !l.contains a

/-- A firing done: it is counted, the arbiter's scan moves on, and its pipeline may be Done. -/
def State.fired (s : State) (cl a : Nat) : State :=
  let k := s.clAt cl
  let s := s.setCl cl { k with lastActor := a, granted := a :: k.granted }
  match s.pipeOf cl a with
  | none => s
  | some (n, num, p) => (s.perfCount cl 0x08 (some (s.ctxAt n).pasid) 1).checkDone n num p

/-- A firing event: without a firing, or without a grant, nothing changes. -/
def State.fireEvent (s : State) (cl a : Nat) (f : Fire) : Host.Outcome State Fault Refusal :=
  if !s.mayFire cl a then .next s
  else match f with
  | .go s' => .next (s'.fired cl a)
  | .stop s' => .next s'
  | .idle => .next s
  | .room _ => .next s

def execAgFiring (cluster unit : Nat) (s : State) : Host.Outcome State Fault Refusal :=
  if unit < 24 then s.fireEvent cluster unit (s.fireAg cluster unit) else .next s

/-- A junction's firing under the event of its kind. -/
def State.jnEvent (s : State) (cl u : Nat) (k : JnKind) : Host.Outcome State Fault Refusal :=
  match smFind u (s.clAt cl).jns with
  | some j => if u < 16 ∧ j.kind = k then s.fireEvent cl (24 + u) (s.fireJn cl u) else .next s
  | none => .next s

def execRouteFiring (cluster unit : Nat) (s : State) := s.jnEvent cluster unit .route
def execMergeFiring (cluster unit : Nat) (s : State) := s.jnEvent cluster unit .merge
def execReorderFiring (cluster unit : Nat) (s : State) := s.jnEvent cluster unit .reorder
def execPackFiring (cluster unit : Nat) (s : State) := s.jnEvent cluster unit .pack
def execUnpackFiring (cluster unit : Nat) (s : State) := s.jnEvent cluster unit .unpack

/-! ## sf (R311, R312, R314, R462) -/

/-- The ring of a channel field: bound, in the record's cluster, and produced by an actor where the unit produces. -/
def State.fieldRing (s : State) (c : Ctx) (cl n : Nat) (out : Bool) : Option Nat :=
  match s.chanAt c n with
  | some (k, r, g) => if k = cl ∧ (!out ∨ g.actorProducer) then some r else none
  | none => none

/-- The cluster of a CLUSTER index. -/
def Ctx.clusterOf (c : Ctx) (i : Nat) : Option Nat := c.clusters[i]?

/-- All bytes of a range are 0. -/
def zeroAt (l : List Byte) (i n : Nat) : Bool := fieldAt l i n == 0

/-- The index that an actor holds on a ring, if it holds one (R462). -/
def Ring.heldBy (r : Ring) (a : Nat) : List Nat := (r.held.filter fun h => decide (h.2 = a)).map Prod.fst

/-- The indices that a reconfigured unit keeps on its input rings, one on each ring; 255 is none. -/
def State.keptIdx (s : State) (cl a : Nat) (ins : List Nat) : List Nat :=
  ins.map fun n => match s.ringAt cl n with | some r => (r.heldBy a).headD 255 | none => 255

/-- An AG record that keeps its field rules becomes its configuration. -/
def State.agRecord (s : State) (c : Ctx) (cl u : Nat) (l : List Byte) : Option Ag :=
  let mode := byteAt l 0
  let port := byteAt l 1
  let nc := byteAt l 5
  let start := byteAt l 4
  let g : Ag := { cfg := l, sid := c.sid }
  match s.fieldRing c cl (byteAt l 2) (decide (mode % 4 ≠ 2)) with
  | none => none
  | some r =>
    let z := match s.ringAt cl r with | some g => g.size | none => 8
    let clash := (s.clAt cl).ags.any fun e =>
      decide (e.1 ≠ u) && decide (mode % 4 ≠ 0) && decide (e.2.mode ≠ 0) && decide (byteAt e.2.cfg 1 = port)
    if decide (mode < 8) && decide (mode % 4 ≠ 3) && (if mode % 4 = 0 then port == 0 else decide (port < 16)) &&
       decide (byteAt l 3 ≤ 3) && decide (z % 2 ^ byteAt l 3 = 0) && (start == 0xFF || decide (start < 24)) && decide (1 ≤ nc) && decide (nc ≤ 6) &&
       ((List.range nc).all fun i => decide (1 ≤ g.bound i)) && zeroAt l (16 + 8 * nc) (48 - 8 * nc) && !clash
    then some ({ g with ring := r, cidx := (s.keptIdx cl u [r]).headD 255 } : Ag).resetUnit
    else none

/-- The named channel bytes of a field of eight, if every one resolves; `lo` to `hi` may be named (log entry 53). -/
def State.fieldRings (s : State) (c : Ctx) (cl : Nat) (l : List Byte) (at0 n : Nat) (out : Bool) : Option (List (Option Nat)) :=
  (List.range 8).mapM fun i =>
    let b := byteAt l (at0 + i)
    if b = 0xFF then some none
    else if n ≤ i then none
    else (s.fieldRing c cl b out).map some

/-- Bytes 16 to 63 that a kind of junction uses. -/
def jnUsed : JnKind → List Nat
  | .route => [16, 17, 18, 20, 21, 24, 25, 26, 27, 28, 29, 30, 31]
  | .merge => [16, 17]
  | .reorder => [20, 22, 23, 24, 25, 26, 27, 56, 57, 58, 59]
  | .pack => [32, 33, 34, 35, 36, 37, 38, 39, 40, 41, 48, 49, 50, 51, 52, 53, 54, 55, 56, 57, 58, 59]
  | .unpack => [32, 33, 34, 35, 36, 37, 38, 39, 40, 41, 48, 49, 50, 51, 52, 53, 54, 55]

/-- Inputs and outputs that a kind may name, and whether all of them must be. -/
def jnPorts : JnKind → (Nat × Bool) × (Nat × Bool)
  | .route => ((1, true), (8, false))
  | .merge => ((2, true), (1, true))
  | .reorder => ((8, false), (1, true))
  | .pack => ((1, true), (0, true))
  | .unpack => ((0, true), (1, true))

/-- A junction record that keeps its field rules becomes its configuration. -/
def State.jnRecord (s : State) (c : Ctx) (cl u : Nat) (k : JnKind) (l : List Byte) : Option Jn :=
  let p := jnPorts k
  -- a field that the mode does not use is zero or names nothing
  let l' := (if p.1.1 = 0 ∧ zeroAt l 0 8 then List.replicate 8 0xFF ++ l.drop 8 else l)
  let l' := (if p.2.1 = 0 ∧ zeroAt l 8 8 then l'.take 8 ++ List.replicate 8 0xFF ++ l'.drop 16 else l')
  match s.fieldRings c cl l' 0 p.1.1 false, s.fieldRings c cl l' 8 p.2.1 true with
  | some ins, some outs =>
    let used := 19 :: 60 :: 61 :: 62 :: 63 :: jnUsed k
    let inl := ins.filterMap id
    let outl := outs.filterMap id
    let sizes := (inl ++ outl).filterMap fun n => (s.ringAt cl n).map Ring.size
    let z := sizes.headD 8
    let stream := k == .route || k == .merge || k == .reorder
    let table := fieldAt l 28 4
    let toff := byteAt l 20
    let ok :=
      ((List.range 48).all fun i => used.contains (16 + i) || byteAt l (16 + i) == 0) && msFieldOk l 60 &&
      (!p.1.2 || inl.length == p.1.1) && (!p.2.2 || outl.length == p.2.1) && (k != .reorder || !inl.isEmpty) &&
      (!stream || sizes.all fun x => x == z) &&
      decide (byteAt l 17 < 8) && decide (byteAt l 18 < 64) && decide (toff % 4 = 0) && decide (byteAt l 21 < 2) &&
      (!(k == .route || k == .merge) || decide (byteAt l 16 + 2 ^ (byteAt l 17 % 4) ≤ z)) &&
      (!(k == .reorder || (k == .route && byteAt l 21 == 1)) || decide (toff + 4 ≤ z)) &&
      (k != .route || (List.range 8).all fun i =>
        let e := table / 16 ^ i % 16
        e == 15 || (decide (e < 8) && (outs.getD e none).isSome)) &&
      (k != .reorder || (decide (1 ≤ fieldAt l 22 2) && decide (fieldAt l 22 2 ≤ 512) &&
        decide (fieldAt l 56 4 + fieldAt l 22 2 * z ≤ 2 ^ 22))) &&
      decide (fieldAt l 56 4 % 8 = 0) && decide (byteAt l 40 ≤ 5) && decide (byteAt l 41 < 2)
    if ok then some ({ kind := k, cfg := l, ins := inl, outs := outs, cidx := s.keptIdx cl (24 + u) inl, sid := c.sid } : Jn).resetUnit
    else none
  | _, _ => none

/-- The checks of R311 before the field rules: the cluster, or the cause's subcode of ILLEGAL_OPERAND. -/
def State.sfCheck (s : State) (c : Ctx) (idx a : Nat) : Except Nat Nat :=
  match c.clusterOf idx with
  | none => .error 12
  | some cl =>
    let granted := match s.grantIn c cl with
      | some g => if a < 24 then g.ags.contains a else g.jns.contains (a - 24)
      | none => false
    if a < 40 ∧ !granted then .error 5
    else match s.pipeOf cl a with
      | some (_, _, p) => if p.state = .running ∨ p.state = .frozen then .error 10 else .ok cl
      | none => .ok cl

/-- An sf: reads the record, checks it, and configures the unit; its push is a release (R284, R311). -/
def State.sfOp (s : State) (word a idxByte : Nat) (ra : XReg) (put : Ctx → Nat → List Byte → State → Option State) :
    Host.Outcome State Fault Refusal :=
  let c := s.me
  .next (s.finish ((s.readVirt c 15 (c.reg ra).toNat 64).andThen fun l s' =>
    let bad := fun (n : Nat) => Res.trap (trapOf causeOperand n (BitVec.ofNat 64 word)) s'
    match s'.sfCheck c (byteAt l idxByte) a with
    | .error n => bad n
    | .ok cl => match put c cl l s' with
      | none => bad 12
      | some s'' => .ok () (s''.releasePackage s''.cur).pass))

/-- A unit number out of range (R98, R311). -/
def State.badUnit (s : State) (word : Nat) : Host.Outcome State Fault Refusal :=
  .next (s.trap causeOperand 5 (BitVec.ofNat 64 word))

/-- sf.ag. -/
def execSfAg (u : BitVec 5) (ra : XReg) (s : State) : Host.Outcome State Fault Refusal :=
  let word := parcelOf (.sfAg u ra)
  if 23 < u.toNat then s.badUnit word
  else s.sfOp word u.toNat 7 ra fun c cl l s' => (s'.agRecord c cl u.toNat l).map fun g => s'.setAg cl u.toNat g

/-- sf of a junction. -/
def State.sfJn (s : State) (word : Nat) (u : BitVec 5) (ra : XReg) (k : JnKind) : Host.Outcome State Fault Refusal :=
  if 15 < u.toNat then s.badUnit word
  else s.sfOp word (24 + u.toNat) 19 ra fun c cl l s' => (s'.jnRecord c cl u.toNat k l).map fun j => s'.setJn cl u.toNat j

/-- A command channel's configuration (R321): a route record that uses IN0 only. -/
def State.cmdRecord (s : State) (c : Ctx) (cl a : Nat) (l : List Byte) : Option State :=
  match s.jnRecord c cl 40 .route l with
  | none => none
  | some j =>
    if j.named ≠ [] then none
    else
      let m : CmdChan := { cfg := l, ring := j.ins.headD 64, cidx := (s.keptIdx cl a j.ins).headD 255, sid := c.sid }
      let k := s.clAt cl
      some (s.setCl cl (if a = 41 then { k with nodeCmd := some m } else { k with copyCmd := smPut a m k.copyCmd }))

/-- sf.route: a junction, or a command channel for U = 16 to 18. -/
def execSfRoute (u : BitVec 5) (ra : XReg) (s : State) : Host.Outcome State Fault Refusal :=
  let word := parcelOf (.sfRoute u ra)
  if 18 < u.toNat then s.badUnit word
  else if 15 < u.toNat then s.sfOp word (25 + u.toNat) 19 ra fun c cl l s' => s'.cmdRecord c cl (25 + u.toNat) l
  else s.sfJn word u ra .route

def execSfMerge (u : BitVec 5) (ra : XReg) (s : State) := s.sfJn (parcelOf (.sfMerge u ra)) u ra .merge
def execSfReord (u : BitVec 5) (ra : XReg) (s : State) := s.sfJn (parcelOf (.sfReord u ra)) u ra .reorder
def execSfPack (u : BitVec 5) (ra : XReg) (s : State) := s.sfJn (parcelOf (.sfPack u ra)) u ra .pack
def execSfUnpack (u : BitVec 5) (ra : XReg) (s : State) := s.sfJn (parcelOf (.sfUnpack u ra)) u ra .unpack

/-! ## Consumer indices (R462) -/

/-- The rings that an actor consumes. -/
def Cluster.actorIns (k : Cluster) (a : Nat) : List Nat :=
  if a < 24 then (match smFind a k.ags with | some g => if g.mode = 2 then [g.ring] else [] | none => [])
  else if a < 40 then (match smFind (a - 24) k.jns with | some j => j.ins | none => [])
  else k.actorRings a

/-- The indices that an actor has. -/
def Cluster.actorIdx (k : Cluster) (a : Nat) : List Nat :=
  if a < 24 then (match smFind a k.ags with | some g => if g.mode = 2 then [g.cidx] else [] | none => [])
  else if a < 40 then (match smFind (a - 24) k.jns with | some j => j.cidx | none => [])
  else if a = 41 then (match k.nodeCmd with | some m => [m.cidx] | none => [])
  else match smFind a k.copyCmd with | some m => [m.cidx] | none => []

/-- Gives an actor its indices. -/
def State.setIdx (s : State) (cl a : Nat) (l : List Nat) : State :=
  let k := s.clAt cl
  if a < 24 then (match smFind a k.ags with
    | some g => if g.mode = 2 then s.setAg cl a { g with cidx := l.headD 255 } else s | none => s)
  else if a < 40 then (match smFind (a - 24) k.jns with
    | some j => s.setJn cl (a - 24) { j with cidx := l } | none => s)
  else if a = 41 then s.setCl cl { k with nodeCmd := k.nodeCmd.map fun m => { m with cidx := l.headD 255 } }
  else match smFind a k.copyCmd with
    | some m => s.setCl cl { k with copyCmd := smPut a { m with cidx := l.headD 255 } k.copyCmd } | none => s

/-- The lowest index of a ring that an actor may take. -/
def Ring.freeIdx (r : Ring) : Option Nat :=
  (List.range r.cons).find? fun i => r.actorConsumer i && !r.held.any fun h => decide (h.1 = i)

/-- Takes an index on each ring of a list for an actor, one for all its fields that name the ring; `have0` are those it has
(255 is none). -/
def State.takeIdx (cl a : Nat) : List Nat → List Nat → State → Option (List Nat × State)
  | [], _, s => some ([], s)
  | n :: l, have0, s =>
    let h := have0.headD 255
    if h < 255 then (State.takeIdx cl a l have0.tail s).map fun p => (h :: p.1, p.2)
    else match s.ringAt cl n with
      | none => none
      | some r => match (r.heldBy a).head?.or r.freeIdx with
        | none => none
        | some i => (State.takeIdx cl a l have0.tail (s.setRing cl n { r with held := r.held.filter (fun h => decide (h ≠ (i, a))) ++ [(i, a)] })).map fun p => (i :: p.1, p.2)

/-- Assigns indices to the members of a pipeline, in ascending actor number; with `keep` those they have stay. -/
def State.assignIdx (cl : Nat) (keep : Bool) : List Nat → State → Option State
  | [], s => some s
  | a :: l, s =>
    let k := s.clAt cl
    let ins := if a = 40 then [] else k.actorIns a
    match State.takeIdx cl a ins (if keep then k.actorIdx a else []) s with
    | none => none
    | some (idx, s') => State.assignIdx cl keep l (if ins.isEmpty then s' else s'.setIdx cl a idx)

/-- Releases the indices that the members of a pipeline hold. -/
def State.releaseIdx (s : State) (cl : Nat) (members : List Nat) : State :=
  let k := s.clAt cl
  s.setCl cl { k with rings := k.rings.map fun e =>
    (e.1, { e.2 with held := e.2.held.filter fun h => h.2 == 40 || !members.contains h.2 }) }

/-! ## Pipelines (R319, R320) -/

/-- Resets each member to its configuration. -/
def State.resetUnits (s : State) (cl : Nat) (members : List Nat) : State :=
  members.foldl (fun s a =>
    let k := s.clAt cl
    if a < 24 then (match smFind a k.ags with | some g => s.setAg cl a g.resetUnit | none => s)
    else if a < 40 then (match smFind (a - 24) k.jns with | some j => s.setJn cl (a - 24) j.resetUnit | none => s)
    else if a = 41 then s.setCl cl { k with nodeCmd := k.nodeCmd.map fun m => { m with ended := false, frozen := false } }
    else match smFind a k.copyCmd with
      | some m => s.setCl cl { k with copyCmd := smPut a { m with ended := false, frozen := false } k.copyCmd } | none => s) s

/-- Start tokens to the members whose START is 0xFF. -/
def State.startUnits (s : State) (cl : Nat) (members : List Nat) : State :=
  members.foldl (fun s a => match smFind a (s.clAt cl).ags with
    | some g => if a < 24 ∧ g.start = 0xFF then s.setAg cl a { g with started := true } else s
    | none => s) s

/-- pl.stop of a pipeline of a context: its members are reset, and requests of its units lapse. -/
def State.stopPipe (s : State) (n num : Nat) (p : Pipe) : State :=
  let m := descMembers p.desc
  let s := (s.setPipe n num { p with state := .bound, preempted := false }).resetUnits p.cluster m
  { s with unitAsks := s.unitAsks.filter fun u => !(decide (u.cluster = p.cluster) && m.contains u.actor && decide (u.actor < 40)) }

/-- The checks of pl.bind on a descriptor: the cluster, or the subcode of ILLEGAL_OPERAND. -/
def State.plCheck (s : State) (c : Ctx) (num : Nat) (d : List Byte) : Except Nat Nat :=
  match c.clusterOf (byteAt d 1) with
  | none => .error 12
  | some cl =>
    if !(zeroAt d 2 2 && byteAt d 7 == 0 && decide (byteAt d 10 < 16) && byteAt d 11 == 0 && msFieldOk d 12) then .error 12
    else
      let m := descMembers d
      let granted (a : Nat) : Bool := match s.grantIn c cl with
        | some g => if a < 24 then g.ags.contains a else decide (40 ≤ a) || g.jns.contains (a - 24)
        | none => decide (40 ≤ a)
      if m.any fun a => !granted a then .error 5
      else if m.any fun a => match s.pipeOf cl a with
          | some (n, k, _) => !(decide (n = s.cur) && decide (k = num)) | none => false then .error 10
      else .ok cl

/-- A pipeline of the context. -/
def Ctx.pipe (c : Ctx) (num : Nat) : Pipe := smGet ({} : Pipe) c.pipes num

/-- A pipeline instruction: its descriptor is read, and f performs it. -/
def State.plOp (s : State) (ra : XReg) (f : Ctx → List Byte → State → Except Nat State) (word : Nat) :
    Host.Outcome State Fault Refusal :=
  let c := s.me
  .next (s.finish ((s.readVirt c 15 (c.reg ra).toNat 16).andThen fun d s' =>
    match if 7 < byteAt d 0 then .error 12 else f c d s' with
    | .error n => .trap (trapOf causeOperand n (BitVec.ofNat 64 word)) s'
    | .ok s'' => .ok () s''.pass))

/-- pl.bind. -/
def execPlBind (ra : XReg) (s : State) : Host.Outcome State Fault Refusal :=
  s.plOp ra (fun c d s' =>
    let num := byteAt d 0
    let old := c.pipe num
    if old.state = .running ∨ old.state = .frozen then .error 10
    else match s'.plCheck c num d with
      | .error n => .error n
      | .ok cl =>
        let s1 := if old.state = .unbound then s' else s'.releaseIdx old.cluster (descMembers old.desc)
        match State.assignIdx cl false (descMembers d) s1 with
        | none => .error 12
        | some s2 => .ok (s2.setPipe s2.cur num { state := .bound, desc := d, cluster := cl })) (parcelOf (.plBind ra))

/-- The bound pipeline that a descriptor names, for pl.start, pl.stop and pl.freeze. -/
def Ctx.plNamed (c : Ctx) (d : List Byte) : Except Nat Pipe :=
  let p := c.pipe (byteAt d 0)
  if p.state = .unbound ∨ p.desc ≠ d then .error 12 else .ok p

/-- pl.start: members that sf configured after pl.bind take the indices they lack (log entry 17). -/
def execPlStart (ra : XReg) (s : State) : Host.Outcome State Fault Refusal :=
  s.plOp ra (fun c d s' =>
    let num := byteAt d 0
    match c.plNamed d with
    | .error n => .error n
    | .ok p =>
      let m := descMembers d
      match p.state with
      | .frozen => .ok (s'.setPipe s'.cur num { p with state := .running })
      | .running => .ok s'
      | _ => match State.assignIdx p.cluster true m s' with
        | none => .error 12
        | some s1 =>
          let run : Pipe := { p with state := .running }
          .ok ((((s1.resetUnits p.cluster m).startUnits p.cluster m).setPipe s'.cur num run).checkDone s'.cur num run))
    (parcelOf (.plStart ra))

/-- pl.stop. -/
def execPlStop (ra : XReg) (s : State) : Host.Outcome State Fault Refusal :=
  s.plOp ra (fun c d s' => match c.plNamed d with
    | .error n => .error n
    | .ok p => .ok (if p.state = .bound then s' else s'.stopPipe s'.cur (byteAt d 0) p)) (parcelOf (.plStop ra))

/-- pl.freeze: firings are atomic in the model, so none is in progress. -/
def execPlFreeze (ra : XReg) (s : State) : Host.Outcome State Fault Refusal :=
  s.plOp ra (fun c d s' => match c.plNamed d with
    | .error n => .error n
    | .ok p => .ok (if p.state = .running then s'.setPipe s'.cur (byteAt d 0) { p with state := .frozen } else s'))
    (parcelOf (.plFreeze ra))

end Sys2Proof.Machine
end

