-- ==== Sys2Proof/Machine/VecMem.lean ====
section
/-! DEFINITION. The vector memory instructions and spcfg (spec 09, R132 to R134, R257, R258, R266 to R275). -/

namespace Sys2Proof.Machine

/-! ## Values in memory as a slot sees them -/

/-- A byte under a list of writes in their order. -/
def overlay (w : List MemWrite) (l : Loc) (b : Byte) : Byte :=
  w.foldl (fun b m => if m.scratch == l.scratch && m.key == l.key then (b &&& ~~~m.mask) ||| (m.val &&& m.mask) else b) b

/-- A byte as a slot reads it: memory, then what earlier slots and the slot itself wrote (program order). -/
def VEnv.memByte (v : VEnv) (own : List MemWrite) (l : Loc) : Byte :=
  overlay own l (v.cv.logs.foldl (fun b g => overlay g.mems l b) (v.s.locByte l))

/-- The bits of an element. -/
def VEnv.memBits (v : VEnv) (own : List MemWrite) (x : Elem) (l : List Loc) : Nat :=
  locsNat (v.memByte own) l / 2 ^ x.bit % 2 ^ x.bits

/-- The bits of an element that a load of a class observes from an L-die: memory as its strand sees it there, then what
earlier slots wrote (R278 to R281). -/
def VEnv.loadBitsAt (v : VEnv) (cls die : Nat) (x : Elem) (l : List Loc) : Nat :=
  let port := some (v.laneOf x.e)
  let m := v.s.readMoment v.c cls x.e port
  locsNat (fun b => v.cv.logs.foldl (fun a g => overlay g.mems b a) (v.s.seenByte v.c cls port die m b)) l /
    2 ^ x.bit % 2 ^ x.bits

/-- The bits of an element that its lane's cluster loads. -/
def VEnv.loadBits (v : VEnv) (cls : Nat) (x : Elem) (l : List Loc) : Nat := v.loadBitsAt cls (x.cl / 8) x l

/-- The kept pairs before the elements of a vector load. -/
def State.beforeLoad (s : State) (c : Ctx) (cls : Nat) (els : List Elem) : State :=
  if s.writes.isEmpty then s else s.beforeAccess c.sid cls (els.map fun x => some (x.e % c.lanes))

/-- Notes the reads of a vector load. -/
def State.afterLoad (s : State) (c : Ctx) (cls : Nat) (els : List Elem) : State :=
  if s.writes.isEmpty then s
  else s.afterReads s.cur cls (els.foldl (fun k x => max k (x.e + 1)) 0)
    (els.foldl (fun m x => max m (s.readMoment c cls x.e (some (x.e % c.lanes)))) 0)

/-- The writes of an element's bits (R134). -/
def memWrites (x : Elem) (l : List Loc) (val : Nat) : List MemWrite :=
  let big := val % 2 ^ x.bits * 2 ^ x.bit
  let mask := (2 ^ x.bits - 1) * 2 ^ x.bit
  l.zipIdx.map fun p =>
    { elem := x.e, scratch := p.1.scratch, key := p.1.key, val := BitVec.ofNat 8 (big / 256 ^ p.2),
      mask := BitVec.ofNat 8 (mask / 256 ^ p.2), va := p.1.va }

/-- Bytes that writes cover whole, as (space, key) (log entry 48). -/
def coversWord (w : List MemWrite) (scratch : Bool) (word : Nat) : Bool :=
  (List.range 8).all fun i =>
    ((w.filter fun m => m.scratch == scratch && m.key == 8 * word + i).foldl (fun a m => a ||| m.mask) 0) == (0xFF : Byte)

/-! ## Addresses (R267) -/

/-- Element e of an addressing form: 0 unit stride, 1 strided, 2 indexed, with the index as the slot's own earlier rows
leave it (R119, R121). -/
def VEnv.memElem (v : VEnv) (f : VM) (form : Nat) (own : List SliceWrite) (e : Nat) : Elem :=
  let base := v.c.reg f.base
  let cl := (v.c.laneAt (v.laneOf e)).1
  if form = 0 then
    let bit := 4 * f.data.w * e
    { e := e, cl := cl, va := (base + sext64 f.idx + BitVec.ofNat 64 (bit / 8)).toNat, bit := bit % 8, bits := 4 * f.data.w }
  else if form = 1 then
    { e := e, cl := cl, va := (base + sext64 f.idx + BitVec.ofNat 64 e * v.c.reg f.stride).toNat, bit := 0,
      bits := 4 * f.data.w }
  else
    { e := e, cl := cl, va := (base + BitVec.ofNat 64 (v.getAt own f.index e (v.row e))).toNat, bit := 0, bits := 4 * f.data.w }

/-- Passes a translation's outcome on, or goes on with the bytes of each element. -/
def SlotRes.ofRes {α : Type} (r : Res α) (k : α → State → SlotRes) : SlotRes :=
  match r with
  | .ok x s => k x s
  | .trap t s => .whole {} t s
  | .ask q s => .ask q s
  | .wait s => .wait s

/-- The slices that an element reads, for the poison check (log entry 45). -/
def memSrcs (f : VM) (form : Nat) (data : Bool) (e : Nat) : List (Opnd × Nat) :=
  (if form = 2 then [(f.index, e)] else []) ++ (if data then [(f.data, e)] else [])

/-- The bytes of an element as they could be read at once: none where a fault or a wait stands before. -/
def VEnv.peek (v : VEnv) (kind : AccKind) (space : Bool) (x : Elem) : Option (List Loc) :=
  if space then (if (v.s.spBeyond v.c x).isSome then none else some (v.s.spLocs v.c x))
  else
    let a := PageAcc.addElem v.c kind { s := v.s } x
    let l := a.locs v.c x
    let here := (a.s.remoteParts true x.e x.va (l.map Prod.snd)).all fun b => v.c.answered.any fun g =>
      decide (g.pc = v.c.pc) && decide (g.retired = v.c.retired) && g.accs.contains (b.elem, b.va, b.pa)
    if a.first.isSome || a.sleeps || !here then none else some (l.map Prod.fst)

/-- The elements of an indexed access that a slot's own earlier rows may address: each index as the rows before leave it
(R119, R121), up to the first element that cannot be read yet. `step` is the slot's effect on an element. -/
def VEnv.chase (v : VEnv) (f : VM) (kind : AccKind) (step : (Elem → List Loc) → VAcc → Nat → VAcc) :
    List Nat → VAcc → List Elem
  | [], _ => []
  | e :: l, a =>
    if v.act f.pred e then
      let x := v.memElem f 2 a.log.slices e
      x :: match v.peek kind f.space x with
        | none => []
        | some p =>
          let a' := step (fun _ => p) a e
          if a'.fault.isSome then [] else v.chase f kind step l a'
    else v.chase f kind step l (step (fun _ => []) a e)

/-- Some row of an operand writes slices that a later row of another reads. -/
def crossRows (o i : Opnd) (rows : Nat) : Bool :=
  (List.range rows).any fun r => (List.range r).any fun q =>
    decide (i.s + i.w * r < o.s + o.w * q + o.w) && decide (o.s + o.w * q < i.s + i.w * r + i.w)

/-- The elements of an access, whose result, if it has one, goes to the data operand. -/
def VEnv.accessElems (v : VEnv) (f : VM) (form : Nat) (kind : AccKind) (result : Bool)
    (step : (Elem → List Loc) → VAcc → Nat → VAcc) : List Elem :=
  if form = 2 ∧ result ∧ crossRows f.data f.index (rowCount v.L v.cv.vl) then v.chase f kind step v.elems {}
  else (v.actives f.pred).map (v.memElem f form [])

/-- Element e among an access's elements. -/
def VEnv.pick (v : VEnv) (f : VM) (form : Nat) (els : List Elem) (own : List SliceWrite) (e : Nat) : Elem :=
  (els.find? fun x => x.e == e).getD (v.memElem f form own e)

/-! ## Loads and stores (R268) -/

/-- What a load gives an element from the bytes of its places. -/
def VEnv.loadElem (v : VEnv) (f : VM) (form : Nat) (els : List Elem) (refused : Option (Nat × TrapInfo))
    (r : Elem → List Loc) : VAcc → Nat → VAcc :=
  v.elem (.slices f.data) f.pred (f.fn.toNat % 2 == 1) (memSrcs f form false) fun own e =>
    let x := v.pick f form els own e
    let l := r x
    match refused with
    | some (k, t) => if k = e then .error t else val x l
    | none => val x l
where
  val (x : Elem) (l : List Loc) : Except TrapInfo (Nat × FpFlags) :=
    match l.find? v.s.locPoison with
    | some b => .error (poisonTrap b)
    | none => .ok (v.loadBits f.cls.toNat x l, 0)

/-- A vector load. -/
def State.vload (s : State) (i : Instr) (f : VM) (form : Nat) : Host.Outcome State Fault Refusal :=
  .next (s.runSlot i fun v =>
    let els := v.accessElems f form 0 true (v.loadElem f form [] none)
    SlotRes.ofRes (v.s.resolve v.c 0 f.space form f.cls.toNat els els) fun r s' =>
      let v' := { v with s := s'.beforeLoad v.c f.cls.toNat els }
      .done (v'.close (some f.data) (v'.elems.foldl (v'.loadElem f form els r.2 r.1) {})) (v'.s.afterLoad v.c f.cls.toNat els))

def execVld (f : VM) (s : State) := s.vload (.vld f) f 0
def execVlds (f : VM) (s : State) := s.vload (.vlds f) f 1
def execVldx (f : VM) (s : State) := s.vload (.vldx f) f 2

/-- The faults of store elements and the writes of the others, from elements with their values. A poisoned word that
the store does not cover whole faults (R275). -/
def VEnv.storeAcc (v : VEnv) (refused : Option (Nat × TrapInfo)) (items : List (Elem × List Loc × Nat))
    (srcs : Nat → List (Opnd × Nat)) : VAcc :=
  let w := items.flatMap fun p => memWrites p.1 p.2.1 p.2.2
  let bad := fun (p : Elem × List Loc × Nat) =>
    match v.poisonCheck (srcs p.1.e) none with
    | some t => some (p.1.e, t)
    | none =>
      match refused with
      | some (k, t) => if k = p.1.e then some (k, t) else part w p
      | none => part w p
  match items.filterMap bad with
  | [] => { log := { mems := w } }
  | l => { log := { mems := w.filter fun m => !l.any fun g => decide (g.1 = m.elem) }, fault := lowestFault (l.map some) }
where
  part (w : List MemWrite) (p : Elem × List Loc × Nat) : Option (Nat × TrapInfo) :=
    (p.2.1.find? fun b => v.s.locPoison b && !coversWord w b.scratch (b.key / 8)).map fun b => (p.1.e, poisonTrap b)

/-- A vector store. -/
def State.vstore (s : State) (i : Instr) (f : VM) (form : Nat) : Host.Outcome State Fault Refusal :=
  .next (s.runSlot i fun v =>
    let els := (v.actives f.pred).map (v.memElem f form [])
    SlotRes.ofRes (v.s.resolve v.c 1 f.space form f.cls.toNat els els) fun r s' =>
      let v' := { v with s := s' }
      .done (v'.storeAcc r.2 (els.map fun x => (x, r.1 x, v.get f.data x.e)) (memSrcs f form true)) s')

def execVst (f : VM) (s : State) := s.vstore (.vst f) f 0
def execVsts (f : VM) (s : State) := s.vstore (.vsts f) f 1
def execVstx (f : VM) (s : State) := s.vstore (.vstx f) f 2

/-! ## Atomic updates (R263, R269, R270) -/

/-- F(old, b) of R263 on `w`-bit values; amo.fadd works on 32 bits. -/
def amoF (op w old b : Nat) : Nat :=
  let so := intOf true w old
  let sb := intOf true w b
  match op with
  | 0 => (old + b) % 2 ^ w
  | 1 => Nat.land old b
  | 2 => Nat.lor old b
  | 3 => Nat.xor old b
  | 4 => if sb < so then b else old
  | 5 => if so < sb then b else old
  | 6 => if b < old then b else old
  | 7 => if old < b then b else old
  | 8 => b
  | _ => (roundF .fp32 0 (sumF false [decodeF .fp32 (old % 2 ^ 32), decodeF .fp32 (b % 2 ^ 32)]).1).1

/-- One element of vamo: its own earlier updates are seen in `mems`, which the commit does not use. -/
def VEnv.amoElem (v : VEnv) (f : VM) (els : List Elem) (refused : Option (Nat × TrapInfo)) (r : Elem → List Loc) (a : VAcc)
    (e : Nat) : VAcc :=
  if !v.act f.pred e then a
  else
    let x := v.pick f 2 els a.log.slices e
    let l := r x
    let op := f.fn.toNat % 16
    let ret := decide (16 ≤ f.fn.toNat)
    let bad : Option TrapInfo :=
      match v.poisonCheck (memSrcs f 2 true e) (if ret then some (f.data, e) else none) with
      | some t => some t
      | none =>
        match l.find? v.s.locPoison with
        | some b => some (poisonTrap b)
        | none => match refused with
          | some (k, t) => if k = e then some t else none
          | none => none
    match bad with
    | some t => { a with fault := a.fault.or (some (e, t)) }
    | none =>
      let old := v.memBits a.log.mems x l
      let b := v.getAt a.log.slices f.data e (v.row e)
      let new := amoF op x.bits old b
      let log := { a.log with
        mems := a.log.mems ++ memWrites x l new
        amos := a.log.amos ++ [{ elem := e, scratch := f.space, keys := l.map Loc.key, op := op, val := b, old := old }] }
      { a with log := if ret then { log with slices := (v.put f.data e old).reverse ++ log.slices } else log }

/-- vamo. -/
def execVamo (f : VM) (s : State) : Host.Outcome State Fault Refusal :=
  .next (s.runSlot (.vamo f) fun v =>
    let els := v.accessElems f 2 3 (decide (16 ≤ f.fn.toNat)) (v.amoElem f [] none)
    SlotRes.ofRes (v.s.resolve v.c 3 f.space 2 f.cls.toNat els els) fun r s' =>
      let v' := { v with s := s' }
      let a := v'.elems.foldl (v'.amoElem f els r.2 r.1) {}
      .done (v'.close (if 16 ≤ f.fn.toNat then some f.data else none) { a with log := { a.log with mems := [] } }) s')

/-! ## vspill and vfill (R132, R271) -/

/-- The bytes of span lane i: B = ceil(n / 2) at base + B * i. -/
def VEnv.laneElem (v : VEnv) (f : VM) (i : Nat) : Elem :=
  let b := (f.idx.toNat % 1024 + 2) / 2
  { e := i, cl := (v.c.laneAt i).1, va := (v.c.reg f.base + BitVec.ofNat 64 (b * i)).toNat, bit := 0, bits := 8 * b }

/-- The image of a lane: its slices as they stood before the convoy. -/
def VEnv.spillBits (v : VEnv) (f : VM) (i : Nat) : Nat :=
  let n := f.idx.toNat % 1024 + 1
  (List.range n).foldr (fun k a => (smGet (0 : Nib) v.s.slices (v.sliceKey i (f.data.s + k))).toNat + 16 * a) 0

/-- vspill. -/
def execVspill (f : VM) (s : State) : Host.Outcome State Fault Refusal :=
  .next (s.runSlot (.vspill f) fun v =>
    let els := (List.range v.L).map (v.laneElem f)
    SlotRes.ofRes (v.s.resolve v.c 1 f.space 0 f.cls.toNat els els) fun r s' =>
      let v' := { v with s := s' }
      let n := f.idx.toNat % 1024 + 1
      let a := v'.storeAcc r.2 (els.map fun x => (x, r.1 x, v.spillBits f x.e)) fun _ => []
      let ue := (List.range v.L).findSome? fun i => (v.poisonFrom (v.sliceKey i f.data.s) n).map fun k => (i, hwUeSlice k)
      let first := match ue, a.fault with
        | some (i, t), some (k, u) => if i ≤ k then some (i, t) else some (k, u)
        | some p, none => some p
        | none, q => q
      match first with
      | none => .done a s'
      | some (i, t) => .whole { mems := a.log.mems.filter (fun m => decide (m.elem ≠ i)), spillAt := some i }
          { t with elem := some i } s')

/-- The slices of a lane that its bytes fill. -/
def VEnv.fillWords (v : VEnv) (f : VM) (x : Elem) (bits : Nat) : List (Nat × Nib) :=
  (List.range (f.idx.toNat % 1024 + 1)).map fun k => (v.sliceKey x.e (f.data.s + k), BitVec.ofNat 4 (bits / 16 ^ k))

/-- vfill. -/
def execVfill (f : VM) (s : State) : Host.Outcome State Fault Refusal :=
  .next (s.runSlot (.vfill f) fun v =>
    let els := (List.range v.L).map (v.laneElem f)
    SlotRes.ofRes (v.s.resolve v.c 0 f.space 0 f.cls.toNat els els) fun r s' =>
      let v' := { v with s := s'.beforeLoad v.c f.cls.toNat els }
      let n := f.idx.toNat % 1024 + 1
      let partKey := fun i =>
        -- bank rows that the range covers only in part
        let a := v.sliceKey i f.data.s
        ((List.range (n + 1)).find? fun k => decide (k < n) &&
          decide ((a + k) / 16 * 16 < a ∨ a + n < (a + k) / 16 * 16 + 16) && v.s.slicePoison.contains ((a + k) / 16)).map
          fun k => (a + k) / 16 * 16
      let bad := els.findSome? fun x =>
        match (r.1 x).find? s'.locPoison with
        | some b => some (x.e, poisonTrap b)
        | none =>
          match partKey x.e with
          | some k => some (x.e, hwUeSlice k)
          | none => match r.2 with
            | some (k, t) => if k = x.e then some (k, t) else none
            | none => none
      match bad with
      | some (i, t) => .whole {} { t with elem := some i } s'
      | none =>
        .done { log := { fill := els.flatMap fun x => v'.fillWords f x (v'.loadBits f.cls.toNat x (r.1 x)) } }
          (v'.s.afterLoad v.c f.cls.toNat els))

/-! ## vpf and spcfg (R272 to R274) -/

/-- vpf changes no value that any agent reads (R253), and drops every line whose page would fault. -/
def execVpf (f : VM) (s : State) : Host.Outcome State Fault Refusal := s.runPlain (.vpf f) fun _ => {}

/-- Copy-engine or butterfly-pipe commands of a strand that have not completed. -/
def State.engineWork (s : State) (sid : Nat) : Bool :=
  s.clusters.any fun e =>
    (e.2.copies.any fun p => (p.2.fifo.any fun k => decide (k.sid = sid)) || p.2.active.any fun k => decide (k.sid = sid)) ||
    (e.2.pipes.any fun p => p.2.fifo.any fun j => match j with
      | .pass _ _ k _ _ _ _ _ _ _ _ _ _ _ _ => decide (k = sid)
      | .twl _ _ _ k => decide (k = sid))

/-- A convoy of another lane group of the strand's clusters has not retired (a vpart child's). -/
def State.childConvoys (s : State) (c : Ctx) : Bool :=
  c.children.any fun sid => match s.ctxOf sid with | some n => !(s.ctxAt n).viq.isEmpty || !(s.ctxAt n).queued.isEmpty | none => false

/-- spcfg: the mapping switches when the convoy retires and the strand's engine commands have completed (R274). -/
def execSpcfg (f : VM) (s : State) : Host.Outcome State Fault Refusal :=
  .next (s.runSlot (.spcfg f) fun v =>
    if v.s.engineWork v.c.sid || v.s.childConvoys v.c then
      .wait (v.s.setMe { v.c with wait := some .engine })
    else .done { log := { spcfg := some (v.c.reg f.base) } } v.s)

end Sys2Proof.Machine
end

