-- ==== Sys2Proof/Machine/Tiles.lean ====
section
/-! DEFINITION. Tiles, index tiles and accumulators: their storage, the signpost, and the VT instructions (spec 08 R211 to
R219, R229 to R241; spec 02 R73 to R75). -/

namespace Sys2Proof.Machine

/-! ## Storage (R211 to R214) -/

/-- Bits of an element of a tile format (R212). -/
def fmtBits (fmt : Nat) : Nat := if fmt = 0 then 16 else if fmt = 2 then 6 else if fmt = 4 then 4 else 8

/-- Keys of a tile byte, an index entry and an accumulator entry, by package cluster and physical row. -/
def tileKey (cl t row byte : Nat) : Nat := ((cl * 8 + t) * 128 + row) * 256 + byte
def idxKey (cl t row p : Nat) : Nat := ((cl * 8 + t) * 128 + row) * 128 + p
def accKey (cl a row j : Nat) : Nat := ((cl * 4 + a) * 128 + row) * 128 + j

/-- The key of a poisoned row: items are numbered as the bits of TEN, then 12 to 19 for the index tiles. -/
def tilePoisonKey (cl item row : Nat) : Nat := (cl * 20 + item) * 128 + row

/-- Element j of a tile row under a format of `b` bits. -/
def State.tileElem (s : State) (cl t row b j : Nat) : Nat :=
  let k := tileKey cl t row (b * j / 8)
  let w := (smGet (0 : Byte) s.tiles k).toNat + 256 * (smGet (0 : Byte) s.tiles (k + 1)).toNat +
    65536 * (smGet (0 : Byte) s.tiles (k + 2)).toNat
  w / 2 ^ (b * j % 8) % 2 ^ b

def State.idxAt (s : State) (cl t row p : Nat) : Nat := (smGet (0 : Nib) s.idxs (idxKey cl t row p)).toNat
def State.accAt (s : State) (cl a row j : Nat) : Nat := (smGet (0 : BitVec 40) s.accs (accKey cl a row j)).toNat

/-- The writes of element j of a tile row. -/
def tileWrites (cl t row b j x : Nat) : List TileWrite :=
  let k := tileKey cl t row (b * j / 8)
  let sh := b * j % 8
  (List.range ((sh + b + 7) / 8)).map fun i =>
    .byte (k + i) (BitVec.ofNat 8 (x % 2 ^ b * 2 ^ sh / 256 ^ i)) (BitVec.ofNat 8 ((2 ^ b - 1) * 2 ^ sh / 256 ^ i))

/-- Removes the entries of a key range: they read the default. -/
def smClear {α : Type} (lo n : Nat) (m : SMap α) : SMap α := m.filter fun e => decide (e.1 < lo) || decide (lo + n ≤ e.1)

/-- Performs one logged write to tile state; TCFG fields are the context's. -/
def State.applyTile (s : State) (n : Nat) (w : TileWrite) : State :=
  match w with
  | .byte k v m => { s with tiles := smSet 0 s.tiles k ((smGet 0 s.tiles k &&& ~~~m) ||| (v &&& m)) }
  | .idx k v => { s with idxs := smSet 0 s.idxs k v }
  | .acc k v => { s with accs := smSet 0 s.accs k v }
  | .shape t r cols =>
    let c := s.ctxAt n
    let w := c.tc t
    s.setCtx n (c.setTc t (tcWord (tcFB w) (tcTR w) (tcM w) (tcN w) cols r (tcFmt w)))
  | .flags t tr fb =>
    let c := s.ctxAt n
    let w := c.tc t
    s.setCtx n (c.setTc t (tcWord fb tr (tcM w) (tcN w) (tcCols w) (tcRows w) (tcFmt w)))
  | .clear lo k => { s with tiles := smClear lo k s.tiles }

/-- Rows that a list of writes covers whole lose their poison (R214): 256 bytes of a tile row, 128 entries of an index
or accumulator row. -/
def State.healTiles (s : State) (l : List TileWrite) : State :=
  let coversRow (key : Nat) : Bool :=
    let cl := key / 128 / 20
    let item := key / 128 % 20
    let row := key % 128
    if item < 8 then
      l.any (fun w => match w with
        | .clear lo n => decide (lo ≤ tileKey cl item row 0) && decide (tileKey cl item row 255 < lo + n)
        | _ => false) ||
      (List.range 256).all fun i => (l.foldl (fun (a : Byte) w => match w with
        | .byte k _ m => if k = tileKey cl item row i then a ||| m else a
        | _ => a) 0) == 0xFF
    else if item < 12 then
      (List.range 128).all fun j => l.any fun w => match w with
        | .acc k _ => decide (k = accKey cl (item - 8) row j)
        | _ => false
    else (List.range 128).all fun j => l.any fun w => match w with
      | .idx k _ => decide (k = idxKey cl (item - 12) row j)
      | _ => false
  { s with tilePoison := s.tilePoison.filter fun k => !coversRow k }

/-- Performs a list of writes to tile state in order. -/
def State.applyTiles (s : State) (n : Nat) (l : List TileWrite) : State :=
  (l.foldl (fun s w => s.applyTile n w) s).healTiles l

/-! ## Access to enabled items (R214, R219, R228) -/

/-- TILE_OFF of an instruction that names items (bits of TEN): no share, or the lowest disabled item. -/
def Ctx.tileOff (c : Ctx) (items : List Nat) : Option TrapInfo :=
  if c.share = 0 then some (trapOf causeTileOff 1 0)
  else ((List.range 12).find? fun i => items.contains i && !c.ten.getLsbD i).map fun i =>
    trapOf causeTileOff 0 (BitVec.ofNat 64 i)

/-- A token names an item: its tiles, its accumulator (R228). -/
def Token.names (t : Token) (item : Nat) : Bool :=
  if item < 8 then (decide (t.op.toNat ≤ 1) && (decide (t.ta = item) || decide (t.tb = item))) ||
    (decide (t.op.toNat = 3) && decide (t.ta = item))
  else decide (t.acc + 8 = item)

/-- A token of the strand that names one of the items has not completed. -/
def State.tokensName (s : State) (c : Ctx) (items : List Nat) : Bool :=
  c.clusters.any fun cl => (s.clAt cl).nodes.any fun e =>
    e.2.fifo.any fun t => decide (t.sid = c.sid) && items.any t.names

/-- TILE_SHAPE (R223, R230 to R240) (log entry 51). -/
def tileShape (sub item : Nat) : TrapInfo := trapOf causeTileShape sub (BitVec.ofNat 64 item)

/-- HW_UE of the first poisoned row among (cluster, item, row), with the item's number as the bits of TEN. -/
def State.tileUe (s : State) (l : List (Nat × Nat × Nat)) : Option TrapInfo :=
  if s.tilePoison.isEmpty then none
  else (l.find? fun p => s.tilePoison.contains (tilePoisonKey p.1 p.2.1 p.2.2)).map fun p =>
    trapOf causeHwUe 3 (BitVec.ofNat 64 (if p.2.1 < 12 then p.2.1 else p.2.1 - 12))

/-- The item that a move names by one of its tile fields. -/
def moveItem (f : VT) (n : BitVec 3) : Nat := if f.fn.getLsbD 0 then 8 + n.toNat else n.toNat

/-- The items that a VT instruction names, as bits of TEN (R93, R219). -/
def vtItems (i : Instr) : Option (List Nat) :=
  match i with
  | .tld f | .tldP f | .tldt f | .tzero f | .tsigck f => some [f.td.toNat]
  | .tst f => some [f.ta.toNat]
  | .vtrow f | .vtcol f => some [moveItem f f.ta]
  | .vrowt f | .vcolt f => some [moveItem f f.td]
  | .tprune f | .tpruneT f | .tpackt f | .tunpack f => some [f.td.toNat, f.ta.toNat]
  | _ => none

/-- TILE_OFF of the first slot of a convoy that names a disabled item: it comes before any effect of the convoy (R219). -/
def Ctx.slotsOff (c : Ctx) (l : List Instr) : Option TrapInfo :=
  l.zipIdx.findSome? fun p => ((vtItems p.1).bind c.tileOff).map fun t => t.atSlot p.2

/-- Runs a VT slot: TILE_OFF, then the wait for tokens that name its items, then the operation. -/
def State.runTile (s : State) (i : Instr) (run : VEnv → SlotRes) : Host.Outcome State Fault Refusal :=
  .next (s.runSlot i fun v =>
    let items := (vtItems i).getD []
    match v.c.tileOff items with
    | some t => .whole {} t v.s
    | none =>
      if v.s.tokensName v.c items then .wait (v.s.setMe { v.c with wait := some .engine })
      else run v)

/-- The physical row of view row i. -/
def VEnv.phys (v : VEnv) (i : Nat) : Nat := v.c.shareBase + i

/-- Every (row, column) of a rows × cols tile, row-major. -/
def cells (rows cols : Nat) : List (Nat × Nat) :=
  (List.range rows).flatMap fun i => (List.range cols).map fun j => (i, j)

/-- The clusters of the span, and for each those whose tiles a memory access of it serves (R229, R233): with S each
cluster's own scratchpad, else one access for all. -/
def VEnv.plan (v : VEnv) (sp : Bool) : List (Nat × List Nat) :=
  if sp then v.c.clusters.map fun cl => (cl, [cl]) else [(v.c.firstCl, v.c.clusters)]

/-! ## Loads (R230 to R232) -/

/-- The fault of an element that reads a poisoned word. -/
def State.elemPoison (s : State) (r : Elem → List Loc) (x : Elem) : Option (Nat × TrapInfo) :=
  ((r x).find? s.locPoison).map fun q => (x.e, poisonTrap q)

/-- The bits of an element of a tile load: from the cluster's own scratchpad, or from memory at the position of the cluster
that holds span lane Lane(e) (R278). -/
def VEnv.tileBits (v : VEnv) (sp : Bool) (x : Elem) (l : List Loc) : Nat :=
  v.loadBitsAt 15 ((if sp then x.cl else (v.c.laneAt (v.laneOf x.e)).1) / 8) x l

/-- Loads located elements into a tile: each item is the cluster of the access, row, column and place. -/
def VEnv.loadTile (v : VEnv) (t b : Nat) (sp : Bool) (place : Nat → Nat → Nat × Nat) (l : List (Nat × Nat))
    (extra : List TileWrite) : SlotRes :=
  let elem := fun (cl : Nat) (p : Nat × Nat) =>
    ({ e := p.1 * 128 + p.2, cl := cl, va := (place p.1 p.2).1, bit := (place p.1 p.2).2, bits := b } : Elem)
  let els := l.flatMap fun p => (v.plan sp).map fun q => elem q.1 p
  let hot := v.c.clusters.flatMap fun cl => l.map (elem cl)
  SlotRes.ofRes (v.s.resolve v.c 0 sp 1 15 els hot) fun r s' =>
    let v' := { v with s := s'.beforeLoad v.c 15 els }
    match lowestFault (r.2 :: els.map (s'.elemPoison r.1)) with
    | some f => .done { fault := some f } s'
    | none => .done { log := { tiles := ((v.plan sp).flatMap fun q => l.flatMap fun p =>
          let x := elem q.1 p
          let w := v'.tileBits sp x (r.1 x)
          q.2.flatMap fun cl => tileWrites cl t (v.phys p.1) b p.2 w) ++ extra } } (v'.s.afterLoad v.c 15 els)

/-- Byte address and first bit of a bit offset from an address. -/
def bitPlace (base : Word) (bit : Nat) : Nat × Nat := ((base + BitVec.ofNat 64 (bit / 8)).toNat, bit % 8)

/-- Row i, element j at X[xa] + i * X[xb] (R230). -/
def VEnv.rowPlace (v : VEnv) (f : VT) (b i j : Nat) : Nat × Nat :=
  bitPlace (v.c.reg f.xa + BitVec.ofNat 64 i * v.c.reg f.xb) (b * j)

/-! ## Signposts (R73 to R75) -/

/-- The layout of a signposted tile from its TCFG: bits, packed columns, start of the index array, index width. -/
structure SignLayout where
  b : Nat
  pc : Nat
  idxAt : Nat
  iw : Nat
  deriving DecidableEq, Repr

/-- Index width of a group size: none for a dense tile, else 2 bits up to M = 4 and 4 bits above (R74). -/
def idxWidth (m : Nat) : Nat := if m ≤ 1 then 0 else if m ≤ 4 then 2 else 4

def signLayout (w : Word) : SignLayout :=
  let b := fmtBits (tcFmt w)
  let pc := tcHeld w
  { b := b, pc := pc, idxAt := (16 + (tcRows w * pc * b + 7) / 8 + 15) / 16 * 16, iw := idxWidth (tcM w) }

/-- The subcode of the first of conditions 1 to 4 that a signpost breaks for a TCFG (R75). -/
def signCheck (w : Word) (l : List Byte) : Option Nat :=
  let b := byteAt l
  let h := fun i => b i + 256 * b (i + 1)
  let n := b 2 % 16
  let fmt := b 2 / 16
  let m := b 3
  let sum := (l.take 12).foldl (fun a x => a + x.toNat) 0
  if leNat ((l.drop 12).take 4) ≠ sum ∨ h 0 ≠ 0x5347 then some 6
  else if !([1, 2, 4, 8, 16].contains m) then some 2
  else if n < 1 ∨ (1 < m ∧ m ≤ n) ∨ (m = 1 ∧ n ≠ 1) then some 1
  else if 4 < fmt ∨ h 4 < 1 ∨ 128 < h 4 ∨ h 6 < 1 ∨ 128 < h 6 ∨ h 6 % m ≠ 0 ∨ h 10 ≠ h 6 * n / m ∨
      b 8 / 4 % 2 ≠ (if 8 ≤ m then 1 else 0) ∨ 8 ≤ b 8 ∨ b 9 ≠ 0 ∨
      fmt ≠ tcFmt w ∨ h 4 ≠ tcRows w ∨ h 6 ≠ tcCols w ∨ n ≠ tcN w ∨ m ≠ tcM w then some 5
  else none

/-- The indices of a group strictly increase. -/
def rising : List Nat → Bool
  | a :: b :: l => decide (a < b) && rising (b :: l)
  | _ => true

/-- The subcode of the first group that breaks condition 5 or 6 (R75). -/
def idxCheck (m n : Nat) : Nat → List Nat → Option Nat
  | 0, _ => none
  | k + 1, l =>
    let g := l.take n
    if g.any fun x => decide (m ≤ x) then some 4
    else if !rising g then some 3
    else idxCheck m n k (l.drop n)

/-- The 16 bytes of the signpost of a TCFG (R73, R233). -/
def signBytes (w : Word) : List Byte :=
  let l := leBytes 2 0x5347 ++ leBytes 1 (tcN w + 16 * tcFmt w) ++ leBytes 1 (tcM w) ++ leBytes 2 (tcRows w) ++
    leBytes 2 (tcCols w) ++
    leBytes 1 ((if tcTR w then 1 else 0) + (if tcFB w then 2 else 0) + (if 8 ≤ tcM w then 4 else 0)) ++ leBytes 1 0 ++
    leBytes 2 (tcHeld w)
  l ++ leBytes 4 (l.foldl (fun a x => a + x.toNat) 0)

/-- SPARSE_META (R75, R231). -/
def sparseMeta (sub : Nat) (base : Word) : TrapInfo := trapOf causeSparseMeta sub base

/-- What a signposted tile in memory holds for one cluster's access: the fault of a poisoned byte, the failing check,
or the flags and indices. -/
structure Signed where
  tr : Bool
  fb : Bool
  idx : List Nat
  deriving DecidableEq, Repr

/-- The elements of a signposted tile: its signpost, its values and its indices. -/
def signElem (base : Word) (cl : Nat) : Elem := { e := 0, cl := cl, va := base.toNat, bit := 0, bits := 128 }
def valElem (y : SignLayout) (base : Word) (cl i p : Nat) : Elem :=
  let q := bitPlace (base + 16) (y.b * (i * y.pc + p))
  { e := i * 128 + p, cl := cl, va := q.1, bit := q.2, bits := y.b }
def idxElem (y : SignLayout) (base : Word) (cl i p : Nat) : Elem :=
  let q := bitPlace (base + BitVec.ofNat 64 y.idxAt) (y.iw * (i * y.pc + p))
  { e := i * 128 + p, cl := cl, va := q.1, bit := q.2, bits := y.iw }

/-- Validates a signposted tile against a TCFG and, where `load`, loads it (R231, R241). -/
def VEnv.signTile (v : VEnv) (t : Nat) (base : Word) (sp load : Bool) : SlotRes :=
  let w := v.c.tc t
  let y := signLayout w
  let pos := cells (tcRows w) y.pc
  let ipos := if y.iw = 0 then [] else pos
  let all := fun (cls : List Nat) => cls.map (signElem base) ++ pos.flatMap fun p => cls.flatMap fun cl =>
    (if load then [valElem y base cl p.1 p.2] else []) ++ if y.iw = 0 then [] else [idxElem y base cl p.1 p.2]
  let els := all ((v.plan sp).map Prod.fst)
  let hot := all v.c.clusters
  SlotRes.ofRes (v.s.resolve v.c 0 sp 1 15 els hot) fun r s' =>
    let v' := { v with s := s'.beforeLoad v.c 15 els }
    let sign := fun cl => let x := signElem base cl
      leBytes 16 (v'.tileBits sp x (r.1 x))
    let indices := fun cl => ipos.map fun p => let x := idxElem y base cl p.1 p.2
      v'.tileBits sp x (r.1 x)
    let broken := fun cl => (signElem base cl :: ipos.map fun p => idxElem y base cl p.1 p.2).any fun x =>
      (s'.elemPoison r.1 x).isSome
    -- refused or poisoned metadata cannot be checked; the first access whose metadata fails decides (log entry 82)
    let check := if r.2.isSome then none else ((v.plan sp).findSome? fun q =>
      if broken q.1 then some none
      else ((signCheck w (sign q.1)).or (idxCheck (tcM w) (tcN w) (tcRows w * (tcCols w / tcM w)) (indices q.1))).map some).join
    match check, lowestFault (r.2 :: els.map (s'.elemPoison r.1)) with
    | some sub, _ => .whole {} (sparseMeta sub base) s'
    | none, some f => .done { fault := some f } s'
    | none, none =>
        if !load then .done {} (v'.s.afterLoad v.c 15 els)
        else .done { log := { tiles := (v.plan sp).flatMap fun q =>
          let fl := byteAt (sign q.1) 8
          let ix := indices q.1
          (pos.flatMap fun p => let x := valElem y base q.1 p.1 p.2
            q.2.flatMap fun cl => tileWrites cl t (v.phys p.1) y.b p.2 (v'.tileBits sp x (r.1 x))) ++
          ((ipos.zip ix).flatMap fun p =>
            q.2.map fun cl => .idx (idxKey cl t (v.phys p.1.1) p.1.2) (BitVec.ofNat 4 p.2)) ++
          [.flags t (fl % 2 == 1) (fl / 2 % 2 == 1)] } } (v'.s.afterLoad v.c 15 els)

/-- tld (R230), and tld.p (R231) where fn[0] is set. -/
def State.tldOp (s : State) (f : VT) : Host.Outcome State Fault Refusal :=
  let t := f.td.toNat
  let sp := f.fn.getLsbD 1
  s.runTile (.tld f) fun v =>
    let w := v.c.tc t
    if f.fn.getLsbD 0 then v.signTile t (v.c.reg f.xa) sp true
    else if 1 < tcM w then .whole {} (tileShape 3 t) v.s
    else v.loadTile t (fmtBits (tcFmt w)) sp (v.rowPlace f (fmtBits (tcFmt w))) (cells (tcRows w) (tcCols w))
      [.flags t false false]

def execTld (f : VT) (s : State) := s.tldOp f
def execTldP (f : VT) (s : State) := s.tldOp { f with fn := f.fn ||| 1 }

/-- tldt (R232): element (i, j) from X[xa] + j * X[xb] + i * b / 8. -/
def execTldt (f : VT) (s : State) : Host.Outcome State Fault Refusal :=
  let t := f.td.toNat
  s.runTile (.tldt f) fun v =>
    let w := v.c.tc t
    let b := fmtBits (tcFmt w)
    if 1 < tcM w then .whole {} (tileShape 3 t) v.s
    else v.loadTile t b (f.fn.getLsbD 1)
      (fun i j => bitPlace (v.c.reg f.xa + BitVec.ofNat 64 j * v.c.reg f.xb) (b * i)) (cells (tcRows w) (tcCols w))
      [.flags t false false]

/-- The faults of a slot as those of a whole instruction, without an element. -/
def SlotRes.noElem (r : SlotRes) : SlotRes :=
  match r with
  | .done a s => match a.fault with
    | some (_, t) => .whole {} { t with elem := none } s
    | none => .done a s
  | .whole g t s => .whole g { t with elem := none } s
  | .ask q s => .ask { q with elem := none } s
  | .wait s => .wait s

/-- tsigck: its faults leave EELEM (R241) (log entry 82). -/
def execTsigck (f : VT) (s : State) : Host.Outcome State Fault Refusal :=
  s.runTile (.tsigck f) fun v => (v.signTile f.td.toNat (v.c.reg f.xa) (f.fn.getLsbD 1) false).noElem

/-! ## Stores (R233) -/

/-- tst: every spanned cluster's tile, in ascending order of the clusters. -/
def execTst (f : VT) (s : State) : Host.Outcome State Fault Refusal :=
  let t := f.ta.toNat
  let sp := f.fn.getLsbD 1
  let p := f.fn.getLsbD 0
  s.runTile (.tst f) fun v =>
    let w := v.c.tc t
    let y := signLayout w
    let base := v.c.reg f.xa
    let pos := cells (tcRows w) (if p then y.pc else tcCols w)
    let ipos := if p && decide (y.iw ≠ 0) then pos else []
    let read := v.c.clusters.flatMap fun cl =>
      (List.range (tcRows w)).flatMap fun i =>
        (cl, t, v.phys i) :: if ipos.isEmpty then [] else [(cl, 12 + t, v.phys i)]
    match v.s.tileUe read with
    | some u => .whole {} u v.s
    | none =>
      let val : Nat → Nat × Nat → Elem := fun cl q =>
        if p then valElem y base cl q.1 q.2
        else
          let a := v.rowPlace f y.b q.1 q.2
          { e := q.1 * 128 + q.2, cl := cl, va := a.1, bit := a.2, bits := y.b }
      let items : Nat → List (Elem × Nat) := fun cl =>
        (if p then [(signElem base cl, leNat (signBytes w))] else []) ++
        (pos.map fun q => (val cl q, v.s.tileElem cl t (v.phys q.1) y.b q.2)) ++
        (ipos.map fun q => (idxElem y base cl q.1 q.2, v.s.idxAt cl t (v.phys q.1) q.2))
      let l := v.c.clusters.flatMap items
      let els := (if p then v.c.clusters.map (signElem base) else []) ++ pos.flatMap fun q => v.c.clusters.flatMap fun cl =>
        val cl q :: if ipos.isEmpty then [] else [idxElem y base cl q.1 q.2]
      SlotRes.ofRes (v.s.resolve v.c 1 sp 1 15 els els) fun r s' =>
        .done ({ v with s := s' }.storeAcc r.2 (l.map fun (x : Elem × Nat) => (x.1, r.1 x.1, x.2)) fun _ => []) s'

/-- tzero (R234): the whole view of the tile, and for a packed tile its index pattern (log entry 50). -/
def execTzero (f : VT) (s : State) : Host.Outcome State Fault Refusal :=
  let t := f.td.toNat
  s.runTile (.tzero f) fun v =>
    let w := v.c.tc t
    let idx := if tcM w ≤ 1 then [] else cells v.c.shareRows 128
    let writes := v.c.clusters.flatMap fun cl =>
      TileWrite.clear (tileKey cl t (v.phys 0) 0) (256 * v.c.shareRows) ::
      idx.map fun p => TileWrite.idx (idxKey cl t (v.phys p.1) p.2) (BitVec.ofNat 4 (p.2 % tcN w))
    .done { log := { tiles := writes } } v.s

/-! ## Moves (R235, R236) -/

/-- Rows and columns of an item: an accumulator, or a tile with the columns it holds. -/
def Ctx.itemSize (c : Ctx) (acc : Bool) (n : Nat) : Nat × Nat :=
  if acc then (c.shareRows, 128) else (tcRows (c.tc n), tcHeld (c.tc n))

/-- Cluster, row and column of element e of a move; `col` for vtcol and vcolt. -/
def VEnv.movePlace (v : VEnv) (col : Bool) (x : Nat) (e : Nat) : Nat × Nat × Nat :=
  if col then ((v.c.laneAt (v.laneOf e)).1, v.laneOf e % 128, x + v.row e) else (v.c.firstCl, x, e)

/-- An accumulator entry as an element of the vector (R236); in FP32 mode one whose low 8 bits are not 0 rounds (log
entry 96). -/
def accOut (mode w x : Nat) : Nat × FpFlags :=
  if w = 10 then (x, 0)
  else if 2 ≤ mode then (narrow true true 32 (intOf true 40 x), 0)
  else if mode = 0 ∧ x % 256 = 0 then (x / 256, 0)
  else roundF .fp32 0 (decodeF .acc40 x)

/-- A vector element as an accumulator entry (R236). -/
def accIn (mode w x : Nat) : Nat × FpFlags :=
  if 2 ≤ mode then ((if w = 10 then x else wrapTo 40 (intOf true 32 x)), 0)
  else if w = 8 then (x * 256, 0)
  else if mode = 1 then (x, 0)
  else
    let r := roundF .fp32 0 (decodeF .acc40 x)
    (r.1 * 256, r.2)

/-- The active elements of a move that lie inside the item. -/
def VEnv.moveElems (v : VEnv) (f : VT) (n : Nat) (acc col : Bool) : List Nat :=
  let size := v.c.itemSize acc n
  (v.actives f.pred).filter fun e =>
    let p := (v.movePlace col (v.c.reg f.xa).toNat e).2
    decide (p.1 < size.1) && decide (p.2 < size.2)

/-- vtrow and vtcol: the item's entries into the vector. -/
def VEnv.moveOut (v : VEnv) (f : VT) (col : Bool) : SlotRes :=
  let acc := f.fn.getLsbD 0
  let n := f.ta.toNat
  let es := v.moveElems f n acc col
  let place := v.movePlace col (v.c.reg f.xa).toNat
  match v.s.tileUe (es.map fun e => ((place e).1, (if acc then 8 + n else n), v.phys (place e).2.1)) with
  | some u => .whole {} u v.s
  | none =>
    let a := es.foldl (v.elem (.slices f.vec) f.pred false (fun _ => []) fun _ e =>
      let p := place e
      .ok (if acc then accOut (v.c.accMode n) f.vec.w (v.s.accAt p.1 n (v.phys p.2.1) p.2.2)
        else (v.s.tileElem p.1 n (v.phys p.2.1) (fmtBits (tcFmt (v.c.tc n))) p.2.2, 0))) {}
    .done (v.close (some f.vec) a) v.s

/-- vrowt and vcolt: the vector's elements into the item. -/
def VEnv.moveIn (v : VEnv) (f : VT) (col : Bool) : SlotRes :=
  let acc := f.fn.getLsbD 0
  let n := f.td.toNat
  let es := v.moveElems f n acc col
  let place := v.movePlace col (v.c.reg f.xa).toNat
  let conv := fun e => accIn (v.c.accMode n) f.vec.w (v.get f.vec e)
  let bad := es.findSome? fun e =>
    match v.poisonCheck [(f.vec, e)] none with
    | some t => some (e, t)
    | none => if acc && decide ((conv e).2 &&& v.c.enables ≠ 0) then some (e, fpExc (conv e).2) else none
  let writes := fun e =>
    let p := place e
    if acc then [TileWrite.acc (accKey p.1 n (v.phys p.2.1) p.2.2) (BitVec.ofNat 40 (conv e).1)]
    else tileWrites p.1 n (v.phys p.2.1) (fmtBits (tcFmt (v.c.tc n))) p.2.2 (v.get f.vec e)
  match bad with
  | some f => .done { fault := some f } v.s
  | none => .done { log := {
      tiles := es.flatMap writes
      flags := if acc then (es.filter fun e => decide ((conv e).2 ≠ 0)).map fun e => (e, (conv e).2) else [] } } v.s

def execVtrow (f : VT) (s : State) := s.runTile (.vtrow f) fun v => v.moveOut f false
def execVtcol (f : VT) (s : State) := s.runTile (.vtcol f) fun v => v.moveOut f true
def execVrowt (f : VT) (s : State) := s.runTile (.vrowt f) fun v => v.moveIn f false
def execVcolt (f : VT) (s : State) := s.runTile (.vcolt f) fun v => v.moveIn f true

/-! ## Pruning (R237, R238) -/

/-- The rank of a value by magnitude, as a number that rises with it: a NaN or NaR above all, zeros equal. -/
def magRank (fmt x : Nat) : Nat :=
  match fmt with
  | 0 => if 0x7F80 < x % 2 ^ 15 then 2 ^ 15 else x % 2 ^ 15
  | 1 => if x = 0x80 then 2 ^ 7 else x % 2 ^ 7
  | 2 => if x = 0x20 then 2 ^ 5 else x % 2 ^ 5
  | 3 => (intOf true 8 x).natAbs
  | _ => (intOf true 4 x).natAbs

/-- The n indices of greatest magnitude of a group, ascending; the lower index wins a tie (R237). -/
def keepBest (n : Nat) (mags : List Nat) : List Nat :=
  let rank := fun i => (mags.zipIdx.filter fun p =>
    decide (mags.getD i 0 < p.1) || (decide (p.1 = mags.getD i 0) && decide (p.2 < i))).length
  (List.range mags.length).filter fun i => decide (rank i < n)

/-- A block's accepted entries as (row, column) pairs. -/
abbrev Pattern := List (Nat × Nat)

def Pattern.inRow (p : Pattern) (r : Nat) : Nat := (p.filter fun q => decide (q.1 = r)).length
def Pattern.inCol (p : Pattern) (c : Nat) : Nat := (p.filter fun q => decide (q.2 = c)).length

/-- Inserts an entry in order of magnitude descending, ties by r * M + c ascending. -/
def insertMag (mag : Nat × Nat → Nat) (m : Nat) (x : Nat × Nat) : List (Nat × Nat) → List (Nat × Nat)
  | [] => [x]
  | y :: l =>
    if mag y < mag x ∨ (mag y = mag x ∧ x.1 * m + x.2 < y.1 * m + y.2) then x :: y :: l
    else y :: insertMag mag m x l

/-- The greedy pass of R238. -/
def greedy (n : Nat) : List (Nat × Nat) → Pattern → Pattern
  | [], p => p
  | x :: l, p => greedy n l (if p.inRow x.1 < n ∧ p.inCol x.2 < n then x :: p else p)

/-- One step of the repair of row r; `none` asks for the band pattern. -/
def repairStep (m n r : Nat) (p : Pattern) : Option Pattern :=
  match (List.range m).find? fun c => decide (p.inCol c < n) with
  | none => none
  | some c =>
    if !p.contains (r, c) then some ((r, c) :: p)
    else
      let pick := (List.range m).findSome? fun c2 =>
        if p.contains (r, c2) then none
        else some (c2, (List.range m).find? fun r2 => p.contains (r2, c2) && !p.contains (r2, c))
      match pick with
      | some (c2, some r2) => some ((r2, c) :: (r, c2) :: p.filter fun q => decide (q ≠ (r2, c2)))
      | _ => none

/-- Repairs row r until it holds n entries. -/
def repairRow (m n r : Nat) : Nat → Pattern → Option Pattern
  | 0, p => some p
  | k + 1, p => if n ≤ p.inRow r then some p else (repairStep m n r p).bind (repairRow m n r k)

/-- The band pattern. -/
def band (m n : Nat) : Pattern := (cells m m).filter fun p => decide ((p.2 + m - p.1) % m < n)

/-- The pattern of a block and whether it is the band (R238). -/
def blockPattern (m n : Nat) (mag : Nat × Nat → Nat) : Pattern × Bool :=
  let order := (cells m m).foldl (fun l x => insertMag mag m x l) []
  let p := greedy n order []
  match (List.range m).foldl (fun q r => q.bind (repairRow m n r n)) (some p) with
  | some q => (q, false)
  | none => (band m n, true)

/-- Writes a row of packed values and indices. -/
def packRow (cl t row b : Nat) (vals : List (Nat × Nat)) : List TileWrite :=
  vals.zipIdx.flatMap fun p => tileWrites cl t row b p.2 p.1.2 ++ [.idx (idxKey cl t row p.2) (BitVec.ofNat 4 p.1.1)]

/-- tprune by fn: plain, or `.t` where fn = 001. -/
def State.prune (s : State) (f : VT) : Host.Outcome State Fault Refusal :=
  let d := f.td.toNat
  let a := f.ta.toNat
  s.runTile (.tprune f) fun v =>
    let wd := v.c.tc d
    let wa := v.c.tc a
    let m := tcM wd
    let n := tcN wd
    let b := fmtBits (tcFmt wa)
    let trans := decide (f.fn = 1)
    let rows := tcRows wa
    if tcM wa ≠ 1 then .whole {} (tileShape 5 a) v.s
    else if m ≤ 1 ∨ rows ≠ tcRows wd ∨ tcCols wa ≠ tcCols wd ∨ tcFmt wa ≠ tcFmt wd ∨ tcCols wa % m ≠ 0 then
      .whole {} (tileShape 5 d) v.s
    else if trans ∧ rows % m ≠ 0 then .whole {} (tileShape 6 d) v.s
    else match v.s.tileUe (v.c.clusters.flatMap fun cl => (List.range rows).map fun i => (cl, a, v.phys i)) with
    | some u => .whole {} u v.s
    | none =>
      let val := fun cl i j => v.s.tileElem cl a (v.phys i) b j
      let groups := tcCols wa / m
      let block := fun cl bi g => blockPattern m n fun p => magRank (tcFmt wa) (val cl (bi * m + p.1) (g * m + p.2))
      let kept := fun cl i g =>
        if trans then
          let p := (block cl (i / m) g).1
          (List.range m).filter fun c => p.contains (i % m, c)
        else keepBest n ((List.range m).map fun c => magRank (tcFmt wa) (val cl i (g * m + c)))
      let fb := trans && v.c.clusters.any fun cl => (cells (rows / m) groups).any fun p => (block cl p.1 p.2).2
      .done { log := { tiles := (v.c.clusters.flatMap fun cl => (List.range rows).flatMap fun i =>
        packRow cl d (v.phys i) b ((List.range groups).flatMap fun g =>
          (kept cl i g).map fun c => (c, val cl i (g * m + c)))) ++ [.flags d trans fb] } } v.s

def execTprune (f : VT) (s : State) := s.prune f
def execTpruneT (f : VT) (s : State) := s.prune { f with fn := 1 }

/-! ## tpackt and tunpack (R239, R240) -/

/-- The dense column of packed value p of row i. -/
def State.packedCol (s : State) (cl t row m n p : Nat) : Nat := p / n * m + s.idxAt cl t row p

/-- tpackt. -/
def execTpackt (f : VT) (s : State) : Host.Outcome State Fault Refusal :=
  let d := f.td.toNat
  let a := f.ta.toNat
  s.runTile (.tpackt f) fun v =>
    let wd := v.c.tc d
    let wa := v.c.tc a
    let m := tcM wa
    let n := tcN wa
    let b := fmtBits (tcFmt wa)
    let rows := tcRows wa
    if !tcTR wa then .whole {} (tileShape 6 a) v.s
    else if tcRows wd ≠ tcCols wa ∨ tcCols wd ≠ rows ∨ tcN wd ≠ n ∨ tcM wd ≠ m ∨ tcFmt wd ≠ tcFmt wa then
      .whole {} (tileShape 5 d) v.s
    else if rows % m ≠ 0 then .whole {} (tileShape 6 a) v.s
    else match v.s.tileUe (v.c.clusters.flatMap fun cl => (List.range rows).flatMap fun i =>
        [(cl, a, v.phys i), (cl, 12 + a, v.phys i)]) with
    | some u => .whole {} u v.s
    | none =>
      -- the accepted entries of column k: (row, value), rows ascending
      let col := fun cl k => (List.range rows).flatMap fun i =>
        ((List.range (tcHeld wa)).filter fun p => decide (v.s.packedCol cl a (v.phys i) m n p = k)).map fun p =>
          (i % m, v.s.tileElem cl a (v.phys i) b p)
      .done { log := { tiles := (v.c.clusters.flatMap fun cl => (List.range (tcCols wa)).flatMap fun k =>
        packRow cl d (v.phys k) b (col cl k)) ++ [.flags d true (tcFB wa)] } } v.s

/-- tunpack. -/
def execTunpack (f : VT) (s : State) : Host.Outcome State Fault Refusal :=
  let d := f.td.toNat
  let a := f.ta.toNat
  s.runTile (.tunpack f) fun v =>
    let wd := v.c.tc d
    let wa := v.c.tc a
    let b := fmtBits (tcFmt wa)
    let rows := tcRows wa
    if tcM wd ≠ 1 ∨ tcFmt wd ≠ tcFmt wa ∨ tcRows wd ≠ rows ∨ tcCols wd ≠ tcCols wa then
      .whole {} (tileShape 5 d) v.s
    else match v.s.tileUe (v.c.clusters.flatMap fun cl => (List.range rows).flatMap fun i =>
        (cl, a, v.phys i) :: if 1 < tcM wa then [(cl, 12 + a, v.phys i)] else []) with
    | some u => .whole {} u v.s
    | none =>
      .done { log := { tiles := (v.c.clusters.flatMap fun cl => (List.range rows).flatMap fun i =>
        ((List.range (tcCols wa)).flatMap fun j => tileWrites cl d (v.phys i) b j 0) ++
        (List.range (tcHeld wa)).flatMap fun p =>
          let j := if tcM wa ≤ 1 then p else v.s.packedCol cl a (v.phys i) (tcM wa) (tcN wa) p
          if j < tcCols wa then tileWrites cl d (v.phys i) b j (v.s.tileElem cl a (v.phys i) b p) else []) ++
        [.flags d false false] } } v.s

end Sys2Proof.Machine
end

