-- ==== Sys2Proof/Machine/Matrix.lean ====
section
/-! DEFINITION. Matrix tokens: dispatch with its checks, the latency rule, and the effect of a completed token (R219 to R228,
R65, R66, R226, R414, R416). -/

namespace Sys2Proof.Machine

/-- Relative time per dense step of a format, in quarters of a cycle (R227). -/
def fmtQuarters (fmt : Nat) : Nat := if fmt = 0 then 4 else if fmt = 1 ∨ fmt = 3 then 2 else 1

/-- Operations of a token: 0 mma, 1 mms, 2 zacc, 3 rnd; ta is the target of rnd. -/
def Token.items (t : Token) : List Nat :=
  if t.op.toNat ≤ 1 then [t.ta, t.tb, 8 + t.acc] else if t.op.toNat = 2 then [8 + t.acc] else [t.ta, 8 + t.acc]

/-- A null token completes when it is dispatched and writes nothing: MXM = 0 or MXN = 0 (but for mx.zacc), or a product
with MXK = 0 (R226). -/
def isNull (op : BitVec 3) (m n k : Nat) : Bool :=
  decide (op.toNat ≠ 2) && (decide (m = 0) || decide (n = 0) || (decide (op.toNat ≤ 1) && decide (k = 0)))

/-- Stream length and fill in cycles (R227). -/
def Token.stream (t : Token) : Nat × Nat :=
  let f := max (fmtQuarters (tcFmt t.fmtA)) (fmtQuarters (tcFmt t.fmtB))
  match t.op.toNat with
  | 0 => ((t.k * f + 3) / 4, 24)
  | 1 => ((t.k / tcM t.fmtA * max (tcN t.fmtA) ((tcM t.fmtA + 3) / 4) * f + 3) / 4, 24)
  | 2 => (0, 8)
  | _ => (t.m, 8)

/-- An integer tile format. -/
def intFmt (fmt : Nat) : Bool := decide (3 ≤ fmt)

/-- The first failing shape check of a product (R223): subcode and item. -/
def mmaShape (sparse : Bool) (wa wb : Word) (ta tb acc mode m n k : Nat) : Option (Nat × Nat) :=
  let ia := intFmt (tcFmt wa)
  let ib := intFmt (tcFmt wb)
  if tcRows wa < m ∨ tcCols wa < k then some (1, ta)
  else if tcRows wb < k ∨ tcCols wb < n then some (1, tb)
  else if ia != ib then some (2, tb)
  else if ia != decide (2 ≤ mode) then some (2, 8 + acc)
  else if sparse = decide (tcM wa ≤ 1) then some (3, ta)
  else if 1 < tcM wb then some (3, tb)
  else if sparse ∧ k % tcM wa ≠ 0 then some (4, ta)
  else none

/-- The first failing shape check of mx.rnd (R223). -/
def rndShape (wd : Word) (td mode : Nat) : Option (Nat × Nat) :=
  if intFmt (tcFmt wd) != decide (2 ≤ mode) then some (2, td)
  else if 1 < tcM wd then some (3, td)
  else none

/-- The milestone of a node's command-channel configuration (R314, R414): bytes 60 to 63 of its record. -/
def nodeMs (k : CmdChan) : Option MsName :=
  let w := leNat ((k.cfg.drop 60).take 4)
  if w / 2 ^ 15 % 2 = 1 then some { num := w % 2 ^ 12, pkg := decide (w / 2 ^ 12 % 2 = 1) } else none

/-- A completed token counts, and arrives on the milestone of the node's configuration (R226, R414, R416). -/
def State.tokenDone (s : State) (cl share sid : Nat) : State :=
  let c := s.clAt cl
  let n := smGet ({} : Node) c.nodes share
  let s := s.setCl cl { c with nodes := smPut share { n with completed := n.completed + 1 } c.nodes }
  let s := s.perfCount cl 0x06 ((s.ctxOf sid).map fun n => (s.ctxAt n).pasid) 1
  match c.nodeCmd with
  | none => s
  | some k => match nodeMs k with
    | none => s
    | some ms => s.arrive cl ms (some k.sid)

/-- The share of a cluster's matrix node. -/
def State.nodeAt (s : State) (cl share : Nat) : Node := smGet ({} : Node) (s.clAt cl).nodes share

/-- The cycle at which a token dispatched now starts: its nodes run in lockstep, so it waits for the last of their streams
(R227). -/
def State.streamStart (s : State) (cls : List Nat) (share : Nat) : Nat :=
  cls.foldl (fun m cl => max m (s.nodeAt cl share).streamEnd) s.cycle

/-- Dispatches a token that starts at a cycle on one node: it joins the FIFO, or, a null token, completes at once. -/
def State.pushToken (start share : Nat) (t : Token) (s : State) (cl : Nat) : State :=
  let c := s.clAt cl
  let n := s.nodeAt cl share
  let n := { n with dispatched := n.dispatched + 1 }
  if t.null then (s.setCl cl { c with nodes := smPut share n c.nodes }).tokenDone cl share t.sid
  else
    let st := t.stream
    let n' := { n with fifo := n.fifo ++ [{ t with doneAt := start + st.1 + st.2 }], streamEnd := start + st.1 }
    s.setCl cl { c with nodes := smPut share n' c.nodes }

/-- Dispatches a token on the nodes of its span. -/
def State.dispatch (s : State) (share : Nat) (t : Token) : State :=
  t.span.foldl (State.pushToken (s.streamStart t.span share) share { t with num := s.nextId }) { s with nextId := s.nextId + 1 }

/-- The latency that MXLAT receives (R227). -/
def State.tokenLatency (s : State) (share : Nat) (t : Token) : Nat :=
  if t.null then 0 else s.streamStart t.span share + t.stream.1 + t.stream.2 - s.cycle

/-- The share's FIFO of some spanned node is full: 16 tokens (R221). -/
def State.nodesFull (s : State) (c : Ctx) : Bool :=
  c.clusters.any fun cl => decide (16 ≤ (smGet ({} : Node) (s.clAt cl).nodes c.shareNo).fifo.length)

/-- The token that an mx instruction or a matrix command makes, with the values in force (R221, R224, R225). -/
def Ctx.token (c : Ctx) (ctx : Nat) (op : BitVec 3) (acc ta tb : Nat) (rm : BitVec 3) (m n k : Nat) : Token :=
  { op := op, acc := acc, ta := ta, tb := tb, rm := if rm = 5 then c.dyn else rm, m := m, n := n, k := k,
    null := isNull op m n k, doneAt := 0, sid := c.sid, ctx := ctx, span := c.clusters, lowRow := c.shareBase, rows := c.shareRows, fmtA := c.tc ta,
    fmtB := if op.toNat ≤ 1 then c.tc tb else c.tc ta, accfmt := c.accfmt }

/-- The checks before dispatch (R214, R219, R223), against TCFG as it then stands, also where an mx.rnd in flight will
change a shape (log entry 81). -/
def Ctx.tokenCheck (c : Ctx) (t : Token) : Option TrapInfo :=
  match c.tileOff t.items with
  | some x => some x
  | none =>
    if t.m = 0 ∨ t.n = 0 ∨ t.op.toNat = 2 then none
    else
      let mode := c.accMode t.acc
      let r := if t.op.toNat ≤ 1 then mmaShape (t.op.toNat == 1) t.fmtA t.fmtB t.ta t.tb t.acc mode t.m t.n t.k
        else rndShape t.fmtA t.ta mode
      r.map fun p => tileShape p.1 p.2

/-- An mx instruction but for mx.settl: it traps, waits for FIFO room, or dispatches its token on every spanned node, which is
a release (R284). -/
def State.mxOp (s : State) (op : BitVec 3) (acc ta tb : Nat) (rm : BitVec 3) : Host.Outcome State Fault Refusal :=
  let c := s.me
  let t := c.token s.cur op acc ta tb rm c.mxm.toNat c.mxn.toNat c.mxk.toNat
  match c.tokenCheck t with
  | some x => .next (s.enterTrap s.cur x c.pc)
  | none =>
    if s.nodesFull c then .next s.block
    else
      let lat := s.tokenLatency c.shareNo t
      let s := s.setMe { c with mxlat := BitVec.ofNat 64 (lat % 2 ^ 16) }
      .next (((s.releasePackage s.cur).dispatch c.shareNo t).pass)

def execMxMma (acc : BitVec 2) (ta tb : BitVec 3) (s : State) := s.mxOp 0 acc.toNat ta.toNat tb.toNat 0
def execMxMms (acc : BitVec 2) (ta tb : BitVec 3) (s : State) := s.mxOp 1 acc.toNat ta.toNat tb.toNat 0
def execMxZacc (acc : BitVec 2) (s : State) := s.mxOp 2 acc.toNat 0 0 0
def execMxRnd (td : BitVec 3) (acc : BitVec 2) (rm : BitVec 3) (s : State) := s.mxOp 3 acc.toNat td.toNat 0 rm

/-- The smaller of a register's value and a bound. -/
def capWord (v : Word) (n : Nat) : Word := BitVec.ofNat 64 (min v.toNat n)

/-- mx.settl (R222): the three registers are read first, then written in the order written. -/
def execMxSettl (xm xn xk : XReg) (s : State) : Host.Outcome State Fault Refusal :=
  let c := s.me
  if c.share = 0 then .next (s.trap causeTileOff 1 0)
  else
    let cap := c.shareRows
    let m := capWord (c.reg xm) cap
    let n := capWord (c.reg xn) 128
    let k := capWord (c.reg xk) cap
    let c := ((c.setReg xm m).setReg xn n).setReg xk k
    .next (s.setMe ({ c with mxm := m, mxn := n, mxk := k }.advance))

/-! ## Completion (R224, R225) -/

/-- The exact value of a tile element: float, or an integer. -/
def tileVal (fmt x : Nat) : FVal :=
  match fmt with
  | 0 => decodeF .bf16 x
  | 1 => decodeF .t8 x
  | 2 => decodeF .t6 x
  | 3 => ofIntF (intOf true 8 x)
  | _ => ofIntF (intOf true 4 x)

/-- One accumulation step (R65): exact product, one RNE rounding into the accumulator's mode. -/
def accum (mode fa fb s a b : Nat) : Nat :=
  if 2 ≤ mode then
    int40Add (mode == 3) s (intOf true (fmtBits fa) a * intOf true (fmtBits fb) b)
  else (accRound 0 (mode == 1) (sumOfProducts false [(tileVal fa a, tileVal fb b)] [decodeF .acc40 s]).1).1

/-- The steps of a token for row i: (packed position or column of A, row of B). -/
def State.tokenSteps (s : State) (cl : Nat) (t : Token) (i : Nat) : List (Nat × Nat) :=
  if t.op.toNat = 0 then (List.range t.k).map fun k => (k, k)
  else
    let mg := tcM t.fmtA
    let ng := tcN t.fmtA
    ((List.range (t.k / mg * ng)).map fun p => (p, p / ng * mg + s.idxAt cl t.ta (t.lowRow + i) p)).filter fun q =>
      decide (q.2 < t.k)

/-- The accumulator entry (i, j) after a product. -/
def State.tokenEntry (s : State) (cl : Nat) (t : Token) (steps : List (Nat × Nat)) (i j : Nat) : Nat :=
  let mode := t.accfmt.toNat / 4 ^ t.acc % 4
  let fa := tcFmt t.fmtA
  let fb := tcFmt t.fmtB
  steps.foldl (fun acc q =>
    accum mode fa fb acc (s.tileElem cl t.ta (t.lowRow + i) (fmtBits fa) q.1)
      (s.tileElem cl t.tb (t.lowRow + q.2) (fmtBits fb) j)) (s.accAt cl t.acc (t.lowRow + i) j)

/-- The value that mx.rnd writes (R225). -/
def rndValue (mode fmt : Nat) (rm : BitVec 3) (x : Nat) : Nat :=
  if 2 ≤ mode then narrow true true (fmtBits fmt) (intOf true 40 x)
  else
    let r := modeOf rm 0
    let v := decodeF .acc40 x
    (match fmt with
     | 0 => roundF .bf16 r v
     | 1 => roundF .t8 r v
     | _ => roundF .t6 r v).1

/-- The rows that a token reads, as (cluster, item, physical row). -/
def Token.reads (t : Token) (cl : Nat) : List (Nat × Nat × Nat) :=
  let rows := fun (item n : Nat) => (List.range n).map fun i => (cl, item, t.lowRow + i)
  match t.op.toNat with
  | 0 => rows t.ta t.m ++ rows t.tb t.k ++ rows (8 + t.acc) t.m
  | 1 => rows t.ta t.m ++ rows (12 + t.ta) t.m ++ rows t.tb t.k ++ rows (8 + t.acc) t.m
  | 2 => []
  | _ => rows (8 + t.acc) t.m

/-- The writes of a token on one cluster. -/
def State.tokenWrites (s : State) (cl : Nat) (t : Token) : List TileWrite :=
  match t.op.toNat with
  | 0 => prod
  | 1 => prod
  | 2 => (cells t.rows 128).map fun p => .acc (accKey cl t.acc (t.lowRow + p.1) p.2) 0
  | _ =>
    let mode := t.accfmt.toNat / 4 ^ t.acc % 4
    (cells t.m t.n).flatMap fun p =>
      tileWrites cl t.ta (t.lowRow + p.1) (fmtBits (tcFmt t.fmtA)) p.2
        (rndValue mode (tcFmt t.fmtA) t.rm (s.accAt cl t.acc (t.lowRow + p.1) p.2))
where
  prod : List TileWrite := (List.range t.m).flatMap fun i =>
    let steps := s.tokenSteps cl t i
    (List.range t.n).map fun j =>
      .acc (accKey cl t.acc (t.lowRow + i) j) (BitVec.ofNat 40 (s.tokenEntry cl t steps i j))

/-- The TCFG fields that mx.rnd sets (R225). -/
def State.rndShapeSet (s : State) (t : Token) : State :=
  match s.ctxOf t.sid with
  | none => s
  | some n => if t.op.toNat = 3 then (s.applyTile n (.shape t.ta t.m t.n)).applyTile n (.flags t.ta false false) else s

/-- The token heads the FIFO of one of its nodes, and its completion time is reached. -/
def State.headDue (s : State) (share : Nat) (t : Token) (cl : Nat) : Bool :=
  match (s.nodeAt cl share).fifo with
  | h :: _ => h.num == t.num && decide (h.doneAt ≤ s.cycle)
  | [] => false

/-- The token leaves the FIFO of one of its nodes. -/
def State.popToken (share : Nat) (s : State) (cl : Nat) : State :=
  let c := s.clAt cl
  let n := s.nodeAt cl share
  s.setCl cl { c with nodes := smPut share { n with fifo := n.fifo.tail } c.nodes }

/-- The outputs of a token that met no poisoned row: those of each of its nodes, and the TCFG fields. -/
def State.tokenOutputs (s : State) (t : Token) : State :=
  (t.span.foldl (fun s cl => s.applyTiles t.ctx (s.tokenWrites cl t)) s).rndShapeSet t

/-- Completes a token on all of its nodes: a token that meets a poisoned row on any of them writes nothing anywhere and
reports HW_UE to its strand asynchronously (R214) (log entry 81). -/
def State.completeToken (s : State) (share : Nat) (t : Token) : State :=
  let s := t.span.foldl (State.popToken share) s
  let s := match s.tileUe (t.span.flatMap t.reads) with
    | some u => match s.ctxOf t.sid with
      | some k => s.due k u
      | none => s
    | none => s.tokenOutputs t
  t.span.foldl (fun s cl => s.tokenDone cl share t.sid) s

/-- A matrix token reaches its completion time on every node of its span, which run in lockstep: its writes take effect,
and it counts (R227). -/
def execMxTokenComplete (cluster share : Nat) (s : State) : Host.Outcome State Fault Refusal :=
  match (s.nodeAt cluster share).fifo with
  | [] => .next s
  | t :: _ => .next (if t.span.all (s.headDue share t) then s.completeToken share t else s)

end Sys2Proof.Machine
end

