-- ==== Sys2Proof/Machine/Engines.lean ====
section
/-! DEFINITION. The butterfly pipe, the copy engines, command channels, the channel watchdog and the return from a trap
(R67 to R72, R310, R321 to R330, R162). -/

namespace Sys2Proof.Machine

/-! ## The pass record (R322) -/

/-- A pass record's fields. -/
def bpFmt (l : List Byte) : Nat := byteAt l 0 % 4
def bpK (l : List Byte) : Nat := byteAt l 1
def bpBatch (l : List Byte) : Nat := fieldAt l 2 2 + 1
def bpElems (l : List Byte) : Nat := bpBatch l * 2 ^ bpK l
def bpStages (l : List Byte) : Nat := byteAt l 4
def bpOrder (l : List Byte) : Nat := byteAt l 6 % 4
def bpA (l : List Byte) : Nat := byteAt l 6 / 16
def bpPost (l : List Byte) : Nat := byteAt l 7
def bpIn (l : List Byte) : Nat := fieldAt l 16 4
def bpInE (l : List Byte) : Nat := fieldAt l 20 4
def bpOut (l : List Byte) : Nat := fieldAt l 24 4
def bpOutE (l : List Byte) : Nat := fieldAt l 28 4
def bpBytes (l : List Byte) : Nat := if bpFmt l = 2 then 8 else 4

/-- A stage: bit j, mode, growth, table offset, shift. -/
structure Stage where
  j : Nat
  mode : Nat
  g : Nat
  u : Nat
  h : Nat
  deriving DecidableEq, Repr

def stageAt (l : List Byte) (s : Nat) : Stage :=
  let b := byteAt l (33 + 4 * s)
  let w := fieldAt l (34 + 4 * s) 2
  { j := byteAt l (32 + 4 * s), mode := b % 4, g := b / 4 % 4, u := w % 2 ^ 12, h := w / 2 ^ 12 }

def stagesOf (l : List Byte) : List Stage := (List.range (bpStages l)).map (stageAt l)

/-- Two ranges are equal or share no byte. -/
def sameOrApart (a b n : Nat) : Bool := a == b || decide (a + n ≤ b) || decide (b + n ≤ a)
def apart (a n b m : Nat) : Bool := n == 0 || m == 0 || decide (a + n ≤ b) || decide (b + m ≤ a)

/-- The limits of R322 that need no channel. -/
def passOk (l : List Byte) : Bool :=
  let fmt := bpFmt l
  let k := bpK l
  let n := bpElems l
  let nst := bpStages l
  let st := stagesOf l
  let md := fmt == 3
  let data := n * bpBytes l
  let ex := if fmt = 0 then n / 32 else 0
  decide (byteAt l 0 < 8) && (byteAt l 0 / 4 == 0 || fmt == 0) && decide (1 ≤ k) && decide (k ≤ 16) && decide (n ≤ 2 ^ 20) &&
  (fmt != 0 || n % 32 == 0) && decide (1 ≤ nst) && decide (nst ≤ 3) && bpOrder l != 3 && byteAt l 6 / 4 % 4 == 0 &&
  (if bpOrder l = 2 then decide (1 ≤ bpA l) && decide (bpA l < k) else bpA l == 0) &&
  (if md then bpPost l == 0 || bpPost l == 1 || bpPost l == 4 else decide (bpPost l ≤ 3)) &&
  (st.all fun x => decide (x.j < k) && decide (x.g ≤ 2) && (fmt == 0 || x.g == 0) && (if md then x.mode == 2 else decide (x.mode ≤ 1))) &&
  noRepeats (st.map Stage.j) && ((List.range nst).all fun s => decide (byteAt l (33 + 4 * s) < 16)) &&
  zeroAt l (32 + 4 * nst) (12 - 4 * nst) && zeroAt l 52 12 && msFieldOk l 12 &&
  (!(st.any fun x => x.mode == 1) || byteAt l 10 != 0xFF) && (bpPost l != 1 || byteAt l 11 != 0xFF) &&
  decide (bpIn l + data ≤ 2 ^ 22) && decide (bpOut l + data ≤ 2 ^ 22) && sameOrApart (bpIn l) (bpOut l) data &&
  (fmt != 0 || (decide (bpInE l + ex ≤ 2 ^ 22) && decide (bpOutE l + ex ≤ 2 ^ 22) && sameOrApart (bpInE l) (bpOutE l) ex &&
    apart (bpOut l) data (bpInE l) ex && apart (bpOutE l) ex (bpIn l) data))

/-- A channel field of a pass: 0xFF is none; an input takes, or shares, an index of the pipe. -/
def State.passChan (s : State) (c : Ctx) (cl n : Nat) (out : Bool) : Option (Option (Nat × Nat) × State) :=
  if n = 0xFF then some (none, s)
  else match s.fieldRing c cl n out with
    | none => none
    | some r =>
      if out then some (some (r, 0), s)
      else match s.ringAt cl r with
        | none => none
        | some g => match g.heldBy 40 with
          | i :: _ => some (some (r, i), s)
          | [] => g.freeIdx.map fun i => (some (r, i), s.setRing cl r { g with held := g.held ++ [(i, 40)] })

/-- The pass that a record makes, with the indices it holds. -/
def State.passJob (s : State) (c : Ctx) (addr : Word) (l : List Byte) : Option (BpJob × Nat × State) := do
  let cl ← c.clusterOf (byteAt l 5)
  if !passOk l then none
  let (gate, s) ← s.passChan c cl (byteAt l 8) false
  let (dn, s) ← s.passChan c cl (byteAt l 9) true
  let (coef, s) ← s.passChan c cl (byteAt l 10) false
  let (pch, s) ← s.passChan c cl (byteAt l 11) false
  let ix := fun (o : Option (Nat × Nat)) => (o.map Prod.snd).getD 255
  let rg := fun (o : Option (Nat × Nat)) => o.map Prod.fst
  some (.pass l addr c.sid s.cur cl c.modq.toNat (rg gate) (rg dn) (rg coef) (rg pch) (ix gate) (ix coef) (ix pch)
    (decide (c.share ≠ 2)) (decide (c.share = 3)), cl, s)

/-- A share's pipe state. -/
def State.bpAt (s : State) (cl share : Nat) : BpShare := smGet ({} : BpShare) (s.clAt cl).pipes share

def State.setBp (s : State) (cl share : Nat) (b : BpShare) : State :=
  let k := s.clAt cl
  s.setCl cl { k with pipes := smPut share b k.pipes }

/-- Appends an entry to a share's FIFO. -/
def State.pushBp (s : State) (cl share : Nat) (j : BpJob) : State :=
  let b := s.bpAt cl share
  s.setBp cl share { b with fifo := b.fifo ++ [j], pushed := b.pushed + 1 }

/-- bp.run. -/
def execBpRun (ra : XReg) (s : State) : Host.Outcome State Fault Refusal :=
  let c := s.me
  if c.share = 0 then .next (s.trap causeTileOff 1 0)
  else
    let addr := c.reg ra
    .next (s.finish ((s.readVirt c 15 addr.toNat 64).andThen fun l s' =>
      match s'.passJob c addr l with
      | none => .trap (trapOf causeOperand 12 (BitVec.ofNat 64 (parcelOf (.bpRun ra)))) s'
      | some (j, cl, s'') =>
        if 8 ≤ (s'.bpAt cl c.shareNo).fifo.length then .wait s'.block
        else .ok () ((s''.releasePackage s''.cur).pushBp cl c.shareNo j).pass))

/-- Bytes of a share's part of the twiddle RAM, and its first byte. -/
def twPart (full : Bool) : Nat := if full then 16384 else 8192
def twBase (share : Nat) : Nat := 8192 * share

/-- bp.twl. -/
def execBpTwl (ra rb : XReg) (s : State) : Host.Outcome State Fault Refusal :=
  let c := s.me
  let src := (c.reg ra).toNat
  let n := (c.reg rb).toNat
  let full := decide (c.share = 3)
  if c.share = 0 then .next (s.trap causeTileOff 1 0)
  else if n = 0 ∨ n % 4 ≠ 0 ∨ twPart full < n ∨ 2 ^ 22 < src + n then
    .next (s.trap causeOperand 12 (BitVec.ofNat 64 (parcelOf (.bpTwl ra rb))))
  else if c.clusters.any fun cl => decide (8 ≤ (s.bpAt cl c.shareNo).fifo.length) then .next s.block
  else .next (c.clusters.foldl (fun s cl => s.pushBp cl c.shareNo (.twl src n full c.sid)) (s.releasePackage s.cur)).pass

/-- The pipe of a cluster runs no entry. -/
def State.bpIdle (s : State) (cl : Nat) : Bool := (s.bpAt cl 0).running.isNone && (s.bpAt cl 1).running.isNone

/-- The twiddle load at the head of a share's FIFO runs (R326): a poisoned source word marks the entries taken from it. -/
def execTwiddleLoad (cluster share : Nat) (s : State) : Host.Outcome State Fault Refusal :=
  let b := s.bpAt cluster share
  match b.fifo with
  | .twl src n full sid :: rest =>
    if s.bpIdle cluster && decide (share < 2) then
      let at0 := cluster * 16384 + twBase share
      let bytes := s.readSpBytes cluster src n
      let bad := (List.range (n / 4)).filter fun i => s.poisonSp cluster (src + 4 * i) 4
      let keep := s.twlPoison.filter fun k => decide (k < at0 / 4) || decide ((at0 + n) / 4 ≤ k)
      let s := { s with
        twl := bytes.zipIdx.foldl (fun (m : List Host.Cell) (p : Byte × Nat) => smSet 0 m (at0 + p.2) p.1) s.twl
        twlPoison := bad.foldl (fun l i => nsAdd (at0 / 4 + i) l) keep }
      .next (s.setBp cluster share { b with fifo := rest, completed := b.completed + 1 })
    else .next s
  | _ => .next s

/-! ## Arithmetic of a pass (R67 to R72) -/

/-- v / 2^k rounded to nearest, ties to even. -/
def rneShift (v : Int) (k : Nat) : Int :=
  let p : Int := (2 ^ k : Nat)
  let q := v / p
  let r := 2 * (v % p)
  if p < r ∨ (r = p ∧ q % 2 = 1) then q + 1 else q

/-- Saturates at plus and minus a bound; a saturation sets BFO (R70). -/
def bpSat (v lim : Int) : Int × FpFlags := if lim < v then (lim, flBFO) else if v < -lim then (-lim, flBFO) else (v, 0)

/-- A complex product of a value and a Q2.14 coefficient (R68 step 2). -/
def cxMul (w y : BpVal) : BpVal × FpFlags :=
  let a := bpSat (rneShift (w.re * y.re - w.im * y.im) 14) (2 ^ 17 - 1)
  let b := bpSat (rneShift (w.re * y.im + w.im * y.re) 14) (2 ^ 17 - 1)
  ({ y with re := a.1, im := b.1 }, a.2 ||| b.2)

/-- A sum, held in 21 bits (R68 step 3). -/
def cxAdd (x y : BpVal) : BpVal × FpFlags :=
  let a := bpSat (x.re + y.re) (2 ^ 20 - 1)
  let b := bpSat (x.im + y.im) (2 ^ 20 - 1)
  ({ x with re := a.1, im := b.1 }, a.2 ||| b.2)

def BpVal.neg (x : BpVal) : BpVal := { x with re := -x.re, im := -x.im }

/-- Alignment to an exponent (R68 step 1). -/
def BpVal.alignTo (x : BpVal) (e : Nat) : BpVal := { x with re := rneShift x.re (e - x.ex), im := rneShift x.im (e - x.ex), ex := e }

/-- FP32 components. -/
def fpOf (v : Int) : FVal := decodeF .fp32 v.toNat

/-- A complex FP32 product (R52, R71). -/
def fcMul (w y : BpVal) : BpVal × FpFlags :=
  let re := sumOfProducts false [(fpOf w.re, fpOf y.re), ((fpOf w.im).negate, fpOf y.im)] []
  let im := sumOfProducts false [(fpOf w.re, fpOf y.im), (fpOf w.im, fpOf y.re)] []
  let r := roundC 16 0 re.1 im.1
  ({ y with re := (r.1 % 2 ^ 32 : Nat), im := (r.1 / 2 ^ 32 : Nat) }, re.2 ||| im.2 ||| r.2)

/-- A complex FP32 sum or difference, each component rounded to FP32, a NaN in either making the
canonical complex NaN (R42, R71). -/
def fcAdd (sub : Bool) (x y : BpVal) : BpVal × FpFlags :=
  let comp := fun (a b : Int) => sumF false [fpOf a, if sub then (fpOf b).negate else fpOf b]
  let re := comp x.re y.re
  let im := comp x.im y.im
  let r := roundC 16 0 re.1 im.1
  ({ x with re := (r.1 % 2 ^ 32 : Nat), im := (r.1 / 2 ^ 32 : Nat) }, re.2 ||| im.2 ||| r.2)

/-- One butterfly of a stage: coefficients are w, or a, b, c, d in learned mode. -/
def butterfly (fmt q : Nat) (learned : Bool) (co : List BpVal) (x y : BpVal) : BpVal × BpVal × FpFlags :=
  let w := fun i => co.getD i {}
  let mul := if fmt = 0 then cxMul else fcMul
  let add := fun (n : Bool) (a b : BpVal) => if fmt = 0 then cxAdd a (if n then b.neg else b) else fcAdd n a b
  if fmt = 3 then
    let p := (w 0).re * y.re
    let m := fun (v : Int) => ({ re := v % (q : Int) } : BpVal)
    (m (x.re + p), m (x.re - p), 0)
  else
    let e := max x.ex y.ex
    let x := if fmt = 0 then x.alignTo e else x
    let y := if fmt = 0 then y.alignTo e else y
    if learned then
      let pa := mul (w 0) x
      let pb := mul (w 1) y
      let pc := mul (w 2) x
      let pd := mul (w 3) y
      let u := add false pa.1 pb.1
      let v := add false pc.1 pd.1
      (u.1, v.1, pa.2 ||| pb.2 ||| pc.2 ||| pd.2 ||| u.2 ||| v.2)
    else
      let p := mul (w 0) y
      let u := add false x p.1
      let v := add true x p.1
      (u.1, v.1, p.2 ||| u.2 ||| v.2)

/-- An entry of coefficients or of the post channel, by the pass format (R323). -/
def entryVal (fmt x : Nat) : BpVal :=
  match fmt with
  | 0 => { re := intOf true 16 (x % 2 ^ 16), im := intOf true 16 (x / 2 ^ 16 % 2 ^ 16) }
  | 1 => { re := (x % 2 ^ 16 * 2 ^ 16 : Nat), im := (x / 2 ^ 16 % 2 ^ 16 * 2 ^ 16 : Nat) }
  | 2 => { re := (x % 2 ^ 32 : Nat), im := (x / 2 ^ 32 % 2 ^ 32 : Nat) }
  | _ => { re := (x % 2 ^ 32 : Nat) }

/-- What POST does to an element before the rescale (R323); `p` is its post-channel entry. A NaN in either component makes
the complex NaN (R42). -/
def postVal (l : List Byte) (q : Nat) (p x : BpVal) : BpVal × FpFlags :=
  let fmt := bpFmt l
  match bpPost l with
  | 1 =>
    if fmt = 3 then ({ x with re := x.re * p.re % (q : Int) }, 0)
    else if fmt = 0 then cxMul p x
    else fcMul p x
  | 2 =>
    if fmt = 0 then ({ x with im := -x.im }, 0)
    else
      let r := roundC 16 0 (fpOf x.re) (fpOf x.im).negate
      ({ x with re := (r.1 % 2 ^ 32 : Nat), im := (r.1 / 2 ^ 32 : Nat) }, 0)
  | 3 =>
    if fmt = 0 then (x, 0)
    else
      let k := decodeF .fp32 (fieldAt l 44 4)
      let re := sumOfProducts false [(fpOf x.re, k)] []
      let im := sumOfProducts false [(fpOf x.im, k)] []
      let r := roundC 16 0 re.1 im.1
      ({ x with re := (r.1 % 2 ^ 32 : Nat), im := (r.1 / 2 ^ 32 : Nat) }, re.2 ||| im.2 ||| r.2)
  | 4 => ({ x with re := x.re * (fieldAt l 44 4 : Int) % (q : Int) }, 0)
  | _ => (x, 0)

/-! ## Groups (R324) -/

/-- The sum of 2^j over the stages. -/
def stageBits (l : List Byte) : Nat := ((stagesOf l).map fun x => 2 ^ x.j).foldl (· + ·) 0

/-- Offsets of a group's elements from its lowest, ascending. -/
def groupSubs (l : List Byte) : List Nat := (List.range (2 ^ bpK l)).filter fun i => Nat.land i (stageBits l) == i

/-- The lowest index of each group of a vector, ascending. -/
def groupBases (l : List Byte) : List Nat := (List.range (2 ^ bpK l)).filter fun i => Nat.land i (stageBits l) == 0

/-- The number of the group that holds element i of vector b. -/
def groupNo (l : List Byte) (b i : Nat) : Nat :=
  let bases := groupBases l
  let base := i - Nat.land i (stageBits l)
  b * bases.length + bases.findIdx fun x => x == base

/-- Groups of the pass. -/
def groupCount (l : List Byte) : Nat := bpBatch l * (groupBases l).length

/-- The indices x of a group. -/
def groupElems (l : List Byte) (g : Nat) : List Nat :=
  let bases := groupBases l
  let b := g / bases.length
  let base := bases.getD (g % bases.length) 0
  (groupSubs l).map fun s => b * 2 ^ bpK l + base + s

/-- π of ORDER on an index of a vector. -/
def bpPerm (l : List Byte) (i : Nat) : Nat :=
  let k := bpK l
  let a := bpA l
  match bpOrder l with
  | 0 => i
  | 1 => (List.range k).foldl (fun r j => r + (i / 2 ^ j % 2) * 2 ^ (k - 1 - j)) 0
  | _ => i % 2 ^ a * 2 ^ (k - a) + i / 2 ^ a

/-- The output index of index x. -/
def outIdx (l : List Byte) (x : Nat) : Nat := x / 2 ^ bpK l * 2 ^ bpK l + bpPerm l (x % 2 ^ bpK l)

/-- The position among the pairs of a vector of the pair whose upper-half partner is i + 2^j. -/
def pairRank (j i : Nat) : Nat := i / 2 ^ (j + 1) * 2 ^ j + i % 2 ^ j

/-- The first coefficient entry of a pair in the stream: by learned stage, then vector, then ascending i (R323)
(log entry 55). -/
def coefAt (l : List Byte) (st b i : Nat) : Nat :=
  let nth := ((stagesOf l).take st).countP fun x => x.mode == 1
  let j := (stageAt l st).j
  4 * (nth * bpBatch l * 2 ^ (bpK l - 1) + b * 2 ^ (bpK l - 1) + pairRank j i)

/-- Entries of the coefficient stream and of the post stream. -/
def coefTotal (l : List Byte) : Nat := ((stagesOf l).countP fun x => x.mode == 1) * bpBatch l * 2 ^ (bpK l - 1) * 4
def pchTotal (l : List Byte) : Nat := if bpPost l = 1 then bpElems l else 0

/-- The group that uses coefficient entry n. -/
def coefGroup (l : List Byte) (n : Nat) : Nat :=
  let per := bpBatch l * 2 ^ (bpK l - 1)
  let pair := n / 4
  let st := ((stagesOf l).filter fun x => x.mode == 1).getD (pair / per) (stageAt l 0)
  let r := pair % 2 ^ (bpK l - 1)
  groupNo l (pair % per / 2 ^ (bpK l - 1)) (r / 2 ^ st.j * 2 ^ (st.j + 1) + r % 2 ^ st.j)

/-- The group that uses post entry n. -/
def pchGroup (l : List Byte) (n : Nat) : Nat := groupNo l (n / 2 ^ bpK l) (n % 2 ^ bpK l)

/-- Entries per slot. -/
def perSlot (l : List Byte) (r : Ring) : Nat := r.size / bpBytes l

/-- Leading slots, from slot `q` on, whose entries all belong to groups before `g`. -/
def freeable (total per g : Nat) (grp : Nat → Nat) : Nat → Nat → Nat
  | 0, q => q
  | n + 1, q =>
    if per * q < total ∧ ((List.range per).all fun i => decide (total ≤ per * q + i) || decide (grp (per * q + i) < g)) = true
    then freeable total per g grp n (q + 1) else q

/-- A channel entry, zero and marked where its word is poisoned (R330); `freed` slots of the pass are gone already. -/
def State.chanEntry (s : State) (l : List Byte) (cl : Nat) (r : Ring) (i freed n : Nat) : BpVal :=
  let per := perSlot l r
  let a := r.slotAt ((r.readAt i + (n / per - freed)) % r.slots) + bpBytes l * (n % per)
  if s.poisonSp cl a (bpBytes l) then { bad := true } else entryVal (bpFmt l) (leNat (s.readSpBytes cl a (bpBytes l)))

/-- A table entry, zero and marked where it is poisoned (R323, R326). -/
def State.twEntry (s : State) (l : List Byte) (cl share : Nat) (full : Bool) (st : Stage) (i : Nat) : BpVal :=
  let eb := bpBytes l
  let n := (i % 2 ^ st.j * 2 ^ st.h + st.u) % (twPart full / eb)
  let a := cl * 16384 + twBase share + eb * n
  if (List.range (eb / 4)).any fun k => s.twlPoison.contains (a / 4 + k) then { bad := true }
  else entryVal (bpFmt l) (leNat ((List.range eb).map fun k => smGet 0 s.twl (a + k)))

/-- A pass in place whose outputs may fall on inputs still to be read (R324). -/
def overlaps (l : List Byte) : Bool := bpIn l == bpOut l && bpOrder l != 0

/-- The output index under which an earlier group wrote index x's place, where one did. -/
def earlier (l : List Byte) (d : BpDone) (x : Nat) : Option BpVal :=
  if overlaps l then (d.outs.find? fun e => decide (outIdx l e.1 = x)).map Prod.snd else none

/-- An input element. Where an earlier group of the pass wrote its word, either value may be read: for CX16, whose
earlier outputs are rescaled with their whole block, a free word stands for it (log entry 18). -/
def State.bpInput (s : State) (l : List Byte) (cl : Nat) (d : BpDone) (x : Nat) : BpVal × State :=
  let fmt := bpFmt l
  let eb := bpBytes l
  let a := bpIn l + eb * x
  let bad := s.poisonSp cl a eb
  let w := if bad then 0 else leNat (s.readSpBytes cl a eb)
  let ea := bpInE l + x / 32
  let ebad := fmt == 0 && s.poisonSp cl ea 1
  let ex := if fmt != 0 || ebad then 0 else (s.readSp cl ea).toNat
  let exOld := fmt == 0 && overlaps l && d.outs.any fun e => decide (outIdx l e.1 / 32 = x / 32)
  let v := entryVal fmt w
  let base : BpVal := if fmt = 0 then { re := 4 * v.re, im := 4 * v.im, ex := ex, bad := bad || ebad } else { v with bad := bad }
  match earlier l d x with
  | none =>
    if exOld && Config.freeBit s.free then
      ({ base with ex := (Config.freeWord (s.free + 1)).toNat % 256 }, { s with free := s.free + 2 })
    else if exOld then (base, { s with free := s.free + 2 }) else (base, s)
  | some o =>
    let alt : BpVal :=
      if fmt = 0 then
        let f := entryVal 0 ((Config.freeWord (s.free + 1)).toNat % 2 ^ 32)
        { re := 4 * f.re, im := 4 * f.im, ex := (Config.freeWord (s.free + 2)).toNat % 256, bad := o.bad }
      else if fmt = 1 then
        let r := roundC 8 0 (fpOf o.re) (fpOf o.im)
        { entryVal 1 r.1 with bad := o.bad }
      else o
    (if Config.freeBit s.free then alt else base, { s with free := s.free + 3 })

/-- The inputs of a group. -/
def State.bpInputs (s : State) (l : List Byte) (cl : Nat) (d : BpDone) : List Nat → SMap BpVal × State
  | [] => ([], s)
  | x :: t => let v := s.bpInput l cl d x; let r := v.2.bpInputs l cl d t; (smPut x v.1 r.1, r.2)

/-- The channels and the place of a running pass. -/
structure PassEnv where
  l : List Byte
  cl : Nat
  share : Nat
  full : Bool
  q : Nat
  coef : Option (Ring × Nat × Nat) := none
  pch : Option (Ring × Nat × Nat) := none

/-- The coefficients of a pair. -/
def State.pairCoefs (s : State) (v : PassEnv) (st b i : Nat) : List BpVal :=
  let g := stageAt v.l st
  if g.mode = 1 then match v.coef with
    | some (r, ix, freed) => (List.range 4).map fun t => s.chanEntry v.l v.cl r ix freed (coefAt v.l st b i + t)
    | none => []
  else [s.twEntry v.l v.cl v.share v.full g i]

/-- The pairs of a group at a stage: upper and lower index x. -/
def groupPairs (l : List Byte) (xs : List Nat) (j : Nat) : List Nat := xs.filter fun x => !(x % 2 ^ bpK l).testBit j

/-- The values that R61 checks in a group of a modular pass, with the index each failure names. -/
def State.modInputs (s : State) (v : PassEnv) (xs : List Nat) (ins : SMap BpVal) : List (Nat × Int) :=
  (xs.map fun x => (x, (smGet {} ins x).re)) ++
  ((List.range (bpStages v.l)).flatMap fun st =>
    (groupPairs v.l xs (stageAt v.l st).j).map fun x =>
      (x + 2 ^ (stageAt v.l st).j, ((s.pairCoefs v st (x / 2 ^ bpK v.l) (x % 2 ^ bpK v.l)).headD {}).re)) ++
  (match bpPost v.l, v.pch with
   | 1, some (r, ix, freed) => xs.map fun x => (x, (s.chanEntry v.l v.cl r ix freed x).re)
   | 4, _ => xs.map fun x => (x, (fieldAt v.l 44 4 : Int))
   | _, _ => [])

/-- The least failing index with its value. -/
def modFail (q : Nat) (l : List (Nat × Int)) : Option (Nat × Nat) :=
  (l.filter fun p => decide ((q : Int) ≤ p.2)).foldl (fun a p => match a with
    | none => some (p.1, p.2.toNat)
    | some b => if p.1 < b.1 then some (p.1, p.2.toNat) else a) none

/-- One stage over a group. -/
def State.bpStage (s : State) (v : PassEnv) (xs : List Nat) (st : Nat) (a : SMap BpVal × FpFlags × Bool) : SMap BpVal × FpFlags × Bool :=
  let g := stageAt v.l st
  (groupPairs v.l xs g.j).foldl (fun (a : SMap BpVal × FpFlags × Bool) x =>
    let y := x + 2 ^ g.j
    let co := s.pairCoefs v st (x / 2 ^ bpK v.l) (x % 2 ^ bpK v.l)
    let r := butterfly (bpFmt v.l) v.q (g.mode == 1) co (smGet {} a.1 x) (smGet {} a.1 y)
    (smPut y r.2.1 (smPut x r.1 a.1), a.2.1 ||| r.2.2, a.2.2 || co.any BpVal.bad)) a

/-- One group: its outputs join the pass's, or the pass fails at it (R325). -/
def State.bpGroup (s : State) (v : PassEnv) (d : BpDone) : BpDone × State :=
  let xs := groupElems v.l d.next
  let ri := s.bpInputs v.l v.cl d xs
  let s := ri.2
  let fail := if bpFmt v.l = 3 then modFail v.q (s.modInputs v xs ri.1) else none
  match fail with
  | some p => ({ d with modErr := some p }, s)
  | none =>
    let bad0 := xs.any fun x => (smGet {} ri.1 x).bad
    let a := (List.range (bpStages v.l)).foldl (fun a st => s.bpStage v xs st a) (ri.1, d.flags, bad0)
    let posts := xs.map fun x =>
      let e : BpVal := match bpPost v.l, v.pch with
        | 1, some (r, ix, freed) => s.chanEntry v.l v.cl r ix freed x
        | _, _ => {}
      (x, postVal v.l v.q e (smGet {} a.1 x), e.bad)
    let bad := a.2.2 || posts.any fun p => p.2.2
    let fl := posts.foldl (fun f p => f ||| p.2.1.2) a.2.1
    ({ d with next := d.next + 1, flags := fl,
              outs := posts.foldl (fun m p => smPut p.1 { p.2.1.1 with bad := bad } m) d.outs },
     if bad then s.countUe v.cl 2 (BitVec.ofNat 64 (bpIn v.l + bpBytes v.l * xs.headD 0)) else s)

/-! ## The end of a pass (R69, R325) -/

/-- One output block of a CX16 pass: mantissa pairs in order, exponent, flags (log entry 85). -/
def cxBlock (l : List Byte) (b : List BpVal) : List (Int × Int) × Nat × FpFlags :=
  let ec := (b.map BpVal.ex).foldl max 0
  let g := ((stagesOf l).map Stage.g).foldl (· + ·) 0
  let fits := fun (s : Nat) => b.all fun v =>
    decide ((rneShift v.re (2 + s + ec - v.ex)).natAbs ≤ 2 ^ 15 - 1) && decide ((rneShift v.im (2 + s + ec - v.ex)).natAbs ≤ 2 ^ 15 - 1)
  let s := if byteAt l 0 / 4 % 2 = 1 then ((List.range (g + 1)).find? fits).getD g else g
  let eo := min (ec + s) 255
  let m := b.map fun v => (bpSat (rneShift v.re (2 + eo - v.ex)) (2 ^ 15 - 1), bpSat (rneShift v.im (2 + eo - v.ex)) (2 ^ 15 - 1))
  let fl := m.foldl (fun f p => f ||| p.1.2 ||| p.2.2) 0
  let step : Int := if bpPost l = 3 then intOf true 8 (byteAt l 44) else 0
  let e : Int := eo + step
  let out := if e < 0 then 0 else if 255 < e then 255 else e.toNat
  (m.map fun p => (p.1.1, p.2.1), out, fl ||| flIf (decide (e < 0) || decide (255 < e)) flBFO)

/-- The bytes that a pass writes with its flags: (offset, byte, poison). -/
def passOutput (l : List Byte) (d : BpDone) : List (Nat × PByte) × FpFlags :=
  let placed := d.outs.map fun e => (outIdx l e.1, e.2)
  let eb := bpBytes l
  let put := fun (x v : Nat) (bad : Bool) => (leBytes eb v).zipIdx.map fun p => (bpOut l + eb * x + p.2, (p.1, bad))
  match bpFmt l with
  | 0 =>
    ((List.range (bpElems l / 32)).map fun c =>
      let blk := (List.range 32).map fun i => ((placed.find? fun p => decide (p.1 = 32 * c + i)).map Prod.snd).getD {}
      let r := cxBlock l blk
      ((r.1.zip blk).zipIdx.flatMap (fun p =>
          put (32 * c + p.2) (wrapTo 16 p.1.1.1 + 2 ^ 16 * wrapTo 16 p.1.1.2) p.1.2.bad) ++
        [(bpOutE l + c, (BitVec.ofNat 8 r.2.1, blk.any BpVal.bad))], r.2.2)).foldl
      (fun a p => (a.1 ++ p.1, a.2 ||| p.2)) ([], d.flags)
  | 1 => placed.foldl (fun a p => let r := roundC 8 0 (fpOf p.2.re) (fpOf p.2.im); (a.1 ++ put p.1 r.1 p.2.bad, a.2 ||| r.2)) ([], d.flags)
  | 2 => (placed.flatMap fun p => put p.1 (p.2.re.toNat + 2 ^ 32 * p.2.im.toNat) p.2.bad, d.flags)
  | _ => (placed.flatMap fun p => put p.1 p.2.re.toNat p.2.bad, d.flags)

/-- STATUS (R325). -/
def passStatus (fl : FpFlags) (modErr : Option (Nat × Nat)) : Word :=
  BitVec.ofNat 64 (match modErr with
    | some (x, _) => x * 2 ^ 32 + 0xC0 + fl.toNat
    | none => 0x80 + fl.toNat)

/-- Writes the outputs and fixes the status. -/
def State.passWrite (s : State) (cl : Nat) (l : List Byte) (d : BpDone) : State × BpDone :=
  let o := passOutput l d
  let w := o.1.map fun p => (({ scratch := true, key := s.spCell cl p.1, va := p.1 } : Loc), p.2)
  (s.noteUnit (s.putPBytes w) cl (w.map Prod.fst),
   { d with flags := o.2, status := some (passStatus o.2 d.modErr) })

/-- The channel of a running pass with the slots it has freed. -/
def State.passRing (s : State) (cl : Nat) (r : Option Nat) (i freed : Nat) : Option (Ring × Nat × Nat) :=
  r.bind fun n => (s.ringAt cl n).map fun g => (g, i, freed)

/-- The slots that the next group needs are there. -/
def slotsReady (l : List Byte) (g : Nat) (ch : Option (Ring × Nat × Nat)) (total : Nat) (grp : Nat → Nat) : Bool :=
  match ch with
  | none => true
  | some (r, i, freed) =>
    let per := perSlot l r
    (List.range total).all fun n => grp n != g || decide (n / per - freed < r.tokensOf i)

/-- Frees the slots whose last entry is used; at the end of the pass, every slot of the stream. -/
def State.passFree (s : State) (cl : Nat) (l : List Byte) (ring : Option Nat) (i freed total g : Nat) (grp : Nat → Nat) : State × Nat :=
  match ring.bind fun n => (s.ringAt cl n).map fun r => (n, r) with
  | none => (s, freed)
  | some (n, r) =>
    let per := perSlot l r
    let q := freeable total per g grp (total / per + 1) freed
    (s.consume cl n i (q - freed), q)

/-- Advances the groups of a pass as its channels allow. -/
def State.bpGroups (cl share : Nat) (full : Bool) (l : List Byte) (q : Nat) (coef pch : Option Nat) (ci pi : Nat) :
    Nat → BpDone → State → BpDone × State
  | 0, d, s => (d, s)
  | n + 1, d, s =>
    if d.modErr.isSome || decide (groupCount l ≤ d.next) then (d, s)
    else
      let learned := if coefTotal l = 0 then none else coef
      let posts := if pchTotal l = 0 then none else pch
      let cr := s.passRing cl learned ci d.coefFreed
      let pr := s.passRing cl posts pi d.pchFreed
      if slotsReady l d.next cr (coefTotal l) (coefGroup l) && slotsReady l d.next pr (pchTotal l) (pchGroup l) then
        let r := s.bpGroup { l := l, cl := cl, share := share, full := full, q := q, coef := cr, pch := pr } d
        if r.1.modErr.isSome then r
        else
          let a := r.2.passFree cl l learned ci d.coefFreed (coefTotal l) r.1.next (coefGroup l)
          let b := a.1.passFree cl l posts pi d.pchFreed (pchTotal l) r.1.next (pchGroup l)
          State.bpGroups cl share full l q coef pch ci pi n { r.1 with coefFreed := a.2, pchFreed := b.2 } b.1
      else (d, s)

/-- The pipe may go on with a pass: one that names a channel fires, so the pipe must be in a Running pipeline; a pass
without channels only runs (R307, R320) (log entry 26). -/
def State.pipeRuns (s : State) (cl : Nat) (chans : List (Option Nat)) : Bool :=
  (chans.all Option.isNone) || (s.runsIn cl 40).isSome

/-- The channels that a pass names. -/
def BpJob.chans : BpJob → List (Option Nat)
  | .pass _ _ _ _ _ _ gate dn coef pch _ _ _ _ _ => [gate, dn, coef, pch]
  | .twl _ _ _ _ => []

/-- The head of a share's FIFO is a pass that names a channel: what it does next is a firing of actor 40. -/
def BpShare.fires (b : BpShare) : Bool := match b.fifo with | j :: _ => j.chans.any Option.isSome | [] => false

/-- The arbiter's account of a pipe's event: a grant where the pass names a channel and something happened. -/
def State.pipeFired (s : State) (cl share : Nat) (before : State) : State :=
  if (before.bpAt cl share).fires && decide (s ≠ before) then s.fired cl 40 else s

/-- A queued pass starts: whole passes alternate between the half shares, and a gate token of any tag is consumed. -/
def State.passCanStart (s : State) (cl share : Nat) : Bool :=
  match (s.bpAt cl share).fifo with
  | .pass _ _ _ _ _ _ gate dn coef pch cg _ _ _ _ :: _ =>
    s.bpIdle cl && s.pipeRuns cl [gate, dn, coef, pch] &&
    (match gate with
     | none => true
     | some n => match s.ringAt cl n with | some r => decide (0 < r.tokensOf cg) | none => false)
  | _ => false

/-- Core cycles of a pass: the fill, then 64 elements per cycle, or 32 for CF32 (R324) (log entry 24). -/
def passCycles (l : List Byte) : Nat := 40 + bpElems l / (if bpFmt l = 2 then 32 else 64)

def execBpPassStart (cluster share : Nat) (s : State) : Host.Outcome State Fault Refusal :=
  let other := 1 - share
  let turn := (s.clAt cluster).bpTurn
  if share < 2 ∧ ((s.bpAt cluster share).fires = false ∨ s.mayFire cluster 40 = true) ∧ s.passCanStart cluster share = true ∧ (turn = share ∨ s.passCanStart cluster other = false) then
    let b := s.bpAt cluster share
    let s0 := s
    let (s, time) := match b.fifo with
      | .pass l _ _ _ _ _ gate _ _ _ cg _ _ _ _ :: _ =>
        ((match gate with | some n => s.consume cluster n cg 1 | none => s), passCycles l)
      | _ => (s, 0)
    let s := s.setBp cluster share { b with running := some { endAt := s.cycle + time } }
    let k := s.clAt cluster
    .next ((s.setCl cluster { k with bpTurn := other }).pipeFired cluster share s0)
  else .next s

/-- Passes of the pipe, queued or running, that name a ring. -/
def State.passNames (s : State) (cl ring : Nat) : Bool :=
  (s.clAt cl).pipes.any fun e => e.2.fifo.any fun j => match j with
    | .pass _ _ _ _ _ _ gate _ coef pch _ _ _ _ _ => gate == some ring || coef == some ring || pch == some ring
    | .twl _ _ _ _ => false

/-- Releases the pipe's indices on rings that no pass names any more. -/
def State.releasePipe (s : State) (cl : Nat) : State :=
  let k := s.clAt cl
  s.setCl cl { k with rings := k.rings.map fun e =>
    (e.1, if s.passNames cl e.1 then e.2 else { e.2 with held := e.2.held.filter fun h => h.2 != 40 }) }

/-- The results after DONE: flags, traps and the milestone (R325); the entry leaves its FIFO, and the pass counts as completed
once its writes are performed (R285). -/
def State.passPost (s : State) (cl share sid : Nat) (l : List Byte) (d : BpDone) : State :=
  let s := s.performUnits cl 1
  let b := s.bpAt cl share
  let s := (s.setBp cl share { b with fifo := b.fifo.tail, running := none, completed := b.completed + 1 }).releasePipe cl
  let s := match s.ctxOf sid with
    | none => s
    | some n =>
      let c := s.ctxAt n
      let s := s.setCtx n (c.merge d.flags)
      let s := match d.modErr with
        | some (x, v) => s.due n { trapOf causeModRange 1 (BitVec.ofNat 64 v) with elem := some x }
        | none => s
      if d.flags &&& c.enables ≠ 0 then s.due n (fpExc d.flags) else s
  s.arriveField cl l 12 sid

/-- The STATUS write: performed, refused with an asynchronous trap, or put off until the host has answered. -/
def State.passStatusWrite (s : State) (cl sid : Nat) (addr : Word) (st : Word) : Option State × State :=
  match s.ctxOf sid with
  | none => (some s, s)
  | some n =>
    match s.unitWrite (s.ctxAt n) false cl (addr + 56).toNat (clean (leBytes 8 st.toNat)) with
    | .ok _ s' => (some s', s')
    | .trap t s' => let s'' := s'.due n { t with elem := none }; (some s'', s'')
    | .ask q s' => (none, s'.askUnit cl 40 sid q)
    | .wait s' => (none, s')

/-- A running pass advances as its slots allow, and not before its time it ends: outputs, STATUS, DONE token, then its other
results (R28, R324, R325) (log entries 24 and 25). -/
def execBpPassEnd (cluster share : Nat) (s : State) : Host.Outcome State Fault Refusal :=
  let b := s.bpAt cluster share
  match b.running, b.fifo with
  | some d, .pass l addr sid _ _ q gate dn coef pch _ ci pi _ full :: _ =>
    if !s.pipeRuns cluster [gate, dn, coef, pch] || s.unitAsked cluster 40 ||
      (b.fires && !s.mayFire cluster 40) then .next s
    else
      let s0 := s
      let keep := fun (s : State) (d : BpDone) =>
        (s.setBp cluster share { s.bpAt cluster share with running := some d }).pipeFired cluster share s0
      let r := match d.status with
        | some _ => (d, s)
        | none => State.bpGroups cluster share full l q coef pch ci pi (groupCount l) d s
      let w : State × BpDone := match r.1.status with
        | some _ => (r.2, r.1)
        | none =>
          if (r.1.modErr.isSome || decide (groupCount l ≤ r.1.next)) && decide (d.endAt ≤ s.cycle) then r.2.passWrite cluster l r.1
          else (r.2, r.1)
      match w.2.status with
      | none => .next (keep w.1 w.2)
      | some st =>
        let x : Option State × State := if 1 ≤ w.2.posted then (some w.1, w.1) else w.1.passStatusWrite cluster sid addr st
        match x.1 with
        | none => .next (keep x.2 w.2)
        | some s1 =>
          let d1 := { w.2 with posted := max w.2.posted 1 }
          let noRoom := match dn with | some n => !(s1.noRoom cluster [n]).isEmpty | none => false
          if noRoom then .next (keep s1 d1)
          else
            let s2 := match dn with
              | some n => s1.produce cluster n [{ tag := 0, data := leBytes 8 st.toNat }]
              | none => s1
            .next ((s2.passPost cluster share sid l d1).pipeFired cluster share s0)
  | _, _ => .next s

/-! ## Copy engines (R327 to R330) -/

def copyZ (l : List Byte) : Nat := 2 ^ (byteAt l 0 / 16 % 4)
def copySwap (l : List Byte) : Bool := byteAt l 0 / 4 % 2 == 1
def copyCount (l : List Byte) (k : Nat) : Nat := fieldAt l (32 + 2 * k) 2
def copySrcStride (l : List Byte) (k : Nat) : Int := intOf true 32 (fieldAt l (40 + 4 * (k - 1)) 4)
def copyDstStride (l : List Byte) (k : Nat) : Int := intOf true 32 (fieldAt l (52 + 4 * (k - 1)) 4)
def copyTotal (l : List Byte) : Nat := copyCount l 0 * copyCount l 1 * copyCount l 2 * copyCount l 3

/-- A command record keeps the limits of R327, and its cluster bytes are indices of a span of `n` clusters, 0 alone of a
partial span (R462). -/
def copyOk (n : Nat) (l : List Byte) : Bool :=
  let d := byteAt l 1
  decide (byteAt l 0 < 64) && decide ((if copySwap l then 2 else 1) ≤ d) && decide (d ≤ 4) &&
  ((List.range 4).all fun k => if k < d then copyCount l k != 0 else copyCount l k == 1) &&
  msFieldOk l 4 && msFieldOk l 8 &&
  decide (byteAt l 2 < n) && decide (byteAt l 3 < n)

/-- The command that a record makes, and the cluster of its engine. -/
def Ctx.copyCmd (c : Ctx) (n : Nat) (l : List Byte) : CopyCmd × Nat :=
  let src := c.clusters.getD (byteAt l 2) 0
  let dst := c.clusters.getD (byteAt l 3) 0
  ({ rcd := l, sid := c.sid, ctx := n, src := src, dst := dst },
   if byteAt l 0 % 2 = 1 then src else if byteAt l 0 / 2 % 2 = 1 then dst else c.firstCl)

def State.copyAt (s : State) (cl e : Nat) : Copy := smGet ({} : Copy) (s.clAt cl).copies e

def State.setCopy (s : State) (cl e : Nat) (x : Copy) : State :=
  let k := s.clAt cl
  s.setCl cl { k with copies := smPut e x k.copies }

/-- cp.copy. -/
def execCpCopy (engine : Bool) (ra : XReg) (s : State) : Host.Outcome State Fault Refusal :=
  let c := s.me
  let e := if engine then 1 else 0
  .next (s.finish ((s.readVirt c 15 (c.reg ra).toNat 64).andThen fun l s' =>
    if !copyOk c.clusters.length l then
      .trap (trapOf causeOperand 12 (BitVec.ofNat 64 (parcelOf (.cpCopy engine ra)))) s'
    else
      let p := c.copyCmd s'.cur l
      let x := s'.copyAt p.2 e
      if 16 ≤ x.fifo.length then .wait s'.block
      else .ok () ((s'.releasePackage s'.cur).setCopy p.2 e { x with fifo := x.fifo ++ [p.1], pushed := x.pushed + 1 }).pass))

/-- Source and destination of iteration p, i0 fastest (R328). -/
def copyAddrs (l : List Byte) (p : Nat) : Nat × Nat :=
  let n := copyCount l
  let i0 := p % n 0
  let i1 := p / n 0 % n 1
  let i2 := p / (n 0 * n 1) % n 2
  let i3 := p / (n 0 * n 1 * n 2)
  let z := copyZ l
  let outer (f : Nat → Int) : Int := i2 * f 2 + i3 * f 3
  let src : Int := fieldAt l 16 8 + i0 * z + i1 * copySrcStride l 1 + outer (copySrcStride l)
  let dst : Int := if copySwap l then fieldAt l 24 8 + i1 * z + i0 * copyDstStride l 1 + outer (copyDstStride l)
    else fieldAt l 24 8 + i0 * z + i1 * copyDstStride l 1 + outer (copyDstStride l)
  (wrapTo 64 src, wrapTo 64 dst)

/-- A byte as a command reads it: where the command itself wrote it, either that value or the one before the command
(R328). `w` holds its writes since it last resumed, newest first. -/
def State.copyByte (s : State) (saved : List (Bool × Nat × Byte × Bool)) (w : List (Loc × PByte)) (l : Loc) : PByte × State :=
  let now : PByte := match w.find? fun p => p.1.scratch == l.scratch && p.1.key == l.key with
    | some p => p.2
    | none => (s.locByte l, s.locPoison l)
  match saved.find? fun p => p.1 == l.scratch && p.2.1 == l.key with
  | some p => (if Config.freeBit s.free then now else (p.2.2.1, p.2.2.2), { s with free := s.free + 1 })
  | none =>
    if w.any fun p => p.1.scratch == l.scratch && p.1.key == l.key then
      (if Config.freeBit s.free then now else (s.locByte l, s.locPoison l), { s with free := s.free + 1 })
    else (now, s)

/-- The bytes of one iteration. -/
def State.copyBytes (saved : List (Bool × Nat × Byte × Bool)) (w : List (Loc × PByte)) : List Loc → State → List PByte × State
  | [], s => ([], s)
  | l :: t, s => let b := s.copyByte saved w l; let r := State.copyBytes saved w t b.2; (b.1 :: r.1, r.2)

/-- Runs iterations from `p`: the position reached, the writes, what stopped it. -/
def State.copyRun (cl : Nat) (c : Ctx) (k : CopyCmd) (saved : List (Bool × Nat × Byte × Bool)) :
    Nat → Nat → List (Loc × PByte) → State → Nat × List (Loc × PByte) × Option (Sum TrapInfo PageReq) × State
  | 0, p, w, s => (p, w, none, s)
  | n + 1, p, w, s =>
    let a := copyAddrs k.rcd p
    let z := copyZ k.rcd
    let r : Res (List Loc × List Loc) :=
      (s.unitLocs c 0 (byteAt k.rcd 0 % 2 == 1) k.src a.1 z).andThen fun rl s' =>
        (s'.unitLocs c 1 (byteAt k.rcd 0 / 2 % 2 == 1) k.dst a.2 z).andThen fun wl s'' => .ok (rl, wl) s''
    match r with
    | .ok (rl, wl) s' =>
      let b := State.copyBytes saved w rl s'
      let s'' := if b.1.any Prod.snd then (match rl.find? s'.locPoison with | some x => b.2.countPoison cl x | none => b.2) else b.2
      State.copyRun cl c k saved n (p + 1) ((wl.zip b.1).reverse ++ w) (s''.observeLocs (cl / 8) rl)
    | .trap t s' => (p, w, some (.inl t), s')
    | .ask q s' => (p, w, some (.inr q), s')
    | .wait s' => (p, w, none, s')

/-- Applies the writes of a command, oldest first. -/
def State.copyApply (s : State) (cl : Nat) (w : List (Loc × PByte)) : State :=
  if w.isEmpty then s else s.noteUnit (s.putPBytes w.reverse) cl (w.map Prod.fst).eraseDups

/-- A command channel's head is there for its unit. -/
def State.cmdHead (s : State) (cl a : Nat) (m : CmdChan) : Option (Tok × Ring) :=
  if (s.runsIn cl a).isNone || m.frozen || m.ended then none
  else (s.ringAt cl m.ring).bind fun r => (s.headTok cl r m.cidx).map fun t => (t, r)

/-- Core cycles before a command's bytes move: 128 bytes per cycle (R328), after a start of 16 cycles. -/
def copyCycles (l : List Byte) : Nat := 16 + copyTotal l * copyZ l / 128

/-- A copy engine starts its next command once its wait milestone is met; where its command channel also holds one,
the two alternate (R321, R328). -/
def execCpCommandStart (cluster engine : Nat) (s : State) : Host.Outcome State Fault Refusal :=
  let x := s.copyAt cluster engine
  let m := smFind (42 + engine) (s.clAt cluster).copyCmd
  let chan := match m with | some m => m.turn && (s.cmdHead cluster (42 + engine) m).isSome | none => false
  match x.active, x.fifo with
  | none, k :: rest =>
    let ready := match msField k.rcd 8 with
      | some w => decide (fieldAt k.rcd 12 4 ≤ (s.msAt cluster w).count.toNat)
      | none => true
    if engine < 2 ∧ ready = true ∧ x.frozen = false ∧ chan = false then
      let s := match m with
        | some m => let c := s.clAt cluster
          s.setCl cluster { c with copyCmd := smPut (42 + engine) { m with turn := !k.fromChan } c.copyCmd }
        | none => s
      .next (s.setCopy cluster engine { x with
        active := some k, fifo := rest, pos := 0, saved := [], readyAt := s.cycle + copyCycles k.rcd })
    else .next s
  | _, _ => .next s

/-- The engine runs the command in progress to its end, or to the element that faults (R330). -/
def execCpCommandComplete (cluster engine : Nat) (s : State) : Host.Outcome State Fault Refusal :=
  let x := s.copyAt cluster engine
  match x.active with
  | none => .next s
  | some k =>
    if x.frozen ∨ s.cycle < x.readyAt ∨ s.unitAsked cluster (42 + engine) = true then .next s
    else match s.strandCtx k.sid with
      | none => .next (s.setCopy cluster engine { x with active := none, saved := [], completed := x.completed + 1 })
      | some c =>
        let r := State.copyRun cluster c k x.saved (copyTotal k.rcd - x.pos) x.pos [] s
        let s1 := r.2.2.2.copyApply cluster r.2.1
        let old := (r.2.1.map fun p => (p.1.scratch, p.1.key, r.2.2.2.locByte p.1, r.2.2.2.locPoison p.1)).filter fun p =>
          !x.saved.any fun q => q.1 == p.1 && q.2.1 == p.2.1
        match r.2.2.1 with
        | some why =>
          let s2 := s1.setCopy cluster engine { x with pos := r.1, saved := x.saved ++ old }
          .next (match why with
            | .inl t => s2.freezeUnit cluster (42 + engine) k.sid t
            | .inr q => s2.askUnit cluster (42 + engine) k.sid q)
        | none =>
          if r.1 < copyTotal k.rcd then .next (s1.setCopy cluster engine { x with pos := r.1, saved := x.saved ++ old })
          else
            let s2 := (s1.performUnits cluster 1).setCopy cluster engine { x with active := none, pos := 0, saved := [], completed := x.completed + 1 }
            .next ((s2.arriveField cluster k.rcd 4 k.sid).perfCount cluster 0x0B (some c.pasid) 1)

/-! ## Command channels (R321) -/

/-- Times the streams of queued tokens again, each after the one before it. -/
def retime (start : Nat) : List Token → List Token
  | [] => []
  | t :: l => { t with doneAt := start + t.stream.1 + t.stream.2 } :: retime (start + t.stream.1) l

/-- The end of a token's stream. -/
def Token.endOf (t : Token) : Nat := t.doneAt - t.stream.2

/-- The place of a channel's token in the FIFO: after the running one, or after the FIFO token that follows a channel's. -/
def Node.placeOf (n : Node) : Nat :=
  match n.fifo with
  | [] => 0
  | h :: _ => if h.fromChan then min 2 n.fifo.length else 1

/-- The cycle at which the stream of a channel's token starts. -/
def State.insertStart (s : State) (cl share : Nat) : Nat :=
  let n := s.nodeAt cl share
  if n.placeOf = n.fifo.length then s.streamStart [cl] share
  else match (n.fifo.take n.placeOf).getLast? with | some h => h.endOf | none => s.cycle

/-- Dispatches a channel's token on its node: it takes its place in the FIFO, and MXLAT of its strand receives its latency
(R227, R242). -/
def State.insertToken (s : State) (cl share : Nat) (t : Token) : State :=
  let c := s.clAt cl
  let n := s.nodeAt cl share
  let start := s.insertStart cl share
  let lat := if t.null then 0 else start + t.stream.1 + t.stream.2 - s.cycle
  let s := s.setCtx t.ctx { s.ctxAt t.ctx with mxlat := BitVec.ofNat 64 (lat % 2 ^ 16) }
  if t.null ∨ n.placeOf = n.fifo.length then s.dispatch share { t with span := [cl] }
  else
    let rest := retime start ({ t with span := [cl], num := s.nextId } :: n.fifo.drop n.placeOf)
    let ended := match rest.getLast? with | some h => h.endOf | none => start
    ({ s with nextId := s.nextId + 1 } : State).setCl cl
      { c with nodes := smPut share { n with
          fifo := n.fifo.take n.placeOf ++ rest, streamEnd := ended, dispatched := n.dispatched + 1 } c.nodes }

/-- The token of a command slot, where it keeps the rules. -/
def State.slotToken (s : State) (c : Ctx) (n : Nat) (d : List Byte) : Option Token :=
  let m := byteAt d 4
  let nn := byteAt d 5
  let k := byteAt d 6
  let mk := fun (op : BitVec 3) (acc ta tb : Nat) (rm : BitVec 3) =>
    let t := { c.token n op acc ta tb rm m nn k with fromChan := true }
    if decide (m ≤ c.shareRows) && decide (nn ≤ 128) && decide (k ≤ c.shareRows) && (c.tokenCheck t).isNone then some t else none
  match (decodeParcel (fieldAt d 0 4)).first with
  | some (.mxMma acc ta tb) => mk 0 acc.toNat ta.toNat tb.toNat 0
  | some (.mxMms acc ta tb) => mk 1 acc.toNat ta.toNat tb.toNat 0
  | some (.mxZacc acc) => mk 2 acc.toNat 0 0 0
  | some (.mxRnd td acc rm) => mk 3 acc.toNat td.toNat 0 rm
  | _ => none

/-- CH_MISUSE 8 of a discarded command slot, against the owning strand. -/
def State.badCommand (s : State) (n : Nat) (m : CmdChan) : State :=
  s.due n (trapOf causeChMisuse 8 (BitVec.ofNat 64 (byteAt m.cfg 0)))

def State.setCmd (s : State) (cl a : Nat) (m : CmdChan) : State :=
  let c := s.clAt cl
  s.setCl cl (if a = 41 then { c with nodeCmd := some m } else { c with copyCmd := smPut a m c.copyCmd })

/-- The channel's turn at its unit: the node holds no channel token behind its head and has room, or the copy engine is
idle and the turn is the channel's, or its FIFO is empty. -/
def State.cmdTurn (s : State) (cl a : Nat) (m : CmdChan) (c : Ctx) : Bool :=
  if a = 41 then
    let f := (smGet ({} : Node) (s.clAt cl).nodes c.shareNo).fifo
    decide (f.length < 16) && !(f.tail.any Token.fromChan)
  else
    let x := s.copyAt cl (a - 42)
    x.active.isNone && !x.frozen && (m.turn || x.fifo.isEmpty)

/-- What taking the head of a command channel does. -/
def State.cmdTake (s : State) (cl a n : Nat) (m : CmdChan) (t : Tok) (r : Ring) : State :=
  let c := s.ctxAt n
  let eat := s.consume cl m.ring m.cidx 1
  if t.tag = 2 then eat.setCmd cl a { m with ended := true }
  else if t.tag ≠ 0 then eat
  else match t.bad with
    | k :: _ => s.freezeUnit cl a c.sid (trapOf causeMemPoison 0 (BitVec.ofNat 64 (r.slotAt (r.readAt m.cidx) + 8 * k)))
    | [] =>
      if a = 41 then match s.slotToken c n t.data with
        | some tok => eat.insertToken cl c.shareNo tok
        | none => eat.badCommand n m
      else if t.data.length < 64 ∨ !copyOk c.clusters.length t.data then eat.badCommand n m
      else
        let s1 := eat.setCmd cl a { m with turn := false }
        let x := s1.copyAt cl (a - 42)
        s1.setCopy cl (a - 42) { x with fifo := { (c.copyCmd n t.data).1 with fromChan := true } :: x.fifo, pushed := x.pushed + 1 }

/-- A matrix node (41) or copy engine (42, 43) takes a command from its command channel. -/
def execCommandChannelTake (cluster unit : Nat) (s : State) : Host.Outcome State Fault Refusal :=
  let k := s.clAt cluster
  let m := if unit = 41 then k.nodeCmd else if unit < 44 then smFind unit k.copyCmd else none
  match m, s.runsIn cluster unit with
  | some m, some n =>
    match s.cmdHead cluster unit m with
    | some (t, r) =>
      if s.mayFire cluster unit && s.cmdTurn cluster unit m (s.ctxAt n) then .next ((s.cmdTake cluster unit n m t r).fired cluster unit) else .next s
    | none => .next s
  | _, _ => .next s

/-! ## The stopped consumer (R310) -/

/-- The number under which a context has bound a ring. -/
def Ctx.numberOf (c : Ctx) (cl ring : Nat) : Nat :=
  ((c.chans.find? fun e => decide (e.2.cluster = cl) && decide (e.2.ring = ring)).map Prod.fst).getD 0

/-- Productions pending only for want of room: cluster, ring, owning context, its channel number, slots needed. -/
def State.pending (s : State) : List (Nat × Nat × Nat × Nat × Nat) :=
  (s.ctxs.filterMap fun e =>
    let push := fun (n need : Nat) => match s.chanCheck e.2 n .push with
      | .ok (cl, r, g) => if g.room need then none else some (cl, r, e.1, n, need)
      | .error _ => none
    match e.2.wait with
    | some (.chPush c _ _) => push c.toNat 1
    | some .vch => match e.2.viq with
      | cv :: _ => match cv.todo with
        | .vchPush f :: _ => match s.chanAt e.2 (vchChan f) with
          | some (_, _, r) => push (vchChan f) (pushNeed cv.vl f r)
          | none => none
        | _ => none
      | [] => none
    | _ => none) ++
  (s.clusters.flatMap fun k =>
    let owned := fun (a : Nat) (l : List Nat) => match s.runsIn k.1 a with
      | some n => l.map fun r => (k.1, r, n, (s.ctxAt n).numberOf k.1 r, l.count r)
      | none => []
    (k.2.ags.flatMap fun g => match s.fireAg k.1 g.1 with | .room l => owned g.1 l | _ => []) ++
    (k.2.jns.flatMap fun j => match s.fireJn k.1 j.1 with | .room l => owned (24 + j.1) l | _ => []) ++
    (k.2.pipes.flatMap fun p => match p.2.running, p.2.fifo with
      | some d, .pass _ _ _ _ _ _ _ (some n) _ _ _ _ _ _ _ :: _ =>
        if d.posted = 1 then owned 40 (s.noRoom k.1 [n]) else []
      | _, _ => []))

/-- Starts the measurement of every production that is pending only for want of room, and ends the others. -/
def State.markStalls (s : State) : State :=
  let p := s.pending
  { s with clusters := s.clusters.map fun k => (k.1, { k.2 with rings := k.2.rings.map fun r =>
      (r.1, { r.2 with stall :=
        if (p.any fun q => decide (q.1 = k.1) && decide (q.2.1 = r.1)) = true then
          (match r.2.stall with | .off => .since s.ticks | x => x)
        else (match r.2.stall with | .since _ => .off | x => x) }) }) }

/-- When the watchdog of a ring runs out. -/
def State.stallDue (s : State) (cl ring : Nat) : Option Nat :=
  match s.ringAt cl ring with
  | none => none
  | some r => match r.stall with
    | .since t => (s.pending.find? fun q => decide (q.1 = cl) && decide (q.2.1 = ring)).bind fun q =>
        let w := (s.ctxAt q.2.2.1).wdog.toNat
        if w = 0 then none else some (t + usTicks w)
    | _ => none

/-- The watchdog interval runs out: the owning strand takes CH_STALL. -/
def execChStall (cluster ring : Nat) (s : State) : Host.Outcome State Fault Refusal :=
  match s.stallDue cluster ring, s.ringAt cluster ring, s.pending.find? fun q => decide (q.1 = cluster) && decide (q.2.1 = ring) with
  | some t, some r, some q =>
    if s.ticks < t then .next s
    else
      let n := q.2.2.1
      let s := s.setRing cluster ring { r with stall := .reported (s.ctxAt n).sid }
      .next (s.due n (trapOf causeChStall ((r.lacking q.2.2.2.2).getD 0) (BitVec.ofNat 64 q.2.2.2.1)))
  | _, _, _ => .next s

/-! ## The return from a trap (R162, R310, R330, R349) -/

/-- Measurements that a strand's CH_STALL stopped start afresh. -/
def State.restartStalls (s : State) (sid : Nat) : State :=
  { s with clusters := s.clusters.map fun k => (k.1, { k.2 with rings := k.2.rings.map fun r =>
      (r.1, if r.2.stall = .reported sid then { r.2 with stall := .off } else r.2) }) }

/-- tret, a fence at strand scope (R294): units that the trap's fault froze resume, pipelines marked pre-empted restart, and a stopped measurement of
R310 starts afresh. -/
def execTret (s : State) : Host.Outcome State Fault Refusal :=
  let c := s.me
  if !c.sup then .next (s.trapPriv 0 (parcelOf .tret))
  else
    let c' := { c.tret with
      pipes := c.pipes.map fun e =>
        (e.1, if e.2.preempted then { e.2 with preempted := false, state := .running } else e.2)
      frozenUnits := [] }
    let s := ((s.setMe c').fenceAt s.cur 0xFFFF 0).resumeUnits s.cur c.frozenUnits
    .next (if c.async.any fun t => decide (t.cause = causeChStall) then s else s.restartStalls c.sid)

end Sys2Proof.Machine
end

