-- ==== Sys2Proof/Machine/Retire.lean ====
section
/-! DEFINITION. How a convoy whose slots have all run ends: the commit of its logs, or its trap (R23, R26, R44, R47,
R122 to R126, R130, R229, R271, R292, R293). -/

namespace Sys2Proof.Machine

/-! ## What is committed -/

/-- The slice writes of elements below a bound in (row, slot) order (R122). -/
def commitSlices (logs : List SlotLog) (below : Nat → Bool) : List SliceWrite :=
  ((logs.flatMap SlotLog.slices).filter fun w => below w.elem).mergeSort fun a b => decide (a.row ≤ b.row)

def commitPreds (logs : List SlotLog) (below : Nat → Bool) : List PredWrite :=
  ((logs.flatMap SlotLog.preds).filter fun w => below w.elem).mergeSort fun a b => decide (a.row ≤ b.row)

/-- Sets bit `row` of a lane's predicate word. -/
def setPredBit (w : Word) (row : Nat) (b : Bool) : Word :=
  if b then w ||| BitVec.ofNat 64 (2 ^ row) else w &&& ~~~(BitVec.ofNat 64 (2 ^ row))

/-- Writes slices; a bank row of 16 slices that the writes cover whole loses its poison (R111). -/
def State.putSlices (s : State) (l : List (Nat × Nib)) : State :=
  { s with
    slices := l.foldl (fun m p => smSet 0 m p.1 p.2) s.slices
    slicePoison := s.slicePoison.filter fun b => !(List.range 16).all fun i => l.any fun p => decide (p.1 = 16 * b + i) }

def State.putPreds (s : State) (l : List PredWrite) : State :=
  { s with preds := l.foldl (fun m w => smSet 0 m w.key (setPredBit (smGet 0 m w.key) w.row w.val)) s.preds }

/-- The blocks of 64 slices that `n` slices from `a` occupy (R129). -/
def blockBits (a n : Nat) : Word :=
  if n = 0 then 0
  else (List.range ((a + n - 1) / 64 - a / 64 + 1)).foldl (fun w i => w ||| BitVec.ofNat 64 (2 ^ (a / 64 + i))) 0

/-- VDIRTY bits of the committed rows and of vfill (R130). -/
def dirtyBits (logs : List SlotLog) (row : Nat → Bool) (fill : Bool) : Word :=
  let d := (logs.flatMap SlotLog.rows).foldl (fun (w : Word) r => if row r.1 then w ||| blockBits r.2.1 r.2.2 else w) 0
  if fill then (logs.flatMap SlotLog.fill).foldl (fun (w : Word) p => w ||| blockBits (p.1 % 1024) 1) d else d

/-- Writes memory bits in their order, and clears the poison of every word that they cover whole (R275). -/
def State.putMems (s : State) (l : List MemWrite) : State :=
  let s := l.foldl (fun s m =>
    let x : Loc := { scratch := m.scratch, key := m.key, va := m.va }
    s.setLoc x ((s.locByte x &&& ~~~m.mask) ||| (m.val &&& m.mask))) s
  { s with
    memPoison := s.memPoison.filter fun w => !coversWord l false w
    spPoison := s.spPoison.filter fun w => !coversWord l true w }

/-- The elements of a slot's stores as writes of its strand, each from its lane. -/
def SlotLog.writesAt (g : SlotLog) (c : Ctx) (l : List MemWrite) : List WriteAt :=
  (l.map MemWrite.elem).eraseDups.map fun e =>
    { elem := e, port := some (e % c.lanes), die := (c.laneAt (e % c.lanes)).1 / 8
      locs := (l.filter fun m => decide (m.elem = e)).map fun m => { scratch := m.scratch, key := m.key, va := m.va } }

/-- Stores the elements of a slot that `keep` admits, as writes that agents come to observe; a non-temporal store writes
through to host memory (R251, R277 to R281). -/
def State.storeMems (s : State) (c : Ctx) (g : SlotLog) (keep : Nat → Bool) : State :=
  let l := g.mems.filter fun m => keep m.elem
  let t := s.putMems l
  let t := if s.writes.isEmpty ∧ s.lags.isEmpty then t else s.noteWrites t c.sid g.cls (g.writesAt c l)
  if g.through then l.foldl (fun t m => if m.scratch then t else t.cleanLine (m.key / 64)) t else t

/-- The stores of every slot of a convoy. -/
def State.storeAll (s : State) (c : Ctx) (logs : List SlotLog) (keep : Nat → Bool) : State :=
  logs.foldl (fun s g => s.storeMems c g keep) s

/-- The bytes of an update. -/
def AmoWrite.locs (a : AmoWrite) : List Loc := a.keys.map fun k => { scratch := a.scratch, key := k, va := 0 }

/-- The kept pairs before the updates of a vamo, which acts on the newest values (R277, R280, R281). -/
def State.beforeAmos (s : State) (c : Ctx) (logs : List SlotLog) : State :=
  if s.writes.isEmpty then s
  else logs.foldl (fun s g => if g.amos.isEmpty then s
    else g.amos.foldl (fun s a => s.observeLocs ((c.laneAt (a.elem % c.lanes)).1 / 8) a.locs)
      (s.beforeAccess c.sid g.cls (g.amos.map fun a => some (a.elem % c.lanes)))) s

/-- The updates of vamos, performed at once for every agent, as reads and writes of their strand that later accesses follow
(R280, R281). -/
def State.noteAmos (s t : State) (c : Ctx) (logs : List SlotLog) (done : Nat → Bool) : State :=
  if s.writes.isEmpty then t
  else logs.foldl (fun t g =>
    let l := (g.amos.filter fun a => done a.elem).map fun a =>
      ({ elem := 0, port := some (a.elem % c.lanes), die := (c.laneAt (a.elem % c.lanes)).1 / 8, locs := a.locs } : WriteAt)
    if l.isEmpty then t else ({ s with writes := t.writes, moment := t.moment } : State).noteWith t (fun _ => 0) t.lags c.sid g.cls l) t

/-- Performs one atomic update (R263, R269). -/
def State.putAmo (s : State) (a : AmoWrite) : State :=
  let new := amoF a.op (8 * a.keys.length) (locsNat s.locByte a.locs) a.val
  (a.locs.zip (leBytes a.keys.length new)).foldl (fun s p => s.setLoc p.1 p.2) s

/-- The old value that an atomic update meets now. -/
def State.amoOld (s : State) (a : AmoWrite) : Nat :=
  locsNat s.locByte a.locs

/-- Performs updates in their order; `none` where one meets another old value than its slot took. -/
def State.putAmos (s : State) : List AmoWrite → Option State
  | [] => some s
  | a :: l => if s.amoOld a = a.old then (s.putAmo a).putAmos l else none

/-- Keeps the elements that a free bit chooses, each element as a whole. -/
def State.someElems (s : State) : List Nat → List Nat × State
  | [] => ([], s)
  | e :: l =>
    let r := { s with free := s.free + 1 }.someElems l
    (if Config.freeBit s.free then e :: r.1 else r.1, r.2)

/-- FCSR flags and EFC of the committed elements (R44, R47). -/
def Ctx.commitFlags (c : Ctx) (logs : List SlotLog) (below : Nat → Bool) : Ctx :=
  let c := (logs.flatMap SlotLog.flags).foldl (fun c f => if below f.1 then c.merge f.2 else c) c
  match ((logs.flatMap SlotLog.efc).filter fun f => below f.1).getLast? with
  | some f => { c with efc := f.2.setWidth 64 }
  | none => c

/-! ## Ends of a convoy -/

/-- The slot whose log holds memory effects. -/
def memSlot (logs : List SlotLog) : Nat := logs.findIdx fun g => !(g.mems.isEmpty && g.amos.isEmpty)

/-- The stores that a convoy without commit may have performed: any of the active elements, but for a vspill the lanes
below the faulting one are performed and any of those above may be (R271, R292, R293) (log entry 46). -/
def State.strayStores (s : State) (c : Ctx) (logs : List SlotLog) : State :=
  logs.foldl (fun s g =>
    let els := (g.mems.map MemWrite.elem).eraseDups
    let (sure, maybe) := match g.spillAt with
      | some k => (els.filter fun e => decide (e < k), els.filter fun e => decide (k < e))
      | none => ([], els)
    let r := s.someElems maybe
    r.2.storeMems c g fun e => sure.contains e || r.1.contains e) s

/-- Counts the rows of a convoy that commit, and their extra cycles, for the lane group of each cluster (R117, R419): the row
of a replicated source, and exponent rows, cost theirs once in a convoy (log entry 60). -/
def State.countRows (s : State) (c : Ctx) (cv : Convoy) (done : Nat → Bool) : State :=
  if s.perf.isEmpty ∨ c.lanes = 0 ∨ cv.vl ≤ cv.vstart then s
  else
    let first := cv.vstart / c.lanes
    let rows := ((List.range ((cv.vl - 1) / c.lanes + 1)).filter fun r => decide (first ≤ r) && done r)
    let extra := (cv.logs.flatMap SlotLog.cross).filter done
    c.clusters.foldl (fun s cl =>
      (s.perfCount cl 0x02 (some c.pasid) rows.length).perfCount cl 0x03 (some c.pasid) extra.length) s

/-- A trap of a whole instruction: nothing of the convoy commits (R124, R165, R257). -/
def State.retireWhole (s : State) (n : Nat) (cv : Convoy) (t : TrapInfo) : State :=
  (s.strayStores (s.ctxAt n) cv.logs).enterTrap n t cv.epc

/-- An element fault in a convoy that commits all or nothing (R124): VSTART keeps its issue value. VSTART and EELEM are set
before the trap, so a double trap too leaves them at this fault's values (R163). -/
def State.retireAtomic (s : State) (n : Nat) (cv : Convoy) (k : Nat) (t : TrapInfo) : State :=
  let s := s.strayStores (s.ctxAt n) cv.logs
  let c := s.ctxAt n
  (s.setCtx n { c with vstart := BitVec.ofNat 64 cv.vstart, eelem := BitVec.ofNat 64 k }).enterTrap n { t with elem := some k } cv.epc

/-- An element fault (R123, R292): elements below it commit; stores above it may have been performed, and that of the
element itself where another slot than the storing one faults (log entry 47). -/
def State.retireElem (s : State) (n : Nat) (cv : Convoy) (k : Nat) (t : TrapInfo) : State :=
  let below := fun e => decide (e < k)
  let same := t.sub.toNat / 512 == memSlot cv.logs
  let mems := cv.logs.flatMap SlotLog.mems
  let amos := cv.logs.flatMap SlotLog.amos
  let up := ((mems.map MemWrite.elem ++ amos.map AmoWrite.elem).filter fun e => decide (k < e) || (e == k && !same)).eraseDups
  let r := s.someElems up
  let keep := fun e => below e || r.1.contains e
  let s0 := (r.2.storeAll (s.ctxAt n) cv.logs keep).beforeAmos (s.ctxAt n) cv.logs
  match s0.putAmos (amos.filter fun a => below a.elem) with
  | none => s.setCtx n { s.ctxAt n with viq := [], queued := [] }
  | some s1 =>
    let s1 := (amos.filter fun a => !below a.elem && r.1.contains a.elem).foldl State.putAmo s1
    let s1 := s0.noteAmos s1 (s.ctxAt n) cv.logs keep
    let s1 := s1.putSlices ((commitSlices cv.logs below).map fun w => (w.key, w.val))
    let s1 := (s1.putPreds (commitPreds cv.logs below)).countRows (s.ctxAt n) cv fun r => decide ((r + 1) * (s.ctxAt n).lanes ≤ k)
    let c := s1.ctxAt n
    let L := c.lanes
    let c := c.commitFlags cv.logs below
    let rows := fun r => decide (r * L < k) && decide (cv.vstart < k)
    let c := c.markDirty (dirtyBits cv.logs rows false)
    let s1 := s1.setCtx n { c with vstart := BitVec.ofNat 64 k, eelem := BitVec.ofNat 64 k }
    s1.enterTrap n { t with elem := some k } cv.epc

/-- Channel counters still allow what the slots took for granted. -/
def State.chansHold (s : State) (c : Ctx) (logs : List SlotLog) : Bool :=
  logs.all fun g =>
    (match g.push with | some (ch, l) => (match s.chanCheck c ch .push with
      | .ok (_, _, r) => r.room l.length | .error _ => false) | none => true) &&
    (match g.pop with | some (ch, i, n) => s.chanReady c ch (.pop i) n | none => true)

/-- Channel effects at retirement (R126); a push is plain (R286), and a pop of slots that were released is an acquire
(R284). -/
def State.commitChans (s : State) (n : Nat) (c : Ctx) (logs : List SlotLog) : State :=
  logs.foldl (fun s g =>
    let s := match g.push with
      | some (ch, l) => match s.chanAt c ch with
        | some (cl, r, _) => s.produce cl r (l.map fun t => { tag := t.1, data := t.2, plain := true })
        | none => s
      | none => s
    match g.pop with
    | some (ch, i, k) => match s.chanAt c ch with
      | some (cl, r, x) =>
        (s.consume cl r i k).acquireSlots n x i k
      | none => s
    | none => s) s

/-- The scratchpad configuration switches on every spanned cluster (R274). -/
def State.setSpcfg (s : State) (c : Ctx) (v : Word) : State :=
  c.clusters.foldl (fun s cl => s.setCl cl { s.clAt cl with spcfg := v }) s

/-- The retirement of a convoy without a trap (R23). A convoy whose channels or atomic updates no longer meet what its
slots took is issued again, with no effect. -/
def State.retireOk (s : State) (n : Nat) (cv : Convoy) : State :=
  let c := s.ctxAt n
  let logs := cv.logs
  let s0 := s.beforeAmos c logs
  match s0.putAmos (logs.flatMap SlotLog.amos), s.chansHold c logs with
  | some s1, true =>
    let all := fun (_ : Nat) => true
    let s1 := (s0.noteAmos s1 c logs all).storeAll c logs all
    let s1 := s1.putSlices ((commitSlices logs all).map (fun w => (w.key, w.val)) ++ logs.flatMap SlotLog.fill)
    let s1 := s1.putPreds (commitPreds logs all)
    let s1 := (s1.commitChans n c logs).applyTiles n (logs.flatMap SlotLog.tiles)
    let s1 := match logs.findSome? SlotLog.spcfg with | some v => s1.setSpcfg c v | none => s1
    let s1 := s1.countRows c cv fun _ => true
    let c1 := (s1.ctxAt n).commitFlags logs all
    let c1 := match logs.findSome? SlotLog.scalar with | some p => c1.setReg p.1 p.2 | none => c1
    s1.setCtx n { c1.markDirty (dirtyBits logs all true) with
      vstart := 0
      viq := []
      pc := cv.epc + BitVec.ofNat 64 cv.size
      retired := c1.retired + 1
      atWaypoint := cv.waypoint }
  | _, _ => s.setCtx n { c with viq := [], queued := [] }

/-- A convoy's last row commits and it retires, or it traps (R23, R26). -/
def execConvoyRetire (ctx : Nat) (s : State) : Host.Outcome State Fault Refusal :=
  match (s.ctxAt ctx).viq with
  | [] => .next s
  | cv :: _ =>
    if !cv.todo.isEmpty then .next s
    else match cv.whole, cv.fault with
      | some t, _ => .next (s.retireWhole ctx cv t)
      | none, some (k, t) => .next (if cv.atomic then s.retireAtomic ctx cv k t else s.retireElem ctx cv k t)
      | none, none => .next (s.retireOk ctx cv)

end Sys2Proof.Machine
end

