-- ==== Sys2Proof/Machine/Strands.lean ====
section
/-! DEFINITION. The life of a strand after its placement: the context image, ctx.save, ctx.rest, parking, the end of a
strand and vpart's return (R351 to R356, R358, R112, R295, R330). -/

namespace Sys2Proof.Machine

/-! ## Work of a strand that ctx.save waits for (R353) -/

/-- The pass FIFO of the context's share is empty in every spanned cluster. -/
def State.passesDone (s : State) (c : Ctx) : Bool :=
  decide (c.share = 0) || c.clusters.all fun cl => (s.bpAt cl c.shareNo).fifo.isEmpty

/-- Every dispatched matrix token has completed and the share's pass FIFO is empty. -/
def State.quiet (s : State) (c : Ctx) : Bool := !s.tokensLeft c && s.passesDone c

/-- A pipeline of the strand is Running. -/
def Ctx.pipeRuns (c : Ctx) : Bool := c.pipes.any fun e => e.2.state == .running

/-! ## The context image (R351, R352) -/

/-- Rounds up to a multiple of 4,096. -/
def up4k (n : Nat) : Nat := (n + 4095) / 4096 * 4096

/-- Offsets of the parts of an image: predicates, slices, matrix state, and its size. -/
def Ctx.imgPreds (c : Ctx) : Nat := 0x1000 + 4096 * c.clusters.length
def Ctx.imgSlices (c : Ctx) : Nat := c.imgPreds + up4k (104 * c.lanes)
def Ctx.imgMatrix (c : Ctx) : Nat := c.imgSlices + 512 * c.lanes
def Ctx.imgSize (c : Ctx) : Nat := c.imgMatrix + 5120 * c.shareRows * c.clusters.length

/-- Offset of a row of an item, in the view of the share: items 0 to 7 tiles, 8 to 11 accumulators, 12 to 19 index
tiles; k is the cluster's place in the span. -/
def Ctx.imgRow (c : Ctx) (k item row : Nat) : Nat :=
  c.imgMatrix + 5120 * c.shareRows * k +
    (if item < 8 then (item * c.shareRows + row) * 256
     else if item < 12 then 2560 * c.shareRows + ((item - 8) * c.shareRows + row) * 640
     else 2048 * c.shareRows + ((item - 12) * c.shareRows + row) * 64)

/-- Bytes of a row of an item. -/
def rowBytes (item : Nat) : Nat := if item < 8 then 256 else if item < 12 then 640 else 64

/-- Little-endian bytes of a number, none poisoned. -/
def plainBytes (n x : Nat) : List PByte := (leBytes n x).map fun b => (b, false)

/-- A row of an item of a cluster as memory bytes; a poisoned row is poisoned data (R214). -/
def State.rowImage (s : State) (cl item row : Nat) : List PByte :=
  let bad := s.tilePoison.contains (tilePoisonKey cl item row)
  let l : List Byte :=
    if item < 8 then (List.range 256).map fun i => smGet (0 : Byte) s.tiles (tileKey cl item row i)
    else if item < 12 then (List.range 128).flatMap fun j => leBytes 5 (s.accAt cl (item - 8) row j)
    else (List.range 64).map fun i =>
      BitVec.ofNat 8 (s.idxAt cl (item - 12) row (2 * i) + 16 * s.idxAt cl (item - 12) row (2 * i + 1))
  l.map fun b => (b, bad)

/-- The 32 bytes of slice block b of a physical lane (R132), poisoned by bank row (R111). -/
def State.blockImage (s : State) (lane b : Nat) : List PByte :=
  (List.range 32).map fun i =>
    let k := lane * 1024 + 64 * b + 2 * i
    (BitVec.ofNat 8 ((smGet (0 : Nib) s.slices k).toNat + 16 * (smGet (0 : Nib) s.slices (k + 1)).toNat),
      s.slicePoison.contains (k / 16))

/-- The predicates of a physical lane that an image holds: p0 to p11, then p13. -/
def imgPredNums : List Nat := List.range 12 ++ [13]

/-- The number of a pipeline's state in an image. -/
def PipeState.code : PipeState → Nat
  | .unbound => 0
  | .bound => 1
  | .running => 2
  | .frozen => 3
  | .done => 4

def PipeState.ofCode (n : Nat) : PipeState :=
  if n = 1 then .bound else if n = 2 then .running else if n = 3 then .frozen else if n = 4 then .done else .unbound

/-- The 32 bytes of a pipeline. -/
def pipeImage (p : Pipe) : List Byte :=
  ((p.desc ++ List.replicate 16 0).take 16) ++ leBytes 1 p.state.code ++ leBytes 1 (if p.preempted then 1 else 0) ++
  List.replicate 14 0

/-- The 16 bytes of a channel number. -/
def chanImage (b : Option ChanBind) : List Byte :=
  match b with
  | none => List.replicate 16 0
  | some b => (b.desc ++ List.replicate 16 0).take 14 ++ [1, 0]

/-- The configuration record of an actor that the strand holds in a cluster, or zeros. -/
def State.unitImage (s : State) (c : Ctx) (cl a : Nat) : List Byte :=
  let held := match s.grantIn c cl with
    | some g => if a < 24 then g.ags.contains a else g.jns.contains (a - 24)
    | none => false
  let rcd : List Byte :=
    if !held then []
    else if a < 24 then (match smFind a (s.clAt cl).ags with | some g => g.cfg | none => [])
    else match smFind (a - 24) (s.clAt cl).jns with | some j => j.cfg | none => []
  (rcd ++ List.replicate 64 0).take 64

/-- The header (R352): SEEN and TSEEN count this save's blocks and items. -/
def State.imgHeader (s : State) (c : Ctx) (pc : Word) : List Byte :=
  let l := leBytes 2 0x5843 ++ leBytes 1 1 ++ leBytes 1 0 ++ leBytes 4 (c.vspan.toNat % 2 ^ 32) ++ leBytes 8 c.imgSize ++
    leBytes 2 c.ten.toNat ++ leBytes 2 (c.tseen.toNat ||| (c.ten.toNat % 2 ^ 12)) ++
    leBytes 2 (c.seen.toNat ||| (c.vdirty.toNat % 2 ^ 16)) ++ leBytes 2 0 ++ leBytes 8 pc.toNat ++
    leBytes 4 c.pasid.toNat ++ leBytes 2 c.member ++ leBytes 2 c.queue ++ leBytes 8 s.time ++ leBytes 12 0
  l ++ leBytes 4 ((l.map BitVec.toNat).foldl (· + ·) 0)

/-- The first 0xA48 bytes of an image; `rd` is the register stored as 1 (log entry 92). -/
def State.imgFront (s : State) (c : Ctx) (pc : Word) (rd : Option XReg) : List Byte :=
  let x := fun (i : Nat) => if rd = some (BitVec.ofNat 5 i) ∧ i ≠ 0 then 1 else (c.reg (BitVec.ofNat 5 i)).toNat
  s.imgHeader c pc ++ (List.range 32).flatMap (fun i => leBytes 8 (x i)) ++
  (List.range 64).flatMap (fun i => leBytes 8 (s.csrRead c i).toNat) ++
  (List.range 64).flatMap (fun i => leBytes 8 (s.csrRead c (0x100 + i)).toNat) ++
  (List.range 64).flatMap (fun n => chanImage (smFind n c.chans)) ++
  (List.range 8).flatMap (fun n => pipeImage (c.pipe n)) ++
  leBytes 8 (if c.clusterSpan then (s.clAt c.firstCl).spcfg.toNat else 0)

/-- The pieces that a save writes: offset and bytes (log entry 28). -/
def State.imgPieces (s : State) (c : Ctx) (pc : Word) (rd : Option XReg) : List (Nat × List PByte) :=
  let plain := fun (l : List Byte) => l.map fun b => ((b, false) : PByte)
  [(0, plain (s.imgFront c pc rd))] ++
  (c.clusters.zipIdx.map fun p =>
    (0x1000 + 4096 * p.2, plain ((List.range 40).flatMap fun a => s.unitImage c p.1 a))) ++
  ((List.range c.lanes).map fun i =>
    (c.imgPreds + 104 * i, plain (imgPredNums.flatMap fun p => leBytes 8 (smGet (0 : Word) s.preds (c.laneNo i * 16 + p)).toNat))) ++
  ((List.range 16).flatMap fun b =>
    if c.vdirty.getLsbD b then
      (List.range c.lanes).map fun i => (c.imgSlices + 32 * c.lanes * b + 32 * i, s.blockImage (c.laneNo i) b)
    else []) ++
  (c.clusters.zipIdx.flatMap fun p => (List.range 20).flatMap fun item =>
    if c.ten.getLsbD (if item < 12 then item else item - 12) then
      (List.range c.shareRows).map fun r => (c.imgRow p.2 item r, s.rowImage p.1 item (c.shareBase + r))
    else [])

/-- Splits a piece where it crosses a multiple of 4,096. -/
def splitPages : Nat → Nat → List PByte → List (Nat × List PByte)
  | 0, _, _ => []
  | n + 1, off, l =>
    if l.isEmpty then []
    else let k := 4096 - off % 4096; (off, l.take k) :: splitPages n (off + k) (l.drop k)

/-- The elements that pieces at an address make. -/
def imgElems (a : Word) (l : List (Nat × Nat)) : List Elem :=
  l.map fun p => { e := 0, cl := 0, va := (a.toNat + p.1) % 2 ^ 64, bit := 0, bits := 8 * p.2 }

/-- Translates the pieces of an image as the accesses of the current context, class 15. -/
def State.imgResolve (s : State) (c : Ctx) (kind : AccKind) (a : Word) (l : List (Nat × Nat)) : Res (List (List Loc)) :=
  let els := imgElems a l
  match s.resolve c kind false 0 15 els els with
  | .ok (f, none) s' => .ok (els.map f) s'
  | .ok (_, some (_, t)) s' => .trap { t with elem := none } s'
  | .trap t s' => .trap { t with elem := none } s'
  | .ask q s' => .ask { q with elem := none } s'
  | .wait s' => .wait s'

/-- Writes an image of a context (R353). -/
def State.imgWrite (s : State) (c : Ctx) (a pc : Word) (rd : Option XReg) : Res Unit :=
  let l := (s.imgPieces c pc rd).flatMap fun p => splitPages (p.2.length / 4096 + 2) p.1 p.2
  (s.imgResolve c 1 a (l.map fun p => (p.1, p.2.length))).andThen fun locs s' =>
    .ok () (((locs.zip l).foldl (fun s p => s.putPBytes (p.1.zip p.2.2)) s'))

/-- The bytes of an image that a restore reads (log entry 30). -/
def State.imgRead (s : State) (c : Ctx) (a : Word) : Res (List PByte) :=
  let l := (List.range ((c.imgSize + 4095) / 4096)).map fun k => (4096 * k, min 4096 (c.imgSize - 4096 * k))
  (s.imgResolve c 0 a l).andThen fun locs s' =>
    .ok (locs.flatten.map fun b => (s'.locByte b, s'.locPoison b)) s'

/-- After a save: SEEN and TSEEN, a clean VDIRTY, and TEN = 0 when LAZY. -/
def Ctx.saved (c : Ctx) (lazy : Bool) : Ctx :=
  { c with
    seen := c.seen ||| c.vdirty.setWidth 16
    tseen := c.tseen ||| c.ten.setWidth 12
    vdirty := 0
    ten := if lazy then 0 else c.ten }

/-! ## Slots (R339) and parking (R355) -/

/-- Entries of a queue. -/
def Queue.count (q : Queue) : Nat := q.resume.length + (q.tail - q.head)

def State.queueAt (s : State) (n : Nat) : Queue := smGet ({} : Queue) s.queues n

def State.setQueue (s : State) (n : Nat) (q : Queue) : State := { s with queues := smPut n q s.queues }

/-- The physical address of the record at the head of a queue's ring. -/
def Queue.headPa (q : Queue) : Nat := q.base.toNat + 64 * (q.head % 2 ^ q.log2n)

/-- The record at the head of a queue's ring, one whose write waits for its stack included. -/
def State.headBytes (s : State) (q : Queue) : List Byte :=
  match s.waiting.find? fun w => decide (w.1 = q.headPa) with
  | some w => w.2
  | none => s.readPhys q.headPa 64

/-- The head's record can be read: its stack is awake and its write is performed (R437). -/
def State.headAwake (s : State) (q : Queue) : Bool :=
  !s.asleepRange q.headPa 64 && !s.waiting.any fun w => decide (w.1 = q.headPa)

/-- Priority of a record in its queue (R335). -/
def Queue.priOf (q : Queue) (l : List Byte) : Nat := min (byteAt l 20 / 8 % 4) q.maxpri

/-- The parked strand of a resume entry. -/
def State.parkedAt (s : State) (sid : Nat) : Option Ctx := s.parked.find? fun c => decide (c.sid = sid)

/-- The base priority of a queue: that of its head (R336); of a head that cannot be read yet, 0 (log entry 35). -/
def State.basePri (s : State) (q : Queue) : Nat :=
  match q.resume with
  | sid :: _ => ((s.parkedAt sid).map fun c => c.record.pri).getD 0
  | [] => if s.headAwake q then q.priOf (s.headBytes q) else 0

/-- The effective priority (R340). -/
def State.effPri (s : State) (q : Queue) : Nat :=
  min 3 (s.basePri q + (if 48 ≤ q.w then 3 else if 32 ≤ q.w then 2 else if 16 ≤ q.w then 1 else 0))

/-- Queue `a` ranks before queue `b` (R340). -/
def State.ranksBefore (s : State) (a b : Nat × Queue) : Bool :=
  let pa := s.effPri a.2
  let pb := s.effPri b.2
  decide (pb < pa) || (decide (pa = pb) && (decide (b.2.w < a.2.w) || (decide (a.2.w = b.2.w) && decide (a.1 < b.1))))

/-- The queues with pending work, best first. -/
def State.ranking (s : State) : List Nat :=
  ((s.queues.filter fun e => decide (0 < e.2.count)).mergeSort fun a b => s.ranksBefore a b || decide (a.1 = b.1)).map Prod.fst

/-- Maps a queue to the lowest vacant slot: W starts afresh. -/
def State.mapQueue (s : State) (q : Nat) : State :=
  match (List.range 64).find? fun k => (smFind k s.slots).isNone with
  | none => s
  | some k => ({ s with slots := smPut k { queue := q } s.slots } : State).setQueue q { s.queueAt q with w := 0 }

/-- Empties the slots of queues without entries and fills vacant slots (R339). -/
def State.fillSlots (s : State) : State :=
  let s : State := { s with slots := s.slots.filter fun e => decide (0 < (s.queueAt e.2.queue).count) }
  let free := 64 - s.slots.length
  ((s.ranking.filter fun q => !s.slots.any fun e => decide (e.2.queue = q)).take free).foldl State.mapQueue s

/-- The context that a strand leaves: free and holding nothing, its registers and pipelines as they stood (R356, R361)
(log entry 79). -/
def Ctx.freed (c : Ctx) : Ctx :=
  { c with
    mode := .free, wait := none, chans := [], viq := [], queued := [], async := [], preemptDue := none, preemptEntry := none
    graceOver := false, group := none, remote := .idle, inval := none, reply := none, poisoned := false, atWaypoint := false, sid := 0
    queue := 0, record := {}, recordId := 0, gangId := 0, member := 0, placedAt := 0, grants := [], parent := none
    children := [], vparts := [], group8 := 0, part := 0, image := 0, frozenUnits := [] }

/-- A strand leaves its context and its clusters, which it was the last to occupy (R245); for the slots whose victim it
was, it has given up its span (R347, R350). -/
def State.vacate (s : State) (n : Nat) : State :=
  let c := s.ctxAt n
  let s := c.clusters.foldl (fun (s : State) cl => s.setCl cl { s.clAt cl with lastPasid := some c.pasid }) s
  let s : State := { s with slots := s.slots.map fun e =>
    (e.1, { e.2 with victims := e.2.victims.filter fun k => decide (k ≠ c.sid) }) }
  s.setCtx n c.freed

/-- The head of a queue's slot is another one: it waits afresh, nothing is reserved for it, and it has no victims yet
(R345, R347). -/
def State.newHead (s : State) (q : Nat) : State :=
  { s with slots := s.slots.map fun e =>
    (e.1, if e.2.queue = q then { e.2 with waited := 0, reserved := [], victims := [] } else e.2) }

/-- A parked strand's resume entry leaves its queue; with the head's goes what the head had (R345). -/
def State.dropResume (s : State) (p : Ctx) : State :=
  let q := s.queueAt p.queue
  let u := s.setQueue p.queue { q with resume := nsDel p.sid q.resume }
  if q.resume.head? = some p.sid then u.newHead p.queue else u

/-- Takes a parked strand out of the package. -/
def State.unpark (s : State) (p : Ctx) : State :=
  ({ s with parked := s.parked.filter fun x => decide (x.sid ≠ p.sid) } : State).dropResume p

/-- Parks a strand: its context is free, and a resume entry goes to the front of its queue. -/
def State.park (s : State) (n : Nat) (image : Word) : State :=
  let c := s.ctxAt n
  let p : Ctx := { c with
    mode := .parked, image := image, wait := none, viq := [], queued := [], remote := .idle, group := none
    preemptDue := none
    preemptEntry := none, graceOver := false }
  let q := s.queueAt c.queue
  let s : State := { s.vacate n with parked := s.parked ++ [p] }
  ((s.setQueue c.queue { q with resume := c.sid :: q.resume }).newHead c.queue).fillSlots

/-- Vpart children of a context that are resident. -/
def State.childrenIn (s : State) (n : Nat) : List Nat :=
  (s.ctxs.filter fun e => decide (e.2.mode ≠ .free) && decide (e.2.parent = some n)).map Prod.fst

/-! ## ctx.save and ctx.rest (R353, R354) -/

/-- A remote access of a strand has no accepted acknowledgement yet (R295). -/
def State.unaccepted (s : State) (sid : Nat) : Bool :=
  s.glox.packets.any fun p => decide (p.sid = sid) && p.accepted.isNone

/-- The remote stores of a strand still to be visible belong to an image (R295). -/
def State.markSaved (s : State) (sid : Nat) (pasid a : Word) : State :=
  { s with glox := { s.glox with packets := s.glox.packets.map fun p =>
    if p.sid = sid ∨ sid ∈ p.heirs then { p with saved := (pasid, a) :: p.saved } else p } }

/-- A strand that restores an image awaits the remote stores made before the save as its own (R295). -/
def State.inherit (s : State) (sid : Nat) (pasid a : Word) : State :=
  { s with glox := { s.glox with packets := s.glox.packets.map fun p =>
    if (p.saved.contains (pasid, a)) = true then { p with heirs := nsAdd sid p.heirs } else p } }

/-- ctx.save. A parent's PARK waits until its children have parked (R358). -/
def execCtxSave (rd ra rb : XReg) (s : State) : Host.Outcome State Fault Refusal :=
  let c := s.me
  let word := parcelOf (.ctxSave rd ra rb)
  let a := c.reg ra
  let f := (c.reg rb).toNat
  if !c.sup then .next (s.trapPriv 0 word)
  else if a.toNat % 4096 ≠ 0 then .next (s.trap causeMisalign 2 a)
  else if 4 ≤ f then .next (s.trap causeOperand 6 (BitVec.ofNat 64 word))
  else if c.pipeRuns then .next (s.trap causeOperand 10 (BitVec.ofNat 64 word))
  else if !s.quiet c || s.unaccepted c.sid || (decide (f % 2 = 1) && !(s.childrenIn s.cur).isEmpty) then .next s.block
  else
    let s := s.absorb s.cur
    let c := s.me
    .next (s.finish ((s.imgWrite c a (c.pc + 4) (some rd)).andThen fun _ s' =>
    let s' := (s'.markSaved c.sid c.pasid a).releasePackage s'.cur
    let s'' := s'.setMe (((s'.me.saved (decide (2 ≤ f))).setReg rd 0).advance)
    .ok () (if f % 2 = 1 then s''.park s''.cur a else s'')))

/-- The words of an image that may be poisoned: those of slices and of matrix state. -/
def Ctx.imgSoft (c : Ctx) (word : Nat) : Bool := decide (c.imgSlices ≤ 8 * word)

/-- The first poisoned word of an image that raises HW_UE. -/
def Ctx.imgBad (c : Ctx) (l : List PByte) : Option Nat :=
  (l.zipIdx.find? fun p => p.1.2 && !c.imgSoft (p.2 / 8)).map fun p => p.2 / 8

/-- ID, VERSION and CHECK. -/
def imgHeaderOk (l : List Byte) : Bool :=
  fieldAt l 0 2 == 0x5843 && byteAt l 2 == 1 &&
  fieldAt l 60 4 == ((l.take 60).map BitVec.toNat).foldl (· + ·) 0 % 2 ^ 32

/-- 0 none, 1 half, 2 full share. -/
def shareKind (w : Nat) : Nat := if w = 3 then 2 else if w = 0 then 0 else 1

/-- The image's span, share and PASID are those of a context. -/
def Ctx.imgFits (c : Ctx) (l : List Byte) : Bool :=
  let sp := fieldAt l 4 4
  decide (sp % 2 ^ 16 = c.lanes) && decide (sp / 2 ^ 29 % 2 = 1) == c.clusterSpan &&
  decide (shareKind (sp / 2 ^ 30) = shareKind c.share) && decide (fieldAt l 32 4 = c.pasid.toNat)

/-- The image holds a channel, pipeline or unit record. -/
def Ctx.imgFabric (c : Ctx) (l : List Byte) : Bool :=
  ((List.range 64).any fun n => byteAt l (0x540 + 16 * n + 14) % 2 == 1) ||
  ((List.range 8).any fun n => byteAt l (0x940 + 32 * n + 16) != 0) ||
  (List.range c.clusters.length).any fun k => ((l.drop (0x1000 + 4096 * k)).take 2560).any fun b => b != 0

/-- A CSR of an image (log entry 29). -/
def imgCsr (l : List Byte) (n : Nat) : Word :=
  BitVec.ofNat 64 (fieldAt l (if n < 0x100 then 0x140 + 8 * n else 0x340 + 8 * (n - 0x100)) 8)

/-- The registers and CSRs of an image in a context (R354), reserved bits dropped; the descriptor is captured afresh. -/
def Ctx.restoreRegs (c : Ctx) (l : List Byte) (lazy : Bool) (desc : Option PteFormat) : Ctx :=
  let r := fun (n bits : Nat) => lowBits bits (imgCsr l n)
  { c with
    x := Vector.ofFn fun i => if i.val = 0 then 0 else BitVec.ofNat 64 (fieldAt l (0x40 + 8 * i.val) 8)
    pc := clearLow 2 (BitVec.ofNat 64 (fieldAt l 24 8))
    vl := r 0 20, vstart := r 1 20, vdirty := 0, dirtySince := 0xFFFF, efc := r 5 32, modq := r 6 30, fcsr := r 8 16
    tcfg := Vector.ofFn fun i => r (0x10 + i.val) 40 &&& ~~~(0x1FF8 : Word)
    ten := if lazy then 0 else lowBits 12 (BitVec.ofNat 64 (fieldAt l 16 2))
    accfmt := r 0x19 8, mxm := r 0x1A 8, mxn := r 0x1B 8, mxk := r 0x1C 8, mxlat := 0
    retired := r 0x21 64
    lidx := Vector.ofFn fun i => r (0x24 + i.val) 12
    status := r 0x100 3, stvec := clearLow 2 (r 0x101 64), cause := r 0x102 8, epc := clearLow 2 (r 0x103 64)
    eval := r 0x104 64, esub := r 0x105 11, eelem := r 0x106 20, sscratch := r 0x107 64
    ptroot := clearLow 3 (r 0x110 60), ptdesc := clearLow 5 (r 0x111 60), pasid := r 0x112 20
    quantum := r 0x120 16, wdog := r 0x121 32
    desc := desc
    seen := BitVec.ofNat 16 (fieldAt l 20 2), tseen := BitVec.ofNat 12 (fieldAt l 18 2) }

/-- Removes the slices and predicates of a run of physical lanes: all read 0, unpoisoned. -/
def State.clearLanes (s : State) (lane n : Nat) : State :=
  { s with
    slices := smClear (lane * 1024) (n * 1024) s.slices
    slicePoison := s.slicePoison.filter fun k => decide (k < lane * 64) || decide ((lane + n) * 64 ≤ k)
    preds := smClear (lane * 16) (n * 16) s.preds }

/-- Zeroes the rows of a cluster's tiles, index tiles and accumulators that a share sees, and clears their poison. -/
def State.clearMatrix (s : State) (cl base rows : Nat) : State :=
  let s := (List.range 8).foldl (fun (s : State) t => { s with
    tiles := smClear (tileKey cl t base 0) (rows * 256) s.tiles
    idxs := smClear (idxKey cl t base 0) (rows * 128) s.idxs }) s
  let s := (List.range 4).foldl (fun (s : State) a => { s with accs := smClear (accKey cl a base 0) (rows * 128) s.accs }) s
  { s with tilePoison := s.tilePoison.filter fun k =>
      !(decide (k / 128 / 20 = cl) && decide (base ≤ k % 128) && decide (k % 128 < base + rows)) }

/-- Restores the slices, predicates and matrix state of a context from an image. -/
def State.restoreBulk (s : State) (c : Ctx) (l : List PByte) : State :=
  let bytes := l.map Prod.fst
  let bad := fun (off n : Nat) => ((l.drop off).take n).any Prod.snd
  let s := s.clearLanes (c.laneNo 0) c.lanes
  let s := c.clusters.foldl (fun s cl => s.clearMatrix cl c.shareBase c.shareRows) s
  let s := (List.range c.lanes).foldl (fun (s : State) i =>
    let d := bytes.drop (c.imgPreds + 104 * i)
    imgPredNums.zipIdx.foldl (fun (s : State) p =>
      { s with preds := smSet 0 s.preds (c.laneNo i * 16 + p.1) (BitVec.ofNat 64 (fieldAt d (8 * p.2) 8)) }) s) s
  let s := (List.range 16).foldl (fun s b =>
    if !c.seen.getLsbD b then s
    else (List.range c.lanes).foldl (fun (s : State) i =>
      let off := c.imgSlices + 32 * c.lanes * b + 32 * i
      let d := bytes.drop off
      let key := c.laneNo i * 1024 + 64 * b
      let s := (List.range 64).foldl (fun (s : State) j =>
        { s with slices := smSet 0 s.slices (key + j) (BitVec.ofNat 4 (byteAt d (j / 2) / 16 ^ (j % 2))) }) s
      (List.range 4).foldl (fun (s : State) w =>
        if bad (off + 8 * w) 8 then { s with slicePoison := nsAdd (key / 16 + w) s.slicePoison } else s) s) s) s
  c.clusters.zipIdx.foldl (fun s p => (List.range 20).foldl (fun s item =>
    if !c.tseen.getLsbD (if item < 12 then item else item - 12) then s
    else (List.range c.shareRows).foldl (fun (s : State) r =>
      let off := c.imgRow p.2 item r
      let d := bytes.drop off
      let row := c.shareBase + r
      let s := if item < 8 then (List.range 256).foldl (fun (s : State) i =>
          { s with tiles := smSet 0 s.tiles (tileKey p.1 item row i) (d.getD i 0) }) s
        else if item < 12 then (List.range 128).foldl (fun (s : State) j =>
          { s with accs := smSet 0 s.accs (accKey p.1 (item - 8) row j) (BitVec.ofNat 40 (fieldAt d (5 * j) 5)) }) s
        else (List.range 128).foldl (fun (s : State) j =>
          { s with idxs := smSet 0 s.idxs (idxKey p.1 (item - 12) row j) (BitVec.ofNat 4 (byteAt d (j / 2) / 16 ^ (j % 2))) }) s
      if bad off (rowBytes item) then { s with tilePoison := nsAdd (tilePoisonKey p.1 item row) s.tilePoison } else s) s) s) s

/-- The capture of a descriptor at placement or ctx.rest: without a valid table the context has no format, and the first
poisoned word is counted (R363). -/
def State.captureFor (s : State) (ptdesc : Word) : Option PteFormat × State :=
  match s.captureDesc ptdesc with
  | .ok d => (some d, s)
  | .invalid => (none, s)
  | .poison => (none, match (s.wordsAt ptdesc.toNat 32).find? fun w => s.memPoison.contains w with
    | some w => s.countPoison 0 { scratch := false, key := 8 * w, va := 8 * w }
    | none => s)

/-- Restores a context from an image that has been read and found right: registers, CSRs, bulk state, and for a
cluster span the scratchpad configuration. -/
def State.restoreCtx (s : State) (n : Nat) (l : List PByte) (lazy : Bool) : State :=
  let bytes := l.map Prod.fst
  let d := s.captureFor (clearLow 5 (lowBits 60 (imgCsr bytes 0x111)))
  let c := (d.2.ctxAt n).restoreRegs bytes lazy d.1
  let s := (d.2.setCtx n c).restoreBulk c l
  (if c.clusterSpan then s.setSpcfg c (BitVec.ofNat 64 (fieldAt bytes 0xA40 8) &&& 0x31) else s).acquire n

/-- The descriptor that a restore captures can be read. -/
def State.imgAwake (s : State) (l : List PByte) : Bool :=
  s.descAwake (clearLow 5 (lowBits 60 (imgCsr (l.map Prod.fst) 0x111)))

/-- ctx.rest. -/
def execCtxRest (ra rb : XReg) (s : State) : Host.Outcome State Fault Refusal :=
  let c := s.me
  let word := parcelOf (.ctxRest ra rb)
  let a := c.reg ra
  let f := (c.reg rb).toNat
  let illegal := fun (n : Nat) (s : State) => Res.trap (α := Unit) (trapOf causeOperand n (BitVec.ofNat 64 word)) s
  if !c.sup then .next (s.trapPriv 0 word)
  else if a.toNat % 4096 ≠ 0 then .next (s.trap causeMisalign 2 a)
  else if 4 ≤ f ∨ f % 2 = 1 then .next (s.trap causeOperand 6 (BitVec.ofNat 64 word))
  else if c.pipeRuns then .next (s.trap causeOperand 10 (BitVec.ofNat 64 word))
  else if !s.quiet c then .next s.block
  else .next (s.finish ((s.imgRead c a).andThen fun l s' =>
    let bytes := l.map Prod.fst
    match c.imgBad l with
    | some w => .trap (trapOf causeHwUe 5 (a + BitVec.ofNat 64 (8 * w))) s'
    | none =>
      if !imgHeaderOk bytes then illegal 12 s'
      else if !c.imgFits bytes || c.imgFabric bytes then illegal 13 s'
      else if !s'.imgAwake l then .wait s.block
      else .ok () (((s'.cleanChildren c).restoreCtx s'.cur l (decide (2 ≤ f))).inherit c.sid c.pasid a)))

/-! ## The end of a strand (R356, R330, R399) -/

/-- A context whose strand may end: its tokens and passes are done, and its remote stores accepted (R353, R356). -/
def State.spent (s : State) (n : Nat) : Bool := s.quiet (s.ctxAt n) && !s.unaccepted (s.ctxAt n).sid

/-- A strand has commands in a copy engine. -/
def State.hasCopies (s : State) (sid : Nat) : Bool :=
  s.clusters.any fun k => k.2.copies.any fun e =>
    e.2.fifo.any (fun x => decide (x.sid = sid)) || (match e.2.active with | some x => decide (x.sid = sid) | none => false)

/-- Frees the units of a grant: their configurations go. -/
def State.freeUnits (s : State) (g : Grant) : State :=
  let k := s.clAt g.cluster
  s.setCl g.cluster { k with
    ags := k.ags.filter fun e => !g.ags.contains e.1
    jns := k.jns.filter fun e => !g.jns.contains e.1 }

/-- Command channels that a strand configured go with it. -/
def State.freeCmds (s : State) (sid : Nat) : State :=
  { s with clusters := s.clusters.map fun k => (k.1, { k.2 with
      nodeCmd := k.2.nodeCmd.bind fun m => if m.sid = sid then none else some m
      copyCmd := k.2.copyCmd.filter fun e => decide (e.2.sid ≠ sid) }) }

/-- A strand still matters to an exchange instance that is not Closed. -/
def State.inExchange (s : State) (sid : Nat) : Bool :=
  s.xsets.any fun x => x.2.insts.any fun i => i.2.members.any fun m =>
    decide (m.2.state ≠ .closed) && (decide (m.2.recvSid = sid) || decide (m.2.postSid = sid) ||
      (m.2.sends ++ m.2.unacked).any fun q => decide (q.sid = sid))

/-- A member of a gang is gone: the last one unbinds the gang milestone. -/
def State.leaveGang (s : State) (c : Ctx) : State :=
  match smFind c.gangId s.gangs with
  | none => s
  | some g =>
    if g.live ≤ 1 then
      let s : State := { s with gangs := smDel c.gangId s.gangs }
      match g.ms with
      | some m => let name : MsName := { num := m, pkg := true }
        s.setMs 0 name { s.msAt 0 name with gang := false }
      | none => s
    else { s with gangs := smPut c.gangId { g with live := g.live - 1, members := nsDel c.sid g.members } s.gangs }

/-- A strand of a record is gone: after the last one SIGMS receives its arrival. -/
def State.leaveRecord (s : State) (c : Ctx) : State :=
  match smFind c.recordId s.recs with
  | none => s
  | some r =>
    if r.left ≤ 1 then
      let s : State := { s with recs := smDel c.recordId s.recs }
      match r.sig with | some m => s.arrive 0 m none | none => s
    else { s with recs := smPut c.recordId { r with left := r.left - 1 } s.recs }

/-- A child has ended: its lanes' slices are the parent's again, with what was written there (R129), and the parent, waiting
in vpart, goes on when no child is left (R358) (log entry 91). -/
def State.leaveParent (s : State) (c : Ctx) : State :=
  match c.parent with
  | none => s
  | some n =>
    let p := s.ctxAt n
    let p := { p.markDirty c.dirtySince with children := nsDel c.sid p.children }
    match p.wait with
    | some (.vpart rd) =>
      if p.children.isEmpty then
        s.setCtx n (({ p with wait := none, vparts := p.vparts.filter fun a => decide (a ≠ p.pc) }.setReg rd 0).advance)
      else s.setCtx n p
    | _ => s.setCtx n p

/-- What a strand gives up when it ends, whether it is resident or parked. -/
def State.release (s : State) (c : Ctx) : State :=
  let s := s.dropCopies c.sid
  let s := c.chans.foldl (fun s e => s.unbindRing e.2.cluster e.2.ring c.sid e.1) s
  let s := if c.parent.isSome then s else c.grants.foldl State.freeUnits s
  let s := (s.freeCmds c.sid).dropExchange c.sid
  let s : State := { s with ended := (s.ended ++ [c]).filter fun e => s.hasCopies e.sid || s.inExchange e.sid }
  ((s.leaveGang c).leaveRecord c).leaveParent c

/-- The end of a resident strand whose tokens and passes are done: its Running pipelines stop, its accesses are performed at
package scope, and its context, span and units are free. -/
def State.endOne (s : State) (n : Nat) : State :=
  let s := s.releasePackage n
  let c := s.ctxAt n
  let s := c.pipes.foldl (fun s e => if e.2.state = .running ∨ e.2.state = .frozen then s.stopPipe n e.1 e.2 else s) s
  let s := c.pipes.foldl (fun s e =>
    if e.2.state = .unbound then s else s.releaseIdx e.2.cluster (descMembers e.2.desc)) s
  let c := s.ctxAt n
  ((s.vacate n).release c).fillSlots

/-- The end of a strand; a parent's children end with it. -/
def State.endStrand (s : State) (n : Nat) : State :=
  let c := s.ctxAt n
  let s := (s.childrenIn n).foldl State.endOne s
  let s := (s.parked.filter fun p => c.children.contains p.sid).foldl (fun (s : State) p => (s.unpark p).release p) s
  s.endOne n

end Sys2Proof.Machine
end

