-- ==== Sys2Proof/Machine/Exchange.lean ====
section
/-! DEFINITION. Gloxel and the Interchange: acknowledgements of remote accesses, route tables and rt.upd, exchange sets,
phase calendars, streams and failover (R382 to R406). -/

namespace Sys2Proof.Machine

/-! ## Acknowledgements (R385 to R387, R389) -/

/-- OUT of a version falls by 1; a plane that held new packets for its old version lets them go at 0. -/
def State.unstamp (s : State) (plane : Nat) (ver : Bool) : State :=
  let k := outKey plane ver
  let n := smGet 0 s.glox.stamped k - 1
  let g := { s.glox with stamped := smSet 0 s.glox.stamped k n }
  { s with glox := if n = 0 ∧ ver ≠ smGet false g.version plane then { g with holding := nsDel plane g.holding } else g }

def State.returned (s : State) (p : Packet) : State := s.unstamp p.plane p.ver

/-- The context whose instruction waits for a packet. -/
def State.waiterOf (s : State) (p : Packet) : Option Nat :=
  let c := s.ctxAt p.ctx
  if p.waits ∧ c.mode = .resident ∧ c.sid = p.sid then
    (match c.remote with | .waiting _ => some p.ctx | _ => none)
  else none

/-- Records the outcome of a packet for the instruction that waits; when no packet of it is left the instruction runs
again. -/
def State.answer (s : State) (p : Packet) (bad : Option (Nat × TrapInfo)) : State :=
  match s.waiterOf p with
  | none => s
  | some n =>
    let c := s.ctxAt n
    let old := match c.remote with | .waiting w => w | _ => none
    let worst := match old, bad with
      | some a, some b => if b.1 < a.1 then some b else some a
      | some a, none => some a
      | none, b => b
    let left := s.glox.packets.any fun q => decide (q.ctx = n) && decide (q.sid = p.sid) && q.waits && decide (q.num ≠ p.num)
    s.setCtx n (if left then { c with remote := .waiting worst }
      else { c with wait := none, remote := match worst with | some w => .fault w.1 w.2 | none => .ok })

/-- Replaces a packet, or removes it. -/
def State.setPacket (s : State) (n : Nat) (p : Option Packet) : State :=
  { s with glox := { s.glox with packets := s.glox.packets.filterMap fun q => if q.num = n then p else some q } }

def State.packetAt (s : State) (n : Nat) : Option Packet := s.glox.packets.find? fun p => decide (p.num = n)

/-- Accepted: a store now awaits its visible acknowledgement. -/
def execAckAccepted (packet : Nat) (s : State) : Host.Outcome State Fault Refusal :=
  match s.packetAt packet with
  | some p =>
    if p.accepted.isSome then .next s
    else
      let s := (s.returned p).answer p none
      .next (s.setPacket packet (if p.store then some { p with accepted := some s.ticks, waits := false } else none))
  | none => .next s

/-- Visible. -/
def execAckVisible (packet : Nat) (s : State) : Host.Outcome State Fault Refusal :=
  match s.packetAt packet with
  | some p => if p.accepted.isSome then .next (s.setPacket packet none) else .next s
  | none => .next s

/-- A refusal: REMOTE_NACK with its reason for an element of the packet, the lowest that its target cannot perform. -/
def execRemoteNack (packet : Nat) (refused : RefusedElem) (s : State) : Host.Outcome State Fault Refusal :=
  let reason := refused.reason
  match s.packetAt packet with
  | some p =>
    if p.accepted.isSome ∨ reason = 0 ∨ 5 < reason.toNat then .next s
    else match p.elems[refused.elem]? with
      | some e => .next (((s.returned p).answer p (some (e.1, nackOf e.2.toNat reason.toNat))).setPacket packet none)
      | none => .next s
  | none => .next s

/-- No accepted acknowledgement within 200 µs. -/
def execRemoteTimeout (packet : Nat) (s : State) : Host.Outcome State Fault Refusal :=
  match s.packetAt packet with
  | some p =>
    if p.waits ∧ p.accepted = none ∧ p.sentAt + usTicks 200 ≤ s.ticks then
      let e := p.elems.headD (0, 0)
      .next ((s.answer p (some (e.1, trapOf causeRemoteTimeout 1 e.2))).setPacket packet (some { p with waits := false }))
    else .next s
  | none => .next s

/-- The contexts whose fences of level visible await a store. -/
def State.fenceAwaits (s : State) (p : Packet) : List Nat :=
  (p.sid :: p.heirs).filterMap fun k => match s.ctxOf k with
    | some n => match (s.ctxAt n).wait with
      | some (.fence mask) => if p.store ∧ mask.getLsbD p.cls = true then some n else none
      | _ => none
    | none => none

/-- No visible acknowledgement within 200 µs of the accepted one: the fence stops waiting for the store, and the strand
takes REMOTE_TIMEOUT after it. -/
def execVisibleAckTimeout (packet : Nat) (s : State) : Host.Outcome State Fault Refusal :=
  match s.packetAt packet with
  | some p => match p.accepted with
    | some a =>
      let l := s.fenceAwaits p
      if a + usTicks 200 ≤ s.ticks ∧ l ≠ [] then
        .next (l.foldl (fun s n => s.due n (trapOf causeRemoteTimeout 2 (p.elems.headD (0, 0)).2)) (s.setPacket packet none))
      else .next s
    | none => .next s
  | none => .next s

/-! ## Ports (R383, R436) -/

def execGloxelPortDown (port : Nat) (s : State) : Host.Outcome State Fault Refusal :=
  .next (if port < 16 then { s with glox := { s.glox with down := nsAdd port s.glox.down } } else s)

def execPortRepair (port : Nat) (s : State) : Host.Outcome State Fault Refusal :=
  .next { s with glox := { s.glox with down := nsDel port s.glox.down } }

/-- A port runs at half its width; the repair map keeps it for the next boot (R436). -/
def execLinkDegrade (port : Nat) (s : State) : Host.Outcome State Fault Refusal :=
  .next (if port < 16 then
    { s with glox := { s.glox with degraded := nsAdd port s.glox.degraded }
             repair := { s.repair with ports := nsAdd port s.repair.ports } } else s)

/-! ## rt.upd (R390, R391) -/

def rtOp (l : List Byte) : Nat := byteAt l 0
def rtPlane (l : List Byte) : Nat := byteAt l 1
def rtVer (l : List Byte) : Bool := byteAt l 4 == 1

/-- A record keeps its table. -/
def rtRecordOk (l : List Byte) : Bool :=
  let sw := fieldAt l 2 2
  decide (rtOp l ≤ 2) && decide (rtPlane l ≤ 15) && decide (byteAt l 4 ≤ 1) && zeroAt l 5 3 && zeroAt l 12 4 && zeroAt l 24 8 &&
  (if rtOp l = 0 then
     decide (sw / 256 % 128 = 0) && decide (sw % 256 < if sw / 2 ^ 15 = 1 then 64 else 128) &&
     decide (1 ≤ fieldAt l 10 2) && decide (fieldAt l 8 2 + fieldAt l 10 2 ≤ 8192)
   else sw == 0 && zeroAt l 8 4 && zeroAt l 16 8)

/-- OUT of a version at this endpoint's ingress, and its sum over every ingress of the plane. -/
def State.outHere (s : State) (plane : Nat) (ver : Bool) : Nat := (smGet 0 s.glox.stamped (outKey plane ver)).toNat
def State.outSum (s : State) (plane : Nat) (ver : Bool) : Nat :=
  (s.outHere plane ver + smGet 0 s.glox.others (outKey plane ver)) % 2 ^ 32

/-- The plane's current version: that of the last FLIP under way, or the one stamped. -/
def State.planeVersion (s : State) (plane : Nat) : Bool := ((smGet [] s.glox.flips plane).getLast?).getD (s.verOf plane)

/-- Writes entries of a switch from a destination on; the reserved bits are dropped. -/
def writeRoutes (plane : Nat) (spine : Bool) (sw : Nat) (ver : Bool) : Nat → List Nat → SMap (BitVec 16) → SMap (BitVec 16)
  | _, [], m => m
  | d, e :: l, m =>
    writeRoutes plane spine sw ver (d + 1) l (smSet 0 m (routeKey plane spine sw ver d) (BitVec.ofNat 16 e &&& 0x80FF))

/-- The operation at the plane: its reply and the new state. `entries` are the bytes of a WRITE. Status 1 comes before 3, and
3 before 2 (log entry 95). -/
def State.rtDo (s : State) (l entries : List Byte) : Word × State :=
  let p := rtPlane l
  let v := rtVer l
  let reply := fun (st sum : Nat) (s : State) =>
    (BitVec.ofNat 64 (sum * 2 ^ 32 + (if s.planeVersion p then 256 else 0) + st), s)
  if smGet 0 s.glox.manager p ≠ s.glox.endpoint then reply 1 0 s
  else if s.glox.down.contains p then reply 3 0 s
  else if rtOp l = 2 then reply 0 (s.outSum p v) s
  else if rtOp l = 1 then
    if v = s.planeVersion p then reply 0 0 s
    else reply 0 0 { s with glox := { s.glox with flips := smPut p (smGet [] s.glox.flips p ++ [v]) s.glox.flips } }
  else if v = s.planeVersion p ∨ s.outSum p v ≠ 0 then reply 2 0 s
  else
    let sw := fieldAt l 2 2
    let es := (List.range (fieldAt l 10 2)).map fun i => fieldAt entries (2 * i) 2
    reply 0 0 { s with glox := { s.glox with
      routes := writeRoutes p (decide (sw / 2 ^ 15 = 1)) (sw % 256) v (fieldAt l 8 2) es s.glox.routes } }

/-- rt.upd: the packet goes to the plane, and the strand waits for the reply. -/
def State.rtUpd (s : State) (word : Nat) (rd ra : XReg) : Host.Outcome State Fault Refusal :=
  let c := s.me
  let a := c.reg ra
  if !c.sup then .next (s.trapPriv 0 word)
  else if a.toNat % 8 ≠ 0 then .next (s.trap causeMisalign 2 a)
  else .next (s.finish ((s.readVirt c 15 a.toNat 32).andThen fun l s' =>
    if !rtRecordOk l then .trap (trapOf causeOperand 12 (BitVec.ofNat 64 word)) s'
    else (if rtOp l = 0 then s'.readVirt c 15 (fieldAt l 16 8) (2 * fieldAt l 10 2) else .ok [] s').andThen fun e s'' =>
      let r := s''.rtDo l e
      .ok () (r.2.setMe { r.2.me with wait := some (.rtUpd rd), reply := some r.1 })))

def execRtUpdWrite (rd ra : XReg) (s : State) := s.rtUpd (parcelOf (.rtUpdWrite rd ra)) rd ra
/-- The row of OP 1. -/
def execRtUpdFlip (rd ra : XReg) (s : State) := s.rtUpd (parcelOf (.rtUpdWrite rd ra)) rd ra
/-- The row of OP 2. -/
def execRtUpdQuery (rd ra : XReg) (s : State) := s.rtUpd (parcelOf (.rtUpdWrite rd ra)) rd ra

/-- The reply arrives, once no FLIP of this endpoint is on its way to its ingress. -/
def execRtUpdReply (ctx : Nat) (s : State) : Host.Outcome State Fault Refusal :=
  let c := s.ctxAt ctx
  match c.wait, c.reply with
  | some (.rtUpd rd), some v =>
    if !s.glox.flips.isEmpty then .next s
    else .next (s.setCtx ctx (({ c with wait := none, reply := none }.setReg rd v).advance))
  | _, _ => .next s

/-- A FLIP reaches this endpoint's ingress: it stops stamping the old version, and holds new packets until the old
version's are answered, which a FLIP back may find at once. A plane that this endpoint manages flips only by its own
rt.upd, in their order. -/
def execFlipReachesIngress (plane : Nat) (ver : Bool) (s : State) : Host.Outcome State Fault Refusal :=
  let mine := decide (smGet 0 s.glox.manager plane = s.glox.endpoint)
  let due := smGet [] s.glox.flips plane
  if plane < 16 ∧ s.verOf plane ≠ ver ∧ (mine = false ∨ due.head? = some ver) then
    let old := s.outHere plane (!ver)
    .next { s with glox := { s.glox with
      flips := smSet [] s.glox.flips plane due.tail, version := smSet false s.glox.version plane ver
      holding := if old = 0 then nsDel plane s.glox.holding else nsAdd plane s.glox.holding } }
  else .next s

/-! ## Exchange sets (R393 to R396) -/

def State.setXSet (s : State) (n : Nat) (x : XSet) : State := { s with xsets := smPut n x s.xsets }

def XSet.inst (x : XSet) (g : Nat) : XInst := smGet ({} : XInst) x.insts g
def XInst.mem (i : XInst) (m : Nat) : XMem := smGet ({} : XMem) i.members m
def XInst.put (i : XInst) (m : Nat) (v : XMem) : XInst := { i with members := smPut m v i.members }
def XSet.putInst (x : XSet) (g : Nat) (i : XInst) : XSet := { x with insts := smPut g i x.insts }

/-- Replaces an instance of a set. -/
def State.setInst (s : State) (n g : Nat) (i : XInst) : State :=
  match smFind n s.xsets with | some x => s.setXSet n (x.putInst g i) | none => s

def State.instAt (s : State) (n g : Nat) : XInst := match smFind n s.xsets with | some x => x.inst g | none => {}

/-- Fields of a handle (R394). -/
def hMember (h : Word) : Nat := h.toNat / 2 ^ 48 % 2 ^ 12
def hGen (h : Word) : Nat := h.toNat / 2 ^ 32 % 2 ^ 16
def hInst (h : Word) : Nat := h.toNat / 2 ^ 16 % 2 ^ 16
def hSet (h : Word) : Nat := h.toNat % 2 ^ 8

/-- A handle's reserved bits are 0, and its member exists in a registered set. -/
def State.handleOk (s : State) (h : Word) : Bool :=
  decide (h.toNat / 2 ^ 60 = 0) && decide (h.toNat / 2 ^ 8 % 2 ^ 8 = 0) &&
  (match smFind (hSet h) s.xsets with | some x => decide (hMember h < x.n) | none => true)

/-- A member is between its post and the end of its instance. -/
def XMem.busy (m : XMem) : Bool := m.state != .open && m.state != .bound && m.state != .closed

def XInst.busy (i : XInst) : Bool := i.members.any fun m => m.2.busy

/-! ## The schedule (R400, R401) -/

/-- The entries of a demand matrix in the order in which a phase takes them: descending count, then row, then column. -/
def sortDemand (l : List (Nat × Nat × Nat)) : List (Nat × Nat × Nat) :=
  l.mergeSort fun a b =>
    decide (b.2.2 < a.2.2) || (decide (a.2.2 = b.2.2) && (decide (a.1 < b.1) || (decide (a.1 = b.1) && decide (a.2.1 ≤ b.2.1))))

/-- The greedy matching of one phase. -/
def matching : List (Nat × Nat × Nat) → List (Nat × Nat × Nat) → List (Nat × Nat × Nat)
  | acc, [] => acc
  | acc, e :: l => if acc.any fun a => decide (a.1 = e.1) || decide (a.2.1 = e.2.1) then matching acc l else matching (acc ++ [e]) l

/-- Greedy phases: (length, grants), and what is left of the demand. -/
def greedyPhases : Nat → List (Nat × Nat × Nat) → List (Nat × List (Nat × Nat × Nat)) × List (Nat × Nat × Nat)
  | 0, q => ([], q)
  | k + 1, q =>
    if q.isEmpty then ([], [])
    else
      let s := matching [] (sortDemand q)
      let len := s.foldl (fun a e => min a e.2.2) ((s.head?.map fun e => e.2.2).getD 0)
      let rest := (q.map fun e =>
        if s.any fun a => decide (a.1 = e.1) && decide (a.2.1 = e.2.1) then (e.1, e.2.1, e.2.2 - len) else e).filter fun e =>
          decide (0 < e.2.2)
      let t := greedyPhases k rest
      ((len, s.map fun e => (e.1, e.2.1, len)) :: t.1, t.2)

/-- The phases of what is left, by the shift pattern. -/
def shiftPhases (n : Nat) (q : List (Nat × Nat × Nat)) : List (Nat × List (Nat × Nat × Nat)) :=
  (List.range (n - 1)).filterMap fun k =>
    let s := k + 1
    let l := (q.filter fun e => decide ((e.1 + s) % n = e.2.1)).mergeSort fun a b => decide (a.1 ≤ b.1)
    if l.isEmpty then none else some (l.foldl (fun a e => max a e.2.2) 0, l)

/-- The phases of a demand of n members. -/
def schedule (n : Nat) (q : List (Nat × Nat × Nat)) : List (Nat × List (Nat × Nat × Nat)) :=
  let r := greedyPhases (4 * n) (q.filter fun e => decide (0 < e.2.2))
  r.1 ++ shiftPhases n r.2

/-- Phases with their start times, and the end of the last. -/
def timePhases (rate guard : Nat) : Nat → List (Nat × List (Nat × Nat × Nat)) → List Phase × Nat
  | t, [] => ([], t)
  | t, p :: l =>
    let r := timePhases rate guard (t + (p.1 * 4096 + rate - 1) / rate + guard) l
    ({ start := t, len := p.1, grants := p.2 } :: r.1, r.2)

/-- Quanta of the members' demands. -/
def XInst.quanta (i : XInst) : List (Nat × Nat × Nat) :=
  i.members.flatMap fun m => m.2.demand.zipIdx.map fun d => (m.1, d.2, if d.2 = m.1 then 0 else (d.1 + 4095) / 4096)

/-- A member's calendar (R401). -/
def XInst.calendarOf (i : XInst) (set g m cap : Nat) : List Byte :=
  let es := i.phases.zipIdx.flatMap fun p =>
    let entry := fun (e : Nat × Nat × Nat) (peer k : Nat) =>
      leBytes 8 p.1.start ++ leBytes 4 e.2.2 ++ leBytes 2 peer ++ leBytes 2 (p.2 + k)
    (p.1.grants.filterMap fun e => if e.1 = m then some (entry e e.2.1 0) else none) ++
    (p.1.grants.filterMap fun e => if e.2.1 = m then some (entry e e.1 (2 ^ 15)) else none)
  leBytes 2 set ++ leBytes 2 g ++ leBytes 2 i.gen ++ leBytes 2 es.length ++ leBytes 8 i.t0 ++ leBytes 8 i.tend ++
  leBytes 2 i.phases.length ++ leBytes 6 0 ++ (es.take cap).flatten

/-- Pieces of a byte string within words of 8 bytes. -/
def wordPieces : Nat → Nat → List Byte → List (Nat × List PByte)
  | 0, _, _ => []
  | n + 1, a, l =>
    if l.isEmpty then []
    else
      let k := 8 - a % 8
      (a % 2 ^ 64, (l.take k).map fun b => (b, false)) :: wordPieces n (a + k) (l.drop k)

/-- Writes the words of a calendar that translate: the first fault, and whether it must go on later, for a page that the
host must grant first or for a stack that sleeps. -/
def State.writeCalendar (c : Ctx) (cl : Nat) (refused : List Nat) : List (Nat × List PByte) → Option TrapInfo → State →
    Option TrapInfo × Option (Option PageReq) × State
  | [], t, s => (t, none, s)
  | p :: l, t, s =>
    match s.unitWrite c false cl p.1 p.2 with
    | .ok _ s' => State.writeCalendar c cl refused l t s'
    | .trap x s' => State.writeCalendar c cl refused l (t.or (some x)) s'
    | .ask q s' => if refused.contains (q.pages.headD 0) then State.writeCalendar c cl refused l t s' else (t, some (some q), s')
    | .wait s' => (t, some none, s')

/-- The cluster of a member (log entry 59). -/
def XSet.clusterOf (x : XSet) (m : Nat) : Nat := ((x.table[m]?).map Prod.snd).getD 0

/-- The actor number of a member's unit: side 0 sends, 1 receives, 2 holds the calendar. -/
def xUnit (g m side : Nat) : Nat := (4096 * g + m) * 4 + side

/-- Streams of a member that are not yet transmitted whole. -/
def XMem.unsent (m : XMem) : Bool := m.queued.any fun e => decide (smGet 0 m.sentTo e.1 < e.2)

/-- A member whose streams are done sends its end markers; one that has every marker completes; and Sent with a
complete receive is Closed (R399, R403). -/
def State.settleMember (set g : Nat) (s : State) (m : Nat) : State :=
  match smFind set s.xsets with
  | none => s
  | some x =>
    let i := x.inst g
    let v := i.mem m
    let v1 := if v.state = .ending ∧ v.unsent = false ∧ v.sendFrozen = false then { v with state := .sent } else v
    let marks := if v1.state = .sent ∧ v.state = .ending then
        (List.range x.n).filterMap fun d => if d = m then none else some (m, d)
      else []
    let complete := decide (v1.marks.length + 1 = x.n) && !v1.doneArrived && v1.state != .open
    let v2 := if complete then { v1 with doneArrived := true } else v1
    let v3 := if v2.state = .sent ∧ v2.doneArrived = true then { v2 with state := .closed } else v2
    let s := s.setInst set g { i.put m v3 with markers := i.markers ++ marks }
    if complete then s.arriveField (x.clusterOf m) v.recv 16 v.recvSid else s

def State.settleInst (s : State) (set g : Nat) : State :=
  ((s.instAt set g).members.map Prod.fst).foldl (State.settleMember set g) s

/-- Tells one member its calendar: CAL, then one arrival on CALMS (R401). -/
def State.tellMember (set g : Nat) (s : State) (m : Nat) : State :=
  match smFind set s.xsets with
  | none => s
  | some x =>
    let i := x.inst g
    let v := i.mem m
    let cl := x.clusterOf m
    if v.told || !i.calendar || s.unitAsked (64 + set) (xUnit g m 2) then s
    else
      let r := match s.strandCtx v.postSid with
        | some c =>
          let bytes := i.calendarOf set g m v.cap
          State.writeCalendar c cl v.refused (wordPieces (bytes.length / 8 + 2) v.cal.toNat bytes) none s
        | none => (none, none, s)
      match r.2.1 with
      | some (some q) => r.2.2.askUnit (64 + set) (xUnit g m 2) v.postSid q
      | some none => r.2.2
      | none =>
        let s := match r.1 with
          | some t => (r.2.2.dueStrand v.postSid { t with elem := none }).getD r.2.2
          | none => r.2.2
        let v := { v with told := true, state := if v.ended then .ending else .granted }
        let s := s.setInst set g ((s.instAt set g).put m v)
        let s := match v.calms with | some n => s.arrive cl n (some v.postSid) | none => s
        s.settleMember set g m

/-- Calendars that wait for the host are written once it has answered. -/
def State.tellAll (s : State) : State :=
  s.xsets.foldl (fun s x => x.2.insts.foldl (fun s i =>
    if i.2.calendar then (i.2.members.filter fun m => !m.2.told && decide (m.2.state = .posted)).foldl
      (fun s m => s.tellMember x.1 i.1 m.1) s
    else s) s) s

/-- Quanta of the remainders that the members re-posted at a takeover. -/
def XInst.restQuanta (i : XInst) : List (Nat × Nat × Nat) :=
  i.members.flatMap fun m => m.2.rest.zipIdx.map fun d => (m.1, d.2, if d.2 = m.1 then 0 else (d.1 + 4095) / 4096)

/-- Schedules quanta and tells every member (R400, R401): T0 is the time of the last post; phase 0 starts LEAD later, or
where the previous instance of the set ends. -/
def State.giveCalendar (s : State) (set g : Nat) (q : List (Nat × Nat × Nat)) (t0 : Nat) : State :=
  match smFind set s.xsets with
  | none => s
  | some x =>
    let i := x.inst g
    let prev := if g = 0 then 0 else (x.inst (g - 1)).tend
    let ps := timePhases x.rate x.guard (max (t0 + x.lead) prev) (schedule x.n q)
    let i := { i with phases := ps.1, t0 := t0, tend := ps.2, calendar := true, spent := []
                      members := i.members.map fun m => (m.1, { m.2 with told := false }) }
    (List.range x.n).foldl (State.tellMember set g) (s.setInst set g i)

/-- The standby's grant of the re-posted remainders, from the time of the last re-post (R402). -/
def State.regrant (s : State) (set g : Nat) : State := s.giveCalendar set g (s.instAt set g).restQuanta s.time

/-- The arbiter grants an instance whose members have all posted (log entry 57). -/
def State.grantInst (s : State) (set g : Nat) : State := s.giveCalendar set g (s.instAt set g).quanta s.time

/-! ## The xch instructions (R395 to R399) -/

/-- Reads a 32-byte record of an xch instruction: handle, alignment, record. -/
def State.xchRecord (s : State) (word : Nat) (ra rb : XReg) (k : Word → List Byte → State → Res Unit) : State :=
  let c := s.me
  let h := c.reg ra
  let a := c.reg rb
  if !s.handleOk h then s.trap causeOperand 5 (BitVec.ofNat 64 word)
  else if a.toNat % 8 ≠ 0 then s.trap causeMisalign 2 a
  else s.finish ((s.readVirt c 15 a.toNat 32).andThen fun l s' => k h l s')

/-- The checks of send, recv, end and stat on a handle: the set, or a trap. -/
def State.xchSet (s : State) (word : Nat) (h : Word) : Except TrapInfo XSet :=
  if !s.handleOk h then .error (trapOf causeOperand 5 (BitVec.ofNat 64 word))
  else match smFind (hSet h) s.xsets with
  | none => .error (trapOf causeOperand 5 (BitVec.ofNat 64 word))
  | some x =>
    let gen := (x.inst (hInst h)).gen
    if hGen h ≠ gen then .error (trapOf causeXchGen 0 (BitVec.ofNat 64 gen)) else .ok x

/-- A member table's entry: endpoint and cluster; `none` breaks the table. -/
def memberEntry (own : Nat) (domain : Bool) (w : Nat) : Option (Nat × Nat) :=
  if 2 ^ 19 ≤ w ∨ (domain = false ∧ w % 2 ^ 13 ≠ own) then none else some (w % 2 ^ 13, w / 2 ^ 13)

/-- Registers a set (KIND 1): its status, or `none` for an invalid record; the arbiters of a domain set are member
endpoints (R394) (log entry 80). -/
def State.xchRegister (s : State) (h : Word) (l table : List Byte) : Option (Nat × State) :=
  let domain := byteAt l 1 == 4
  let n := fieldAt l 2 2 + 1
  let rate := fieldAt l 16 2
  let ok := (domain || byteAt l 1 == 3) && decide (n ≤ 4096) && zeroAt l 24 8 && decide (1 ≤ rate) &&
    (if domain then decide (rate ≤ 3584) && decide (fieldAt l 4 2 < 8192) && decide (fieldAt l 6 2 < 8192)
     else decide (rate ≤ 1000) && zeroAt l 4 4)
  match ok, (List.range n).mapM fun i => memberEntry s.glox.endpoint domain (fieldAt table (8 * i) 8) with
  | true, some t =>
    let here := fun (e : Nat) => !domain || t.any fun p => decide (p.1 = e)
    if !here (fieldAt l 4 2) || !here (fieldAt l 6 2) then none
    else if (smFind (hSet h) s.xsets).isSome then some (1, s)
    else some (0, s.setXSet (hSet h) {
      domain := domain, n := n, table := t, rate := rate, guard := fieldAt l 18 2, lead := fieldAt l 20 4
      primary := fieldAt l 4 2, standby := if domain then some (fieldAt l 6 2) else none, lastBeat := s.time })
  | _, _ => none

/-- An instance whose members have all posted is granted. -/
def State.grantPosted (s : State) (set g : Nat) : State :=
  match smFind set s.xsets with
  | some x => if (List.range x.n).all fun k => decide (((x.inst g).mem k).state = .posted) then s.grantInst set g else s
  | none => s

/-- Posts a demand (KIND 0) of a registered set: its status and the new state. -/
def State.xchDemand (s : State) (c : Ctx) (h : Word) (x : XSet) (l d : List Byte) : Nat × State :=
  let m := hMember h
  let g := hInst h
  let i := x.inst g
  let v := i.mem m
  let counts := (List.range x.n).map fun j => fieldAt d (8 * j) 8
  let others := (x.insts.filter fun e => decide (e.1 ≠ g) && e.2.busy).length
  if counts.getD m 0 ≠ 0 then (2, s)
  else if g ≠ smGet 0 x.posts m % 2 ^ 16 ∨ 2 ≤ others then (3, s)
  else if x.table[m]? ≠ some (s.glox.endpoint, c.firstCl) then (4, s)
  else if v.state ≠ .bound then (5, s)
  else
    let v := { v with state := .posted, demand := counts, cal := BitVec.ofNat 64 (fieldAt l 16 8), calms := msField l 24
                      cap := fieldAt l 28 2, postSid := c.sid }
    let x := { x.putInst g (i.put m v) with posts := smPut m (smGet 0 x.posts m + 1) x.posts }
    (0, (s.setXSet (hSet h) x).grantPosted (hSet h) g)

/-- xch.post (log entry 56). -/
def State.xchPost (s : State) (word : Nat) (rd ra rb : XReg) : State :=
  s.xchRecord word ra rb fun h l s' =>
    let c := s'.me
    let kind := byteAt l 0
    let bad := Res.trap (trapOf causeOperand 12 (BitVec.ofNat 64 word)) s'
    let done := fun (n : Nat) (s : State) => Res.ok () (s.done rd (BitVec.ofNat 64 n))
    if 2 < kind then bad
    else if 1 ≤ kind ∧ c.sup = false then .trap (trapOf causePriv 0 (BitVec.ofNat 64 word)) s'
    else if kind = 1 then
      (s'.readVirt c 15 (fieldAt l 8 8) (8 * (fieldAt l 2 2 % 4096 + 1))).andThen fun t s'' =>
        match s''.xchRegister h l t with
        | some (n, s3) => done n s3
        | none => .trap (trapOf causeOperand 12 (BitVec.ofNat 64 word)) s''
    else if kind = 2 then
      if !zeroAt l 1 31 then bad
      else match smFind (hSet h) s'.xsets with
        | none => done 1 s'
        | some x => if x.insts.any fun i => i.2.busy then done 6 s' else done 0 { s' with xsets := smDel (hSet h) s'.xsets }
    else if !(zeroAt l 1 7 && zeroAt l 30 2 && msFieldOk l 24) then bad
    else match smFind (hSet h) s'.xsets with
      | none => done 1 s'
      | some x => (s'.readVirt c 15 (fieldAt l 8 8) (8 * x.n)).andThen fun d s'' =>
          let r := s''.xchDemand c h x l d
          done r.1 r.2

def execXchPostDemand (rd ra rb : XReg) (s : State) : Host.Outcome State Fault Refusal :=
  .next (s.xchPost (parcelOf (.xchPostDemand rd ra rb)) rd ra rb)
/-- The row of KIND 1. -/
def execXchPostRegister (rd ra rb : XReg) (s : State) : Host.Outcome State Fault Refusal :=
  .next (s.xchPost (parcelOf (.xchPostDemand rd ra rb)) rd ra rb)
/-- The row of KIND 2. -/
def execXchPostDeregister (rd ra rb : XReg) (s : State) : Host.Outcome State Fault Refusal :=
  .next (s.xchPost (parcelOf (.xchPostDemand rd ra rb)) rd ra rb)

/-- xch.recv: it binds the receive side of an instance that the member has not posted (log entry 58). -/
def execXchRecv (ra rb : XReg) (s : State) : Host.Outcome State Fault Refusal :=
  let word := parcelOf (.xchRecv ra rb)
  .next (match s.xchSet word (s.me.reg ra) with
  | .error t => s.enterTrap s.cur t s.me.pc
  | .ok x => s.xchRecord word ra rb fun h l s' =>
    if !(decide (byteAt l 20 < 2) && zeroAt l 21 11 && msFieldOk l 16) then
      .trap (trapOf causeOperand 12 (BitVec.ofNat 64 word)) s'
    else (s'.readVirt s'.me 15 (fieldAt l 8 8) (16 * x.n)).andThen fun t s'' =>
      let i := s''.instAt (hSet h) (hInst h)
      let v := i.mem (hMember h)
      if v.state ≠ .open ∧ v.state ≠ .bound then .ok () s''.pass
      else
        let offs := (List.range x.n).map fun j => (fieldAt t (16 * j) 8, fieldAt t (16 * j + 8) 8)
        let v := { v with state := .bound, recv := l, offs := offs, recvSid := s''.me.sid, received := [], discarded := [] }
        .ok () (s''.setInst (hSet h) (hInst h) (i.put (hMember h) v)).pass)

/-- Descriptors in the send queue of a strand (R393). -/
def State.sendsOf (s : State) (sid : Nat) : Nat :=
  (s.xsets.flatMap fun x => x.2.insts.flatMap fun i => i.2.members.flatMap fun m => m.2.sends.filter fun q => decide (q.sid = sid)).length

/-- xch.send; its push is a release (R285, R398). -/
def execXchSend (ra rb : XReg) (s : State) : Host.Outcome State Fault Refusal :=
  let word := parcelOf (.xchSend ra rb)
  .next (match s.xchSet word (s.me.reg ra) with
  | .error t => s.enterTrap s.cur t s.me.pc
  | .ok x => s.xchRecord word ra rb fun h l s' =>
    let c := s'.me
    let m := hMember h
    let d := fieldAt l 16 2
    let n := fieldAt l 8 8
    if !(decide (1 ≤ n) && decide (n ≤ 2 ^ 40) && decide (d < x.n) && decide (d ≠ m) && decide (byteAt l 18 < 2) &&
        byteAt l 19 == 0 && msFieldOk l 20 && zeroAt l 24 8) then .trap (trapOf causeOperand 12 (BitVec.ofNat 64 word)) s'
    else
      let i := s'.instAt (hSet h) (hInst h)
      let v := i.mem m
      let tooFar := Res.trap (trapOf causeXchOver 0 (BitVec.ofNat 64 d)) s'
      let have0 := smGet 0 v.queued d
      if v.ended then tooFar
      else match v.state with
      | .open | .bound | .posted => .wait (s'.setMe { c with wait := some (.xchSend ra rb) })
      | .granted =>
        if (v.demand.getD d 0 + 4095) / 4096 * 4096 < have0 + n then tooFar
        else if 64 ≤ s'.sendsOf c.sid then .wait s'.block
        else
          let q : XSend := { src := fieldAt l 0 8, len := n, dest := d, scratch := byteAt l 18 == 1, ms := msField l 20, sid := c.sid, pos := have0 }
          let v := { v with sends := v.sends ++ [q], queued := smPut d (have0 + n) v.queued }
          .ok () ((s'.releasePackage s'.cur).setInst (hSet h) (hInst h) (i.put m v)).pass
      | _ => tooFar)

/-- A waiting xch.send goes on when its member no longer awaits the grant, or its handle no longer serves. -/
def State.sendReady (s : State) (c : Ctx) (ra : XReg) : Bool :=
  let h := c.reg ra
  match s.xchSet 0 h with
  | .error _ => true
  | .ok x =>
    let v := (x.inst (hInst h)).mem (hMember h)
    v.ended || (v.state != .open && v.state != .bound && v.state != .posted)

def execXchSendGrant (ctx : Nat) (s : State) : Host.Outcome State Fault Refusal :=
  let c := s.ctxAt ctx
  match c.wait with
  | some (.xchSend ra rb) =>
    if s.sendReady c ra then (s.setCtx ctx { c with wait := none }).onBehalf ctx (execXchSend ra rb) else .next s
  | _ => .next s

/-- xch.end. -/
def execXchEnd (ra : XReg) (s : State) : Host.Outcome State Fault Refusal :=
  let h := s.me.reg ra
  .next (match s.xchSet (parcelOf (.xchEnd ra)) h with
  | .error t => s.enterTrap s.cur t s.me.pc
  | .ok x =>
    let i := x.inst (hInst h)
    let v := i.mem (hMember h)
    let v := { v with ended := true, state := if v.state = .granted then .ending else v.state }
    ((s.setInst (hSet h) (hInst h) (i.put (hMember h) v)).settleInst (hSet h) (hInst h)).pass)

/-- xch.stat. -/
def execXchStat (rd ra rb : XReg) (s : State) : Host.Outcome State Fault Refusal :=
  let h := s.me.reg ra
  let word := parcelOf (.xchStat rd ra rb)
  .next (match s.xchSet word h with
  | .error t => s.enterTrap s.cur t s.me.pc
  | .ok x =>
    let j := (s.me.reg rb).toNat
    if x.n ≤ j then s.trap causeOperand 5 (BitVec.ofNat 64 word)
    else
      let v := (x.inst (hInst h)).mem (hMember h)
      let flag := if v.discarded.contains j then 2 ^ 63 else 0
      s.done rd (BitVec.ofNat 64 (flag + smGet 0 v.received j % 2 ^ 63)))

/-! ## Transmission (R398, R330) -/

/-- The source bytes of a stream from a position: those of one send, within `n` bytes and one quantum. -/
def XMem.piece (v : XMem) (d pos n : Nat) : Option (XSend × Nat × Nat) :=
  ((v.unacked ++ v.sends).find? fun q => decide (q.dest = d) && decide (q.pos ≤ pos) && decide (pos < q.pos + q.len)).map fun q =>
    (q, pos - q.pos, min (min n 4096) (q.pos + q.len - pos))

/-- Sends of a stream that are transmitted whole leave the queue. -/
def XMem.shiftSent (v : XMem) (d upto : Nat) : XMem :=
  let out := fun (q : XSend) => decide (q.dest = d) && decide (q.pos + q.len ≤ upto)
  { v with unacked := v.unacked ++ v.sends.filter out, sends := v.sends.filter fun q => !out q }

/-- How a packet of a stream leaves: to a member here without a stamp, to one elsewhere with the plane and version that stamp
it, or not now, or refused for want of a route (R386, R389). -/
inductive StreamWay where
  | go (stamp : Option (Nat × Bool))
  | wait
  | refused
  deriving DecidableEq, Repr

/-- The plane of a stream's packet is a free value, for the manual gives none (log entry 49). -/
def State.streamPlane (s : State) (set d : Nat) : StreamWay :=
  match (smFind set s.xsets).bind fun x => x.table[d]? with
  | none => .go none
  | some (e, _) =>
    if e = s.glox.endpoint then .go none
    else
      let p := (Config.freeWord s.free).toNat % 16
      let q := s.livePlane p
      if s.heldFrom p then .wait
      else if s.routed q (s.verOf q) e then .go (some (q, s.verOf q)) else .refused

/-- A stream's packet comes back, or is dropped: its stamp no longer counts. -/
def State.unstampX (s : State) (p : XPacket) : State := match p.stamp with | some k => s.unstamp k.1 k.2 | none => s

/-- Transmits up to `n` bytes of a member's stream, a piece at a time; a fault or a page request stops the unit. The
number returned is that of the bytes transmitted. -/
def State.transmit (set g m d : Nat) : Nat → Nat → State → Nat × State
  | 0, _, s => (0, s)
  | k + 1, n, s =>
    let i := s.instAt set g
    let v := i.mem m
    let pos := smGet 0 v.sentTo d
    if n = 0 ∨ v.sendFrozen = true ∨ s.unitAsked (64 + set) (xUnit g m 0) = true then (0, s)
    else match v.piece d pos n with
    | none => (0, s)
    | some (q, off, len) =>
      let cl := match smFind set s.xsets with | some x => x.clusterOf m | none => 0
      match s.strandCtx q.sid, s.streamPlane set d with
      | none, _ => (0, s)
      | some _, .wait => (0, s)
      | some _, .refused => (0, s.freezeUnit (64 + set) (xUnit g m 0) q.sid (nackOf ((q.src + off) % 2 ^ 64) 1))
      | some c, .go stamp =>
        let s : State := if stamp.isSome then { s with free := s.free + 1 } else s
        match s.unitRead c q.scratch cl ((q.src + off) % 2 ^ 64) len with
        | .ok b s' =>
          let p : XPacket := { src := m, dst := d, pos := pos, data := b, stamp := stamp }
          let s' := match stamp with | some k => s'.stamp k.1 k.2 | none => s'
          let v := { v with sentTo := smPut d (pos + len) v.sentTo }.shiftSent d (pos + len)
          let r := State.transmit set g m d k (n - len) (s'.setInst set g { i.put m v with flight := i.flight ++ [p] })
          (len + r.1, r.2)
        | .trap t s' => (0, s'.freezeUnit (64 + set) (xUnit g m 0) q.sid t)
        | .ask x s' => (0, s'.askUnit (64 + set) (xUnit g m 0) q.sid x)
        | .wait s' => (0, s')

/-- A granted phase is under way: each of its senders transmits what its stream holds, up to the phase's quanta. -/
def execPhaseStart (xset inst phase : Nat) (s : State) : Host.Outcome State Fault Refusal :=
  let i := s.instAt xset inst
  match i.phases[phase]? with
  | none => .next s
  | some p =>
    let stop := match i.phases[phase + 1]? with | some q => q.start | none => i.tend
    if s.time < p.start ∨ stop ≤ s.time then .next s
    else
      let s := p.grants.foldl (fun s e =>
        let v := (s.instAt xset inst).mem e.1
        let key := phase * 4096 + e.1
        let left := e.2.2 * 4096 - smGet 0 (s.instAt xset inst).spent key
        if v.state = .granted ∨ v.state = .ending then
          let r := State.transmit xset inst e.1 e.2.1 (left + 1) left s
          let j := r.2.instAt xset inst
          r.2.setInst xset inst { j with spent := smSet 0 j.spent key (smGet 0 j.spent key + r.1) }
        else s) s
      .next (s.settleInst xset inst)

/-- The calendar has passed: what is still unsent, or is queued later, is sent outside the schedule. -/
def execCalendarEnd (xset inst : Nat) (s : State) : Host.Outcome State Fault Refusal :=
  let i := s.instAt xset inst
  if i.calendar = false ∨ s.time < i.tend then .next s
  else
    let s := i.members.foldl (fun s m =>
      if m.2.state = .granted ∨ m.2.state = .ending then
        m.2.queued.foldl (fun s d =>
          let left := d.2 - smGet 0 m.2.sentTo d.1
          (State.transmit xset inst m.1 d.1 (left + 1) left s).2) s
      else s) s
    .next (s.settleInst xset inst)

/-- Acknowledges the bytes of a stream up to a position: sends that are done arrive on SENDMS. -/
def State.ackStream (s : State) (set g m d upto : Nat) : State :=
  match smFind set s.xsets with
  | none => s
  | some x =>
    let i := x.inst g
    let v := i.mem m
    let fin := v.unacked.filter fun q => decide (q.dest = d) && decide (q.pos + q.len ≤ upto)
    let v := { v with acked := smPut d upto v.acked
                      unacked := v.unacked.filter fun q => !(decide (q.dest = d) && decide (q.pos + q.len ≤ upto)) }
    fin.foldl (fun s q => match q.ms with | some n => s.arrive (x.clusterOf m) n (some q.sid) | none => s)
      (s.setInst set g (i.put m v))

/-- The receiving unit of a member takes packets now. -/
def State.takesPackets (s : State) (set g m : Nat) : Bool :=
  !((s.instAt set g).mem m).recvFrozen && !s.unitAsked (64 + set) (xUnit g m 1)

/-- The oldest packet that its receiver takes is written, counted and acknowledged (R397). -/
def execExchangeArrival (xset inst : Nat) (s : State) : Host.Outcome State Fault Refusal :=
  match smFind xset s.xsets with
  | none => .next s
  | some x =>
    let i := x.inst inst
    match i.flight.find? fun p => s.takesPackets xset inst p.dst with
    | none => .next s
    | some p =>
      let v := i.mem p.dst
      let o := v.offs.getD p.src (0, 0)
      let keep := if v.discards then 0 else min p.data.length (o.2 - p.pos)
      let a := (fieldAt v.recv 0 8 + o.1 + p.pos) % 2 ^ 64
      let r : Res Unit := if keep = 0 then .ok () s
        else match s.strandCtx v.recvSid with
          | some c => s.unitWrite c (byteAt v.recv 20 % 2 == 1) (x.clusterOf p.dst) a (p.data.take keep)
          | none => .ok () s
      .next (match r with
      | .ok _ s' =>
        let j := s'.instAt xset inst
        let w := j.mem p.dst
        let seen := max (smGet 0 w.received p.src) (p.pos + p.data.length)
        let w := { w with received := smPut p.src seen w.received
                          discarded := if keep < p.data.length then nsAdd p.src w.discarded else w.discarded }
        let s1 := (s'.setInst xset inst { j.put p.dst w with flight := j.flight.erase p }).unstampX p
        s1.ackStream xset inst p.src p.dst (p.pos + p.data.length)
      | .trap t s' => s'.freezeUnit (64 + xset) (xUnit inst p.dst 1) v.recvSid t
      | .ask q s' => s'.askUnit (64 + xset) (xUnit inst p.dst 1) v.recvSid q
      | .wait s' => s')

/-- An end marker arrives after every byte of its stream. -/
def execEndMarkerArrival (xset inst src dst : Nat) (s : State) : Host.Outcome State Fault Refusal :=
  let i := s.instAt xset inst
  if i.markers.contains (src, dst) = false ∨ (i.flight.any fun p => decide (p.src = src) && decide (p.dst = dst)) = true then .next s
  else
    let v := i.mem dst
    let i := { i.put dst { v with marks := nsAdd src v.marks } with markers := i.markers.filter fun p => decide (p ≠ (src, dst)) }
    .next ((s.setInst xset inst i).settleInst xset inst)

/-! ## Failover (R402) -/

/-- The primary's heartbeat reaches the standby. -/
def execHeartbeat (xset : Nat) (s : State) : Host.Outcome State Fault Refusal :=
  match smFind xset s.xsets with
  | some x => .next (if x.standby.isSome then s.setXSet xset { x with lastBeat := s.time } else s)
  | none => .next s

/-- The standby takes over after 10 µs without a heartbeat: instances in progress get a new generation. -/
def execStandbyTakeover (xset : Nat) (s : State) : Host.Outcome State Fault Refusal :=
  match smFind xset s.xsets with
  | some x => match x.standby with
    | some b =>
      if s.time < x.lastBeat + 10000 then .next s
      else
        let x := { x with primary := b, standby := none, insts := x.insts.map fun i =>
          (i.1, if i.2.busy then { i.2 with
            gen := (i.2.gen + 1) % 2 ^ 16
            members := if i.2.calendar then i.2.members.map fun m =>
                (m.1, if m.2.state = .closed then m.2 else { m.2 with announced := false }) else i.2.members } else i.2) }
        .next ((s.setXSet xset x).post { seq := 0, time := 0, kind := 10 })
    | none => .next s
  | none => .next s

/-- A member learns of the new generation: it stops sending and posts, for each destination, the bytes of its stream
that are not acknowledged; after the last member the standby schedules these remainders. -/
def execGenerationAnnouncement (xset inst member : Nat) (s : State) : Host.Outcome State Fault Refusal :=
  match smFind xset s.xsets with
  | none => .next s
  | some x =>
    let i := x.inst inst
    let v := i.mem member
    if v.announced || (smFind member i.members).isNone then .next s
    else
      let rest := (List.range x.n).map fun d => smGet 0 v.queued d - smGet 0 v.acked d
      let v := { v with announced := true, state := .posted, rest := rest, sentTo := v.acked }
      let i := { i.put member v with flight := i.flight.filter fun p => decide (p.src ≠ member)
                                     markers := i.markers.filter fun p => decide (p.1 ≠ member) }
      let s := (x.inst inst).flight.foldl (fun s p => if p.src = member then s.unstampX p else s) (s.setInst xset inst i)
      if i.members.all fun m => m.2.announced then .next (s.regrant xset inst) else .next s

/-! ## Members at other endpoints (R393 to R402) -/

/-- A set's member that another endpoint runs. -/
def State.memberAway (s : State) (set m : Nat) : Option XSet :=
  (smFind set s.xsets).filter fun x => match x.table[m]? with | some p => decide (p.1 ≠ s.glox.endpoint) | none => false

/-- A member elsewhere posts its demand (R396). -/
def State.memberPost (s : State) (set g m : Nat) (demand : List Nat) : State :=
  match s.memberAway set m with
  | none => s
  | some x =>
    let i := x.inst g
    let v := i.mem m
    let others := (x.insts.filter fun e => decide (e.1 ≠ g) && e.2.busy).length
    if demand.getD m 0 ≠ 0 ∨ g ≠ smGet 0 x.posts m % 2 ^ 16 ∨ 2 ≤ others ∨ v.state ≠ .open then s
    else
      let x := { x.putInst g (i.put m { v with state := .posted, demand := demand }) with
                 posts := smPut m (smGet 0 x.posts m + 1) x.posts }
      (s.setXSet set x).grantPosted set g

/-- Bytes of a member elsewhere are on their way to a member here, at the end of its stream (R397). -/
def State.memberBytes (s : State) (set g src dst : Nat) (data : List Byte) : State :=
  match s.memberAway set src with
  | none => s
  | some x =>
    let i := x.inst g
    let v := i.mem src
    let pos := smGet 0 v.sentTo dst
    let v := { v with queued := smPut dst (pos + data.length) v.queued, sentTo := smPut dst (pos + data.length) v.sentTo }
    if dst < x.n ∧ dst ≠ src ∧ data ≠ [] then
      s.setInst set g { i.put src v with
        flight := i.flight ++ [{ src := src, dst := dst, pos := pos, data := data.map fun b => (b, false) }] }
    else s

/-- The end marker of a granted member elsewhere is on its way: the member has transmitted every stream and is Sent (R399,
R403). -/
def State.memberEnd (s : State) (set g src dst : Nat) : State :=
  match s.memberAway set src with
  | none => s
  | some x =>
    let i := x.inst g
    let v := i.mem src
    let given := i.markers.contains (src, dst) || (i.mem dst).marks.contains src
    if x.n ≤ dst ∨ dst = src ∨ given = true ∨ [.granted, .ending, .sent, .closed].contains v.state = false then s
    else
      let v := { v with ended := true, state := if v.state = .closed then .closed else .sent }
      (s.setInst set g { i.put src v with markers := i.markers ++ [(src, dst)] }).settleInst set g

/-- A member elsewhere stops at a takeover and posts its remainder (R402). -/
def State.memberRest (s : State) (set g m : Nat) (rest : List Nat) : State :=
  match s.memberAway set m with
  | none => s
  | some x =>
    let i := x.inst g
    let v := i.mem m
    if v.announced then s
    else
      let i := i.put m { v with announced := true, state := .posted, rest := rest, sentTo := v.acked }
      let s := s.setInst set g { i with
        flight := i.flight.filter (fun p => decide (p.src ≠ m)), markers := i.markers.filter fun p => decide (p.1 ≠ m) }
      if i.members.all fun k => k.2.announced then s.regrant set g else s

end Sys2Proof.Machine
end

