-- ==== Sys2Proof/Machine/Launch.lean ====
section
/-! DEFINITION. Launch records and queues, the rotation of slots, placement, pre-emption, idle, yield and vpart (R30 to
R32, R245, R332 to R350, R355 to R358, R409). -/

namespace Sys2Proof.Machine

/-! ## Launch records (R332, R333) -/

def recLmin (l : List Byte) : Nat := fieldAt l 16 2
def recLmax (l : List Byte) : Nat := fieldAt l 18 2
def recShare (l : List Byte) : Nat := byteAt l 20 % 4
def recGang (l : List Byte) : Nat := fieldAt l 24 2

/-- The levels of the loop table: (kind, extent). -/
def recLoop (l : List Byte) : List (Nat × Nat) :=
  (List.range 4).map fun k => let w := fieldAt l (28 + 2 * k) 2; (w % 4, w / 4 % 2 ^ 12 + 1)

def spatialLevel (p : Nat × Nat) : Bool := decide (2 ≤ p.1)

/-- The product of the spatial extents. -/
def spatialProduct (l : List (Nat × Nat)) : Nat := (l.filter spatialLevel).foldl (fun a p => a * p.2) 1

/-- A milestone field of a record: number, space and enable, other bits 0. -/
def recMs (l : List Byte) (i : Nat) : Option MsName := msField l i

def recMsOk (l : List Byte) (i : Nat) : Bool :=
  let w := fieldAt l i 4
  decide (w < 2 ^ 16) && decide (w / 2 ^ 13 % 4 = 0) && (decide (w < 2 ^ 15) || decide (w / 2 ^ 12 % 2 = 1))

/-- Check 1 of R333. -/
def recFieldsOk (l : List Byte) : Bool :=
  let lmin := recLmin l
  let lmax := recLmax l
  decide (lmin % 16 = 0) && decide (16 ≤ lmin) && decide (lmin ≤ 8192) &&
  decide (lmax % 16 = 0) && decide (lmin ≤ lmax) && decide (lmax ≤ 8192) &&
  decide (recShare l ≠ 3) && (recShare l != 1 || (lmin == 64 && lmax == 64)) && (recShare l != 2 || lmin % 128 == 0) &&
  decide (byteAt l 20 < 32) && decide (byteAt l 21 ≤ 24) && decide (byteAt l 22 ≤ 16) && decide (byteAt l 23 ≤ 64) &&
  decide (1 ≤ recGang l) && decide (byteAt l 26 < 2) && byteAt l 27 == 0 &&
  ((List.range 4).all fun k => let w := fieldAt l (28 + 2 * k) 2; decide (w < 2 ^ 14) && (w % 4 != 0 || w / 4 == 0)) &&
  recMsOk l 36 && recMsOk l 44 && decide (fieldAt l 48 2 / 2 ^ 12 % 8 = 0) &&
  (decide (recGang l = 1) || decide (fieldAt l 48 2 / 2 ^ 15 = 1)) && fieldAt l 52 12 == 0

/-- Check 2: the gang against the loop table. -/
def recLoopOk (l : List Byte) : Bool :=
  let loop := recLoop l
  (!loop.any spatialLevel || recGang l == 1 || recGang l == spatialProduct loop) &&
  loop.all fun p => p.1 != 3 || decide (p.2 ≤ 8)

/-- Members that are placed at once. -/
def recMembers (l : List Byte) : Nat := recGang l

/-- Check 3: the gang fits the package at its minimum. -/
def recFits (l : List Byte) : Bool :=
  if recShare l = 2 ∨ 128 < recLmax l then decide (recMembers l * ((recLmin l + 127) / 128) ≤ 64)
  else if recShare l = 1 then decide (recMembers l ≤ 128)
  else decide (recMembers l * recLmin l ≤ 8192)

/-- Status of a record for a queue (R333); `pasid` is the launching strand's, for launch (log entry 32). -/
def Queue.recStatus (q : Queue) (pasid : Option Word) (l : List Byte) : Nat :=
  if !recFieldsOk l then 2
  else if !recLoopOk l then 3
  else if !recFits l then 4
  else if byteAt l 20 / 4 % 2 = 1 ∧ q.supok = false then 5
  else if pasid.any fun p => decide (p ≠ q.pasid) then 5
  else if !q.enable then 6
  else if 2 ^ q.log2n ≤ q.tail - q.head then 1
  else 0

/-- A record's fields; the priority is the one that its queue grants. -/
def Queue.recOf (q : Queue) (l : List Byte) : LaunchRec :=
  { entry := BitVec.ofNat 64 (fieldAt l 0 8 / 4 * 4), arg := BitVec.ofNat 64 (fieldAt l 8 8), lmin := recLmin l, lmax := recLmax l
    share := recShare l, sup := byteAt l 20 / 4 % 2 == 1, pri := q.priOf l, nag := byteAt l 21, njn := byteAt l 22
    nch := byteAt l 23, gang := recGang l, lazy := byteAt l 26 % 2 == 1
    loop := (recLoop l).map fun p => (p.1, p.2 - 1)
    waitms := recMs l 36, waitcnt := fieldAt l 40 4, sigms := recMs l 44
    gangms := if fieldAt l 48 2 / 2 ^ 15 = 1 then some (fieldAt l 48 2 % 2 ^ 12) else none
    queue := fieldAt l 50 2 }

/-- Appends a record at the tail of a queue. -/
def State.appendRec (s : State) (n : Nat) (l : List Byte) : State :=
  let q := s.queueAt n
  ((s.writeAwake (q.base.toNat + 64 * (q.tail % 2 ^ q.log2n)) l).setQueue n { q with tail := q.tail + 1 }).fillSlots

/-- launch (R338). A target that is no queue is a field outside its range. -/
def execLaunch (rd ra : XReg) (s : State) : Host.Outcome State Fault Refusal :=
  let c := s.me
  let a := c.reg ra
  if a.toNat % 64 ≠ 0 then .next (s.trap causeMisalign 2 a)
  else .next (s.finish ((s.readVirt c 15 a.toNat 64).andThen fun l s' =>
    let t := fieldAt l 50 2
    let n := if t = 0xFFFF then c.queue else t
    let st := if 4095 < n then 2 else (s'.queueAt n).recStatus (some c.pasid) l
    .ok () ((if st = 0 then (s'.releasePackage s'.cur).appendRec n l else s').done rd (BitVec.ofNat 64 st))))

/-- The queue of a launch window: of a physical function (`fn` 0) the window's own number, of virtual function v (`fn`
v + 1) its i-th queue (R428). -/
def State.windowQueue (s : State) (fn i : Nat) : Option Nat :=
  if fn = 0 then (if i < 4096 then some i else none)
  else
    let r := smGet ((0, 0) : Nat × Nat) s.ctl.vfs (fn - 1)
    if fn ≤ 16 ∧ i < r.2 then some (r.1 + i) else none

/-- Notes the status of the last record written to a window (R430). -/
def State.setWindow (s : State) (w : LaunchWindow) (queue st : Nat) : State :=
  if w.fn = 0 then s.setQueue queue { s.queueAt queue with winStatus := st }
  else { s with ctl := { s.ctl with vfWin := smPut (4096 * (w.fn - 1) + w.index) st s.ctl.vfWin } }

/-- A 64-byte store to a queue's window (R337, R428, R430). -/
def execLaunchWindowStore (window : LaunchWindow) (bytes : List Byte) (s : State) : Host.Outcome State Fault Refusal :=
  match s.windowQueue window.fn window.index with
  | none => .next s
  | some queue =>
    if bytes.length ≠ 64 then .next s
    else
      let q := s.queueAt queue
      let st := q.recStatus none bytes
      let s := s.setWindow window queue st
      .next (if st = 0 then s.appendRec queue bytes
        else s.post { seq := 0, time := 0, kind := 3, esub := BitVec.ofNat 16 st, queue := queue })

/-! ## Spans (R17, R18, R32) -/

/-- A place for a strand: first package cluster, first lane, lanes, cluster span or not. -/
structure Place where
  cl : Nat
  first : Nat
  lanes : Nat
  whole : Bool
  deriving DecidableEq, Repr

def Place.clusters (p : Place) : List Nat :=
  if p.whole then (List.range (p.lanes / 128)).map (p.cl + ·) else [p.cl]

/-- The place holds a lane of a cluster. -/
def Place.covers (p : Place) (cl lane : Nat) : Bool :=
  if p.whole then decide (p.cl ≤ cl) && decide (cl < p.cl + p.lanes / 128)
  else decide (p.cl = cl) && decide (p.first ≤ lane) && decide (lane < p.first + p.lanes)

def Ctx.place (c : Ctx) : Place := { cl := c.firstCl, first := c.firstLn, lanes := c.lanes, whole := c.clusterSpan }

/-- The share that a place gives (R18). -/
def Place.share (p : Place) : Nat :=
  if p.whole then 3
  else if p.first = 0 ∧ 64 ≤ p.lanes then 1
  else if p.first ≤ 64 ∧ 128 ≤ p.first + p.lanes then 2
  else 0

/-- VSPAN of a place. -/
def Place.vspan (p : Place) : Word := spanWord p.share p.whole p.first p.cl p.lanes

/-- No place of a list holds a lane of a cluster. -/
def clusterFree (occ : List Place) (cl : Nat) : Bool := !occ.any fun p => p.clusters.contains cl

/-- n lanes from a lane, both multiples of 16, are free. -/
def lanesFree (occ : List Place) (cl first n : Nat) : Bool :=
  decide (first + n ≤ 128) && (List.range (n / 16)).all fun g => !occ.any fun p => p.covers cl (first + 16 * g)

/-- Rule 1: n consecutive free clusters, within one L-die if possible. -/
def findClusters (ok : Nat → Bool) (occ : List Place) (n : Nat) : Option Place :=
  let fits := fun (k : Nat) => (List.range n).all fun i => ok (k + i) && clusterFree occ (k + i)
  let starts := List.range (65 - n)
  if n = 0 ∨ 64 < n then none
  else (((starts.filter fun k => decide (k % 8 + n ≤ 8)).find? fits).or (starts.find? fits)).map fun k =>
    { cl := k, first := 0, lanes := 128 * n, whole := true }

/-- Rule 2: the first cluster with a free half, the lower half first. -/
def findHalf (ok : Nat → Bool) (occ : List Place) : Option Place :=
  (List.range 128).findSome? fun k =>
    if ok (k / 2) && lanesFree occ (k / 2) (64 * (k % 2)) 64 then
      some { cl := k / 2, first := 64 * (k % 2), lanes := 64, whole := false }
    else none

/-- Rule 3 for L lanes, at places of a kind of share: first-fit in partly used clusters, then a free cluster; `any` lets
the span start at any lane of a free cluster. -/
def findLanes (ok : Nat → Bool) (occ : List Place) (n : Nat) (anyLane : Bool) (good : Place → Bool) : Option Place :=
  let at0 := fun (cl first : Nat) => ({ cl := cl, first := first, lanes := n, whole := n == 128 } : Place)
  let fit := fun (cl : Nat) (firsts : List Nat) =>
    (firsts.find? fun f => lanesFree occ cl f n && good (at0 cl f)).map (at0 cl)
  let all := (List.range 8).map fun g => 16 * g
  ((List.range 64).findSome? fun cl => if ok cl && !clusterFree occ cl then fit cl all else none).or
    ((List.range 64).findSome? fun cl => if ok cl && clusterFree occ cl then fit cl (if anyLane then all else [0]) else none)

/-- The span of a record with a maximum of `top` lanes (R32) (log entry 35). -/
def findPlace (r : LaunchRec) (top : Nat) (ok : Nat → Bool) (occ : List Place) : Option Place :=
  if r.share = 2 ∨ 128 < r.lmax then
    let hi := (top + 127) / 128
    let lo := (r.lmin + 127) / 128
    (List.range (hi + 1 - lo)).findSome? fun i => findClusters ok occ (hi - i)
  else if r.share = 1 then findHalf ok occ
  else (List.range ((top - r.lmin) / 16 + 1)).findSome? fun i => findLanes ok occ (top - 16 * i) false fun _ => true

/-! ## Replicas (R31) -/

/-- A replica: its number, its index at each level, and its die group. -/
structure Rep where
  num : Nat
  lidx : List Nat
  key : Nat
  deriving DecidableEq, Repr

/-- Indices at the levels of a kind that `f` accepts, level 0 fastest; 0 elsewhere. -/
def levelIdx (f : Nat × Nat → Bool) : List (Nat × Nat) → Nat → List Nat
  | [], _ => []
  | p :: l, i => if f p then i % (p.2 + 1) :: levelIdx f l (i / (p.2 + 1)) else 0 :: levelIdx f l i

/-- The number of the indices at the levels over dies, level 0 fastest. -/
def dieKey : List (Nat × Nat) → List Nat → Nat
  | p :: l, i :: t => if p.1 = 3 then i + (p.2 + 1) * dieKey l t else dieKey l t
  | _, _ => 0

/-- Extent-minus-one levels are spatial as their extents are. -/
def LaunchRec.spatial (r : LaunchRec) : Bool := r.loop.any spatialLevel
def LaunchRec.overDies (r : LaunchRec) : Bool := r.loop.any fun p => p.1 == 3
def LaunchRec.replicas (r : LaunchRec) : Nat :=
  if r.spatial then (r.loop.filter spatialLevel).foldl (fun a p => a * (p.2 + 1)) 1 else r.gang

/-- The replicas are placed one at a time. -/
def LaunchRec.single (r : LaunchRec) : Bool := r.spatial && r.gang == 1 && decide (1 < r.replicas)

def LaunchRec.rep (r : LaunchRec) (i : Nat) : Rep :=
  let idx := if r.spatial then levelIdx spatialLevel r.loop i else [i, 0, 0, 0]
  { num := i, lidx := idx, key := if r.overDies then dieKey r.loop idx else 0 }

/-- Places replicas in order: each in the first of two sets of clusters that has a span. -/
def placeEach (find : (Nat → Bool) → List Place → Option Place) (a b : Nat → Bool) :
    List Rep → List Place → Option (List (Rep × Place))
  | [], _ => some []
  | r :: l, occ => ((find a occ).or (find b occ)).bind fun p => (placeEach find a b l (p :: occ)).map fun t => (r, p) :: t

/-- The L-dies of a place. -/
def Place.dies (p : Place) : List Nat := (p.clusters.map fun c => c / 8).eraseDups

/-- Places one die group: all on one L-die if one holds it, else beginning on the lowest that takes its first replica. -/
def placeGroup (find : (Nat → Bool) → List Place → Option Place) (ok : Nat → Bool) (dies : Bool) (mine others : List Nat)
    (grp : List Rep) (occ : List Place) : Option (List (Rep × Place)) :=
  let free := (List.range 8).filter fun d => !others.contains d
  let on := fun (d cl : Nat) => ok cl && decide (cl / 8 = d)
  let tries := if mine.isEmpty then free else mine.take 1
  match tries.findSome? fun d => placeEach find (on d) (fun _ => false) grp occ with
  | some l => some l
  | none =>
    let first := if mine.isEmpty then (if dies then (free.find? fun d => (find (on d) occ).isSome).toList else []) else mine.take 1
    placeEach find (fun cl => ok cl && first.contains (cl / 8)) (fun cl => ok cl && free.contains (cl / 8)) grp occ

/-- Places die groups in ascending order of their keys; `prior` lists (key, die) of replicas already placed. -/
def placeGroups (find : (Nat → Bool) → List Place → Option Place) (ok : Nat → Bool) (dies : Bool) :
    List (List Rep) → List (Nat × Nat) → List Place → Option (List (Rep × Place))
  | [], _, _ => some []
  | g :: l, prior, occ =>
    let key := (g.head?.map Rep.key).getD 0
    let mine := (prior.filter fun p => !dies || decide (p.1 = key)).map Prod.snd
    let others := if dies then (prior.filter fun p => decide (p.1 ≠ key)).map Prod.snd else []
    (placeGroup find ok dies mine others g occ).bind fun t =>
      let prior := prior ++ t.flatMap fun x => x.2.dies.map fun d => (key, d)
      (placeGroups find ok dies l prior (t.map Prod.snd ++ occ)).map fun u => t ++ u

/-- The spans of a record's replicas with a maximum of `top` lanes. -/
def LaunchRec.placeTop (r : LaunchRec) (reps : List Rep) (prior : List (Nat × Nat)) (ok : Nat → Bool) (occ : List Place)
    (top : Nat) : Option (List (Rep × Place)) :=
  let find := findPlace r top
  if !r.spatial then placeEach find ok (fun _ => false) reps occ
  else
    let keys := ((reps.map Rep.key).eraseDups).mergeSort fun a b => decide (a ≤ b)
    placeGroups find ok r.overDies (keys.map fun k => reps.filter fun p => decide (p.key = k)) prior occ

/-- The spans of a record's replicas: with the maximum that lets every member have one (R32, R342). -/
def LaunchRec.placeAll (r : LaunchRec) (reps : List Rep) (prior : List (Nat × Nat)) (ok : Nat → Bool) (occ : List Place) :
    Option (List (Rep × Place)) :=
  let tops := if reps.length ≤ 1 then [r.lmax] else (List.range ((r.lmax - r.lmin) / 16 + 1)).map fun i => r.lmax - 16 * i
  (tops.findSome? fun t => r.placeTop reps prior ok occ t).map fun l => l.mergeSort fun a b => decide (a.1.num ≤ b.1.num)

/-! ## Units and contexts (R342) -/

/-- The units of a kind that grants hold in a cluster. -/
def heldUnits (f : Grant → List Nat) (gs : List Grant) (cl : Nat) : List Nat :=
  (gs.filter fun g => decide (g.cluster = cl)).flatMap f

/-- The n lowest-numbered units of `total` that a list does not hold. -/
def lowestFree (total n : Nat) (held : List Nat) : Option (List Nat) :=
  let l := ((List.range total).filter fun u => !held.contains u).take n
  if l.length = n then some l else none

/-- The grants of one member. -/
def grantMember (r : LaunchRec) (gs : List Grant) : List Nat → Option (List Grant)
  | [] => some []
  | cl :: l =>
    match lowestFree 24 r.nag (heldUnits Grant.ags gs cl), lowestFree 16 r.njn (heldUnits Grant.jns gs cl),
        lowestFree 64 r.nch (heldUnits Grant.rings gs cl) with
    | some a, some j, some k =>
      let g : Grant := { cluster := cl, ags := a, jns := j, rings := k }
      (grantMember r (g :: gs) l).map fun t => g :: t
    | _, _, _ => none

def grantAll (r : LaunchRec) (gs : List Grant) : List Place → Option (List (List Grant))
  | [] => some []
  | p :: l => (grantMember r gs p.clusters).bind fun g => (grantAll r (g ++ gs) l).map fun t => g :: t

/-- The free context on the driver with the fewest occupied contexts, the lower driver first. -/
def freeContext (used : List Nat) : Option Nat :=
  let load := fun (d : Nat) => (used.filter fun n => decide (n / 4 = d)).length
  ((List.range 4).findSome? fun k => (List.range 64).find? fun d => decide (load d = k)).bind fun d =>
    ((List.range 4).map fun i => 4 * d + i).find? fun n => !used.contains n

/-- Contexts for n members. -/
def freeContexts : Nat → List Nat → Option (List Nat)
  | 0, _ => some []
  | n + 1, used => (freeContext used).bind fun c => (freeContexts n (c :: used)).map fun t => c :: t

/-! ## Plans -/

/-- What the placement unit would do for a head. -/
inductive Plan where
  | fresh (l : List (Rep × Place × List Grant × Nat))
  | resume (l : List (Ctx × Place × Nat))
  deriving DecidableEq, Repr

def State.usedContexts (s : State) (gone : List Nat) : List Nat :=
  (s.ctxs.filter fun e => decide (e.2.mode ≠ .free) && !gone.contains e.1).map Prod.fst

def State.occupied (s : State) (gone : List Nat) : List Place :=
  (s.ctxs.filter fun e => decide (e.2.mode ≠ .free) && !gone.contains e.1).map fun e => e.2.place

/-- Every grant of resident and parked strands. -/
def State.allGrants (s : State) : List Grant := s.ctxs.flatMap (fun e => e.2.grants) ++ s.parked.flatMap Ctx.grants

/-- A strand holds some unit. -/
def Ctx.holdsUnits (c : Ctx) : Bool := c.grants.any fun g => !(g.ags.isEmpty && g.jns.isEmpty && g.rings.isEmpty)

/-- A parked strand, or one of a list that would be, holds units of a cluster. -/
def State.parkedHolds (s : State) (more : List Ctx) (cl : Nat) (who : Ctx → Bool) : Bool :=
  (s.parked ++ more).any fun c => who c && c.holdsUnits && c.grants.any fun g => decide (g.cluster = cl)

/-- A cluster may receive a strand for the head of a slot. -/
def State.clusterOk (s : State) (slot : Nat) (cl : Nat) : Bool :=
  decide (cl < 64) && !s.ctl.clgate.getLsbD cl && !(s.slots.any fun e => decide (e.1 ≠ slot) && e.2.reserved.contains cl)

/-- It may receive a strand of a record of a PASID, when the contexts of a list have parked (R355). -/
def State.recordOk (s : State) (gone : List Nat) (pasid : Word) (cl : Nat) : Bool :=
  !s.parkedHolds (gone.map s.ctxAt) cl fun c => decide (c.pasid ≠ pasid)

/-- The strands of the unit of a strand (R346): its gang, with every vpart child of every member. -/
def State.unitSids (s : State) (sid : Nat) : List Nat :=
  let all := s.ctxs.map Prod.snd ++ s.parked
  let root := match all.find? fun c => decide (c.mode ≠ .free) && c.children.contains sid with
    | some p => p
    | none => (s.strandCtx sid).getD {}
  let members := if root.gangId = 0 then [root.sid] else (smGet ({} : Gang) s.gangs root.gangId).members
  members ++ (all.filter fun c => decide (c.mode ≠ .free) && members.contains c.sid).flatMap Ctx.children

/-- The contexts of a list of strands. -/
def State.ctxsOf (s : State) (sids : List Nat) : List Nat := sids.filterMap s.ctxOf

/-- The span that a parked strand takes again (R355). -/
def State.resumePlace (ok : Nat → Bool) (c : Ctx) (occ : List Place) : Option Place :=
  if c.holdsUnits then
    let p := c.place
    if (p.clusters.all fun cl => ok cl && (if p.whole then clusterFree occ cl else lanesFree occ cl p.first p.lanes)) = true
    then some p else none
  else if c.clusterSpan then findClusters ok occ (c.lanes / 128)
  else findLanes ok occ c.lanes true fun p => decide (shareKind p.share = shareKind c.share)

/-- Spans and contexts for the members of a unit that are no children, each followed by its children. -/
def State.planResume (s : State) (ok : Nat → Bool) : List Ctx → List Place → List Nat → Option (List (Ctx × Place × Nat))
  | [], _, _ => some []
  | c :: l, occ, used =>
    (State.resumePlace ok c occ).bind fun p =>
      let kids := s.parked.filter fun k => c.children.contains k.sid
      (freeContexts (kids.length + 1) used).bind fun ns =>
        let move := fun (k : Ctx) => ({ k.place with cl := p.cl + (k.firstCl - c.firstCl) } : Place)
        (State.planResume s ok l (p :: occ) (ns ++ used)).map fun t =>
          (c, p, ns.headD 0) :: ((kids.zip ns.tail).map fun k => (k.1, move k.1, k.2)) ++ t

/-- Dies on which replicas of a record already stand, with their die groups, in replica order. -/
def State.priorDies (s : State) (id : Nat) (r : LaunchRec) : List (Nat × Nat) :=
  ((s.ctxs.filter fun e => decide (e.2.mode ≠ .free) && decide (e.2.recordId = id)).mergeSort
      fun a b => decide (a.2.sid ≤ b.2.sid)).flatMap fun e =>
    let key := if r.overDies then dieKey r.loop (e.2.lidx.toList.map BitVec.toNat) else 0
    e.2.place.dies.map fun d => (key, d)

/-- What a slot's head needs holds, as if some contexts had given up their spans. -/
def State.planOf (s : State) (slot : Nat) (gone : List Nat) : Option Plan :=
  match smFind slot s.slots with
  | none => none
  | some sl =>
    let q := s.queueAt sl.queue
    let occ := s.occupied gone
    let used := s.usedContexts gone
    match q.resume with
    | sid :: _ =>
      let unit := s.unitSids sid
      if !q.enable then none
      else if unit.any fun k => (s.parkedAt k).isNone && !gone.any fun n => decide ((s.ctxAt n).sid = k) then none
      else
        let cs := unit.filterMap s.parkedAt
        (s.planResume (s.clusterOk slot) (cs.filter fun c => c.parent.isNone) occ used).map .resume
    | [] =>
      if q.tail ≤ q.head ∨ (q.enable = false ∧ q.replica = none) then none
      else
        let l := s.headBytes q
        let r := q.recOf l
        let gangFree := r.gang ≤ 1 ∨ (match r.gangms with
          | some m => !(s.msAt 0 { num := m, pkg := true }).gang
          | none => true) = true
        let waits := match r.waitms with | some w => decide (r.waitcnt ≤ (s.msAt 0 w).count.toNat) | none => true
        let awake := s.headAwake q && s.descAwake (clearLow 5 (lowBits 60 q.ptdesc))
        if !recFieldsOk l || !waits || !decide gangFree || !awake then none
        else
          let reps := if r.single then [r.rep ((q.replica.map Prod.fst).getD 0)] else (List.range r.replicas).map r.rep
          let prior := match q.replica with | some p => s.priorDies p.2 r | none => []
          (r.placeAll reps prior (fun cl => s.clusterOk slot cl && s.recordOk gone q.pasid cl) occ).bind fun places =>
            match grantAll r s.allGrants (places.map Prod.snd), freeContexts places.length used with
            | some gs, some ns => some (.fresh ((places.zip (gs.zip ns)).map fun p => (p.1.1, p.1.2, p.2.1, p.2.2)))
            | _, _ => none

/-! ## Commit of a placement (R343, R344, R245, R409) -/

/-- A strand occupies a cluster. -/
def State.clusterBusy (s : State) (cl : Nat) : Bool := !clusterFree (s.occupied []) cl

/-- Zeroes a cluster's scratchpad. -/
def State.clearScratch (s : State) (cl : Nat) : State :=
  { s with
    sp := smClear (cl * 2 ^ 22) (2 ^ 22) s.sp
    writes := forget true (fun k => decide (k / 2 ^ 22 = cl)) s.writes
    spPoison := s.spPoison.filter fun w => decide (w / 2 ^ 19 ≠ cl) }

/-- What a placement does to a cluster before the strand's first instruction: the zeroing of R245, and for a new strand
the milestones of R409; a cluster span sets the scratchpad configuration to 0. -/
def State.enterCluster (s : State) (pasid : Word) (fresh whole : Bool) (cl : Nat) : State :=
  let busy := s.clusterBusy cl
  let last := (s.clAt cl).lastPasid
  let s := if !busy && (last.any fun p => decide (p ≠ pasid)) then s.clearScratch cl else s
  let held := s.parkedHolds [] cl fun _ => true
  let k := s.clAt cl
  s.setCl cl { k with
    spcfg := if whole then 0 else k.spcfg
    ms := if fresh && !busy && !held then [] else k.ms }

/-- TCFG of a share at placement (R215), and TEN (R216). -/
def shareTcfg (share : Nat) : Vector Word 8 :=
  Vector.replicate 8 (tcWord false false 1 1 128 (if share = 1 ∨ share = 2 then 64 else 128) 0)
def shareTen (share : Nat) : Word := if share = 0 then 0 else 0xFFF

/-- A new strand's context (R137, R141, R343); the others of its fields are at their reset values. -/
def newCtx (p : Place) (entry arg : Word) (sup : Bool) : Ctx :=
  { mode := .resident, x := (Vector.replicate 32 0).set 3 arg, pc := entry, vspan := p.vspan
    vlmax := BitVec.ofNat 64 (64 * p.lanes), tcfg := shareTcfg p.share, ten := shareTen p.share
    status := statusOf false false sup }

/-- Places one member of a record. -/
def State.placeMember (s : State) (qn : Nat) (r : LaunchRec) (recId gangId : Nat) (rep : Rep) (p : Place)
    (gs : List Grant) (n : Nat) : State :=
  let q := s.queueAt qn
  let s := p.clusters.foldl (fun s cl => s.enterCluster q.pasid true p.whole cl) s
  let s := s.clearLanes (p.cl * 128 + p.first) p.lanes
  let half := decide (p.share = 1 ∨ p.share = 2)
  let s := if p.share = 0 then s
    else p.clusters.foldl (fun s cl => s.clearMatrix cl (if p.share = 2 then 64 else 0) (if half then 64 else 128)) s
  let desc := clearLow 5 (lowBits 60 q.ptdesc)
  let d := s.captureFor desc
  let s := d.2
  let c : Ctx := { newCtx p r.entry r.arg r.sup with
    lidx := Vector.ofFn fun i => BitVec.ofNat 64 (rep.lidx.getD i.val 0)
    stvec := clearLow 2 q.stvec, sscratch := q.sscratch, ptroot := clearLow 3 (lowBits 60 q.ptroot), ptdesc := desc
    pasid := q.pasid, quantum := BitVec.ofNat 64 q.quantum, wdog := BitVec.ofNat 64 q.wdog
    desc := d.1, sid := s.nextId, queue := qn, record := r, recordId := recId, gangId := gangId
    member := if r.single then 0 else rep.num, placedAt := s.nextId, grants := gs, order := { all := s.moment } }
  let s : State := { s with nextId := s.nextId + 1 }
  let s := match smFind gangId s.gangs with
    | some g => { s with gangs := smPut gangId { g with members := g.members ++ [c.sid], live := g.live + 1 } s.gangs }
    | none => s
  (s.setCtx n c).perfCount 72 0x62 (some c.pasid) 1

/-- Binds the milestone of a gang of more than one strand (R344, R408): the gang's number, or 0. -/
def State.bindGang (s : State) (r : LaunchRec) : Nat × State :=
  if r.gang ≤ 1 then (0, s)
  else
    let id := s.nextId
    let s : State := { s with nextId := id + 1, gangs := smPut id { ms := r.gangms } s.gangs }
    match r.gangms with
    | some m => let name : MsName := { num := m, pkg := true }
      (id, s.setMs 0 name { s.msAt 0 name with count := 0, ovf := false, broken := false, gang := true })
    | none => (id, s)

/-- Places the members of the head record of a queue; the record leaves the queue with its last replica. -/
def State.commitFresh (s : State) (qn : Nat) (l : List (Rep × Place × List Grant × Nat)) : State :=
  let q := s.queueAt qn
  let r := q.recOf (s.headBytes q)
  let recId := match q.replica with | some p => p.2 | none => s.nextId
  let s : State := match q.replica with
    | some _ => s
    | none => { s with nextId := s.nextId + 1, recs := smPut recId { left := r.replicas, sig := r.sigms } s.recs }
  let g := s.bindGang r
  let s := l.foldl (fun s m => s.placeMember qn r recId g.1 m.1 m.2.1 m.2.2.1 m.2.2.2) g.2
  let next := ((q.replica.map Prod.fst).getD 0) + 1
  let q := s.queueAt qn
  s.setQueue qn (if r.single && decide (next < r.replicas) then { q with replica := some (next, recId) }
    else { q with head := q.head + 1, replica := none })

/-- The image of a parked strand, read as its accesses. -/
def State.readImage (s : State) (c : Ctx) : Res (List PByte) :=
  let l := (List.range ((c.imgSize + 4095) / 4096)).map fun k =>
    ((c.image.toNat + 4096 * k) % 2 ^ 64, min 4096 (c.imgSize - 4096 * k))
  (s.unitReads c false c.firstCl l).andThen fun d s' => .ok d.flatten s'

/-- The pipelines of an image; those marked pre-empted run again (R354). -/
def Ctx.restorePipes (c : Ctx) (l : List Byte) : SMap Pipe :=
  (List.range 8).filterMap fun n =>
    let d := (l.drop (0x940 + 32 * n)).take 32
    let st := PipeState.ofCode (byteAt d 16)
    let pre := byteAt d 17 % 2 == 1
    if st = .unbound then none
    else some (n, { state := if pre then .running else st, desc := d.take 16, cluster := (c.pipe n).cluster })

/-- Writes the records of an image into the units that the strand holds. -/
def State.restoreUnits (s : State) (c : Ctx) (l : List Byte) : State :=
  c.clusters.zipIdx.foldl (fun s p => (List.range 40).foldl (fun s a =>
    let d := (l.drop (0x1000 + 4096 * p.2 + 64 * a)).take 64
    let k := s.clAt p.1
    if d.all fun b => b == 0 then s
    else if a < 24 then (match smFind a k.ags with | some g => s.setAg p.1 a { g with cfg := d } | none => s)
    else match smFind (a - 24) k.jns with | some j => s.setJn p.1 (a - 24) { j with cfg := d } | none => s) s) s

/-- Places one parked strand on its span and context, its parent's context known; the image is restored, or its fault
is taken by the strand (log entry 31). An image that cannot be read yet leaves the strand parked. -/
def State.resumeOne (s : State) (c : Ctx) (p : Place) (n : Nat) (parent : Option Nat) : State :=
  let c : Ctx := { c with
    mode := .resident, vspan := if c.parent.isSome ∧ c.lanes = 128 then spanWord 3 false 0 p.cl 128 else p.vspan
    parent := parent, placedAt := s.nextId, order := { all := s.moment } }
  let enter := fun (s : State) =>
    let s := p.clusters.foldl (fun s cl => s.enterCluster c.pasid false (p.whole && c.parent.isNone) cl) s
    let q := s.queueAt c.queue
    ({ (s.setCtx n c).setQueue c.queue { q with resume := nsDelOne c.sid q.resume } with
        parked := s.parked.filter (fun x => decide (x.sid ≠ c.sid)), nextId := s.nextId + 1 } : State)
  match s.readImage c with
  | .ok l s' =>
    let s' := enter s'
    let bytes := l.map Prod.fst
    match c.imgBad l with
    | some w => s'.enterTrap n (trapOf causeHwUe 5 (c.image + BitVec.ofNat 64 (8 * w))) c.pc
    | none =>
      if !imgHeaderOk bytes then s'.enterTrap n (trapOf causeOperand 12 0) c.pc
      else if !c.imgFits bytes then s'.enterTrap n (trapOf causeOperand 13 0) c.pc
      else
        let s1 := s'.restoreCtx n l c.record.lazy
        let c1 := s1.ctxAt n
        (s1.setCtx n { c1 with pipes := c.restorePipes bytes, dirtySince := 0 }).restoreUnits c1 bytes
  | .trap t s' => (enter s').enterTrap n t c.pc
  | .ask _ _ => s
  | .wait _ => s
where
  /-- Removes a number from a list that keeps its order. -/
  nsDelOne (k : Nat) (l : List Nat) : List Nat := l.filter fun x => decide (x ≠ k)

/-- The image of a parked strand cannot be read yet: it awaits the host, or a stack that is awake. -/
def State.imageWaits (s : State) (c : Ctx) : Bool :=
  match s.readImage c with
  | .ok l s' => !s'.imgAwake l
  | .trap _ _ => false
  | .ask _ _ => true
  | .wait _ => true

/-- The page that some strand of a unit must ask the host for before its image can be read, not asked for yet. -/
def State.imageAsk (s : State) (l : List (Ctx × Place × Nat)) : Option PageReq :=
  l.findSome? fun m => match s.readImage m.1 with
    | .ask q _ => if s.requests.any fun r => decide (r.pages = q.pages) && decide (r.pasid = q.pasid) then none else some q
    | _ => none

/-- A plan can be carried out now: every image of a unit can be read. -/
def State.planReady (s : State) : Plan → Bool
  | .fresh _ => true
  | .resume l => !l.any fun m => s.imageWaits m.1

/-- Places the strands of a unit again, all of them (R355). -/
def State.commitResume (s : State) (l : List (Ctx × Place × Nat)) : State :=
  (l.foldl (fun (a : State × Option Nat) m =>
      let parent := if m.1.parent.isSome then a.2 else none
      (a.1.resumeOne m.1 m.2.1 m.2.2 parent, if m.1.parent.isSome then a.2 else some m.2.2)) (s, none)).1

/-! ## Pre-emption (R346 to R350) -/

/-- A pre-emption falls due against a context, unless one is. -/
def State.preemptDue (s : State) (n : Nat) : State :=
  let c := s.ctxAt n
  if c.preemptDue.isSome then s else s.setCtx n { c with preemptDue := some s.ticks }

/-- PREEMPT is taken with EPC given: Running pipelines freeze, marked pre-empted (R348). -/
def State.takePreempt (s : State) (n sub : Nat) (epc : Word) : State :=
  let c := s.ctxAt n
  let c := { c with
    pipes := c.pipes.map fun e => (e.1, if e.2.state = .running then { e.2 with state := .frozen, preempted := true } else e.2)
    preemptEntry := c.preemptEntry.or (some s.ticks) }
  ((s.setCtx n c).enterTrap n (trapOf causePreempt sub 0) epc).perfCount 72 0x63 (some c.pasid) 1

/-- The units of resident strands below a priority, in the order in which they become victims (R347), as lists of
contexts. -/
def State.victimOrder (s : State) (p : Nat) : List (List Nat) :=
  let cs := s.ctxs.filter fun e => decide (e.2.mode ≠ .free) && e.2.parent.isNone && decide (e.2.record.pri < p)
  let units := cs.map fun e => (e.2.record.pri, e.2.placedAt, s.ctxsOf (s.unitSids e.2.sid))
  let sorted := units.mergeSort fun a b => decide (a.1 < b.1) || (decide (a.1 = b.1) && decide (b.2.1 ≤ a.2.1))
  ((sorted.map fun u => u.2.2).filter fun l => !l.any fun n => decide ((s.ctxAt n).mode = .stopped)).eraseDups

/-- The victims that let the head of a slot be placed: the shortest beginning of the order. -/
def State.findVictims (s : State) (slot : Nat) : List (List Nat) → List Nat → Option (List Nat)
  | [], _ => none
  | u :: l, gone =>
    let gone := gone ++ u
    if (s.planOf slot gone).isSome then some gone else s.findVictims slot l gone

/-- An earlier victim of a slot has neither parked nor ended, nor been stopped for want of a park (R347, R349). -/
def State.victimsLeft (s : State) (sl : Slot) : Bool :=
  sl.victims.any fun k => match s.ctxOf k with | some n => !(s.ctxAt n).graceOver | none => false

/-- A victim of a slot, stopped or not, still holds its span: the head waits for it (R349, R350). -/
def State.victimsHold (s : State) (sl : Slot) : Bool := sl.victims.any fun k => (s.ctxOf k).isSome

/-- A pre-emption falls due against contexts, which become a slot's victims. -/
def State.claim (s : State) (slot : Nat) (l : List Nat) : State :=
  match smFind slot s.slots with
  | none => s
  | some sl =>
    let sids := l.map fun n => (s.ctxAt n).sid
    let s : State := { s with slots := smPut slot { sl with victims := sl.victims ++ sids } s.slots }
    l.foldl State.preemptDue s

/-- The mapped slots in the order in which the placement unit takes them (R32). -/
def State.slotOrder (s : State) : List Nat :=
  (s.slots.mergeSort fun a b =>
    let pa := s.basePri (s.queueAt a.2.queue)
    let pb := s.basePri (s.queueAt b.2.queue)
    decide (pb < pa) || (decide (pa = pb) && decide (a.1 ≤ b.1))).map Prod.fst

/-- The plan on which the placement unit would act for a slot now. -/
def State.planNow (s : State) (slot : Nat) : Option Plan :=
  match smFind slot s.slots with
  | some sl => if s.victimsHold sl then none else (s.planOf slot []).filter s.planReady
  | none => none

/-- The head of a slot is placed: its reservation and its victims are done with. -/
def State.commitPlan (s : State) (slot : Nat) (p : Plan) : State :=
  let qn := ((smFind slot s.slots).map Slot.queue).getD 0
  let s1 := match p with | .fresh l => s.commitFresh qn l | .resume l => s.commitResume l
  let s1 : State := { s1 with slots := match smFind slot s1.slots with
    | some sl => smPut slot { sl with waited := 0, reserved := [], victims := [] } s1.slots
    | none => s1.slots }
  s1.fillSlots

/-- Victims for the head of a slot that cannot be placed, where some are still to be chosen (R347) (log entry 37). -/
def State.chooseVictims (s : State) (slot : Nat) : Option State :=
  match smFind slot s.slots with
  | none => none
  | some sl =>
    if s.victimsLeft sl || (s.planOf slot []).isSome then none
    else match s.findVictims slot (s.victimOrder (s.basePri (s.queueAt sl.queue))) [] with
      | some l => if (l.all fun n => sl.victims.contains (s.ctxAt n).sid) = true then none else some (s.claim slot l)
      | none => none

/-- The host is asked for a page of an image without which a head cannot be placed. -/
def State.askImage (s : State) (slot : Nat) : Option State :=
  match s.planOf slot [] with
  | some (.resume l) => (s.imageAsk l).map s.request
  | _ => none

/-- What the placement unit does for a slot: it places the head, asks for a page of its image, or chooses victims. -/
def State.serveSlot (s : State) (slot : Nat) : Option State :=
  match s.planNow slot with
  | some p => some (s.commitPlan slot p)
  | none => (s.askImage slot).or (s.chooseVictims slot)

/-- The placement unit acts on one slot, if no slot before it in the order has a head to place. -/
def execPlacement (slot : Nat) (s : State) : Host.Outcome State Fault Refusal :=
  if (s.slotOrder.takeWhile fun k => decide (k ≠ slot)).any fun k => (s.planNow k).isSome then .next s
  else .next ((s.serveSlot slot).getD s)

/-- The placement unit goes through the slots in order until it does something (log entry 36). -/
def State.serveSlots (s : State) : State := (s.slotOrder.findSome? s.serveSlot).getD s

/-! ## Rotation (R339, R340, R345) -/

/-- The head of a queue needs a gang or a cluster span, at its minimum (R17, R345). -/
def State.mayReserve (s : State) (q : Queue) : Bool :=
  match q.resume with
  | sid :: _ => ((s.unitSids sid).filterMap s.parkedAt).any fun c => c.parent.isNone && (c.clusterSpan || decide (c.gangId ≠ 0))
  | [] =>
    let l := s.headBytes q
    s.headAwake q && (decide (1 < recGang l) || recShare l == 2 || decide (128 < recLmax l) || decide (128 ≤ recLmin l))

/-- The places that R32 gives the head of a queue if every cluster that `ok` admits were free. -/
def State.idealPlaces (s : State) (q : Queue) (ok : Nat → Bool) : Option (List Place) :=
  match q.resume with
  | sid :: _ =>
    let cs := (s.unitSids sid).filterMap s.parkedAt
    (s.planResume ok (cs.filter fun c => c.parent.isNone) [] []).map fun l => l.map fun m => m.2.1
  | [] =>
    let r := q.recOf (s.headBytes q)
    let reps := if r.single then [r.rep ((q.replica.map Prod.fst).getD 0)] else (List.range r.replicas).map r.rep
    let prior := match q.replica with | some p => s.priorDies p.2 r | none => []
    (r.placeAll reps prior ok []).map fun l => l.map Prod.snd

/-- A slot whose head has waited through 4 boundaries reserves clusters, and pre-empts what is below it there. -/
def State.reserve (s : State) (k : Nat) : State :=
  match smFind k s.slots with
  | none => s
  | some sl =>
    let q := s.queueAt sl.queue
    let ok := fun (cl : Nat) => decide (cl < 64) && !s.ctl.clgate.getLsbD cl && !(s.slots.any fun e => e.2.reserved.contains cl)
    match s.idealPlaces q ok with
    | none => s
    | some l =>
      let cls := (l.flatMap Place.clusters).eraseDups
      let s : State := { s with slots := smPut k { sl with reserved := cls } s.slots }
      let there := (s.ctxs.filter fun e => decide (e.2.mode ≠ .free) && decide (e.2.record.pri < s.basePri q) &&
        e.2.place.clusters.any fun c => cls.contains c).flatMap fun e => s.ctxsOf (s.unitSids e.2.sid)
      s.claim k (there.eraseDups.filter fun n => decide ((s.ctxAt n).mode ≠ .stopped))

/-- The slots whose heads qualify for a reservation, the longest qualified first (R345). -/
def State.qualified (s : State) : List Nat :=
  let waited := fun (k : Nat) => ((smFind k s.slots).map Slot.waited).getD 0
  (s.slotOrder.filter fun k => match smFind k s.slots with
    | some sl => decide (4 ≤ sl.waited) && sl.reserved.isEmpty && s.mayReserve (s.queueAt sl.queue)
    | none => false).mergeSort fun a b => decide (waited b ≤ waited a)

/-- One boundary: the first 64 of the ranking hold slots, a head that was mapped before has waited through it, W counts
for the queues without a slot, and heads that have waited may reserve. -/
def State.rotate (s : State) : State :=
  let top := s.ranking.take 64
  let s : State := { s with slots :=
    (s.slots.filter fun e => top.contains e.2.queue).map fun e => (e.1, { e.2 with waited := e.2.waited + 1 }) }
  let s := (top.filter fun q => !s.slots.any fun e => decide (e.2.queue = q)).foldl State.mapQueue s
  let s : State := { s with queues := s.queues.map fun e =>
    (e.1, if decide (0 < e.2.count) && !top.contains e.1 then { e.2 with w := e.2.w + 1 } else e.2) }
  s.qualified.foldl (fun s k =>
    if (s.slots.filter fun e => !e.2.reserved.isEmpty).length < 4 then s.reserve k else s) s

/-- Boundaries that TIME has passed. -/
def State.boundaries (s : State) : Nat := s.time / 50000

/-- A rotation boundary. -/
def execRotationBoundary (s : State) : Host.Outcome State Fault Refusal :=
  if s.boundaries ≤ s.boundary then .next s
  else .next ({ s.rotate with boundary := s.boundary + 1 } : State).fillSlots

/-! ## The ends of the grace period (R348, R349) -/

/-- When the grace of a due pre-emption runs out; after the first PREEMPT entry it has (R349). -/
def Ctx.graceEnd (c : Ctx) : Option Nat :=
  c.preemptDue.map fun t => if c.preemptEntry.isSome then t else t + usTicks (c.quantum.toNat % 2 ^ 16)

/-- A context stands between retirements: no convoy is open and no remote access is under way. -/
def Ctx.between (c : Ctx) : Bool := c.viq.isEmpty && decide (c.remote = .idle)

/-- A queue command in progress holds a context at a boundary: OP 1 the strand and its children, OP 2 and 4 the strand, OP 3
its unit (R431). -/
def State.qHolds (s : State) (n : Nat) : Bool :=
  (s.ctxAt n).between && s.ctl.qports.any fun p =>
    p.2.busy &&
    (let op := p.2.qcmd.toNat % 16
     let k := p.2.qcmd.toNat / 2 ^ 8 % 2 ^ 8
     decide (1 ≤ op ∧ op ≤ 4) &&
       (decide (k = n) || (decide (op = 1) && decide ((s.ctxAt n).parent = some k)) ||
        (decide (op = 3) && (s.unitSids (s.ctxAt k).sid).contains (s.ctxAt n).sid)))

/-- The grace period has run out: PREEMPT at the next boundary between retirements, if no queue command acts there. -/
def execPreemptGraceExpiry (ctx : Nat) (s : State) : Host.Outcome State Fault Refusal :=
  let c := s.ctxAt ctx
  match c.graceEnd with
  | some t =>
    if t ≤ s.ticks ∧ c.mode = .resident ∧ c.ex = false ∧ c.between = true ∧ s.qHolds ctx = false then
      .next (s.takePreempt ctx 1 c.pc)
    else .next s
  | none => .next s

/-- When a strand that has not parked is stopped. -/
def Ctx.stopAt (c : Ctx) : Option Nat := c.preemptEntry.map fun t => t + 2 * usTicks (c.quantum.toNat % 2 ^ 16)

/-- A strand that has neither parked nor ended in time is stopped, or stays stopped, and is reported (R349). -/
def execPreemptStop (ctx : Nat) (s : State) : Host.Outcome State Fault Refusal :=
  let c := s.ctxAt ctx
  match c.stopAt with
  | some t =>
    if t ≤ s.ticks ∧ c.mode ≠ .free ∧ c.graceOver = false then
      let s := s.setCtx ctx { c with 
        mode := .stopped, wait := none, viq := [], queued := [], remote := .idle, group := none, graceOver := true }
      .next (s.post { s.recordOf ctx 2 with cause := causePreempt, epc := c.pc })
    else .next s
  | none => .next s

/-! ## idle and yield (R356, R357) -/

/-- idle. -/
def execIdle (ra : XReg) (s : State) : Host.Outcome State Fault Refusal :=
  let t := (s.me.reg ra).toNat
  if t ≤ s.time then .next s.pass else .next (s.setMe { s.me with wait := some (.idle t) })

/-- TIME reaches the deadline of an idling strand. -/
def execIdleDeadline (ctx : Nat) (s : State) : Host.Outcome State Fault Refusal :=
  let c := s.ctxAt ctx
  match c.wait with
  | some (.idle t) => if t ≤ s.time then .next (s.setCtx ctx { c with wait := none }.advance) else .next s
  | _ => .next s

/-- A mapped head of at least the strand's priority could be placed only by taking its span. -/
def State.wanted (s : State) (n : Nat) : Bool :=
  let c := s.ctxAt n
  let gone := s.ctxsOf (s.unitSids c.sid)
  s.slots.any fun e =>
    decide (c.record.pri ≤ s.basePri (s.queueAt e.2.queue)) && (s.planOf e.1 []).isNone && (s.planOf e.1 gone).isSome

/-- yield: the end of the strand, which waits as ctx.save does, or giving way. A pre-emption that is due in a handler
waits for tret (R166). -/
def State.yieldOp (s : State) (word : Nat) (ra : XReg) : State :=
  let c := s.me
  let m := c.reg ra
  if 2 ≤ m.toNat then s.trap causeOperand 6 (BitVec.ofNat 64 word)
  else if m = 1 then
    if s.spent s.cur && (s.childrenIn s.cur).all s.spent then s.endStrand s.cur else s.block
  else
    let s := if c.preemptDue.isNone && s.wanted s.cur then (s.ctxsOf (s.unitSids c.sid)).foldl State.preemptDue s else s
    if (s.me.preemptDue.isSome && !c.ex) = true then s.pass.takePreempt s.cur 0 (c.pc + 4) else s.pass

def execYield (ra : XReg) (s : State) : Host.Outcome State Fault Refusal := .next (s.yieldOp (parcelOf (.yield ra)) ra)

/-- The row of yield with m = 1. -/
def execYieldEnd (ra : XReg) (s : State) : Host.Outcome State Fault Refusal := .next (s.yieldOp (parcelOf (.yield ra)) ra)

/-! ## vpart (R358) -/

/-- A descriptor keeps the table, for a span of n clusters. -/
def vpartOk (n : Nat) (d : List Byte) : Bool :=
  let g := byteAt d 1
  let w := (List.range 8).map fun i => byteAt d (2 + i)
  decide (byteAt d 0 < n) && decide (1 ≤ g) && decide (g ≤ 8) &&
  (w.zipIdx.all fun p => if p.2 < g then decide (1 ≤ p.1) && decide (p.1 ≤ 8) else p.1 == 0) &&
  decide (w.foldl (· + ·) 0 ≤ 8) && fieldAt d 10 6 == 0

/-- Creates child g of a context; what is due against the parent's unit is due against the child (R346). -/
def State.vpartChild (s : State) (pn : Nat) (d : List Byte) (g n : Nat) : State :=
  let p := s.ctxAt pn
  let cl := p.clusters.getD (byteAt d 0) 0
  let first := 16 * (((List.range g).map fun i => byteAt d (2 + i)).foldl (· + ·) 0)
  let pl : Place := { cl := cl, first := first, lanes := 16 * byteAt d (2 + g), whole := false }
  let share := if pl.lanes = 128 then 3 else pl.share
  let c : Ctx := { newCtx pl (BitVec.ofNat 64 (fieldAt d 16 8 / 4 * 4)) (BitVec.ofNat 64 (fieldAt d 24 8)) p.sup with
    vspan := spanWord share false first cl pl.lanes
    tcfg := shareTcfg share, ten := shareTen share
    lidx := (Vector.replicate 4 0).set 0 (BitVec.ofNat 64 g)
    stvec := p.stvec, sscratch := p.sscratch, pasid := p.pasid, ptroot := p.ptroot, ptdesc := p.ptdesc
    quantum := p.quantum, wdog := p.wdog, desc := p.desc, sid := s.nextId, queue := p.queue
    record := { p.record with gang := 1, gangms := none, sigms := none }
    placedAt := p.placedAt, preemptDue := p.preemptDue, parent := some pn, group8 := g, part := g, order := { all := s.moment } }
  let s : State := { (s.setCtx n c) with nextId := s.nextId + 1 }
  s.setCtx pn { s.ctxAt pn with children := (s.ctxAt pn).children ++ [c.sid] }

/-- vpart. Run again after a PREEMPT that it took, it goes on waiting for its children (log entry 39). -/
def execVpart (rd ra : XReg) (s : State) : Host.Outcome State Fault Refusal :=
  let c := s.me
  let word := parcelOf (.vpart rd ra)
  let a := c.reg ra
  if c.vparts.contains c.pc then
    if c.children.isEmpty then
      .next ((s.setMe { c with vparts := c.vparts.filter fun p => decide (p ≠ c.pc) }).done rd 0)
    else .next (s.setMe { c with wait := some (.vpart rd) })
  else if !c.clusterSpan then .next (s.trapPriv 1 word)
  else if a.toNat % 8 ≠ 0 then .next (s.trap causeMisalign 2 a)
  else .next (s.finish ((s.readVirt c 15 a.toNat 32).andThen fun d s' =>
    if !vpartOk c.clusters.length d then .trap (trapOf causeOperand 12 (BitVec.ofNat 64 word)) s'
    else match freeContexts (byteAt d 1) (s'.usedContexts []) with
      | none => .ok () (s'.done rd 1)
      | some ns =>
        let s1 := ns.zipIdx.foldl (fun s p => s.vpartChild s'.cur d p.2 p.1) s'
        let c1 := s1.me
        .ok () (s1.setMe { c1 with wait := some (.vpart rd), vparts := c1.vparts ++ [c1.pc] })))

end Sys2Proof.Machine
end

