-- ==== Sys2Proof/Machine/Crypto.lean ====
section
/-! DEFINITION. SHA-384 and ECDSA over brainpoolP384r1, by which the boot ROM verifies a firmware image (R434), and the
device identity key (R435). The algorithms and constants are those of FIPS 180-4 and RFC 5639 (log entry 78). -/

namespace Sys2Proof.Machine

/-! ## SHA-384 -/

/-- The first 80 primes. -/
def shaPrimes : List Nat :=
  (List.range 410).filter fun n => decide (1 < n) && (List.range 21).all fun d => decide (d < 2 ∨ n ≤ d ∨ n % d ≠ 0)

/-- The whole part of the k-th root of x, whose bits from n on are those of `base`. -/
def rootFrom (k x : Nat) : Nat → Nat → Nat
  | 0, base => base
  | n + 1, base => rootFrom k x n (if (base + 2 ^ n) ^ k ≤ x then base + 2 ^ n else base)

/-- The first 64 bits of the fractional part of the k-th root of a prime below 2^9. -/
def rootBits (k p : Nat) : Word := BitVec.ofNat 64 (rootFrom k (p * 2 ^ (64 * k)) 69 0)

/-- The round constants come from the cube roots of the first 80 primes, the initial hash value from the square roots of the
ninth to the sixteenth. -/
def shaConstants : List Word := shaPrimes.map (rootBits 3)
def shaInit : List Word := ((shaPrimes.drop 8).take 8).map (rootBits 2)

/-- Eight bytes, most significant first, as a word. -/
def beWord : List Byte → Word
  | l => l.foldl (fun a b => a <<< 8 ||| b.setWidth 64) 0

/-- The padded message, in bytes. -/
def shaPad (l : List Byte) : List Byte :=
  let z := (239 - l.length % 128) % 128
  l ++ [0x80] ++ List.replicate z 0 ++ (List.range 16).map fun i => BitVec.ofNat 8 (8 * l.length / 2 ^ (8 * (15 - i)))

/-- The exclusive or of a word's rotations. -/
def rotations (x : Word) (l : List Nat) : Word := l.foldl (fun a n => a ^^^ x.rotateRight n) 0

/-- The message schedule of a block, newest word first, after `n` words more. -/
def shaSchedule : Nat → List Word → List Word
  | 0, w => w
  | n + 1, w =>
    let at' := fun k => w.getD k 0
    let mix := fun (x : Word) l k => rotations x l ^^^ (x >>> k)
    shaSchedule n ((at' 15 + at' 6 + mix (at' 14) [1, 8] 7 + mix (at' 1) [19, 61] 6) :: w)

/-- The two running words of the rounds with what they were before, newest first: eight working words in all. -/
abbrev ShaWork := List Word × List Word

/-- One round: each running word takes its next value. -/
def shaRound (v : ShaWork) (kw : Word) : ShaWork :=
  let a := fun k => v.1.getD k 0
  let e := fun k => v.2.getD k 0
  let choose := e 2 ^^^ (e 0 &&& (e 1 ^^^ e 2))
  let most := (a 0 &&& (a 1 ||| a 2)) ||| (a 1 &&& a 2)
  let t := kw + choose + rotations (e 0) [14, 18, 41] + e 3
  ((t + most + rotations (a 0) [28, 34, 39]) :: v.1, (a 3 + t) :: v.2)

/-- The hash value after one block of 16 words, newest first. -/
def shaBlock (h w : List Word) : List Word :=
  let steps := List.zipWith (· + ·) shaConstants (shaSchedule 64 w).reverse
  let v := steps.foldl shaRound (h.take 4, h.drop 4)
  List.zipWith (· + ·) h (v.1.take 4 ++ v.2.take 4)

/-- SHA-384 of a byte string, as a number of 384 bits. -/
def sha384 (l : List Byte) : Nat :=
  let m := shaPad l
  let blocks := (List.range (m.length / 128)).map fun i =>
    ((List.range 16).map fun j => beWord ((m.drop (128 * i + 8 * j)).take 8)).reverse
  ((blocks.foldl shaBlock shaInit).take 6).foldl (fun a w => a * 2 ^ 64 + w.toNat) 0

/-! ## The curve brainpoolP384r1 -/

/-- The prime of the field, the coefficients, the base point and its order. -/
def brainP : Nat := 0x8CB91E82A3386D280F5D6F7E50E641DF152F7109ED5456B412B1DA197FB71123ACD3A729901D1A71874700133107EC53
def brainA : Nat := 0x7BC382C63D8C150C3C72080ACE05AFA0C2BEA28E4FB22787139165EFBA91F90F8AA5814A503AD4EB04A8C7DD22CE2826
def brainB : Nat := 0x04A8C7DD22CE28268B39B55416F0447C2FB77DE107DCD2A62E880EA53EEB62D57CB4390295DBC9943AB78696FA504C11
def brainGx : Nat := 0x1D1C64F068CF45FFA2A63A81B7C13F6B8847A3E77EF14FE3DB7FCAFE0CBD10E8E826E03436D646AAEF87B2E247D4AF1E
def brainGy : Nat := 0x8ABE1D7520F9C2A45CB1EB8E95CFD55262B70B29FEEC5864E19C054FF99129280E4646217791811142820341263C5315
def brainN : Nat := 0x8CB91E82A3386D280F5D6F7E50E641DF152F7109ED5456B31F166E6CAC0425A7CF3AB6AF6B7FC3103B883202E9046565

/-- x^e modulo m, for e below 2^n. -/
def powMod (m x : Nat) : Nat → Nat → Nat
  | 0, _ => 1 % m
  | n + 1, e => let r := powMod m x n (e / 2); if e % 2 = 1 then r * r % m * x % m else r * r % m

/-- The inverse modulo a prime. -/
def invMod (m x : Nat) : Nat := powMod m (x % m) 384 (m - 2)

/-- A point of the curve; `none` is the neutral element. -/
abbrev EcPoint := Option (Nat × Nat)

/-- The sum of two points. -/
def ecAdd : EcPoint → EcPoint → EcPoint
  | none, q => q
  | p, none => p
  | some (x1, y1), some (x2, y2) =>
    if x1 = x2 ∧ (y1 + y2) % brainP = 0 then none
    else
      let l := if x1 = x2 then (3 * x1 * x1 + brainA) * invMod brainP (2 * y1) % brainP
        else (y2 + brainP - y1) * invMod brainP (x2 + brainP - x1) % brainP
      let x := (l * l + 2 * brainP - x1 - x2) % brainP
      some (x, (l * (x1 + brainP - x) + brainP - y1) % brainP)

/-- k times a point, for k below 2^n. -/
def ecMul (p : EcPoint) : Nat → Nat → EcPoint
  | 0, _ => none
  | n + 1, k => let r := ecMul p n (k / 2); if k % 2 = 1 then ecAdd (ecAdd r r) p else ecAdd r r

/-- The base point. -/
def ecBase : EcPoint := some (brainGx, brainGy)

/-- A public key: a point of the curve. -/
def onCurve (q : Nat × Nat) : Bool :=
  decide (q.1 < brainP) && decide (q.2 < brainP) && decide (q.2 * q.2 % brainP = (q.1 * q.1 * q.1 + brainA * q.1 + brainB) % brainP)

/-- An ECDSA signature (r, s) of a digest verifies under a public key. -/
def ecdsaOk (key : Nat × Nat) (digest : Nat) (sig : Nat × Nat) : Bool :=
  let (r, s) := sig
  let w := invMod brainN s
  onCurve key && decide (0 < r ∧ r < brainN ∧ 0 < s ∧ s < brainN) &&
  (match ecAdd (ecMul ecBase 384 (digest * w % brainN)) (ecMul (some key) 384 (r * w % brainN)) with
   | some p => decide (p.1 % brainN = r)
   | none => false)

/-- The ECDSA signature of a digest with a private key and a nonce. -/
def ecdsaSign (d nonce digest : Nat) : Nat × Nat :=
  match ecMul ecBase 384 nonce with
  | some p => let r := p.1 % brainN; (r, invMod brainN nonce * (digest + r * d) % brainN)
  | none => (0, 0)

/-- The bytes of a number, most significant first. -/
def beBytes (n v : Nat) : List Byte := (List.range n).map fun i => BitVec.ofNat 8 (v / 2 ^ (8 * (n - 1 - i)))

/-- The digest of a public key: its coordinates, 48 bytes each. -/
def keyDigest (key : Nat × Nat) : Nat := sha384 (beBytes 48 key.1 ++ beBytes 48 key.2)

end Sys2Proof.Machine
end

