-- ==== Sys2Proof/Machine/Tlb.lean ====
section
/-! DEFINITION. tlb.inv, pprobe, the host's answers to page requests, ATS invalidations, and accesses of the host and of
other endpoints to device memory (R250, R259, R374 to R378). -/

namespace Sys2Proof.Machine

/-! ## Invalidation (R375, R376) -/

/-- Removes cached translations, and the non-leaf entries of the same tags. -/
def State.dropTlb (s : State) (gone : TlbEntry → Bool) (goneWalk : WalkEntry → Bool) : State :=
  { s with
    tlbs := s.tlbs.map fun k => (k.1, k.2.filter fun e => !gone e)
    walks := s.walks.map fun k => (k.1, k.2.filter fun e => !goneWalk e) }

/-- What is under way through removed entries: the packets so far, the open convoys, and the writes of both and of before. -/
def State.underWay (s : State) : Inval :=
  let open_ := s.ctxs.filter fun e => !e.2.viq.isEmpty
  { packets := s.glox.nextPacket
    convoys := open_.map fun e => (e.1, e.2.pc, e.2.retired)
    moment := s.moment
    sids := open_.map fun e => e.2.sid }

/-- All of it has been performed or discarded. -/
def State.settled (s : State) (i : Inval) : Bool :=
  !(s.glox.packets.any fun p => decide (p.num < i.packets)) &&
  i.convoys.all fun x => let c := s.ctxAt x.1; c.viq.isEmpty || decide (c.pc ≠ x.2.1) || decide (c.retired ≠ x.2.2)

/-- The writes that were under way at an invalidation are performed at system scope (R375). -/
def State.performInval (s : State) (i : Inval) : State :=
  s.performWith (fun w => if w.instr ≤ i.moment ∨ w.sid ∈ i.sids then viewsOf 5 w.die else []) fun w => viewsOf 5 w.die

/-- The removal of tlb.inv: KIND 0 a page, 1 a PASID, 2 all. -/
def State.tlbDrop (s : State) (kind pasid va : Nat) : State :=
  s.dropTlb
    (fun e => decide (kind = 2) ||
      (decide (e.pasid.toNat = pasid) && (decide (kind = 1) || decide (va / 2 ^ e.size = e.page))))
    (fun e => decide (kind = 2) ||
      (decide (e.pasid.toNat = pasid) && (decide (kind = 1) || decide (va / 2 ^ e.sh = e.page))))

/-- tlb.inv: a fence at package scope over all classes, the removal, then the wait until no access through a removed entry
is under way (log entry 42). -/
def State.tlbInv (s : State) (word : Nat) (ra rb : XReg) : State :=
  let c := s.me
  let b := (c.reg rb).toNat
  let kind := b / 2 ^ 20
  if !c.sup then s.trapPriv 0 word
  else if 3 ≤ kind then s.trap causeOperand 6 (BitVec.ofNat 64 word)
  else match c.inval with
  | some i => if s.settled i then ((s.setMe { c with inval := none }).performInval i).pass else s.block
  | none =>
    let s := (s.fenceAt s.cur 0xFFFF 3).tlbDrop kind (b % 2 ^ 20) (c.reg ra).toNat
    if s.settled s.underWay then (s.performInval s.underWay).pass
    else (s.setMe { s.me with inval := some s.underWay }).block

/-- KIND 0. -/
def execTlbInvPage (ra rb : XReg) (s : State) : Host.Outcome State Fault Refusal :=
  .next (s.tlbInv (parcelOf (.tlbInvPage ra rb)) ra rb)
/-- KIND 1. -/
def execTlbInvPasid (ra rb : XReg) (s : State) : Host.Outcome State Fault Refusal :=
  .next (s.tlbInv (parcelOf (.tlbInvPage ra rb)) ra rb)
/-- KIND 2. -/
def execTlbInvAll (ra rb : XReg) (s : State) : Host.Outcome State Fault Refusal :=
  .next (s.tlbInv (parcelOf (.tlbInvPage ra rb)) ra rb)

/-- A host invalidation: the entries of a PASID that meet the range go; its completion is owed after what is under way. -/
def execAtsInvalidation (pasid : BitVec 20) (va len : Nat) (s : State) : Host.Outcome State Fault Refusal :=
  let meets := fun (p : Word) (page size : Nat) =>
    decide (p.toNat = pasid.toNat) && decide (page * 2 ^ size < va + len) && decide (va < (page + 1) * 2 ^ size)
  let s := s.dropTlb (fun e => meets e.pasid e.page e.size) (fun e => meets e.pasid e.page e.sh)
  .next { s with invals := s.invals ++ [s.underWay] }

/-- The oldest invalidation completes once all that was under way at it is performed or discarded. -/
def execInvalidationCompletion (s : State) : Host.Outcome State Fault Refusal :=
  match s.invals with
  | [] => .next s
  | i :: l => if s.settled i then .next (({ s with invals := l } : State).performInval i) else .next s

/-! ## pprobe (R377) -/

/-- The scratchpad window of scalar accesses (R245). -/
def inWindow (va : Nat) : Bool := decide (2 ^ 64 - 2 ^ 28 ≤ va)

/-- A window address as a package cluster and a byte offset, for an access of n bytes that its context may make. -/
def State.windowAt (s : State) (c : Ctx) (va n : Nat) : Option (Nat × Nat) :=
  let off := va % 2 ^ 22
  match c.clusters[va / 2 ^ 22 % 64]? with
  | some cl => if off + n ≤ (s.spWindow c cl).1 then some (cl, off) else none
  | none => none

/-- The result of a successful probe. -/
def probeOk (page size level : Nat) (r w x u a d : Bool) : Nat :=
  let b := fun (f : Bool) (k : Nat) => if f then 2 ^ k else 0
  b (regionOf page == 1) 19 + b d 18 + b a 17 + b u 16 + b x 15 + b w 14 + b r 13 + size * 2 ^ 7 + level * 2 ^ 4 + 1

/-- The result of a failing probe: level and FAULT. -/
def probeBad (level fault : Nat) : Nat := level * 2 ^ 4 + fault * 2

/-- A translation as pprobe reports it; `none` while a table lies in a stack in self-refresh (log entry 41). -/
def State.probeWalk (s : State) (c : Ctx) (kind : Nat) (user : Bool) (va : Nat) : Option Nat :=
  match c.desc with
  | none => some (probeBad 0 5)
  | some d =>
    match s.hit sDie c d kind user va with
    | some e =>
      if s.leafOk d (e.addr va) then
        some (probeOk (s.outPa d (e.addr va)) e.size e.level e.pr e.pw e.px e.pu e.acc e.dirty)
      else some (probeBad e.level 4)
    | none =>
      match s.siteWalk sDie c d kind user true va with
      | .page i _ _ => some (probeOk (s.outPa d (i.out + va % 2 ^ i.size)) i.size i.level i.r i.w i.x i.u i.a i.d)
      | .absent k => some (probeBad k (if d.pri then 3 else 1))
      | .denied k => some (probeBad k (if d.pri then 3 else 2))
      | .prot k => some (probeBad k 2)
      | .format k => some (probeBad k 4)
      | .poison k => some (probeBad k 4)
      | .asleep => none

/-- What pprobe writes. The window serves loads, stores and atomics; a fetch from it is translated (R245). -/
def State.probe (s : State) (c : Ctx) (kind : Nat) (user : Bool) (va : Nat) : Option Nat :=
  if !inWindow va then s.probeWalk c kind user va
  else if kind = 2 then (s.probeWalk c kind user va).map fun v => 2 ^ 20 + v % 2
  else some (2 ^ 20 + if (s.windowAt c va 1).isSome then 1 else 0)

/-- pprobe: bit 2 of X[rb] asks for user privilege, which a user strand always has. -/
def execPprobe (rd ra rb : XReg) (s : State) : Host.Outcome State Fault Refusal :=
  let c := s.me
  let b := (c.reg rb).toNat
  if 8 ≤ b then .next (s.trap causeOperand 6 (BitVec.ofNat 64 (parcelOf (.pprobe rd ra rb))))
  else match s.probe c (b % 4) (!c.sup || decide (4 ≤ b)) (c.reg ra).toNat with
    | some v => .next (s.done rd (BitVec.ofNat 64 v))
    | none => .next s.block

/-! ## The host's answers (R374) -/

/-- A request is answered: its credits let later ones go to the host. -/
def State.dropRequest (s : State) (g : Nat) : State :=
  ({ s with requests := s.requests.filter fun r => decide (r.group ≠ g) } : State).countSent s.sent

/-- Success: waiting instructions and units go on. -/
def execResponseSuccess (group : Nat) (s : State) : Host.Outcome State Fault Refusal :=
  if !s.sent.any fun r => decide (r.group = group) then .next s
  else
    let s := s.dropRequest group
    let s : State := { s with
      ctxs := s.ctxs.map fun e =>
        (e.1, if e.2.mode = .descheduled ∧ e.2.group = some group then { e.2 with mode := .resident, group := none } else e.2)
      unitAsks := s.unitAsks.filter fun u => decide (u.group ≠ group) }
    .next s.tellAll

/-- XLATE of an access that the host refused. -/
def refusedTrap (sub : Nat) (va : Nat) (elem : Option Nat) : TrapInfo :=
  { trapOf causeXlate (if sub / 8 % 2 = 1 then sub else sub + 8) (BitVec.ofNat 64 va) with elem := elem }

/-- A unit whose page the host refused: a pass's STATUS write and the words of a calendar on that page are dropped with
their trap; another unit freezes (R325, R330, R401). -/
def State.refuseUnit (s : State) (u : UnitAsk) : State :=
  let s : State := { s with unitAsks := s.unitAsks.filter fun x => decide (x ≠ u) }
  let user := match s.strandCtx u.sid with | some c => !c.sup | none => false
  let t := refusedTrap (accSub u.kind user true) u.va none
  if u.actor = 40 then
    let k := s.clAt u.cluster
    let s := s.setCl u.cluster { k with pipes := k.pipes.map fun e =>
      (e.1, match e.2.running, e.2.fifo with
        | some d, .pass _ _ sid _ _ _ _ _ _ _ _ _ _ _ _ :: _ =>
          if sid = u.sid ∧ d.status.isSome ∧ d.posted = 0 then { e.2 with running := some { d with posted := 1 } } else e.2
        | _, _ => e.2) }
    (s.dueStrand u.sid t).getD s
  else if 64 ≤ u.cluster ∧ u.actor % 4 = 2 then
    let g := u.actor / 4 / 4096
    let i := s.instAt (u.cluster - 64) g
    let m := u.actor / 4 % 4096
    let s := s.setInst (u.cluster - 64) g (i.put m { i.mem m with refused := (i.mem m).refused ++ [u.va] })
    (s.dueStrand u.sid t).getD s
  else s.freezeUnit u.cluster u.actor u.sid t

/-- A refusal of one request. -/
def State.refuseGroup (s : State) (r : PageReq) : State :=
  let s := s.dropRequest r.group
  let s := s.ctxs.foldl (fun s e =>
    if e.2.mode = .descheduled ∧ e.2.group = some r.group then
      s.enterTrap e.1 (refusedTrap (r.sub.toNat + 512 * r.slot) (r.pages.headD 0) r.elem) e.2.pc
    else s) s
  (s.unitAsks.filter fun u => decide (u.group = r.group)).foldl State.refuseUnit s

/-- Invalid Request. -/
def execInvalidRequest (group : Nat) (s : State) : Host.Outcome State Fault Refusal :=
  match s.sent.find? fun r => decide (r.group = group) with
  | some r => .next (s.refuseGroup r).tellAll
  | none => .next s

/-- Response Failure: every waiting instruction raises XLATE, and later requests fail until PRI is enabled again. -/
def execResponseFailure (s : State) : Host.Outcome State Fault Refusal :=
  let s : State := { s with ctl := { s.ctl with prifail := true } }
  .next (s.requests.foldl State.refuseGroup s).tellAll

/-- The host disables and enables PRI again (R427). -/
def execPriReenable (s : State) : Host.Outcome State Fault Refusal :=
  .next { s with ctl := { s.ctl with prifail := false } }

/-! ## Accesses of others to device memory (R250, R259) -/

/-- A byte range lies in local HBM. -/
def inHbm (pa n : Nat) : Bool :=
  paOk pa && paOk (pa + n - 1) && (regionOf pa == 0 || regionOf pa == 4) && decide (regionOf (pa + n - 1) = regionOf pa)

/-- An access to device memory: a read changes nothing, and a write waits while its stack sleeps (R437). -/
def State.outsideAccess (s : State) (pa : Nat) (write : Option (List Byte)) : State :=
  match write with
  | none => s
  | some l => if inHbm pa l.length then s.writeAwake pa l else s

/-- A host access over CXL.mem, to which a device in recovery does not respond (R433). -/
def execHostCxlMemAccess (pa : Nat) (write : Option (List Byte)) (s : State) : Host.Outcome State Fault Refusal :=
  .next (if s.ctl.boot = 3 then s else s.outsideAccess pa write)

/-- A request packet of another endpoint: its elements are performed here one after another, unless the device is in
recovery (R291, R433). -/
def execRequestPacket (first : Nat × List Byte) (rest : List (Nat × List Byte)) (s : State) :
    Host.Outcome State Fault Refusal :=
  .next (if s.ctl.boot = 3 then s else (first :: rest).foldl (fun s e => s.outsideAccess e.1 (some e.2)) s)

/-- A range lies in host memory, or in the memory of another endpoint. -/
def State.beyond (s : State) (pa n : Nat) : Bool :=
  paOk pa && paOk (pa + n - 1) && decide (regionOf (pa + n - 1) = regionOf pa) &&
    (decide (regionOf pa = 1) || (s.remotePa pa && s.remotePa (pa + n - 1)))

/-- An act of the host or of the firmware that no row of the table names. -/
def State.outside (s : State) : Outside → State
  | .hdm base size on => { s with hdm := (base, size), interleave := on }
  | .msix vec addr data masked =>
    if vec < 36 then
      let v := smGet ({} : Msix) s.ctl.msix vec
      let c := { s.ctl with msix := smPut vec { addr := addr, data := data, masked := masked } s.ctl.msix }
      { s with ctl := if v.pending && !masked then c.raise vec
                      else { c with msix := smPut vec { addr := addr, data := data, masked := masked, pending := v.pending } c.msix } }
    else s
  | .hbmRow stk row =>
    if stk < 16 then { s with repair := { s.repair with rows := s.repair.rows ++ [(stk, row)] } } else s
  | .hbmChannel stk =>
    if stk < 16 ∧ stk ∉ s.repair.channels then { s with repair := { s.repair with channels := s.repair.channels ++ [stk] } }
    else s
  | .store pa l => if s.beyond pa l.length then s.writePhys pa l else s
  | .otherOut plane ver n => { s with glox := { s.glox with others := smSet 0 s.glox.others (outKey plane ver) n } }
  | .memberPost set g m demand => s.memberPost set g m demand
  | .memberBytes set g src dst data => s.memberBytes set g src dst data
  | .memberEnd set g src dst => s.memberEnd set g src dst
  | .memberRest set g m rest => s.memberRest set g m rest

/-! ## The lane-group table (R378) -/

/-- The entry of a context (log entry 38). -/
def State.laneGroup (s : State) (n : Nat) : Nat :=
  let c := s.ctxAt n
  if c.mode = .free ∨ c.mode = .stopped then 0
  else
    let kind := if c.parent.isSome then 2 else if c.clusterSpan then 1 else 0
    let part := if c.parent.isSome then c.part % 2 ^ spParts (s.clAt c.firstCl).spcfg else 0
    2 ^ 63 + kind * 2 ^ 61 + c.share * 2 ^ 59 + c.firstLn * 2 ^ 52 + c.firstCl * 2 ^ 46 + c.lanes * 2 ^ 32 + part * 2 ^ 27 +
      c.parent.getD 0 * 2 ^ 19 + c.group8 * 2 ^ 16

end Sys2Proof.Machine
end

