-- ==== Sys2Proof/Machine/Mmio.lean ====
section
/-! DEFINITION. The package's MMIO space, snapshots, power, boot, attestation, errors, repair and queue commands (R407,
R408, R417 to R437, R461). -/

namespace Sys2Proof.Machine

/-! ## Performance counters and RAS words as registers (R417 to R420) -/

/-- An event code of a block that the model counts (log entry 60). -/
def countedHere (block code : Nat) : Bool :=
  code == 1 ||
  (if block < 64 then decide (2 ≤ code) && decide (code ≤ 0x0C)
   else if block < 72 then [0x40, 0x41, 0x48].contains code
   else [0x41, 0x42, 0x60, 0x61, 0x62, 0x63].contains code)

/-- An event code of a block whose events are those of a cache or of a link's flits, which the model does not have: the count is then a free value (log entry 60). -/
def countedElsewhere (block code : Nat) : Bool :=
  if block < 64 then code == 0x46
  else if block < 72 then [0x43, 0x44, 0x45, 0x46, 0x47].contains code
  else [0x45, 0x46].contains code

/-- A counter's CTL word selects, enabled, events that the model does not have. -/
def ctlRuns (block : Nat) (ctl : Word) : Bool := ctl.getLsbD 8 && countedElsewhere block (ctl.toNat % 256)

def perfKey (block i : Nat) : Nat := block * 64 + i

/-- The events that the model does not have and that a counter has met since it was last looked at: any number (R419). -/
def State.perfFree (s : State) (block i : Nat) : State :=
  if ctlRuns block (smGet (0 : Word) s.perf (perfKey block (2 * i))) then
    (s.takeFree).2.perfAdd block i ((s.takeFree).1.toNat % 2 ^ 48)
  else s

/-- The same for every counter of a block. -/
def State.perfSettle (s : State) (block : Nat) : State :=
  if s.perf.isEmpty then s else (List.range (blockCounters block)).foldl (fun s i => s.perfFree block i) s

/-- A performance word as it stands. -/
def State.perfWord (s : State) (block i : Nat) : Word :=
  let v := smGet (0 : Word) s.perf (perfKey block i)
  if i % 2 = 0 then v else v &&& 0xFFFFFFFFFFFF

/-- Reads a performance word: even numbers are CTL, odd ones COUNT. -/
def State.perfRead (s : State) (block i : Nat) : Word × State :=
  let s := s.perfFree block (i / 2)
  (s.perfWord block i, s)

/-- Writes a performance word. -/
def State.perfWrite (s : State) (block i : Nat) (v : Word) : State :=
  let s := s.perfFree block (i / 2)
  { s with perf := smSet 0 s.perf (perfKey block i) (if i % 2 = 1 then v &&& 0xFFFFFFFFFFFF else v &&& 0xFFFFFFFF) }

/-- A counter of events that the model does not have meets them up to 2^48 and wraps. -/
def execCounterWrap (block counter : Nat) (s : State) : Host.Outcome State Fault Refusal :=
  if counter < blockCounters block ∧ block < 73 ∧ ctlRuns block (smGet (0 : Word) s.perf (perfKey block (2 * counter))) = true then
    .next (s.perfAdd block counter (2 ^ 48 - (s.perfWord block (2 * counter + 1)).toNat))
  else .next s

/-- A write to a RAS word keeps the fields that exist. -/
def rasMask (i : Nat) (v : Word) : Word :=
  if i = 0 then v &&& 0xFFFFFFFFFFFF0000 else if i = 1 then v else v &&& 0xFFFFFFFF

/-! ## Snapshots (R421 to R423) -/

/-- COUNT as 64-bit words of a table of milestones. -/
def msCounts (m : SMap Milestone) (at0 : Nat) : List (Nat × Word) := m.map fun e => (at0 + e.1, e.2.count.setWidth 64)

/-- A ring's part of a block state: write index, least free count, and the token counts. -/
def ringWords (at0 : Nat) (e : Nat × Ring) : List (Nat × Word) :=
  let r := e.2
  let least := (r.attached.map r.freeOf).foldl min 65535
  [(at0 + 10 * e.1, BitVec.ofNat 64 r.widx), (at0 + 10 * e.1 + 1, BitVec.ofNat 64 least)] ++
    (List.range r.cons).map fun i => (at0 + 10 * e.1 + 2 + i, BitVec.ofNat 64 (r.tokensOf i))

/-- The words of a block's shadow after its header: performance words, RAS words from 64, block state from 88
(log entry 63). -/
def State.blockWords (s : State) (block : Nat) : List (Nat × Word) :=
  let perf := ((List.range (2 * blockCounters block)).map fun i => (i, s.perfWord block i))
  let ras := (List.range 24).map fun i => (64 + i, s.rasWord block (i / 3) (i % 3))
  let own :=
    if block < 64 then
      let k := s.clAt block
      msCounts k.ms 88 ++ k.rings.flatMap (ringWords 152) ++
      k.nodes.flatMap (fun e => [(792 + 2 * e.1, e.2.dispatched.setWidth 64), (793 + 2 * e.1, e.2.completed.setWidth 64)]) ++
      k.pipes.flatMap (fun e => [(796 + 2 * e.1, e.2.pushed.setWidth 64), (797 + 2 * e.1, e.2.completed.setWidth 64)]) ++
      k.copies.flatMap fun e => [(800 + 2 * e.1, e.2.pushed.setWidth 64), (801 + 2 * e.1, e.2.completed.setWidth 64)]
    else if block < 72 then
      [(88, BitVec.ofNat 64 ((s.sent.filter fun q => decide (q.die = block - 64)).map fun q => q.pages.length).sum),
       (89, BitVec.ofNat 64 (s.hot.filter fun e => decide (e.1 / 4096 = block - 64)).length)]
    else
      msCounts s.pms 88 ++ (s.ctxs.map fun e => (4184 + e.1, BitVec.ofNat 64 (e.2.viq.length + e.2.queued.length))) ++
      (s.slots.map fun e => (4440 + e.1, BitVec.ofNat 64 (e.2.queue + 2 ^ 15))) ++ [(4504, BitVec.ofNat 64 s.seq)]
  (perf ++ ras ++ own).filter fun e => decide (e.2 ≠ 0)

/-- Words of one block in the shadow's table. -/
def shadowSize : Nat := 8192

/-- A trigger: the arbiter numbers it; an armed package is to latch, a disarmed one counts it as missed. -/
def State.trigger (s : State) (tag : BitVec 16) (due : Nat) (timed : Bool) : State :=
  let s : State := { s with seq := s.seq + 1 }
  { s with snap :=
    if s.snap.armed && s.snap.pending.isNone then { s.snap with armed := false, pending := some (s.seq, tag, due, timed) }
    else { s.snap with missed := s.snap.missed + 1 } }

/-- snap. -/
def State.snapOp (s : State) (word : Nat) (rd ra : XReg) : State :=
  let c := s.me
  let a := c.reg ra
  let op := a.toNat % 4
  let dom := a.getLsbD 2
  if !c.sup then s.trapPriv 0 word
  else if 2 ^ 32 ≤ a.toNat ∨ a.toNat / 8 % 2 ^ 13 ≠ 0 ∨ op = 3 ∨ (dom = true ∧ op ≠ 0) then
    s.trap causeOperand 6 (BitVec.ofNat 64 word)
  else if op = 0 then
    let tag := a.extractLsb' 16 16
    let s := s.trigger tag (s.cycle + 64) false
    let s : State := if dom then
      { s with snap := { s.snap with messages := s.snap.messages ++ [(s.time + 10000, tag)] } } else s
    s.done rd (BitVec.ofNat 64 s.seq)
  else if op = 1 then ({ s with snap := { s.snap with armed := true, missed := 0 } } : State).done rd 0
  else s.done rd (BitVec.ofNat 64 ((if s.snap.armed then 2 ^ 63 else 0) + s.snap.missed.toNat))

def execSnapTrigger (rd ra : XReg) (s : State) : Host.Outcome State Fault Refusal :=
  .next (s.snapOp (parcelOf (.snapTrigger rd ra)) rd ra)
/-- The row of OP 1. -/
def execSnapArm (rd ra : XReg) (s : State) : Host.Outcome State Fault Refusal :=
  .next (s.snapOp (parcelOf (.snapTrigger rd ra)) rd ra)
/-- The row of OP 2. -/
def execSnapStatus (rd ra : XReg) (s : State) : Host.Outcome State Fault Refusal :=
  .next (s.snapOp (parcelOf (.snapTrigger rd ra)) rd ra)

/-- The pin SNAP_IN. -/
def execSnapIn (s : State) : Host.Outcome State Fault Refusal := .next (s.trigger 0 (s.cycle + 64) false)

/-- A Gloxel snapshot message. -/
def execSnapshotMessage (time : Nat) (tag : BitVec 16) (s : State) : Host.Outcome State Fault Refusal :=
  .next (s.trigger tag time true)

/-- The latch of a pending trigger is due. -/
def State.latchDue (s : State) : Bool :=
  match s.snap.pending with
  | some (_, _, d, timed) => if timed then decide (d ≤ s.time) else decide (d ≤ s.cycle)
  | none => false

/-- Every block latches its shadow, and SNAP_OUT is driven for 1 µs. -/
def execSnapshotLatch (s : State) : Host.Outcome State Fault Refusal :=
  match s.snap.pending with
  | some (n, tag, _, _) =>
    if s.latchDue then
      let s := (List.range 73).foldl State.perfSettle s
      let words := (List.range 73).flatMap fun b => (s.blockWords b).map fun e => (b * shadowSize + e.1, e.2)
      .next { s with snap := { s.snap with
        pending := none, hseq := n, htime := s.time, htag := tag, pinOut := some (s.ticks + usTicks 1)
        shadow := words.foldl (fun m e => smPut e.1 e.2 m) [] } }
    else .next s
  | none => .next s

def execSnapOutEnd (s : State) : Host.Outcome State Fault Refusal :=
  match s.snap.pinOut with
  | some t => .next (if t ≤ s.ticks then { s with snap := { s.snap with pinOut := none } } else s)
  | none => .next s

/-- A byte of a block's snapshot: the header of three words, then the shadow. -/
def Snap.byte (n : Snap) (block i : Nat) : Nat :=
  let w := i / 8
  let v := if w = 0 then n.hseq else if w = 1 then n.htime else if w = 2 then n.htag.toNat
    else (smGet (0 : Word) n.shadow (block * shadowSize + (w - 3))).toNat
  v / 2 ^ (8 * (i % 8)) % 256

/-- A word of a snapshot page. -/
def Snap.word (n : Snap) (block off : Nat) : Word :=
  BitVec.ofNat 64 (leNat ((List.range 8).map fun i => BitVec.ofNat 8 (n.byte block (Config.snapByte block (off + i)))))

/-! ## Hotness pages (R379, R426) -/

def hotWord (h : Hot) (i : Nat) : Word :=
  if i = 0 then BitVec.ofNat 64 (2 ^ 63 + h.pasid.toNat * 2 ^ 43 + h.page % 2 ^ 41 * 4)
  else BitVec.ofNat 64 (h.unit * 2 ^ 42 + h.strided * 2 ^ 21 + h.indexed)

/-- Reads a hotness word; word 1 is cleared. -/
def State.hotRead (s : State) (off : Nat) : Word × State :=
  let k := off / 16
  match smFind k s.hot with
  | none => (0, s)
  | some h =>
    let i := off / 8 % 2
    (hotWord h i, if i = 1 then { s with hot := smPut k { h with unit := 0, strided := 0, indexed := 0 } s.hot } else s)

/-! ## Power (R437) -/

/-- A cluster holds a strand, or units of a resident or parked strand. -/
def State.clusterHeld (s : State) (cl : Nat) (but : Nat → Bool) : Bool :=
  !clusterFree (s.occupied ((s.ctxs.map Prod.fst).filter but)) cl ||
  ((s.ctxs.filter fun e => !but e.1).map Prod.snd ++ s.parked).any fun c =>
    c.holdsUnits && c.grants.any fun g => decide (g.cluster = cl)

/-- Requests a power state. -/
def State.requestPower (s : State) (p : BitVec 2) : State :=
  if p = 3 ∨ (s.ctl.trip = true ∧ p < 2) then s else { s with ctl := { s.ctl with reqP := p } }

/-- Gates clusters that hold nothing, and ungates others, whose scratchpad and milestones then read 0. -/
def State.gate (s : State) (w : Word) : State :=
  let old := s.ctl.clgate
  let s := (List.range 64).foldl (fun (s : State) cl =>
    if old.getLsbD cl && !w.getLsbD cl then (s.clearScratch cl).setCl cl { s.clAt cl with ms := [] } else s) s
  let ok := fun cl => w.getLsbD cl && (old.getLsbD cl || !s.clusterHeld cl fun _ => false)
  { s with ctl := { s.ctl with clgate := BitVec.ofNat 64 (((List.range 64).filter ok).foldl (fun a cl => a + 2 ^ cl) 0) } }

def execPowerStateRequest (p : BitVec 2) (s : State) : Host.Outcome State Fault Refusal := .next (s.requestPower p)

def execHbmSelfRefresh (stk : BitVec 16) (s : State) : Host.Outcome State Fault Refusal :=
  .next { s with ctl := { s.ctl with hbmsr := stk } }

def execClusterGate (gates : Word) (s : State) : Host.Outcome State Fault Refusal := .next (s.gate gates)

/-- A requested or tripped state takes effect. -/
def execPowerStateChange (s : State) : Host.Outcome State Fault Refusal :=
  .next (if s.ctl.pstate = s.ctl.reqP then s else { s with ctl := { s.ctl with pstate := s.ctl.reqP } })

/-- A sensor reads 105 °C or more. -/
def execThermalTrip (s : State) : Host.Outcome State Fault Refusal :=
  if s.ctl.trip then .next s
  else .next (({ s with ctl := { s.ctl with trip := true, reqP := 2 } } : State).post { seq := 0, time := 0, kind := 9 })

/-- Every sensor reads below 95 °C. -/
def execThermalTripClear (s : State) : Host.Outcome State Fault Refusal :=
  .next { s with ctl := { s.ctl with trip := false } }

/-! ## Boot and reset (R433, R434) -/

/-- SHA-384 over an image's header and body. -/
def imageDigest (i : FwImage) : Nat := sha384 (i.header ++ i.body)

/-- An image is accepted (R434). -/
def Nalo.accepts (n : Nalo) (i : FwImage) : Bool :=
  ecdsaOk i.key (imageDigest i) i.sig && n.digests.contains (keyDigest i.key) && !n.revoked.contains (keyDigest i.key) &&
    decide (n.rollback ≤ i.version)

/-- The image that the boot ROM verifies: slot 0, else slot 1. -/
def Nalo.bootImage (n : Nalo) : Option FwImage :=
  match n.slot0.filter n.accepts with
  | some i => some i
  | none => n.slot1.filter n.accepts

/-- The image that runs, and the identity key derived from it (R435). -/
def Nalo.start (n : Nalo) (img : Option FwImage) : Nalo :=
  { n with running := img, identity := img.map fun i => Config.deriveKey n.secret (imageDigest i) }

/-- Steps 2 and 4: the boot ROM finds an image, or the device is in recovery. -/
def State.rom (s : State) : State :=
  let img := s.nalo.bootImage
  { s with ctl := { s.ctl with boot := if img.isSome then 1 else 3 }, nalo := s.nalo.start img }

/-- Bytes and poison of host and remote memory. -/
def outsideMem (l : List Host.Cell) : List Host.Cell := l.filter fun e => decide (regionOf e.1 ≠ 0)
def outsidePoison (l : List Nat) : List Nat := l.filter fun w => decide (regionOf (8 * w) ≠ 0)

/-- Host and remote memory as a reset leaves it: what a line cache held dirty is lost (R253) (log entry 84). -/
def State.retained (s : State) : List Host.Cell := s.home.foldl (fun m e => smSet 0 m e.1 e.2) (outsideMem s.mem)

/-- Power-on: step 1 gives reset values, then the boot ROM runs. Host and remote memory, the HDM range, flash, fuses, the repair
map and the fabric's own tables stay (log entry 66). -/
def State.boot (s : State) : State :=
  ({ State.reset with
    agenda := s.agenda
    free := s.free
    mem := s.retained
    memPoison := outsidePoison s.memPoison
    hdm := s.hdm
    interleave := s.interleave
    glox := { ({} : Gloxel) with
      endpoint := s.glox.endpoint, manager := s.glox.manager, refusing := s.glox.refusing, degraded := s.repair.ports }
    nalo := { s.nalo with running := none, identity := none, spdm := 0, session := 0, mailbox := [] }
    repair := s.repair } : State).rom

/-- A DEVCTL.RESET write; it is discarded while BOOT < 2. The links stay up. -/
def State.resetWrite (s : State) : State :=
  if s.ctl.boot < 2 then s
  else { s.boot with glox := { s.boot.glox with down := s.glox.down, degraded := s.glox.degraded } }

def execDeviceReset (s : State) : Host.Outcome State Fault Refusal := .next s.resetWrite

def execPowerOn (s : State) : Host.Outcome State Fault Refusal := .next s.boot

/-- Step 3: HBM is zeroed and queues may be enabled. -/
def execReady (s : State) : Host.Outcome State Fault Refusal :=
  if s.ctl.boot = 1 then
    .next { s with
      mem := outsideMem s.mem
      memPoison := outsidePoison s.memPoison
      writes := forget false (fun k => decide (regionOf k = 0)) s.writes
      ctl := { s.ctl with boot := 2, ready := true } }
  else .next s

/-- A recovery image is accepted under the same conditions as a flash image. -/
def execRecoveryImage (img : FwImage) (s : State) : Host.Outcome State Fault Refusal :=
  if s.ctl.boot = 3 ∧ s.nalo.accepts img = true then
    .next { s with ctl := { s.ctl with boot := 1 }, nalo := s.nalo.start (some img) }
  else .next s

/-- The fuse counter only rises, to at most its 64 fuses; running firmware advances it (log entry 67). -/
def execAdvanceRollbackCounter (version : Nat) (s : State) : Host.Outcome State Fault Refusal :=
  if s.nalo.rollback < version ∧ version ≤ 64 ∧ s.ctl.boot = 2 then .next { s with nalo := { s.nalo with rollback := version } }
  else .next s

/-! ## Attestation and management (R435) -/

/-- An answer goes out. -/
def State.reply (s : State) (kind : String) (l : List Nat) : State :=
  { s with nalo := { s.nalo with mailbox := (kind, l) :: s.nalo.mailbox } }

/-- Measurements 1 to 4: boot ROM version, digest and security version of the running image, digest of the repair map. -/
def State.measurements (s : State) : List Nat :=
  let i := s.nalo.running
  let r := s.repair
  [s.nalo.romVersion, (i.map imageDigest).getD 0, (i.map FwImage.version).getD 0,
   sha384 (Config.repairBytes r.lanes r.clusters r.rows r.channels r.ports)]

def execGetVersion (s : State) : Host.Outcome State Fault Refusal :=
  .next { s.reply "VERSION" [0x13] with nalo := { (s.reply "VERSION" [0x13]).nalo with spdm := 1 } }

def execGetCapabilities (s : State) : Host.Outcome State Fault Refusal :=
  let s := s.reply "CAPABILITIES" []
  .next { s with nalo := { s.nalo with spdm := 2 } }

def execNegotiateAlgorithms (s : State) : Host.Outcome State Fault Refusal :=
  let s := s.reply "ALGORITHMS" []
  .next { s with nalo := { s.nalo with spdm := 3 } }

/-- The certificate of the device identity key; none without running firmware. -/
def Nalo.certificate (n : Nalo) : List Byte :=
  match n.identity.bind fun d => ecMul ecBase 384 d with
  | some q => Config.certificate q
  | none => []

def execGetDigests (s : State) : Host.Outcome State Fault Refusal :=
  .next (s.reply "DIGESTS" [sha384 s.nalo.certificate])
def execGetCertificate (s : State) : Host.Outcome State Fault Refusal :=
  .next (s.reply "CERTIFICATE" (s.nalo.certificate.map BitVec.toNat))

/-- A signed answer: its ECDSA signature with the identity key follows it. -/
def State.signedReply (s : State) (kind : String) (l : List Nat) : State :=
  let g := ecdsaSign (s.nalo.identity.getD 0) (Config.spdmNonce s.free) (Config.spdmDigest l)
  ({ s with free := s.free + 1 } : State).reply kind (l ++ [g.1, g.2])

def execChallenge (s : State) : Host.Outcome State Fault Refusal := .next (s.signedReply "CHALLENGE_AUTH" [])
def execGetMeasurements (s : State) : Host.Outcome State Fault Refusal := .next (s.signedReply "MEASUREMENTS" s.measurements)

def execKeyExchange (s : State) : Host.Outcome State Fault Refusal :=
  let s := s.signedReply "KEY_EXCHANGE_RSP" []
  .next { s with nalo := { s.nalo with session := 1 } }

def execFinish (s : State) : Host.Outcome State Fault Refusal :=
  let s := s.reply "FINISH_RSP" []
  .next { s with nalo := { s.nalo with session := if s.nalo.session = 1 then 2 else s.nalo.session } }

/-- Sensor readings are free values. -/
def execMgmtTemperature (s : State) : Host.Outcome State Fault Refusal :=
  .next ((s.takeFree).2.reply "TEMPERATURE" [(s.takeFree).1.toNat])
def execMgmtPower (s : State) : Host.Outcome State Fault Refusal :=
  .next ((s.takeFree).2.reply "POWER" [(s.takeFree).1.toNat])

/-- The counts of every source that has some. -/
def execMgmtRasSummary (s : State) : Host.Outcome State Fault Refusal :=
  .next (s.reply "RAS" (s.ras.flatMap fun e => if e.1 % 64 % 3 = 0 then [e.1, e.2.toNat] else []))

/-- Names a plane's fabric manager endpoint (R390). -/
def execNameFabricManager (plane endpoint : Nat) (s : State) : Host.Outcome State Fault Refusal :=
  .next (if plane < 16 ∧ endpoint < 8192 then
    { s with glox := { s.glox with manager := smSet 0 s.glox.manager plane endpoint } } else s)

/-! ## Errors (R111, R214, R243, R420) -/

/-- Block, source and location of an error, and what an uncorrectable one poisons. -/
def State.errorAt (s : State) : ErrSite → Option (Nat × Nat × Word)
  | .slice cl lane row =>
    if cl < 64 ∧ lane < 128 ∧ row < 64 then some (cl, 0, BitVec.ofNat 64 ((128 * cl + lane) * 1024 + 16 * row)) else none
  | .tile cl item row =>
    if cl < 64 ∧ item < 20 ∧ row < 128 then some (cl, 1, BitVec.ofNat 64 (if item < 12 then item else item - 12)) else none
  | .scratchpad cl off => if cl < 64 ∧ off < 2 ^ 22 then some (cl, 2, BitVec.ofNat 64 off) else none
  | .memory pa =>
    if paOk pa then some (if regionOf (s.cell pa) = 0 then 64 + stackOf (s.cell pa) / 2 else 72, 3, BitVec.ofNat 64 pa)
    else none
  | .twiddle cl off => if cl < 64 ∧ off < 16384 then some (cl, 2, BitVec.ofNat 64 off) else none
  | .registers _ => none
  | .csrs _ => none
  | .lineCache die pa => if die < 9 ∧ paOk pa = true then some (64 + die, 4, BitVec.ofNat 64 pa) else none
  | .tlb die pa => if die < 9 ∧ paOk pa = true then some (64 + die, 5, BitVec.ofNat 64 pa) else none
  | .causeway die pa => if die < 9 ∧ paOk pa = true then some (64 + die, 6, BitVec.ofNat 64 pa) else none
  | .gloxel port pa => if port < 16 ∧ paOk pa = true then some (64 + port / 2, 7, BitVec.ofNat 64 pa) else none

/-- What an uncorrectable error poisons. -/
def State.poisonAt (s : State) : ErrSite → State
  | .slice cl lane row => { s with slicePoison := nsAdd ((128 * cl + lane) * 64 + row) s.slicePoison }
  | .tile cl item row => { s with tilePoison := nsAdd (tilePoisonKey cl item row) s.tilePoison }
  | .scratchpad cl off => s.addSpPoison cl off
  | .memory pa => { s with memPoison := nsAdd (s.cell pa / 8) s.memPoison }
  | .lineCache _ pa => { s with memPoison := nsAdd (s.cell pa / 8) s.memPoison }
  | .twiddle cl off => { s with twlPoison := nsAdd ((cl * 16384 + off) / 4) s.twlPoison }
  | _ => s

/-- HW_UE in registers or CSRs of a context: asynchronous, with a free location (log entry 62). -/
def State.registerError (s : State) (n sub : Nat) : State :=
  if (s.ctxAt n).mode = .free ∨ 256 ≤ n then s
  else
    let f := s.takeFree
    (f.2.post { f.2.recordOf n 8 with eval := f.1 }).due n (trapOf causeHwUe sub f.1)

/-- An uncorrectable error. -/
def execUncorrectableError (site : ErrSite) (s : State) : Host.Outcome State Fault Refusal :=
  match site with
  | .registers n => .next (s.registerError n 2)
  | .csrs n => .next (s.registerError n 4)
  | _ => match s.errorAt site with
    | some (block, src, loc) => .next ((s.poisonAt site).countUe block src loc)
    | none => .next s

/-- A corrected error; on a Gloxel port it is a link-level retry (R419, R420). -/
def execCorrectedError (site : ErrSite) (s : State) : Host.Outcome State Fault Refusal :=
  match s.errorAt site with
  | some (block, src, loc) => .next ((if src = 7 then s.perfCount block 0x48 none 1 else s).countCe block src loc)
  | none => .next s

/-! ## Repair (R14, R436) -/

/-- A lane is replaced by one of its cluster's 4 spares. -/
def execLaneRepair (cluster lane : Nat) (s : State) : Host.Outcome State Fault Refusal :=
  let used := (s.repair.lanes.filter fun p => decide (p.1 = cluster)).length
  if cluster < 64 ∧ lane < 128 ∧ used < 4 ∧ s.clusterHeld cluster (fun _ => false) = false then
    .next { s with repair := { s.repair with lanes := s.repair.lanes ++ [(cluster, lane)] } }
  else .next s

/-- The die's spare is free, and nothing but some contexts holds the cluster. -/
def State.canReplace (s : State) (cl : Nat) (but : Nat → Bool) : Bool :=
  !s.clusterHeld cl but && !s.repair.clusters.any fun p => decide (p.1 = cl / 8)

/-- The spare takes a cluster's place: its state starts at 0. -/
def State.replaceCluster (s : State) (cl : Nat) : State :=
  let s := ((s.clearLanes (cl * 128) 128).clearMatrix cl 0 128).clearScratch cl
  let s : State := { s with
    twl := smClear (cl * 16384) 16384 s.twl
    twlPoison := s.twlPoison.filter fun w => decide (w / 4096 ≠ cl)
    repair := { s.repair with
      clusters := s.repair.clusters ++ [(cl / 8, cl)], lanes := s.repair.lanes.filter fun p => decide (p.1 ≠ cl) } }
  s.setCl cl {}

/-! ## Queue commands (R431) -/

/-- How a command stands: it waits, or has ended with a status. -/
inductive QDone where
  | wait
  | status (n : Nat)
  deriving DecidableEq, Repr

/-- A context at a boundary whose work is done, as the end or the save of a strand needs it. -/
def State.endable (s : State) (n : Nat) : Bool :=
  let c := s.ctxAt n
  (c.mode != .resident || c.between) && s.spent n

/-- Writes the pieces of an image one after another. -/
def State.writePieces (c : Ctx) (a : Word) : List (Nat × List PByte) → State → Res Unit
  | [], s => .ok () s
  | p :: l, s =>
    (s.unitWrite c false c.firstCl ((a.toNat + p.1) % 2 ^ 64) p.2).andThen fun _ s' => State.writePieces c a l s'

/-- OP 1. -/
def State.qEnd (s : State) (n : Nat) : QDone × State :=
  let c := s.ctxAt n
  if c.mode = .free ∨ c.mode = .parked then (.status 1, s)
  else if s.endable n && (s.childrenIn n).all s.endable then (.status 0, s.endStrand n) else (.wait, s)

/-- OP 2: ctx.save with PARK (R295, R353). -/
def State.qSave (s : State) (n : Nat) (a : Word) : QDone × State :=
  let c := s.ctxAt n
  if !(decide (c.mode = .stopped) || (decide (c.mode = .resident) && c.ex)) then (.status 1, s)
  else if a.toNat % 4096 ≠ 0 then (.status 3, s)
  else if c.pipeRuns then (.status 2, s)
  else if !s.endable n || !(s.childrenIn n).isEmpty then (.wait, s)
  else
    let s := s.absorb n
    let c := s.ctxAt n
    let l := (s.imgPieces c c.pc none).flatMap fun p => splitPages (p.2.length / 4096 + 2) p.1 p.2
    match s.writePieces c a l with
    | .ok _ s' =>
      let s' := (s'.markSaved c.sid c.pasid a).releasePackage n
      (.status 0, (s'.setCtx n ((s'.ctxAt n).saved false)).park n a)
    | .trap _ s' => (.status 3, s')
    | .ask q s' =>
      (.wait, if s'.requests.any fun r => decide (r.pages = q.pages) && decide (r.pasid = q.pasid) then s'
        else s'.request q)
    | .wait s' => (.wait, s')

/-- Takes a parked strand out of the package. -/
def State.endParked (s : State) (sid : Nat) : State :=
  match s.parkedAt sid with
  | none => s
  | some p => (s.unpark p).release p

/-- OP 3: every member of the unit, resident or parked. -/
def State.qEndGang (s : State) (n : Nat) : QDone × State :=
  let c := s.ctxAt n
  if c.mode = .free then (.status 1, s)
  else
    let sids := s.unitSids c.sid
    if (s.ctxsOf sids).all s.endable then
      (.status 0, ((s.ctxsOf sids).foldl State.endOne ((sids.filter fun k => (s.ctxOf k).isNone).foldl State.endParked s)).fillSlots)
    else (.wait, s)

/-- A stopped member's place in its gang and record passes to the strand that replaces it. -/
def State.replaceMember (s : State) (c : Ctx) (sid : Nat) : State :=
  match smFind c.gangId s.gangs with
  | some g => { s with gangs := smPut c.gangId { g with
      members := g.members.map fun k => if k = c.sid then sid else k } s.gangs }
  | none => s

/-- OP 4: the member's strand is gone, its first cluster is the die's spare, and it starts again from its record. -/
def State.qRespawn (s : State) (n : Nat) : QDone × State :=
  let c := s.ctxAt n
  if !(decide (c.mode = .stopped) && c.poisoned) then (.status 1, s)
  else if !(s.canReplace c.firstCl fun k => decide (k = n)) then (.status 2, s)
  else if !s.quiet c || !s.descAwake (clearLow 5 (lowBits 60 (s.queueAt c.queue).ptdesc)) then (.wait, s)
  else
    let g := smGet ({} : Gang) s.gangs c.gangId
    let s := c.pipes.foldl (fun s e => if e.2.state = .running ∨ e.2.state = .frozen then s.stopPipe n e.1 e.2 else s) s
    let s := c.pipes.foldl (fun s e =>
      if e.2.state = .unbound then s else s.releaseIdx e.2.cluster (descMembers e.2.desc)) s
    let s := c.chans.foldl (fun s e => s.unbindRing e.2.cluster e.2.ring c.sid e.1) s
    let s := ((c.grants.foldl State.freeUnits (s.dropCopies c.sid)).freeCmds c.sid).dropExchange c.sid
    let s := (s.vacate n).replaceCluster c.firstCl
    let s := s.replaceMember c s.nextId
    let s1 := s.placeMember c.queue c.record c.recordId 0 { num := c.member, lidx := c.lidx.toList.map BitVec.toNat, key := 0 }
      c.place c.grants n
    (.status 0, s1.setCtx n { s1.ctxAt n with gangId := if g.live = 0 then 0 else c.gangId, member := c.member })

/-- A command as it stands: OP, CONTEXT and TARGET of QCMD (log entry 65). -/
def State.qRun (s : State) (cmd arg : Word) : QDone × State :=
  let op := cmd.toNat % 16
  let n := cmd.toNat / 2 ^ 8 % 2 ^ 8
  let target := cmd.toNat / 2 ^ 32 % 2 ^ 16
  if op = 0 ∨ 6 < op ∨ (op < 5 ∧ target ≠ 0) then (.status 3, s)
  else if op = 1 then s.qEnd n
  else if op = 2 then s.qSave n arg
  else if op = 3 then s.qEndGang n
  else if op = 4 then s.qRespawn n
  else if op = 5 then
    if target < 4096 ∨ 8192 ≤ target then (.status 3, s)
    else
      let name : MsName := { num := target - 4096, pkg := true }
      (.status 0, s.setMs 0 name { s.msAt 0 name with broken := false })
  else if 64 ≤ target then (.status 3, s)
  else if s.canReplace target fun _ => false then (.status 0, s.replaceCluster target)
  else (.status 2, s)

def State.qport (s : State) (f : Nat) : QPort := smGet ({} : QPort) s.ctl.qports f

def State.setQport (s : State) (f : Nat) (p : QPort) : State :=
  { s with ctl := { s.ctl with qports := smPut f p s.ctl.qports } }

/-- A command of a port goes on, or ends. -/
def State.qStep (s : State) (f : Nat) : State :=
  let p := s.qport f
  let r := s.qRun p.qcmd p.qarg
  match r.1 with
  | .wait => r.2.setQport f { p with busy := true }
  | .status k => r.2.setQport f { p with busy := false, stat := BitVec.ofNat 8 k }

/-- A virtual function's command names a context of its own queues. -/
def State.vfAllows (s : State) (f : Nat) (cmd : Word) : Bool :=
  decide (f = 0) ||
  (let r := smGet ((0, 0) : Nat × Nat) s.ctl.vfs (f - 1)
   let q := (s.ctxAt (cmd.toNat / 2 ^ 8 % 2 ^ 8)).queue
   decide (cmd.toNat % 16 < 5) && decide (r.1 ≤ q) && decide (q < r.1 + r.2))

/-- QSTAT of a port: the status, and bit 8 while a command is busy. -/
def QPort.statWord (p : QPort) : Word := BitVec.ofNat 64 ((if p.busy then 256 else 0) + p.stat.toNat)

/-- A write to QCMD of a port: discarded while it is busy. -/
def State.qWrite (s : State) (f : Nat) (v : Word) : State :=
  let p := s.qport f
  if p.busy then s
  else
    let v := v &&& 0xFFFF0000FF0F
    let s := s.setQport f { p with qcmd := v }
    if s.vfAllows f v then s.qStep f else s.setQport f { p with qcmd := v, stat := 3 }

/-- QCMD of the physical functions from its fields. -/
def qcmdWord (op ctx target : Nat) : Word := BitVec.ofNat 64 (target % 2 ^ 16 * 2 ^ 32 + ctx % 2 ^ 8 * 2 ^ 8 + op)

def execQcmdEnd (ctx : Nat) (s : State) : Host.Outcome State Fault Refusal := .next (s.qWrite 0 (qcmdWord 1 ctx 0))
def execQcmdSaveAndRelease (ctx : Nat) (s : State) : Host.Outcome State Fault Refusal := .next (s.qWrite 0 (qcmdWord 2 ctx 0))
def execQcmdEndGang (ctx : Nat) (s : State) : Host.Outcome State Fault Refusal := .next (s.qWrite 0 (qcmdWord 3 ctx 0))
def execQcmdRespawn (ctx : Nat) (s : State) : Host.Outcome State Fault Refusal := .next (s.qWrite 0 (qcmdWord 4 ctx 0))
def execQcmdClearBroken (target : BitVec 16) (s : State) : Host.Outcome State Fault Refusal :=
  .next (s.qWrite 0 (qcmdWord 5 0 target.toNat))
def execQcmdReplaceCluster (cluster : Nat) (s : State) : Host.Outcome State Fault Refusal :=
  .next (s.qWrite 0 (qcmdWord 6 0 cluster))

/-! ## Queue configuration (R429) -/

/-- The 8-byte words of a queue's block (log entry 33). -/
def Queue.cfgWord (q : Queue) (i : Nat) : Word :=
  let b := fun (f : Bool) (k : Nat) => if f then 2 ^ k else 0
  match i with
  | 0 => q.base
  | 1 => BitVec.ofNat 64 (q.pasid.toNat * 2 ^ 32 + q.maxpri * 2 ^ 16 + b q.supok 9 + b q.enable 8 + q.log2n)
  | 2 => q.ptroot
  | 3 => q.ptdesc
  | 4 => q.stvec
  | 5 => q.sscratch
  | 6 => BitVec.ofNat 64 (q.wdog * 2 ^ 32 + q.quantum)
  | _ => BitVec.ofNat 64 (q.tail % 2 ^ q.log2n * 2 ^ 16 + q.head % 2 ^ q.log2n)

/-- The block after a write of word i; `none` where a field is out of its range (log entry 34). -/
def Queue.cfgPut (q : Queue) (i : Nat) (v : Word) : Option Queue :=
  let n := v.toNat
  let byte := fun (k : Nat) => n / 2 ^ (8 * k) % 256
  if q.enable then
    if i = 1 then
      if byte 1 < 4 then some { q with enable := byte 1 % 2 == 1, supok := byte 1 / 2 % 2 == 1 } else none
    else some q
  else match i with
  | 0 => if n % 4096 = 0 ∧ paOk n = true then some { q with base := v } else none
  | 1 =>
    if 4 ≤ byte 0 ∧ byte 0 ≤ 16 ∧ byte 1 < 4 ∧ byte 2 < 4 ∧ n / 2 ^ 32 < 2 ^ 20 then
      some { q with log2n := byte 0, enable := byte 1 % 2 == 1, supok := byte 1 / 2 % 2 == 1, maxpri := byte 2
                    pasid := BitVec.ofNat 64 (n / 2 ^ 32) }
    else none
  | 2 => some { q with ptroot := v }
  | 3 => some { q with ptdesc := v }
  | 4 => some { q with stvec := v }
  | 5 => some { q with sscratch := v }
  | 6 =>
    if 1 ≤ n % 2 ^ 16 ∧ n % 2 ^ 16 ≤ 20 then some { q with quantum := n % 2 ^ 16, wdog := n / 2 ^ 32 } else none
  | _ => some q

/-- A write to a queue's configuration block. ENABLE stays 0 until READY (log entry 64). -/
def State.queueWrite (s : State) (q i : Nat) (v : Word) : State :=
  match (s.queueAt q).cfgPut i v with
  | some x => (s.setQueue q { x with enable := x.enable && (s.ctl.ready || (s.queueAt q).enable) }).fillSlots
  | none => s

def execQueueConfigWrite (queue off : Nat) (value : Word) (s : State) : Host.Outcome State Fault Refusal :=
  .next (if queue < 4096 ∧ off < 64 ∧ off % 8 = 0 then s.queueWrite queue (off / 8) value else s)

/-! ## The MMIO space (R426, R427) -/

/-- A milestone's MMIO offset as the milestone and its cluster. -/
def msOffset (off : Nat) : Option (Nat × MsName) :=
  if 0x100000 ≤ off ∧ off < 0x108000 then some (0, { num := (off - 0x100000) / 8, pkg := true })
  else if 0x108000 ≤ off ∧ off < 0x110000 then some ((off - 0x108000) / 512, { num := (off - 0x108000) / 8 % 64 })
  else none

/-- A write to a milestone word: COUNT and OVF, and from the host OWNED and OWNER of a package milestone. -/
def Milestone.mmioPut (m : Milestone) (host pkg : Bool) (v : Word) : Milestone :=
  let m := { m with count := v.setWidth 32, ovf := v.getLsbD 32 }
  if host && pkg then { m with owned := v.getLsbD 35, owner := v.extractLsb' 36 20 } else m

def State.msWrite (s : State) (host : Bool) (off : Nat) (v : Word) : State :=
  match msOffset off with
  | some (cl, n) => s.setMs cl n ((s.msAt cl n).mmioPut host n.pkg v)
  | none => s

def execMilestoneHostWrite (off : Nat) (value : Word) (s : State) : Host.Outcome State Fault Refusal :=
  .next (if off % 8 = 0 then s.msWrite true off value else s)

/-- DEVSTATUS. -/
def Control.devstatus (c : Control) : Word :=
  BitVec.ofNat 64 ((if c.trip then 128 else 0) + c.pstate.toNat * 32 + (if c.prifail then 16 else 0) + c.boot.toNat * 2 +
    if c.ready then 1 else 0)

/-- FQCTL. -/
def Control.fqctl (c : Control) : Word :=
  BitVec.ofNat 64 (c.lost.toNat * 2 ^ 16 + (if c.fqie then 512 else 0) + (if c.fqen then 256 else 0) + c.fqlog2n)

/-- A write to FQCTL; held records go out first when the queue becomes enabled. -/
def State.fqctlWrite (s : State) (v : Word) : State :=
  let n := v.toNat % 32
  let c := s.ctl
  let c := { c with
    lost := v.extractLsb' 16 16, fqie := v.getLsbD 9, fqen := v.getLsbD 8
    fqlog2n := if !c.fqen && decide (6 ≤ n) && decide (n ≤ 16) then n else c.fqlog2n }
  State.fqFlush 256 { s with ctl := c }

/-- A write to FQHEAD makes room for held records. -/
def State.fqHeadPut (s : State) (v : Word) : State :=
  State.fqFlush 256 { s with ctl := { s.ctl with fqhead := v.setWidth 16 } }

def execFaultQueueEnable (value : Word) (s : State) : Host.Outcome State Fault Refusal := .next (s.fqctlWrite value)
def execFqHeadWrite (value : Word) (s : State) : Host.Outcome State Fault Refusal := .next (s.fqHeadPut value)

/-- A control register read. -/
def State.ctlRead (s : State) (off : Nat) : Word :=
  let c := s.ctl
  let p := s.qport 0
  if off = 0x000 then c.devstatus
  else if off = 0x010 then BitVec.ofNat 64 (c.hbmsr.toNat * 2 ^ 16 + c.reqP.toNat)
  else if off = 0x018 then c.clgate
  else if off = 0x020 then p.qcmd
  else if off = 0x028 then p.qarg
  else if off = 0x030 then p.statWord
  else if off = 0x040 then c.fqbase
  else if off = 0x048 then c.fqctl
  else if off = 0x050 then c.fqhead.setWidth 64
  else if off = 0x058 then c.fqtail.setWidth 64
  else 0

/-- A control register write. -/
def State.ctlWrite (s : State) (off : Nat) (v : Word) : State :=
  if off = 0x008 then (if v.getLsbD 0 then s.resetWrite else s)
  else if off = 0x010 then
    ({ s with ctl := { s.ctl with hbmsr := v.extractLsb' 16 16 } } : State).requestPower (v.setWidth 2)
  else if off = 0x018 then s.gate v
  else if off = 0x020 then s.qWrite 0 v
  else if off = 0x028 then s.setQport 0 { s.qport 0 with qarg := v }
  else if off = 0x040 then (if s.ctl.fqen then s else { s with ctl := { s.ctl with fqbase := v &&& ~~~(0x3F : Word) } })
  else if off = 0x048 then s.fqctlWrite v
  else if off = 0x050 then s.fqHeadPut v
  else s

/-- Block and page offset of a page area of 73 pages. -/
def pageAt (base off : Nat) : Option (Nat × Nat) :=
  if base ≤ off ∧ off < base + 73 * 4096 then some ((off - base) / 4096, (off - base) % 4096) else none

/-- The items of the MMIO space all of whose fields are read-only (R378, R379, R421, R426, R427, R429): DEVSTATUS, QSTAT,
FQTAIL, HEAD and TAIL of a queue, the lane-group table, the snapshot pages and the hotness tables (log entry 76). -/
def mmioReadOnly (off : Nat) : Bool :=
  off == 0x000 || off == 0x030 || off == 0x058 ||
  (decide (0x40000 ≤ off ∧ off < 0x80000) && off / 8 % 8 == 7) ||
  decide (0x110000 ≤ off ∧ off < 0x110800) ||
  decide (0x300000 ≤ off ∧ off < 0x300000 + 73 * 4096) || decide (0x400000 ≤ off ∧ off < 0x480000)

/-- A device store that R5 refuses: to an item whose fields are all read-only, or one that would change a read-only field of
a milestone word, as R147 has it for STATUS (log entry 76). -/
def State.mmioRefuses (s : State) (off : Nat) (v : Word) : Bool :=
  mmioReadOnly off ||
  (match msOffset off with
   | some (cl, n) => decide (v.toNat / 2 ^ 33 % 2 ^ 23 ≠ (s.msAt cl n).toWord.toNat / 2 ^ 33)
   | none => false)

/-- Reads an aligned 8-byte word of the MMIO space. -/
def State.mmioRead (s : State) (off : Nat) : Word × State :=
  if off < 0x1000 then (s.ctlRead off, s)
  else if 0x40000 ≤ off ∧ off < 0x80000 then ((s.queueAt ((off - 0x40000) / 64)).cfgWord (off / 8 % 8), s)
  else if 0x110000 ≤ off ∧ off < 0x110800 then (BitVec.ofNat 64 (s.laneGroup ((off - 0x110000) / 8)), s)
  else if 0x400000 ≤ off ∧ off < 0x480000 then s.hotRead (off - 0x400000)
  else if 0x1000000 ≤ off ∧ off < 0x2000000 then
    (if off % 4096 = 64 then BitVec.ofNat 64 (s.queueAt ((off - 0x1000000) / 4096)).winStatus else 0, s)
  else match msOffset off with
  | some (cl, n) => ((s.msAt cl n).toWord, s)
  | none => match pageAt 0x200000 off with
    | some (b, o) =>
      if o / 8 < 2 * blockCounters b then s.perfRead b (o / 8)
      else if 0x800 ≤ o ∧ o < 0x800 + 192 then (s.rasWord b ((o - 0x800) / 24) ((o - 0x800) / 8 % 3), s)
      else (0, s)
    | none => match pageAt 0x300000 off with
      | some (b, o) => (s.snap.word b o, s)
      | none => (0, s)

/-- A read of BAR0 of virtual function v: its copies of QCMD, QARG and QSTAT at 0, 8 and 16, the status of its i-th window
at byte 64 of the window's page, and nothing else (R428, R430) (log entry 64). -/
def State.vfRead (s : State) (v off : Nat) : Word :=
  let p := s.qport (v + 1)
  let i := (off - 0x10000) / 4096
  if off = 0 then p.qcmd else if off = 8 then p.qarg else if off = 16 then p.statWord
  else if 0x10000 ≤ off ∧ off % 4096 = 64 ∧ i < (smGet ((0, 0) : Nat × Nat) s.ctl.vfs v).2 then
    BitVec.ofNat 64 (smGet 0 s.ctl.vfWin (4096 * v + i))
  else 0

/-- An offset is that of the configuration of a queue of a virtual function, which only physical function 0 writes
(R428) (log entry 64). -/
def State.vfQueueAt (s : State) (off : Nat) : Bool :=
  let q := (off - 0x40000) / 64
  decide (0x40000 ≤ off ∧ off < 0x80000) && s.ctl.vfs.any fun e => decide (e.2.1 ≤ q) && decide (q < e.2.1 + e.2.2)

/-- Writes an aligned 8-byte word of the MMIO space, for the host or for a device agent. -/
def State.mmioWrite (s : State) (host : Bool) (off : Nat) (v : Word) : State :=
  if off < 0x1000 then s.ctlWrite off v
  else if 0x40000 ≤ off ∧ off < 0x80000 then
    if !host && s.vfQueueAt off then s else s.queueWrite ((off - 0x40000) / 64) (off / 8 % 8) v
  else if (msOffset off).isSome then s.msWrite host off v
  else match pageAt 0x200000 off with
  | some (b, o) =>
    if o / 8 < 2 * blockCounters b then s.perfWrite b (o / 8) v
    else if 0x800 ≤ o ∧ o < 0x800 + 192 then
      s.setRas b ((o - 0x800) / 24) ((o - 0x800) / 8 % 3) (rasMask ((o - 0x800) / 8 % 3) v)
    else s
  | none => s

/-- A host write through BAR0 of physical function 0. Offsets from 2^26 on stand for the BAR0 of virtual function v at
(v + 1) * 2^26, with QCMD at 0 and QARG at 8, those from 17 * 2^26 on for the assignment of queues to function v: base and
count, and those from 18 * 2^26 on for BAR0 of physical function 1, which does not reach the configuration of a virtual
function's queues (R425, R428) (log entry 64). -/
def execMmioRegisterWrite (off : Nat) (value : Word) (s : State) : Host.Outcome State Fault Refusal :=
  if off % 8 ≠ 0 then .next s
  else if off < 2 ^ 26 then .next (s.mmioWrite true off value)
  else if off < 17 * 2 ^ 26 then
    let f := off / 2 ^ 26
    .next (if off % 2 ^ 26 = 0 then s.qWrite f value
      else if off % 2 ^ 26 = 8 then s.setQport f { s.qport f with qarg := value } else s)
  else if 18 * 2 ^ 26 ≤ off then
    let o := off - 18 * 2 ^ 26
    .next (if 2 ^ 26 ≤ o ∨ s.vfQueueAt o = true then s else s.mmioWrite true o value)
  else
    let v := (off - 17 * 2 ^ 26) / 8
    let base := value.toNat % 2 ^ 16
    let n := value.toNat / 2 ^ 16 % 2 ^ 16
    .next (if v < 16 ∧ n % 16 = 0 ∧ n ≤ 240 ∧ base + n ≤ 4096 then
      { s with ctl := { s.ctl with vfs := smPut v (base, n) s.ctl.vfs } } else s)

/-- A host read of word 1 of a hotness entry, by its MMIO offset. -/
def execHotnessReadClear (off : Nat) (s : State) : Host.Outcome State Fault Refusal :=
  .next (if 0x400000 ≤ off ∧ off < 0x480000 ∧ off % 16 = 8 then (s.hotRead (off - 0x400000)).2 else s)

end Sys2Proof.Machine
end

