-- ==== Sys2Proof/Machine/Scalar.lean ====
section
/-! DEFINITION. Scalar integer instructions, control transfer and scalar FP32 (R150 to R157). -/

namespace Sys2Proof.Machine

/-- A two-source operation on 64-bit values. -/
def State.alu (s : State) (rd ra rb : XReg) (f : Word → Word → Word) : Host.Outcome State Fault Refusal :=
  .next (s.done rd (f (s.me.reg ra) (s.me.reg rb)))

/-- 1 or 0. -/
def boolWord (b : Bool) : Word := if b then 1 else 0

/-- Bits [127:64] of a product (R150). -/
def mulHigh (signed : Bool) (a b : Word) : Word :=
  BitVec.ofNat 64 (wrapTo 128 (intOf signed 64 a.toNat * intOf signed 64 b.toNat) / 2 ^ 64)

/-- Quotient and remainder of 64-bit values (R39, R150). -/
def divWord (signed : Bool) (a b : Word) : Word :=
  BitVec.ofNat 64 (wrapTo 64 (divBy signed 64 (intOf signed 64 a.toNat) (intOf signed 64 b.toNat)))
def remWord (signed : Bool) (a b : Word) : Word :=
  BitVec.ofNat 64 (wrapTo 64 (remBy (intOf signed 64 a.toNat) (intOf signed 64 b.toNat)))

/-- Position and length of bext and bins (R151). -/
def fieldPos (b : Word) : Nat := b.toNat % 64
def fieldLen (b : Word) : Nat := min (b.toNat / 64 % 128) 64

/-- bext and bins (R151). -/
def bextWord (a b : Word) : Word := BitVec.ofNat 64 (a.toNat / 2 ^ fieldPos b % 2 ^ fieldLen b)
def binsWord (a b : Word) : Word := BitVec.ofNat 64 (a.toNat % 2 ^ fieldLen b * 2 ^ fieldPos b)

def execAdd (rd ra rb : XReg) (s : State) := s.alu rd ra rb fun a b => a + b
def execSub (rd ra rb : XReg) (s : State) := s.alu rd ra rb fun a b => a - b
def execAnd (rd ra rb : XReg) (s : State) := s.alu rd ra rb fun a b => a &&& b
def execOr (rd ra rb : XReg) (s : State) := s.alu rd ra rb fun a b => a ||| b
def execXor (rd ra rb : XReg) (s : State) := s.alu rd ra rb fun a b => a ^^^ b
def execAndn (rd ra rb : XReg) (s : State) := s.alu rd ra rb fun a b => a &&& ~~~b
def execSll (rd ra rb : XReg) (s : State) := s.alu rd ra rb fun a b => a <<< (b.toNat % 64)
def execSrl (rd ra rb : XReg) (s : State) := s.alu rd ra rb fun a b => a >>> (b.toNat % 64)
def execSra (rd ra rb : XReg) (s : State) := s.alu rd ra rb fun a b => a.sshiftRight (b.toNat % 64)
def execSlt (rd ra rb : XReg) (s : State) := s.alu rd ra rb fun a b => boolWord (a.slt b)
def execSltn (rd ra rb : XReg) (s : State) := s.alu rd ra rb fun a b => boolWord (a.ult b)
def execMul (rd ra rb : XReg) (s : State) := s.alu rd ra rb fun a b => a * b
def execMulh (rd ra rb : XReg) (s : State) := s.alu rd ra rb (mulHigh true)
def execMulhn (rd ra rb : XReg) (s : State) := s.alu rd ra rb (mulHigh false)
def execDiv (rd ra rb : XReg) (s : State) := s.alu rd ra rb (divWord true)
def execDivn (rd ra rb : XReg) (s : State) := s.alu rd ra rb (divWord false)
def execRem (rd ra rb : XReg) (s : State) := s.alu rd ra rb (remWord true)
def execRemn (rd ra rb : XReg) (s : State) := s.alu rd ra rb (remWord false)
def execMin (rd ra rb : XReg) (s : State) := s.alu rd ra rb fun a b => if b.slt a then b else a
def execMax (rd ra rb : XReg) (s : State) := s.alu rd ra rb fun a b => if a.slt b then b else a
def execMinn (rd ra rb : XReg) (s : State) := s.alu rd ra rb fun a b => if b.ult a then b else a
def execMaxn (rd ra rb : XReg) (s : State) := s.alu rd ra rb fun a b => if a.ult b then b else a
def execBext (rd ra rb : XReg) (s : State) := s.alu rd ra rb bextWord
def execBins (rd ra rb : XReg) (s : State) := s.alu rd ra rb binsWord

/-- A one-source operation. -/
def State.alu1 (s : State) (rd ra : XReg) (f : Word → Word) : Host.Outcome State Fault Refusal :=
  .next (s.done rd (f (s.me.reg ra)))

def execClz (rd ra : XReg) (s : State) := s.alu1 rd ra fun a => BitVec.ofNat 64 (leadZeros 64 a.toNat)
def execCtz (rd ra : XReg) (s : State) := s.alu1 rd ra fun a => BitVec.ofNat 64 (trailZeros 64 a.toNat)
def execPopc (rd ra : XReg) (s : State) := s.alu1 rd ra fun a => BitVec.ofNat 64 (popCount 64 a.toNat)

/-! ## Immediate forms (R152, R153) -/

def execAddi (rd ra : XReg) (imm : BitVec 14) (s : State) := s.alu1 rd ra fun a => a + sext64 imm
def execAndi (rd ra : XReg) (imm : BitVec 14) (s : State) := s.alu1 rd ra fun a => a &&& sext64 imm
def execOri (rd ra : XReg) (imm : BitVec 14) (s : State) := s.alu1 rd ra fun a => a ||| sext64 imm
def execXori (rd ra : XReg) (imm : BitVec 14) (s : State) := s.alu1 rd ra fun a => a ^^^ sext64 imm
def execSlli (rd ra : XReg) (sh : BitVec 6) (s : State) := s.alu1 rd ra fun a => a <<< sh.toNat
def execSrli (rd ra : XReg) (sh : BitVec 6) (s : State) := s.alu1 rd ra fun a => a >>> sh.toNat
def execSrai (rd ra : XReg) (sh : BitVec 6) (s : State) := s.alu1 rd ra fun a => a.sshiftRight sh.toNat
def execSlti (rd ra : XReg) (imm : BitVec 14) (s : State) := s.alu1 rd ra fun a => boolWord (a.slt (sext64 imm))
def execSltni (rd ra : XReg) (imm : BitVec 14) (s : State) := s.alu1 rd ra fun a => boolWord (a.ult (sext64 imm))

/-- lhi writes sext(imm19) << 13. -/
def execLhi (rd : XReg) (imm : BitVec 19) (s : State) : Host.Outcome State Fault Refusal :=
  .next (s.done rd (sext64 imm <<< 13))

/-- lpc writes PC + 4 * sext(imm19). -/
def execLpc (rd : XReg) (imm : BitVec 19) (s : State) : Host.Outcome State Fault Refusal :=
  .next (s.done rd (s.me.pc + sext64 imm <<< 2))

/-! ## Control transfer (R154, R155) -/

/-- jal. -/
def execJal (rd : XReg) (imm : BitVec 19) (s : State) : Host.Outcome State Fault Refusal :=
  let c := s.me
  .next (s.setMe ((c.setReg rd (c.pc + 4)).jump (c.pc + sext64 imm <<< 2)))

/-- jr: the target is computed before the link is written; a misaligned target transfers nothing (R80). -/
def execJr (rd ra : XReg) (imm : BitVec 14) (s : State) : Host.Outcome State Fault Refusal :=
  let c := s.me
  let t := c.reg ra + sext64 imm
  if t.toNat % 4 ≠ 0 then .next (s.trap causeMisalign 1 t)
  else .next (s.setMe ((c.setReg rd (c.pc + 4)).jump t))

/-- A branch by its condition. -/
def State.branch (s : State) (ra rb : XReg) (imm : BitVec 14) (f : Word → Word → Bool) :
    Host.Outcome State Fault Refusal :=
  let c := s.me
  if f (c.reg ra) (c.reg rb) then .next (s.setMe (c.jump (c.pc + sext64 imm <<< 2))) else .next (s.setMe c.advance)

def execBeq (ra rb : XReg) (imm : BitVec 14) (s : State) := s.branch ra rb imm fun a b => decide (a = b)
def execBne (ra rb : XReg) (imm : BitVec 14) (s : State) := s.branch ra rb imm fun a b => decide (a ≠ b)
def execBlt (ra rb : XReg) (imm : BitVec 14) (s : State) := s.branch ra rb imm fun a b => a.slt b
def execBge (ra rb : XReg) (imm : BitVec 14) (s : State) := s.branch ra rb imm fun a b => !a.slt b
def execBltn (ra rb : XReg) (imm : BitVec 14) (s : State) := s.branch ra rb imm fun a b => a.ult b
def execBgen (ra rb : XReg) (imm : BitVec 14) (s : State) := s.branch ra rb imm fun a b => !a.ult b

/-! ## Scalar FP32 (R157) -/

/-- Writes an FP result with its flags, or raises FP_EXC where a raised flag is enabled: then no register is written
and no flag merged. -/
def State.fpDone (s : State) (rd : XReg) (v : Nat) (f : FpFlags) : State :=
  let c := s.me
  if f &&& c.enables ≠ 0 then s.trap causeFpExc f.toNat 0
  else s.setMe (((c.setReg rd (BitVec.ofNat 64 v)).merge f).advance)

/-- The FP32 value in bits [31:0] of a register. -/
def Ctx.fp (c : Ctx) (r : XReg) : FVal := decodeF .fp32 ((c.reg r).toNat % 2 ^ 32)

/-- An FP32 operation: an exact value with the flags of its operands, then one rounding. -/
def State.fpOp (s : State) (rd : XReg) (rm : BitVec 3) (f : Nat → FVal × FpFlags) : Host.Outcome State Fault Refusal :=
  let mode := modeOf rm s.me.dyn
  let x := f mode
  let r := roundF .fp32 mode x.1
  .next (s.fpDone rd r.1 (x.2 ||| r.2))

def execFadd (rd ra rb : XReg) (rm : BitVec 3) (s : State) :=
  s.fpOp rd rm fun mode => sumF (mode == 2) [s.me.fp ra, s.me.fp rb]
def execFsub (rd ra rb : XReg) (rm : BitVec 3) (s : State) :=
  s.fpOp rd rm fun mode => sumF (mode == 2) [s.me.fp ra, (s.me.fp rb).negate]
def execFmul (rd ra rb : XReg) (rm : BitVec 3) (s : State) :=
  s.fpOp rd rm fun mode => sumOfProducts (mode == 2) [(s.me.fp ra, s.me.fp rb)] []
def execFdiv (rd ra rb : XReg) (rm : BitVec 3) (s : State) :=
  s.fpOp rd rm fun _ => divF (s.me.fp ra) (s.me.fp rb)
def execFmadd (rd ra rb : XReg) (rm : BitVec 3) (s : State) :=
  s.fpOp rd rm fun mode => sumOfProducts (mode == 2) [(s.me.fp ra, s.me.fp rb)] [s.me.fp rd]

/-- fcmp (R157). -/
def execFcmp (rd ra rb : XReg) (cc : BitVec 2) (s : State) : Host.Outcome State Fault Refusal :=
  let r := compareF cc.toNat (s.me.fp ra) (s.me.fp rb)
  .next (s.fpDone rd (if r.1 then 1 else 0) r.2)

/-- fcvt (R58, R157): 0 to s64, 1 to n64, 2 from s64, 3 from n64. -/
def execFcvt (rd ra : XReg) (k : BitVec 2) (rm : BitVec 3) (s : State) : Host.Outcome State Fault Refusal :=
  let mode := modeOf rm s.me.dyn
  let r := if k.toNat < 2 then ftoiF (k.toNat == 0) 64 mode (s.me.fp ra)
    else roundF .fp32 mode (ofIntF (intOf (k.toNat == 2) 64 (s.me.reg ra).toNat))
  .next (s.fpDone rd r.1 r.2)

end Sys2Proof.Machine
end

