-- ==== Sys2Proof/Machine/ScalarMem.lean ====
section
/-! DEFINITION. Scalar memory instructions, atomics, fence and the milestone instructions (R245, R252, R260 to R265,
R284, R287 to R289, R408 to R412, R461). -/

namespace Sys2Proof.Machine

/-! ## Where a scalar access goes (R245, R461) -/

/-- The place of a scalar access: bytes of the scratchpad or of memory, or a word of the MMIO space. -/
inductive Place1 where
  | bytes (l : List Loc)
  | mmio (off : Nat)
  deriving DecidableEq, Repr

/-- A scalar access counts 1 at L-die 0 (R380). -/
def State.scalarHot (s : State) (c : Ctx) (va n : Nat) : State :=
  s.hotCount c 0 [{ e := 0, cl := sDie, va := va, bit := 0, bits := 8 * n }]

/-- Translates the address of a scalar access, which counts where the translation fails too: a restart counts again. -/
def State.translateHot (s : State) (c : Ctx) (kind : AccKind) (gate : Gate) (va n : Nat) : Res Nat :=
  match s.translate c kind gate va with
  | .trap t s' => .trap t (s'.scalarHot c va n)
  | .ask q s' => .ask q (s'.scalarHot c va n)
  | r => r

/-- Places an access of n bytes: the window is not translated, and the gate says what region 3 answers. -/
def State.place1 (s : State) (kind : AccKind) (cls va n : Nat) (gate : Gate) : Res Place1 :=
  let c := s.me
  if inWindow va then
    match s.windowAt c va n with
    | some (cl, off) =>
      let base := (s.spWindow c cl).2
      .ok (.bytes ((List.range n).map fun i => { scratch := true, key := s.spCell cl (off + base + i), va := (va + i) / 64 * 64 })) s
    | none => .trap (trapOf causeProt (accSub kind (!c.sup) false) (BitVec.ofNat 64 va)) s
  else
    (s.translateHot c kind gate va n).andThen fun pa s' =>
      if regionOf pa = 3 then .ok (.mmio (pa % 2 ^ 56)) (s'.scalarHot c va n)
      else (s'.scalarLocs c kind cls va n).andThen fun l s'' => .ok (.bytes l) s''

/-- MEM_POISON of a scalar access: the line's virtual address, in the window too. -/
def State.poisonIn (s : State) (l : List Loc) : Option TrapInfo := (l.find? s.locPoison).map poisonTrap

/-- The bytes of a load of a class, as its strand observes them, and the moment of the read (R280, R281). -/
def State.loadPlace (s : State) (p : Place1) (cls : Nat) : Res Nat :=
  match p with
  | .mmio off => let r := s.mmioRead off; .ok r.1.toNat r.2
  | .bytes l => match s.poisonIn l with
    | some t => .trap t s
    | none =>
      let s := s.beforeAccess s.me.sid cls [none]
      let m := s.readMoment s.me cls 0 none
      .ok (locsNat (s.seenByte s.me cls none s.me.die m) l) (s.afterReads s.cur cls 1 m)

/-- Stores n bytes of a number as a write of a class that agents come to observe. -/
def State.storePlace (s : State) (p : Place1) (cls n v : Nat) : Res Unit :=
  match p with
  | .mmio off => .ok () (s.mmioWrite false off (BitVec.ofNat 64 v))
  | .bytes l => (s.storeLocs l (leBytes n v)).andThen fun _ t =>
      .ok () (s.noteWrites t s.me.sid cls [{ elem := 0, port := none, die := s.me.die, locs := l }])

/-- The bytes of an atomic's read, as a number: the newest, which its L-die observes from then on (R277). -/
def State.readPlace (s : State) (p : Place1) : Res Nat :=
  match p with
  | .mmio off => let r := s.mmioRead off; .ok r.1.toNat r.2
  | .bytes l => match s.poisonIn l with
    | some t => .trap t s
    | none => .ok (locsNat s.locByte l) (s.observeLocs s.me.die l)

/-- Stores n bytes of a number. -/
def State.writePlace (s : State) (p : Place1) (n v : Nat) : Res Unit :=
  match p with
  | .mmio off => .ok () (s.mmioWrite false off (BitVec.ofNat 64 v))
  | .bytes l => s.storeLocs l (leBytes n v)

/-! ## Loads and stores (R260, R262) -/

/-- The gate of a scalar load or store of n bytes: only 8 bytes reach region 3, and a store of a value that R5 refuses raises
ILLEGAL_OP (R5, R461) (log entry 76). -/
def State.mmioGate (s : State) (kind : AccKind) (va n word : Nat) (v : Word) : Gate := fun off =>
  if n ≠ 8 then some (protTrap kind (!s.me.sup) va)
  else if kind = 1 ∧ s.mmioRefuses off v = true then some (trapOf causeOp 5 (BitVec.ofNat 64 word))
  else none

/-- A load of n bytes, widened by `ext`; with `acq` it is an acquire (R282). -/
def State.load (s : State) (rd : XReg) (a : Word) (cls n : Nat) (ext : Nat → Word) (acq : Bool := false) : State :=
  if a.toNat % n ≠ 0 then s.trap causeMisalign 2 a
  else s.finish ((s.place1 0 cls a.toNat n (s.mmioGate 0 a.toNat n 0 0)).andThen fun p s' =>
    (s'.loadPlace p cls).andThen fun v s'' =>
      .ok () ((if acq then s''.acquireAt s''.cur (smGet 0 s''.me.order.reads cls) else s'').done rd (ext v)))

/-- A store of the low n bytes of a register; with `rel` it is a release at that scope (R282). -/
def State.store (s : State) (word : Nat) (rs : XReg) (a : Word) (cls n : Nat) (rel : Option Nat := none) : State :=
  if a.toNat % n ≠ 0 then s.trap causeMisalign 2 a
  else s.finish ((s.place1 1 cls a.toNat n (s.mmioGate 1 a.toNat n word (s.me.reg rs))).andThen fun p s' =>
    ((match rel with
      | some scope => s'.releaseTo s'.cur 0xFFFF s'.me.die scope
      | none => s').storePlace p cls n (s.me.reg rs).toNat).andThen fun _ s'' => .ok () s''.pass)

def zext (v : Nat) : Word := BitVec.ofNat 64 v
/-- Ext(v, w, 64, true). -/
def sextN (w v : Nat) : Word := (BitVec.ofNat w v).signExtend 64

def execLdb (rd ra : XReg) (imm : BitVec 10) (cls : BitVec 4) (s : State) : Host.Outcome State Fault Refusal :=
  .next (s.load rd (s.me.reg ra + sext64 imm) cls.toNat 1 (sextN 8))
def execLdbn (rd ra : XReg) (imm : BitVec 10) (cls : BitVec 4) (s : State) : Host.Outcome State Fault Refusal :=
  .next (s.load rd (s.me.reg ra + sext64 imm) cls.toNat 1 zext)
def execLdh (rd ra : XReg) (imm : BitVec 10) (cls : BitVec 4) (s : State) : Host.Outcome State Fault Refusal :=
  .next (s.load rd (s.me.reg ra + sext64 imm) cls.toNat 2 (sextN 16))
def execLdhn (rd ra : XReg) (imm : BitVec 10) (cls : BitVec 4) (s : State) : Host.Outcome State Fault Refusal :=
  .next (s.load rd (s.me.reg ra + sext64 imm) cls.toNat 2 zext)
def execLdw (rd ra : XReg) (imm : BitVec 10) (cls : BitVec 4) (s : State) : Host.Outcome State Fault Refusal :=
  .next (s.load rd (s.me.reg ra + sext64 imm) cls.toNat 4 (sextN 32))
def execLdwn (rd ra : XReg) (imm : BitVec 10) (cls : BitVec 4) (s : State) : Host.Outcome State Fault Refusal :=
  .next (s.load rd (s.me.reg ra + sext64 imm) cls.toNat 4 zext)
def execLdd (rd ra : XReg) (imm : BitVec 10) (cls : BitVec 4) (s : State) : Host.Outcome State Fault Refusal :=
  .next (s.load rd (s.me.reg ra + sext64 imm) cls.toNat 8 zext)
def execStb (rs ra : XReg) (imm : BitVec 10) (cls : BitVec 4) (s : State) : Host.Outcome State Fault Refusal :=
  .next (s.store (parcelOf (.stb rs ra imm cls)) rs (s.me.reg ra + sext64 imm) cls.toNat 1)
def execSth (rs ra : XReg) (imm : BitVec 10) (cls : BitVec 4) (s : State) : Host.Outcome State Fault Refusal :=
  .next (s.store (parcelOf (.sth rs ra imm cls)) rs (s.me.reg ra + sext64 imm) cls.toNat 2)
def execStw (rs ra : XReg) (imm : BitVec 10) (cls : BitVec 4) (s : State) : Host.Outcome State Fault Refusal :=
  .next (s.store (parcelOf (.stw rs ra imm cls)) rs (s.me.reg ra + sext64 imm) cls.toNat 4)
def execStd (rs ra : XReg) (imm : BitVec 10) (cls : BitVec 4) (s : State) : Host.Outcome State Fault Refusal :=
  .next (s.store (parcelOf (.std rs ra imm cls)) rs (s.me.reg ra + sext64 imm) cls.toNat 8)

/-- lda: ldd with acquire semantics; the scope decides with which releases it synchronises, which their own reach already
gives (R262, R283). -/
def execLda (rd ra : XReg) (off : BitVec 7) (_scope : BitVec 3) (cls : BitVec 4) (s : State) :
    Host.Outcome State Fault Refusal :=
  .next (s.load rd (s.me.reg ra + sext64 off) cls.toNat 8 zext true)
/-- stl: std with release semantics at the scope (R262). -/
def execStl (rs ra : XReg) (off : BitVec 7) (scope : BitVec 3) (cls : BitVec 4) (s : State) :
    Host.Outcome State Fault Refusal :=
  .next (s.store (parcelOf (.stl rs ra off scope cls)) rs (s.me.reg ra + sext64 off) cls.toNat 8 (some scope.toNat))

/-! ## pf, cflush, cinv (R252, R253, R261) -/

/-- pf changes no value and never faults. -/
def execPf (_ra : XReg) (_imm : BitVec 10) (_cls : BitVec 4) (s : State) : Host.Outcome State Fault Refusal := .next s.pass

/-- Cache maintenance of the line at an address: it needs read permission, writes a dirty copy back to host memory, changes
no value that an agent reads, and counts as a write of its class (R252, R253, R261). -/
def State.lineOp (s : State) (cls : Nat) (a : Word) : State :=
  if inWindow a.toNat then s.pass
  else s.finish ((s.translateHot s.me 0 (s.me.noMmio 0 a.toNat) a.toNat 1).andThen fun pa s' =>
    let s' := s'.scalarHot s.me a.toNat 1
    let line : WriteAt := { elem := 0, port := none, die := s'.me.die, locs := [] }
    .ok () (s'.noteWrites (s'.cleanLine (s'.cell pa / 64)) s'.me.sid cls [line]).pass)

def execCflush (ra : XReg) (imm : BitVec 10) (cls : BitVec 4) (s : State) : Host.Outcome State Fault Refusal :=
  .next (s.lineOp cls.toNat (s.me.reg ra + sext64 imm))
def execCinv (ra : XReg) (imm : BitVec 10) (cls : BitVec 4) (s : State) : Host.Outcome State Fault Refusal :=
  .next (s.lineOp cls.toNat (s.me.reg ra + sext64 imm))

/-! ## Atomics (R263 to R265) -/

/-- An atomic acts on the newest value, after the kept pairs before it; with `rel` after a release, with `acq` as an
acquire (R282, R284). -/
def State.beforeAtomic (s : State) (scope : Nat) (rel : Bool) : State :=
  (if rel then s.releaseTo s.cur 0xFFFF s.me.die scope else s).beforeAccess s.me.sid 15 [none]

def State.afterAtomic (s : State) (acq : Bool) : State :=
  (if acq then s.acquire s.cur else s).afterReads s.cur 15 0 s.moment

/-- Reads n bytes at X[ra], writes what `f` gives, if anything, and writes the old value to X[rd]. -/
def State.atomic (s : State) (rd ra : XReg) (scope : BitVec 3) (acq rel : Bool) (n : Nat) (f : Nat → Option Nat) : State :=
  let a := s.me.reg ra
  if a.toNat % n ≠ 0 then s.trap causeMisalign 2 a
  else s.finish ((s.place1 3 15 a.toNat n (s.me.noMmio 3 a.toNat)).andThen fun p s' =>
    ((s'.beforeAtomic scope.toNat rel).readPlace p).andThen fun old s'' =>
      match f old with
      | some v => (s''.writePlace p n v).andThen fun _ s3 => .ok () ((s3.afterAtomic acq).done rd (zext old))
      | none => .ok () ((s''.afterAtomic acq).done rd (zext old)))

/-- amo with an operation of R263. -/
def State.amo (s : State) (op : Nat) (rd ra rb : XReg) (scope : BitVec 3) (acq rel : Bool) :
    Host.Outcome State Fault Refusal :=
  .next (s.atomic rd ra scope acq rel 8 fun old => some (amoF op 64 old (s.me.reg rb).toNat))

def execAmoAdd (rd ra rb : XReg) (scope : BitVec 3) (acq rel : Bool) (s : State) := s.amo 0 rd ra rb scope acq rel
def execAmoAnd (rd ra rb : XReg) (scope : BitVec 3) (acq rel : Bool) (s : State) := s.amo 1 rd ra rb scope acq rel
def execAmoOr (rd ra rb : XReg) (scope : BitVec 3) (acq rel : Bool) (s : State) := s.amo 2 rd ra rb scope acq rel
def execAmoXor (rd ra rb : XReg) (scope : BitVec 3) (acq rel : Bool) (s : State) := s.amo 3 rd ra rb scope acq rel
def execAmoMin (rd ra rb : XReg) (scope : BitVec 3) (acq rel : Bool) (s : State) := s.amo 4 rd ra rb scope acq rel
def execAmoMax (rd ra rb : XReg) (scope : BitVec 3) (acq rel : Bool) (s : State) := s.amo 5 rd ra rb scope acq rel
def execAmoMinn (rd ra rb : XReg) (scope : BitVec 3) (acq rel : Bool) (s : State) := s.amo 6 rd ra rb scope acq rel
def execAmoMaxn (rd ra rb : XReg) (scope : BitVec 3) (acq rel : Bool) (s : State) := s.amo 7 rd ra rb scope acq rel
def execAmoSwp (rd ra rb : XReg) (scope : BitVec 3) (acq rel : Bool) (s : State) := s.amo 8 rd ra rb scope acq rel

/-- amo.fadd: 32 bits. -/
def execAmoFadd (rd ra rb : XReg) (scope : BitVec 3) (acq rel : Bool) (s : State) : Host.Outcome State Fault Refusal :=
  .next (s.atomic rd ra scope acq rel 4 fun old => some (amoF 9 32 old ((s.me.reg rb).toNat % 2 ^ 32)))

/-- amocas: the store takes place if the old value is X[rd]. -/
def execAmocas (rd ra rb : XReg) (scope : BitVec 3) (acq rel : Bool) (s : State) : Host.Outcome State Fault Refusal :=
  .next (s.atomic rd ra scope acq rel 8 fun old => if old = (s.me.reg rd).toNat then some (s.me.reg rb).toNat else none)

/-! ## fence (R287 to R289) -/

/-- The classes of a fence. -/
def fenceMask (v : Word) : BitVec 16 := if v.setWidth 16 = (0 : BitVec 16) ∨ v.getLsbD 15 then 0xFFFF else v.setWidth 16

/-- Stores of a strand in the classes of a mask that no target has acknowledged visible. -/
def State.unseen (s : State) (sid : Nat) (mask : BitVec 16) : Bool :=
  s.glox.packets.any fun p => (decide (p.sid = sid) || p.heirs.contains sid) && p.store && mask.getLsbD p.cls

/-- fence: the writes before it are performed for its scope, or with level visible for every agent, and then it waits for
the packets that no target has acknowledged visible (R288, R289). -/
def execFence (ra : XReg) (scope : BitVec 3) (visible : Bool) (s : State) : Host.Outcome State Fault Refusal :=
  let mask := fenceMask (s.me.reg ra)
  let s := s.fenceAt s.cur mask (if visible then 5 else scope.toNat)
  if visible && s.unseen s.me.sid mask then .next (s.setMe { s.me with wait := some (.fence mask) })
  else .next s.pass

/-- The stores that a fence waits for are acknowledged. -/
def execFenceComplete (ctx : Nat) (s : State) : Host.Outcome State Fault Refusal :=
  let c := s.ctxAt ctx
  match c.wait with
  | some (.fence mask) => if s.unseen c.sid mask then .next s else .next (s.setCtx ctx { c with wait := none }.advance)
  | _ => .next s

/-! ## Milestone instructions (R408 to R412) -/

/-- The release of a milestone instruction: for the cluster, or for the package (R284). -/
def State.releaseMs (s : State) (n : Nat) (ms : MsName) : State :=
  s.releaseTo n 0xFFFF (s.ctxAt n).die (if ms.pkg then 3 else 1)

/-- The name that a parcel gives. -/
def msName (n : BitVec 12) (pkg : Bool) : MsName := { num := n.toNat, pkg := pkg }

/-- The checks of R411, in their order: `value` is X[rd] of the instructions that read it, `add` what is added. -/
def State.msCheck (s : State) (word : Nat) (n : MsName) (value : Option Word) (add : Nat) : Option TrapInfo :=
  let m := s.msAt s.me.firstCl n
  if (match value with | some v => decide (2 ^ 32 ≤ v.toNat) | none => false) then
    some (trapOf causeOperand 6 (BitVec.ofNat 64 word))
  else if m.owned && decide (m.owner.setWidth 64 ≠ s.me.pasid) then some (trapOf causePriv 3 (BitVec.ofNat 64 word))
  else if m.broken then some (trapOf causeGangBroken 0 n.eval)
  else if 2 ^ 32 ≤ m.count.toNat + add then some (trapOf causeMsOverflow 0 n.eval)
  else none

/-- A milestone instruction: a trap, or its effect. -/
def State.msOp (s : State) (word : Nat) (n : MsName) (value : Option Word) (add : Nat) (f : Milestone → State) :
    Host.Outcome State Fault Refusal :=
  match s.msCheck word n value add with
  | some t => .next (s.enterTrap s.cur t s.me.pc)
  | none => .next (f (s.msAt s.me.firstCl n))

def execMsArrive (ms : BitVec 12) (pkg : Bool) (s : State) : Host.Outcome State Fault Refusal :=
  let n := msName ms pkg
  s.msOp (parcelOf (.msArrive ms pkg)) n none 1 fun m =>
    ((s.releaseMs s.cur n).setMs s.me.firstCl n { m with count := m.count + 1 }).pass

def execMsAdd (rd : XReg) (ms : BitVec 12) (pkg : Bool) (s : State) : Host.Outcome State Fault Refusal :=
  let n := msName ms pkg
  let v := s.me.reg rd
  s.msOp (parcelOf (.msAdd rd ms pkg)) n (some v) (v.toNat % 2 ^ 32) fun m =>
    ((s.releaseMs s.cur n).setMs s.me.firstCl n { m with count := m.count + v.setWidth 32 }).pass

def execMsSet (rd : XReg) (ms : BitVec 12) (pkg : Bool) (s : State) : Host.Outcome State Fault Refusal :=
  let n := msName ms pkg
  let v := s.me.reg rd
  s.msOp (parcelOf (.msSet rd ms pkg)) n (some v) 0 fun m =>
    ((s.releaseMs s.cur n).setMs s.me.firstCl n { m with count := v.setWidth 32, ovf := false }).pass

def execMsRead (rd : XReg) (ms : BitVec 12) (pkg : Bool) (s : State) : Host.Outcome State Fault Refusal :=
  s.msOp (parcelOf (.msRead rd ms pkg)) (msName ms pkg) none 0 fun m => (s.acquire s.cur).done rd m.toWord

def execMsWait (rd : XReg) (ms : BitVec 12) (pkg : Bool) (s : State) : Host.Outcome State Fault Refusal :=
  let n := msName ms pkg
  let v := s.me.reg rd
  s.msOp (parcelOf (.msWait rd ms pkg)) n (some v) 0 fun m =>
    if v.toNat ≤ m.count.toNat then (s.acquire s.cur).pass else s.setMe { s.me with wait := some (.msWait n v.toNat) }

/-- A blocked wait reads a count that meets its target. -/
def execMsWaitSatisfied (ctx : Nat) (s : State) : Host.Outcome State Fault Refusal :=
  let c := s.ctxAt ctx
  match c.wait with
  | some (.msWait n t) =>
    if t ≤ (s.msAt c.firstCl n).count.toNat then .next ((s.setCtx ctx { c with wait := none }.advance).acquire ctx) else .next s
  | _ => .next s

end Sys2Proof.Machine
end

