-- ==== Sys2Proof/Machine/Dispatch.lean ====
section
/-! DEFINITION. One arm per row of the opcode table: the meaning of the row. -/

namespace Sys2Proof.Machine

def exec (i : Instr) (s : State) : Host.Outcome State Fault Refusal :=
  match i with
  | .add rd ra rb => Sys2Proof.Machine.execAdd rd ra rb s
  | .sub rd ra rb => Sys2Proof.Machine.execSub rd ra rb s
  | .and rd ra rb => Sys2Proof.Machine.execAnd rd ra rb s
  | .or rd ra rb => Sys2Proof.Machine.execOr rd ra rb s
  | .xor rd ra rb => Sys2Proof.Machine.execXor rd ra rb s
  | .andn rd ra rb => Sys2Proof.Machine.execAndn rd ra rb s
  | .sll rd ra rb => Sys2Proof.Machine.execSll rd ra rb s
  | .srl rd ra rb => Sys2Proof.Machine.execSrl rd ra rb s
  | .sra rd ra rb => Sys2Proof.Machine.execSra rd ra rb s
  | .slt rd ra rb => Sys2Proof.Machine.execSlt rd ra rb s
  | .sltn rd ra rb => Sys2Proof.Machine.execSltn rd ra rb s
  | .mul rd ra rb => Sys2Proof.Machine.execMul rd ra rb s
  | .mulh rd ra rb => Sys2Proof.Machine.execMulh rd ra rb s
  | .mulhn rd ra rb => Sys2Proof.Machine.execMulhn rd ra rb s
  | .div rd ra rb => Sys2Proof.Machine.execDiv rd ra rb s
  | .divn rd ra rb => Sys2Proof.Machine.execDivn rd ra rb s
  | .rem rd ra rb => Sys2Proof.Machine.execRem rd ra rb s
  | .remn rd ra rb => Sys2Proof.Machine.execRemn rd ra rb s
  | .min rd ra rb => Sys2Proof.Machine.execMin rd ra rb s
  | .max rd ra rb => Sys2Proof.Machine.execMax rd ra rb s
  | .minn rd ra rb => Sys2Proof.Machine.execMinn rd ra rb s
  | .maxn rd ra rb => Sys2Proof.Machine.execMaxn rd ra rb s
  | .clz rd ra => Sys2Proof.Machine.execClz rd ra s
  | .ctz rd ra => Sys2Proof.Machine.execCtz rd ra s
  | .popc rd ra => Sys2Proof.Machine.execPopc rd ra s
  | .bext rd ra rb => Sys2Proof.Machine.execBext rd ra rb s
  | .bins rd ra rb => Sys2Proof.Machine.execBins rd ra rb s
  | .fadd rd ra rb rm => Sys2Proof.Machine.execFadd rd ra rb rm s
  | .fsub rd ra rb rm => Sys2Proof.Machine.execFsub rd ra rb rm s
  | .fmul rd ra rb rm => Sys2Proof.Machine.execFmul rd ra rb rm s
  | .fdiv rd ra rb rm => Sys2Proof.Machine.execFdiv rd ra rb rm s
  | .fmadd rd ra rb rm => Sys2Proof.Machine.execFmadd rd ra rb rm s
  | .fcmp rd ra rb cc => Sys2Proof.Machine.execFcmp rd ra rb cc s
  | .fcvt rd ra k rm => Sys2Proof.Machine.execFcvt rd ra k rm s
  | .amoAdd rd ra rb scope acq rel => Sys2Proof.Machine.execAmoAdd rd ra rb scope acq rel s
  | .amoAnd rd ra rb scope acq rel => Sys2Proof.Machine.execAmoAnd rd ra rb scope acq rel s
  | .amoOr rd ra rb scope acq rel => Sys2Proof.Machine.execAmoOr rd ra rb scope acq rel s
  | .amoXor rd ra rb scope acq rel => Sys2Proof.Machine.execAmoXor rd ra rb scope acq rel s
  | .amoMin rd ra rb scope acq rel => Sys2Proof.Machine.execAmoMin rd ra rb scope acq rel s
  | .amoMax rd ra rb scope acq rel => Sys2Proof.Machine.execAmoMax rd ra rb scope acq rel s
  | .amoMinn rd ra rb scope acq rel => Sys2Proof.Machine.execAmoMinn rd ra rb scope acq rel s
  | .amoMaxn rd ra rb scope acq rel => Sys2Proof.Machine.execAmoMaxn rd ra rb scope acq rel s
  | .amoSwp rd ra rb scope acq rel => Sys2Proof.Machine.execAmoSwp rd ra rb scope acq rel s
  | .amoFadd rd ra rb scope acq rel => Sys2Proof.Machine.execAmoFadd rd ra rb scope acq rel s
  | .amocas rd ra rb scope acq rel => Sys2Proof.Machine.execAmocas rd ra rb scope acq rel s
  | .fence ra scope visible => Sys2Proof.Machine.execFence ra scope visible s
  | .csrr rd csr => Sys2Proof.Machine.execCsrr rd csr s
  | .csrw rd ra csr => Sys2Proof.Machine.execCsrw rd ra csr s
  | .csrs rd ra csr => Sys2Proof.Machine.execCsrs rd ra csr s
  | .csrc rd ra csr => Sys2Proof.Machine.execCsrc rd ra csr s
  | .trap code => Sys2Proof.Machine.execTrap code s
  | .brk code => Sys2Proof.Machine.execBrk code s
  | .tret => Sys2Proof.Machine.execTret s
  | .chBind c ra => Sys2Proof.Machine.execChBind c ra s
  | .chPush c ra rel => Sys2Proof.Machine.execChPush c ra rel s
  | .chPop rd c idx => Sys2Proof.Machine.execChPop rd c idx s
  | .chTpop rd c idx => Sys2Proof.Machine.execChTpop rd c idx s
  | .chDetach c idx => Sys2Proof.Machine.execChDetach c idx s
  | .cpCopy engine ra => Sys2Proof.Machine.execCpCopy engine ra s
  | .bpRun ra => Sys2Proof.Machine.execBpRun ra s
  | .bpTwl ra rb => Sys2Proof.Machine.execBpTwl ra rb s
  | .sfAg u ra => Sys2Proof.Machine.execSfAg u ra s
  | .sfRoute u ra => Sys2Proof.Machine.execSfRoute u ra s
  | .sfMerge u ra => Sys2Proof.Machine.execSfMerge u ra s
  | .sfReord u ra => Sys2Proof.Machine.execSfReord u ra s
  | .sfPack u ra => Sys2Proof.Machine.execSfPack u ra s
  | .sfUnpack u ra => Sys2Proof.Machine.execSfUnpack u ra s
  | .plBind ra => Sys2Proof.Machine.execPlBind ra s
  | .plStart ra => Sys2Proof.Machine.execPlStart ra s
  | .plStop ra => Sys2Proof.Machine.execPlStop ra s
  | .plFreeze ra => Sys2Proof.Machine.execPlFreeze ra s
  | .mxMma acc ta tb => Sys2Proof.Machine.execMxMma acc ta tb s
  | .mxMms acc ta tb => Sys2Proof.Machine.execMxMms acc ta tb s
  | .mxZacc acc => Sys2Proof.Machine.execMxZacc acc s
  | .mxRnd td acc rm => Sys2Proof.Machine.execMxRnd td acc rm s
  | .mxSettl xm xn xk => Sys2Proof.Machine.execMxSettl xm xn xk s
  | .xchPostDemand rd ra rb => Sys2Proof.Machine.execXchPostDemand rd ra rb s
  | .xchSend ra rb => Sys2Proof.Machine.execXchSend ra rb s
  | .xchRecv ra rb => Sys2Proof.Machine.execXchRecv ra rb s
  | .xchEnd ra => Sys2Proof.Machine.execXchEnd ra s
  | .xchStat rd ra rb => Sys2Proof.Machine.execXchStat rd ra rb s
  | .msArrive ms pkg => Sys2Proof.Machine.execMsArrive ms pkg s
  | .msWait rd ms pkg => Sys2Proof.Machine.execMsWait rd ms pkg s
  | .msAdd rd ms pkg => Sys2Proof.Machine.execMsAdd rd ms pkg s
  | .msSet rd ms pkg => Sys2Proof.Machine.execMsSet rd ms pkg s
  | .msRead rd ms pkg => Sys2Proof.Machine.execMsRead rd ms pkg s
  | .launch rd ra => Sys2Proof.Machine.execLaunch rd ra s
  | .tlbInvPage ra rb => Sys2Proof.Machine.execTlbInvPage ra rb s
  | .ctxSave rd ra rb => Sys2Proof.Machine.execCtxSave rd ra rb s
  | .ctxRest ra rb => Sys2Proof.Machine.execCtxRest ra rb s
  | .vpart rd ra => Sys2Proof.Machine.execVpart rd ra s
  | .rtUpdWrite rd ra => Sys2Proof.Machine.execRtUpdWrite rd ra s
  | .snapTrigger rd ra => Sys2Proof.Machine.execSnapTrigger rd ra s
  | .pprobe rd ra rb => Sys2Proof.Machine.execPprobe rd ra rb s
  | .idle ra => Sys2Proof.Machine.execIdle ra s
  | .yield ra => Sys2Proof.Machine.execYield ra s
  | .vsetvl rd ra => Sys2Proof.Machine.execVsetvl rd ra s
  | .addi rd ra imm => Sys2Proof.Machine.execAddi rd ra imm s
  | .andi rd ra imm => Sys2Proof.Machine.execAndi rd ra imm s
  | .ori rd ra imm => Sys2Proof.Machine.execOri rd ra imm s
  | .xori rd ra imm => Sys2Proof.Machine.execXori rd ra imm s
  | .slli rd ra sh => Sys2Proof.Machine.execSlli rd ra sh s
  | .srli rd ra sh => Sys2Proof.Machine.execSrli rd ra sh s
  | .srai rd ra sh => Sys2Proof.Machine.execSrai rd ra sh s
  | .slti rd ra imm => Sys2Proof.Machine.execSlti rd ra imm s
  | .sltni rd ra imm => Sys2Proof.Machine.execSltni rd ra imm s
  | .ldb rd ra imm cls => Sys2Proof.Machine.execLdb rd ra imm cls s
  | .ldbn rd ra imm cls => Sys2Proof.Machine.execLdbn rd ra imm cls s
  | .ldh rd ra imm cls => Sys2Proof.Machine.execLdh rd ra imm cls s
  | .ldhn rd ra imm cls => Sys2Proof.Machine.execLdhn rd ra imm cls s
  | .ldw rd ra imm cls => Sys2Proof.Machine.execLdw rd ra imm cls s
  | .ldwn rd ra imm cls => Sys2Proof.Machine.execLdwn rd ra imm cls s
  | .ldd rd ra imm cls => Sys2Proof.Machine.execLdd rd ra imm cls s
  | .stb rs ra imm cls => Sys2Proof.Machine.execStb rs ra imm cls s
  | .sth rs ra imm cls => Sys2Proof.Machine.execSth rs ra imm cls s
  | .stw rs ra imm cls => Sys2Proof.Machine.execStw rs ra imm cls s
  | .std rs ra imm cls => Sys2Proof.Machine.execStd rs ra imm cls s
  | .pf ra imm cls => Sys2Proof.Machine.execPf ra imm cls s
  | .cflush ra imm cls => Sys2Proof.Machine.execCflush ra imm cls s
  | .cinv ra imm cls => Sys2Proof.Machine.execCinv ra imm cls s
  | .lda rd ra off scope cls => Sys2Proof.Machine.execLda rd ra off scope cls s
  | .stl rs ra off scope cls => Sys2Proof.Machine.execStl rs ra off scope cls s
  | .beq ra rb imm => Sys2Proof.Machine.execBeq ra rb imm s
  | .bne ra rb imm => Sys2Proof.Machine.execBne ra rb imm s
  | .blt ra rb imm => Sys2Proof.Machine.execBlt ra rb imm s
  | .bge ra rb imm => Sys2Proof.Machine.execBge ra rb imm s
  | .bltn ra rb imm => Sys2Proof.Machine.execBltn ra rb imm s
  | .bgen ra rb imm => Sys2Proof.Machine.execBgen ra rb imm s
  | .jr rd ra imm => Sys2Proof.Machine.execJr rd ra imm s
  | .jal rd imm => Sys2Proof.Machine.execJal rd imm s
  | .lhi rd imm => Sys2Proof.Machine.execLhi rd imm s
  | .lpc rd imm => Sys2Proof.Machine.execLpc rd imm s
  | .vadd f => Sys2Proof.Machine.execVadd f s
  | .vsub f => Sys2Proof.Machine.execVsub f s
  | .vrsub f => Sys2Proof.Machine.execVrsub f s
  | .vmul f => Sys2Proof.Machine.execVmul f s
  | .vmulh f => Sys2Proof.Machine.execVmulh f s
  | .vmacc f => Sys2Proof.Machine.execVmacc f s
  | .vnmac f => Sys2Proof.Machine.execVnmac f s
  | .vdiv f => Sys2Proof.Machine.execVdiv f s
  | .vrem f => Sys2Proof.Machine.execVrem f s
  | .vmin f => Sys2Proof.Machine.execVmin f s
  | .vmax f => Sys2Proof.Machine.execVmax f s
  | .vand f => Sys2Proof.Machine.execVand f s
  | .vor f => Sys2Proof.Machine.execVor f s
  | .vxor f => Sys2Proof.Machine.execVxor f s
  | .vandn f => Sys2Proof.Machine.execVandn f s
  | .vsll f => Sys2Proof.Machine.execVsll f s
  | .vsrl f => Sys2Proof.Machine.execVsrl f s
  | .vsra f => Sys2Proof.Machine.execVsra f s
  | .vclz f => Sys2Proof.Machine.execVclz f s
  | .vpopc f => Sys2Proof.Machine.execVpopc f s
  | .vabs f => Sys2Proof.Machine.execVabs f s
  | .vcmp f => Sys2Proof.Machine.execVcmp f s
  | .vsel f => Sys2Proof.Machine.execVsel f s
  | .vmv f => Sys2Proof.Machine.execVmv f s
  | .vid f => Sys2Proof.Machine.execVid f s
  | .vaddi f => Sys2Proof.Machine.execVaddi f s
  | .vandi f => Sys2Proof.Machine.execVandi f s
  | .vori f => Sys2Proof.Machine.execVori f s
  | .vxori f => Sys2Proof.Machine.execVxori f s
  | .vslli f => Sys2Proof.Machine.execVslli f s
  | .vsrli f => Sys2Proof.Machine.execVsrli f s
  | .vsrai f => Sys2Proof.Machine.execVsrai f s
  | .vmvi f => Sys2Proof.Machine.execVmvi f s
  | .vcmpi f => Sys2Proof.Machine.execVcmpi f s
  | .vfadd f => Sys2Proof.Machine.execVfadd f s
  | .vfsub f => Sys2Proof.Machine.execVfsub f s
  | .vfmul f => Sys2Proof.Machine.execVfmul f s
  | .vfmacc f => Sys2Proof.Machine.execVfmacc f s
  | .vfnmsac f => Sys2Proof.Machine.execVfnmsac f s
  | .vfdiv f => Sys2Proof.Machine.execVfdiv f s
  | .vfsqrt f => Sys2Proof.Machine.execVfsqrt f s
  | .vfmin f => Sys2Proof.Machine.execVfmin f s
  | .vfmax f => Sys2Proof.Machine.execVfmax f s
  | .vfcmp f => Sys2Proof.Machine.execVfcmp f s
  | .vfclass f => Sys2Proof.Machine.execVfclass f s
  | .vfexp2 f => Sys2Proof.Machine.execVfexp2 f s
  | .vflog2 f => Sys2Proof.Machine.execVflog2 f s
  | .vfrcp f => Sys2Proof.Machine.execVfrcp f s
  | .vfrsqrt f => Sys2Proof.Machine.execVfrsqrt f s
  | .vcmul f => Sys2Proof.Machine.execVcmul f s
  | .vcmac f => Sys2Proof.Machine.execVcmac f s
  | .vmadd f => Sys2Proof.Machine.execVmadd f s
  | .vmsub f => Sys2Proof.Machine.execVmsub f s
  | .vmmul f => Sys2Proof.Machine.execVmmul f s
  | .vmred f => Sys2Proof.Machine.execVmred f s
  | .vcvt f => Sys2Proof.Machine.execVcvt f s
  | .vftoi f => Sys2Proof.Machine.execVftoi f s
  | .vitof f => Sys2Proof.Machine.execVitof f s
  | .vbfexp f => Sys2Proof.Machine.execVbfexp f s
  | .vbfmant f => Sys2Proof.Machine.execVbfmant f s
  | .vbfval f => Sys2Proof.Machine.execVbfval f s
  | .vslideDown f => Sys2Proof.Machine.execVslideDown f s
  | .vxchg f => Sys2Proof.Machine.execVxchg f s
  | .vperm f => Sys2Proof.Machine.execVperm f s
  | .vpush f => Sys2Proof.Machine.execVpush f s
  | .vcompress f => Sys2Proof.Machine.execVcompress f s
  | .vexpand f => Sys2Proof.Machine.execVexpand f s
  | .vzip f => Sys2Proof.Machine.execVzip f s
  | .vunzip f => Sys2Proof.Machine.execVunzip f s
  | .vrev f => Sys2Proof.Machine.execVrev f s
  | .vred f => Sys2Proof.Machine.execVred f s
  | .vfred f => Sys2Proof.Machine.execVfred f s
  | .vscan f => Sys2Proof.Machine.execVscan f s
  | .vfscan f => Sys2Proof.Machine.execVfscan f s
  | .vargmax f => Sys2Proof.Machine.execVargmax f s
  | .vsetfib f => Sys2Proof.Machine.execVsetfib f s
  | .vbcast f => Sys2Proof.Machine.execVbcast f s
  | .vext f => Sys2Proof.Machine.execVext f s
  | .vins f => Sys2Proof.Machine.execVins f s
  | .pand f => Sys2Proof.Machine.execPand f s
  | .por f => Sys2Proof.Machine.execPor f s
  | .pxor f => Sys2Proof.Machine.execPxor f s
  | .pandn f => Sys2Proof.Machine.execPandn f s
  | .pset f => Sys2Proof.Machine.execPset f s
  | .pcnt f => Sys2Proof.Machine.execPcnt f s
  | .pfirst f => Sys2Proof.Machine.execPfirst f s
  | .pmov f => Sys2Proof.Machine.execPmov f s
  | .tld f => Sys2Proof.Machine.execTld f s
  | .tldt f => Sys2Proof.Machine.execTldt f s
  | .tst f => Sys2Proof.Machine.execTst f s
  | .tzero f => Sys2Proof.Machine.execTzero f s
  | .vtrow f => Sys2Proof.Machine.execVtrow f s
  | .vtcol f => Sys2Proof.Machine.execVtcol f s
  | .vrowt f => Sys2Proof.Machine.execVrowt f s
  | .vcolt f => Sys2Proof.Machine.execVcolt f s
  | .tprune f => Sys2Proof.Machine.execTprune f s
  | .tpackt f => Sys2Proof.Machine.execTpackt f s
  | .tunpack f => Sys2Proof.Machine.execTunpack f s
  | .tsigck f => Sys2Proof.Machine.execTsigck f s
  | .vld f => Sys2Proof.Machine.execVld f s
  | .vlds f => Sys2Proof.Machine.execVlds f s
  | .vldx f => Sys2Proof.Machine.execVldx f s
  | .vst f => Sys2Proof.Machine.execVst f s
  | .vsts f => Sys2Proof.Machine.execVsts f s
  | .vstx f => Sys2Proof.Machine.execVstx f s
  | .vamo f => Sys2Proof.Machine.execVamo f s
  | .vspill f => Sys2Proof.Machine.execVspill f s
  | .vfill f => Sys2Proof.Machine.execVfill f s
  | .vpf f => Sys2Proof.Machine.execVpf f s
  | .spcfg f => Sys2Proof.Machine.execSpcfg f s
  | .vchPush f => Sys2Proof.Machine.execVchPush f s
  | .vchPop f => Sys2Proof.Machine.execVchPop f s
  | .xchPostRegister rd ra rb => Sys2Proof.Machine.execXchPostRegister rd ra rb s
  | .xchPostDeregister rd ra rb => Sys2Proof.Machine.execXchPostDeregister rd ra rb s
  | .tlbInvPasid ra rb => Sys2Proof.Machine.execTlbInvPasid ra rb s
  | .tlbInvAll ra rb => Sys2Proof.Machine.execTlbInvAll ra rb s
  | .rtUpdFlip rd ra => Sys2Proof.Machine.execRtUpdFlip rd ra s
  | .rtUpdQuery rd ra => Sys2Proof.Machine.execRtUpdQuery rd ra s
  | .snapArm rd ra => Sys2Proof.Machine.execSnapArm rd ra s
  | .snapStatus rd ra => Sys2Proof.Machine.execSnapStatus rd ra s
  | .yieldEnd ra => Sys2Proof.Machine.execYieldEnd ra s
  | .vslideUp f => Sys2Proof.Machine.execVslideUp f s
  | .vslideRot f => Sys2Proof.Machine.execVslideRot f s
  | .vbcastFib f => Sys2Proof.Machine.execVbcastFib f s
  | .tldP f => Sys2Proof.Machine.execTldP f s
  | .tpruneT f => Sys2Proof.Machine.execTpruneT f s
  | .fenceComplete ctx => Sys2Proof.Machine.execFenceComplete ctx s
  | .chPushResume ctx => Sys2Proof.Machine.execChPushResume ctx s
  | .chPopResume ctx => Sys2Proof.Machine.execChPopResume ctx s
  | .mxTokenComplete cluster share => Sys2Proof.Machine.execMxTokenComplete cluster share s
  | .xchSendGrant ctx => Sys2Proof.Machine.execXchSendGrant ctx s
  | .msWaitSatisfied ctx => Sys2Proof.Machine.execMsWaitSatisfied ctx s
  | .idleDeadline ctx => Sys2Proof.Machine.execIdleDeadline ctx s
  | .vchResume ctx => Sys2Proof.Machine.execVchResume ctx s
  | .convoyRetire ctx => Sys2Proof.Machine.execConvoyRetire ctx s
  | .agFiring cluster unit => Sys2Proof.Machine.execAgFiring cluster unit s
  | .routeFiring cluster unit => Sys2Proof.Machine.execRouteFiring cluster unit s
  | .mergeFiring cluster unit => Sys2Proof.Machine.execMergeFiring cluster unit s
  | .reorderFiring cluster unit => Sys2Proof.Machine.execReorderFiring cluster unit s
  | .packFiring cluster unit => Sys2Proof.Machine.execPackFiring cluster unit s
  | .unpackFiring cluster unit => Sys2Proof.Machine.execUnpackFiring cluster unit s
  | .commandChannelTake cluster unit => Sys2Proof.Machine.execCommandChannelTake cluster unit s
  | .chStall cluster ring => Sys2Proof.Machine.execChStall cluster ring s
  | .bpPassStart cluster share => Sys2Proof.Machine.execBpPassStart cluster share s
  | .bpPassEnd cluster share => Sys2Proof.Machine.execBpPassEnd cluster share s
  | .twiddleLoad cluster share => Sys2Proof.Machine.execTwiddleLoad cluster share s
  | .cpCommandStart cluster engine => Sys2Proof.Machine.execCpCommandStart cluster engine s
  | .cpCommandComplete cluster engine => Sys2Proof.Machine.execCpCommandComplete cluster engine s
  | .launchWindowStore window bytes => Sys2Proof.Machine.execLaunchWindowStore window bytes s
  | .rotationBoundary => Sys2Proof.Machine.execRotationBoundary s
  | .placement slot => Sys2Proof.Machine.execPlacement slot s
  | .preemptGraceExpiry ctx => Sys2Proof.Machine.execPreemptGraceExpiry ctx s
  | .preemptStop ctx => Sys2Proof.Machine.execPreemptStop ctx s
  | .responseSuccess group => Sys2Proof.Machine.execResponseSuccess group s
  | .invalidRequest group => Sys2Proof.Machine.execInvalidRequest group s
  | .responseFailure => Sys2Proof.Machine.execResponseFailure s
  | .priReenable => Sys2Proof.Machine.execPriReenable s
  | .atsInvalidation pasid va len => Sys2Proof.Machine.execAtsInvalidation pasid va len s
  | .hostCxlMemAccess pa write => Sys2Proof.Machine.execHostCxlMemAccess pa write s
  | .requestPacket first rest => Sys2Proof.Machine.execRequestPacket first rest s
  | .ackAccepted packet => Sys2Proof.Machine.execAckAccepted packet s
  | .ackVisible packet => Sys2Proof.Machine.execAckVisible packet s
  | .remoteNack packet refused => Sys2Proof.Machine.execRemoteNack packet refused s
  | .remoteTimeout packet => Sys2Proof.Machine.execRemoteTimeout packet s
  | .visibleAckTimeout packet => Sys2Proof.Machine.execVisibleAckTimeout packet s
  | .gloxelPortDown port => Sys2Proof.Machine.execGloxelPortDown port s
  | .linkDegrade port => Sys2Proof.Machine.execLinkDegrade port s
  | .phaseStart xset inst phase => Sys2Proof.Machine.execPhaseStart xset inst phase s
  | .calendarEnd xset inst => Sys2Proof.Machine.execCalendarEnd xset inst s
  | .exchangeArrival xset inst => Sys2Proof.Machine.execExchangeArrival xset inst s
  | .endMarkerArrival xset inst src dst => Sys2Proof.Machine.execEndMarkerArrival xset inst src dst s
  | .heartbeat xset => Sys2Proof.Machine.execHeartbeat xset s
  | .standbyTakeover xset => Sys2Proof.Machine.execStandbyTakeover xset s
  | .generationAnnouncement xset inst member => Sys2Proof.Machine.execGenerationAnnouncement xset inst member s
  | .qcmdEnd ctx => Sys2Proof.Machine.execQcmdEnd ctx s
  | .qcmdSaveAndRelease ctx => Sys2Proof.Machine.execQcmdSaveAndRelease ctx s
  | .qcmdEndGang ctx => Sys2Proof.Machine.execQcmdEndGang ctx s
  | .qcmdRespawn ctx => Sys2Proof.Machine.execQcmdRespawn ctx s
  | .qcmdClearBroken target => Sys2Proof.Machine.execQcmdClearBroken target s
  | .qcmdReplaceCluster cluster => Sys2Proof.Machine.execQcmdReplaceCluster cluster s
  | .queueConfigWrite queue off value => Sys2Proof.Machine.execQueueConfigWrite queue off value s
  | .milestoneHostWrite off value => Sys2Proof.Machine.execMilestoneHostWrite off value s
  | .hotnessReadClear off => Sys2Proof.Machine.execHotnessReadClear off s
  | .faultQueueEnable value => Sys2Proof.Machine.execFaultQueueEnable value s
  | .fqHeadWrite value => Sys2Proof.Machine.execFqHeadWrite value s
  | .mmioRegisterWrite off value => Sys2Proof.Machine.execMmioRegisterWrite off value s
  | .powerStateRequest p => Sys2Proof.Machine.execPowerStateRequest p s
  | .hbmSelfRefresh stk => Sys2Proof.Machine.execHbmSelfRefresh stk s
  | .clusterGate gates => Sys2Proof.Machine.execClusterGate gates s
  | .thermalTrip => Sys2Proof.Machine.execThermalTrip s
  | .thermalTripClear => Sys2Proof.Machine.execThermalTripClear s
  | .deviceReset => Sys2Proof.Machine.execDeviceReset s
  | .powerOn => Sys2Proof.Machine.execPowerOn s
  | .recoveryImage img => Sys2Proof.Machine.execRecoveryImage img s
  | .advanceRollbackCounter version => Sys2Proof.Machine.execAdvanceRollbackCounter version s
  | .getVersion => Sys2Proof.Machine.execGetVersion s
  | .getCapabilities => Sys2Proof.Machine.execGetCapabilities s
  | .negotiateAlgorithms => Sys2Proof.Machine.execNegotiateAlgorithms s
  | .getDigests => Sys2Proof.Machine.execGetDigests s
  | .getCertificate => Sys2Proof.Machine.execGetCertificate s
  | .challenge => Sys2Proof.Machine.execChallenge s
  | .getMeasurements => Sys2Proof.Machine.execGetMeasurements s
  | .keyExchange => Sys2Proof.Machine.execKeyExchange s
  | .finish => Sys2Proof.Machine.execFinish s
  | .mgmtTemperature => Sys2Proof.Machine.execMgmtTemperature s
  | .mgmtPower => Sys2Proof.Machine.execMgmtPower s
  | .mgmtRasSummary => Sys2Proof.Machine.execMgmtRasSummary s
  | .nameFabricManager plane endpoint => Sys2Proof.Machine.execNameFabricManager plane endpoint s
  | .snapIn => Sys2Proof.Machine.execSnapIn s
  | .snapshotMessage time tag => Sys2Proof.Machine.execSnapshotMessage time tag s
  | .snapshotLatch => Sys2Proof.Machine.execSnapshotLatch s
  | .snapOutEnd => Sys2Proof.Machine.execSnapOutEnd s
  | .uncorrectableError site => Sys2Proof.Machine.execUncorrectableError site s
  | .correctedError site => Sys2Proof.Machine.execCorrectedError site s
  | .rtUpdReply ctx => Sys2Proof.Machine.execRtUpdReply ctx s
  | .flipReachesIngress plane ver => Sys2Proof.Machine.execFlipReachesIngress plane ver s
  | .invalidationCompletion => Sys2Proof.Machine.execInvalidationCompletion s
  | .powerStateChange => Sys2Proof.Machine.execPowerStateChange s
  | .ready => Sys2Proof.Machine.execReady s
  | .portRepair port => Sys2Proof.Machine.execPortRepair port s
  | .laneRepair cluster lane => Sys2Proof.Machine.execLaneRepair cluster lane s
  | .counterWrap block counter => Sys2Proof.Machine.execCounterWrap block counter s

end Sys2Proof.Machine
end

