-- ==== Sys2Proof/Machine/Fetch.lean ====
section
/-! DEFINITION. Fetching, decoding and opening what a context executes next, and placing a word where it is fetched (R22,
R78, R79, R98 to R100, R461). -/

namespace Sys2Proof.Machine

/-! ## Fetch (R78, R79) -/

/-- Fetches the parcel at a virtual address; one of another endpoint's memory travels in a packet, when its plane takes
packets (R389). -/
def State.fetchWord (s : State) (c : Ctx) (va : Nat) : Res Nat :=
  (s.translate c 2 (c.noMmio 2 va) va).andThen fun pa s' =>
    if s'.asleep pa || (s'.remotePa pa && s'.planeHeld pa) then .wait s'.block
    else match (if s'.remotePa pa then s'.refusal pa else none) with
    | some r => .trap (nackOf va r) s'
    | none =>
      let t := if s'.remotePa pa then s'.sendPacket 256 0 false false 15 [{ elem := 0, va := va, pa := pa }] else s'
      if s'.memPoison.contains (s'.cell pa / 8) then .trap (trapOf causeMemPoison 0 (BitVec.ofNat 64 (va / 64 * 64))) t
      else .ok (leNat (s'.readPhys pa 4)) t

/-- Fetches n parcels one after another. -/
def State.fetchWords (c : Ctx) : Nat → Nat → State → Res (List Nat)
  | 0, _, s => .ok [] s
  | n + 1, va, s =>
    (s.fetchWord c (va % 2 ^ 64)).andThen fun w s' =>
      (State.fetchWords c n (va + 4) s').andThen fun l s'' => .ok (w :: l) s''

/-- The bytes of the instruction or the whole convoy at the PC. -/
def State.fetchBytes (s : State) (c : Ctx) : Res (List Byte) :=
  (s.fetchWord c c.pc.toNat).andThen fun h s' =>
    let n := if h % 4 = 3 then 2 * convoyCount h else 0
    (State.fetchWords c n (c.pc.toNat + 4) s').andThen fun l s'' => .ok ((h :: l).flatMap (leBytes 4)) s''

/-! ## What a context executes next -/

/-- A fetch's result: an instruction to execute in a state, or the state in which the context traps or waits. -/
inductive Fetched where
  | run (i : Instr) (s : State)
  | stop (s : State)

/-- Opens a decoded convoy whose slots pass step 4 of R99: its first slot executes. -/
def State.openConvoy (s : State) (cv : ConvoyCode) : Fetched :=
  let c := s.me
  let l := cv.slots.map Prod.snd
  match s.convoyCheck c l with
  | some (cause, sub, k) => .stop (s.trapSlot cause sub k ((cv.slots.map Prod.fst).getD k 0))
  | none =>
    match c.slotsOff l, l with
    | some t, _ => .stop (s.enterTrap s.cur t c.pc)
    | none, i :: _ => .run i (s.setMe { c with atWaypoint := false, viq := [c.capture (4 + 8 * l.length) cv.waypoint l] })
    | none, [] => .stop s

/-- What the current context does with the bytes at its PC. -/
def State.decodeAt (s : State) (l : List Byte) : Fetched :=
  match decodeBytes l with
  | .scalar i => .run i (s.setMe { s.me with atWaypoint := false })
  | .convoy cv => s.openConvoy cv
  | .trap t => .stop (s.trap (BitVec.ofNat 8 t.cause) t.sub (BitVec.ofNat 64 t.word))

/-- The address behind the convoys in the VIQ. -/
def Ctx.tailPc (c : Ctx) : Word :=
  match (c.viq ++ c.queued).getLast? with
  | some cv => cv.epc + BitVec.ofNat 64 cv.size
  | none => c.pc

/-- Entries of the VIQ in use (R21). -/
def Ctx.viqUsed (c : Ctx) : Nat := c.viq.length + c.queued.length

/-- The convoy that follows those in the VIQ, where it can be fetched and passes its checks, captured with the values in
force behind them: VSTART is then 0 (R22, R23) (log entry 22). -/
def State.convoyNext (s : State) (n : Nat) : Option (Convoy × State) :=
  let c := { s.ctxAt n with pc := (s.ctxAt n).tailPc, vstart := 0 }
  if c.mode ≠ .resident ∨ c.viqUsed = 0 then none
  else match s.fetchBytes c with
    | .ok l s' => match decodeBytes l with
      | .convoy cv =>
        let l := cv.slots.map Prod.snd
        if (s'.convoyCheck c l).isNone && (c.slotsOff l).isNone then
          some (c.capture (4 + 8 * l.length) cv.waypoint l, s')
        else none
      | _ => none
    | _ => none

/-- The same, where the VIQ has a free entry of its 64. -/
def State.queueNext (s : State) (n : Nat) : Option (Convoy × State) :=
  if (s.ctxAt n).viqUsed < 64 then s.convoyNext n else none

/-- The driver places the convoy that follows in the VIQ. -/
def State.enqueue (s : State) (n : Nat) : State :=
  match s.queueNext n with
  | some (cv, t) => t.setCtx n { t.ctxAt n with queued := (t.ctxAt n).queued ++ [cv] }
  | none => s

/-- What the current context executes: the next slot of its open convoy, the first of the next one in the VIQ, or what it
fetches. -/
def State.fetchNext (s : State) : Fetched :=
  let c := s.me
  match c.viq with
  | cv :: _ => match cv.todo with
    | i :: _ => .run i s
    | [] => .stop s
  | [] => match c.queued with
    | cv :: rest =>
      let s := s.setMe { c with atWaypoint := false, viq := [cv], queued := rest }
      (match cv.todo with | i :: _ => .run i s | [] => .stop s)
    | [] => match s.fetchBytes c with
      | .ok l s' => s'.decodeAt l
      | .trap t s' => .stop (s.finish (.trap t s'))
      | .ask q s' => .stop (s.finish (.ask q s'))
      | .wait s' => .stop s'

/-! ## Placing a word (log entry 21) -/

/-- A format of five 9-bit levels over 4 KiB pages with every permission granted. -/
def flatFormat : PteFormat :=
  { levels := 5, gran := 12, iw := [9, 9, 9, 9, 9], leafok := 0x1E, lfb := 1, lfp := true, llchk := false, llp := false
    pres := 0, read := 128, write := 128, user := 128, acc := 128, dirty := 128, noex := 128, al := 12, ah := 51, ash := 12
    out := true, aupd := false, dupd := false, hier := false, pri := false }

/-- A cached translation of the lowest 2^39 virtual bytes to the same physical addresses. -/
def flatEntry (c : Ctx) : TlbEntry :=
  { pasid := c.pasid, ptroot := c.ptroot, desc := flatFormat, page := 0, size := 39, out := 0, pr := true, pw := true
    px := true, pu := true, acc := true, dirty := true, level := 1 }

/-- Context 0 as a strand on cluster 0 that stands at address 0. -/
def Ctx.placed (c : Ctx) : Ctx :=
  { c with mode := .resident, wait := none, viq := [], queued := [], remote := .idle, async := [], preemptDue := none, pc := 0
           vspan := spanWord 3 true 0 0 128, vlmax := 8192, desc := some flatFormat }

/-- Bytes at address 0, and context 0 about to fetch them. -/
def State.placeBytes (s : State) (l : List Byte) : State :=
  let c := (s.ctxAt 0).placed
  let s : State := { s with agenda := [.issue 0], issued := [], lastCtx := [], tlbs := smPut sDie (flatEntry c :: smGet [] s.tlbs sDie) s.tlbs, ctl := { s.ctl with hbmsr := 0, qports := [] } }
  (s.setCtx 0 c).writePhys 0 l

end Sys2Proof.Machine
end

