-- ==== Sys2Proof/Machine/Events.lean ====
section
/-! DEFINITION. What happens next: the passing of time, asynchronous traps, the events of the package's units, and the
choice among them and the contexts that are ready (R21, R166, R308, R347, R348; log entry 2). -/

namespace Sys2Proof.Machine

/-- The rows of the table that are events and not instructions. -/
def isEvent : Instr → Bool
  | .fenceComplete _ | .chPushResume _ | .chPopResume _ | .mxTokenComplete _ _ | .xchSendGrant _ |
    .msWaitSatisfied _ | .idleDeadline _ | .vchResume _ | .convoyRetire _ | .agFiring _ _ | .routeFiring _ _ |
    .mergeFiring _ _ | .reorderFiring _ _ | .packFiring _ _ | .unpackFiring _ _ | .commandChannelTake _ _ |
    .chStall _ _ | .bpPassStart _ _ | .bpPassEnd _ _ | .twiddleLoad _ _ | .cpCommandStart _ _ |
    .cpCommandComplete _ _ | .launchWindowStore _ _ | .rotationBoundary | .placement _ | .preemptGraceExpiry _ |
    .preemptStop _ | .responseSuccess _ | .invalidRequest _ | .responseFailure | .priReenable |
    .atsInvalidation _ _ _ | .hostCxlMemAccess _ _ | .requestPacket _ _ | .ackAccepted _ | .ackVisible _ |
    .remoteNack _ _ | .remoteTimeout _ | .visibleAckTimeout _ | .gloxelPortDown _ | .linkDegrade _ |
    .phaseStart _ _ _ | .calendarEnd _ _ | .exchangeArrival _ _ | .endMarkerArrival _ _ _ _ | .heartbeat _ |
    .standbyTakeover _ | .generationAnnouncement _ _ _ | .qcmdEnd _ | .qcmdSaveAndRelease _ | .qcmdEndGang _ |
    .qcmdRespawn _ | .qcmdClearBroken _ | .qcmdReplaceCluster _ | .queueConfigWrite _ _ _ |
    .milestoneHostWrite _ _ | .hotnessReadClear _ | .faultQueueEnable _ | .fqHeadWrite _ |
    .mmioRegisterWrite _ _ | .powerStateRequest _ | .hbmSelfRefresh _ | .clusterGate _ | .thermalTrip |
    .thermalTripClear | .deviceReset | .powerOn | .recoveryImage _ | .advanceRollbackCounter _ | .getVersion |
    .getCapabilities | .negotiateAlgorithms | .getDigests | .getCertificate | .challenge | .getMeasurements |
    .keyExchange | .finish | .mgmtTemperature | .mgmtPower | .mgmtRasSummary | .nameFabricManager _ _ | .snapIn |
    .snapshotMessage _ _ | .snapshotLatch | .snapOutEnd | .uncorrectableError _ | .correctedError _ |
    .rtUpdReply _ | .flipReachesIngress _ _ | .invalidationCompletion | .powerStateChange | .ready |
    .portRepair _ | .laneRepair _ _ | .counterWrap _ _ => true
  | _ => false

/-! ## Time (R146, R310, R419) -/

/-- The PASIDs of the tokens that stream on a cluster in a cycle (R227). -/
def State.streaming (s : State) (k : Cluster) (cycle : Nat) : List Word :=
  (k.nodes.flatMap fun n => n.2.fifo.filter fun t =>
    decide (t.doneAt - t.stream.2 - t.stream.1 ≤ cycle) && decide (cycle < t.doneAt - t.stream.2)).map fun t =>
      ((s.strandCtx t.sid).map Ctx.pasid).getD 0

/-- The PASIDs of the passes that run on a cluster. -/
def State.passing (s : State) (k : Cluster) : List Word :=
  k.pipes.filterMap fun p => match p.2.running, p.2.fifo with
    | some _, .pass _ _ _ n _ _ _ _ _ _ _ _ _ _ _ :: _ => some (s.ctxAt n).pasid
    | _, _ => none

/-- Counts k cycles that have passed (R419): CYCLES; on each cluster those in which a token streams, a pass runs, or a
production waits only on free slots; the contexts blocked in ms.wait on its milestones; and those whose next convoy finds
the VIQ full. -/
def State.countCycles (s : State) (k : Nat) : State :=
  if s.perf.isEmpty then s
  else
    let some1 := fun (s : State) (cl code : Nat) (l : List Word) => if l.isEmpty then s else s.perfCountOf cl code l k
    let full := s.pending
    let s := (List.range 73).foldl (fun s b => s.perfCount b 0x01 none k) s
    let s := s.ctxs.foldl (fun s e => match e.2.wait with
      | some (.msWait n _) => if n.pkg then s else s.perfCount e.2.firstCl 0x0A (some e.2.pasid) k
      | _ => s) s
    let s := s.ctxs.foldl (fun s e =>
      if e.2.viqUsed < 64 ∨ (s.convoyNext e.1).isNone = true then s else s.perfCount 72 0x61 (some e.2.pasid) k) s
    s.clusters.foldl (fun s e =>
      let s := some1 s e.1 0x05 (s.streaming e.2 (s.cycle - k))
      let s := some1 s e.1 0x07 (s.passing e.2)
      some1 s e.1 0x09 ((full.filter fun q => decide (q.1 = e.1)).map fun q => (s.ctxAt q.2.2.1).pasid)) s

/-- A core clock cycle begins: every driver may issue, every actor may be granted. -/
def State.newCycle (s : State) : State :=
  { s with
    issued := []
    clusters := s.clusters.map fun k => (k.1, if k.2.granted.isEmpty then k.2 else { k.2 with granted := [] }) }

/-- Core clock cycles pass, and the stall measurements are looked at. -/
def State.tick (s : State) (k : Nat) : State :=
  if k = 0 then s
  else
    let s : State := { s with cycle := s.cycle + k, ticks := s.ticks + k * s.cycleTicks }
    (s.newCycle.countCycles k).markStalls

/-! ## Asynchronous traps (R166, R348, R357) -/

/-- The waits of R166, and the wait for the host. -/
def Ctx.blocked (c : Ctx) : Bool :=
  decide (c.mode = .descheduled) ||
  (match c.wait with
   | some (.fence _) | some (.chPush _ _ _) | some (.chPop _ _ _) | some .vch | some (.msWait _ _) | some (.xchSend _ _)
   | some (.rtUpd _) => true
   | _ => false)

/-- The due trap that a context takes now, and the others (log entry 74). -/
def Ctx.nextAsync (c : Ctx) : Option (TrapInfo × List TrapInfo) :=
  let take := fun (ok : TrapInfo → Bool) => (c.async.find? ok).map fun t => (t, c.async.erase t)
  match c.wait with
  | some (.vpart _) | some .remote => none
  | some (.fence _) => take fun t => !(t.cause == causeRemoteTimeout && t.sub == 2)
  | some (.idle _) => take fun _ => true
  | _ => if c.blocked || c.between then take fun _ => true else none

/-- PREEMPT falls to a context now, with subcode 0. -/
def Ctx.preemptNow (c : Ctx) : Bool :=
  c.preemptDue.isSome &&
  (c.blocked || (match c.wait with
    | some (.idle _) | some (.vpart _) => true
    | none => c.atWaypoint && c.between
    | _ => false))

/-- The state in which a context has taken the asynchronous trap that it takes now, if there is one: the due trap that is
oldest, then PREEMPT with subcode 0, or with subcode 1 after the grace period (log entry 74). -/
def State.asyncNow (s : State) (n : Nat) : Option State :=
  let c := s.ctxAt n
  if c.ex || !(decide (c.mode = .resident) || decide (c.mode = .descheduled)) then none
  else match c.nextAsync with
  | some (t, l) =>
    let c := { c with async := l }
    let c := match c.wait with | some (.idle _) => { c with wait := none }.advance | _ => c
    some ((s.setCtx n c).enterTrap n t c.pc)
  | none =>
    if c.preemptNow then some (s.takePreempt n 0 c.pc)
    else match c.graceEnd with
    | some t => if t ≤ s.ticks ∧ c.mode = .resident ∧ c.between = true then some (s.takePreempt n 1 c.pc) else none
    | none => none

/-- A context takes an asynchronous trap that is due. -/
def State.takeAsync (n : Nat) (s : State) : Host.Outcome State Fault Refusal := .next ((s.asyncNow n).getD s)

/-! ## Events that may happen now -/

/-- An event as what it does; one that is not due leaves the state as it is. -/
abbrev Event := State → Host.Outcome State Fault Refusal

/-- The events of a context. -/
def ctxEvents (e : Nat × Ctx) : List Event :=
  let n := e.1
  let c := e.2
  (if c.async.isEmpty && c.preemptDue.isNone then [] else [State.takeAsync n]) ++
  (match c.wait with
   | some (.fence _) => [execFenceComplete n]
   | some (.chPush _ _ _) => [execChPushResume n]
   | some (.chPop _ _ _) => [execChPopResume n]
   | some .vch => [execVchResume n]
   | some (.msWait _ _) => [execMsWaitSatisfied n]
   | some (.idle _) => [execIdleDeadline n]
   | some (.xchSend _ _) => [execXchSendGrant n]
   | some (.rtUpd _) => [execRtUpdReply n]
   | _ => []) ++
  (match c.viq with | cv :: _ => if cv.todo.isEmpty then [execConvoyRetire n] else [] | [] => []) ++
  (if c.preemptDue.isSome then [execPreemptGraceExpiry n] else []) ++
  (if c.preemptEntry.isSome then [execPreemptStop n] else [])

/-- The firing of a junction. -/
def jnEventOf (cl u : Nat) (k : JnKind) : Event :=
  match k with
  | .route => execRouteFiring cl u
  | .merge => execMergeFiring cl u
  | .reorder => execReorderFiring cl u
  | .pack => execPackFiring cl u
  | .unpack => execUnpackFiring cl u

/-- The actors of a cluster with their events, by number. -/
def clusterActors (cl : Nat) (k : Cluster) : List (Nat × Event) :=
  (k.ags.map fun g => (g.1, execAgFiring cl g.1)) ++ (k.jns.map fun j => (24 + j.1, jnEventOf cl j.1 j.2.kind)) ++
    (k.pipes.flatMap fun p => if p.2.fires then [(40, execBpPassEnd cl p.1), (40, execBpPassStart cl p.1)] else []) ++
    (if k.nodeCmd.isSome then [(41, execCommandChannelTake cl 41)] else []) ++
    (k.copyCmd.map fun c => (c.1, execCommandChannelTake cl c.1))

/-- The scan of R308: from one past the last actor granted. -/
def scanFrom (last : Nat) (l : List (Nat × Event)) : List (Nat × Event) :=
  (l.filter fun p => decide (last < p.1)) ++ l.filter fun p => decide (p.1 ≤ last)

/-- The actors of a cluster in the order of the scan. -/
def actorEvents (cl : Nat) (k : Cluster) : List Event := (scanFrom k.lastActor (clusterActors cl k)).map Prod.snd

/-- The events of a cluster's units. -/
def clusterEvents (e : Nat × Cluster) : List Event :=
  let cl := e.1
  let k := e.2
  (k.nodes.flatMap fun n => if n.2.fifo.isEmpty then [] else [execMxTokenComplete cl n.1]) ++
  (k.pipes.flatMap fun p => if p.2.fifo.isEmpty then [] else
    (if p.2.fires then [] else [execBpPassEnd cl p.1, execBpPassStart cl p.1]) ++ [execTwiddleLoad cl p.1]) ++
  (k.copies.flatMap fun c => if c.2.fifo.isEmpty && c.2.active.isNone then [] else
    [execCpCommandComplete cl c.1, execCpCommandStart cl c.1]) ++
  actorEvents cl k ++
  (k.rings.flatMap fun r => match r.2.stall with | .since _ => [execChStall cl r.1] | _ => [])

/-- The actor of a firing event. -/
def actorOf : Instr → Option (Nat × Nat)
  | .agFiring cl u => some (cl, u)
  | .routeFiring cl u | .mergeFiring cl u | .reorderFiring cl u | .packFiring cl u | .unpackFiring cl u => some (cl, 24 + u)
  | .commandChannelTake cl u => some (cl, u)
  | .bpPassStart cl _ | .bpPassEnd cl _ => some (cl, 40)
  | _ => none

/-- No actor that the scan meets before an actor is ready. -/
def State.scanReaches (s : State) (cl a : Nat) : Bool :=
  let k := s.clAt cl
  ((scanFrom k.lastActor (clusterActors cl k)).takeWhile fun p => decide (p.1 ≠ a)).all fun p =>
    match p.2 s with | .next t => decide (t = s) | _ => false

/-- The heartbeats of a set whose primary is here, and the takeover of a standby that hears none (R402). -/
def failoverEvents (endpoint : Nat) (e : Nat × XSet) : List Event :=
  if e.2.standby.isNone then []
  else (if e.2.primary = endpoint then [fun s => if s.time < e.2.lastBeat + 2000 then .next s else execHeartbeat e.1 s] else []) ++
    [execStandbyTakeover e.1]

/-- The events of an exchange set. -/
def xsetEvents (e : Nat × XSet) : List Event :=
  e.2.insts.flatMap fun i =>
    (if i.2.flight.isEmpty then [] else [execExchangeArrival e.1 i.1]) ++
    (i.2.markers.map fun m => execEndMarkerArrival e.1 i.1 m.1 m.2) ++
    (i.2.members.flatMap fun m => if m.2.announced then [] else [execGenerationAnnouncement e.1 i.1 m.1]) ++
    ((List.range i.2.phases.length).map fun k => execPhaseStart e.1 i.1 k) ++
    (if i.2.calendar then [execCalendarEnd e.1 i.1] else []) ++
    (if i.2.calendar && i.2.members.any fun m => !m.2.told && decide (m.2.state = .posted) then [fun t => .next t.tellAll] else [])

/-- The events of the fabric's side of the package (log entry 73). -/
def gloxEvents (s : State) : List Event :=
  (s.glox.flips.flatMap fun f => f.2.head?.toList.map fun v => execFlipReachesIngress f.1 v) ++
  (s.glox.packets.flatMap fun p => [execRemoteTimeout p.num, execVisibleAckTimeout p.num]) ++
  (if s.invals.isEmpty then [] else [execInvalidationCompletion])

/-- Commands of QCMD that wait. -/
def qcmdEvents (s : State) : List Event :=
  s.ctl.qports.flatMap fun p => if p.2.busy then [fun t => .next (t.qStep p.1)] else []

/-- Boot, power, snapshots and counters. -/
def controlEvents (s : State) : List Event :=
  (if s.ctl.boot = 0 then [fun t => .next t.rom] else if s.ctl.boot = 1 then [execReady] else []) ++
  (if s.ctl.pstate = s.ctl.reqP then [] else [execPowerStateChange]) ++
  (if s.snap.pending.isSome then [execSnapshotLatch] else []) ++
  (if s.snap.pinOut.isSome then [execSnapOutEnd] else []) ++
  (if s.waiting.isEmpty then [] else [fun t => .next t.wakeWrite]) ++
  (if s.fq.isEmpty then [] else [fun t => .next (State.fqFlush 256 t)])

/-- The events of the placement unit. -/
def placementEvents (s : State) : List Event :=
  [fun t => .next t.serveSlots] ++ (if s.boundary < s.boundaries then [execRotationBoundary] else [])

/-- Every event that may be due, in the order in which they are tried; a context that a queue command holds has none. -/
def State.events (s : State) : List Event :=
  controlEvents s ++ qcmdEvents s ++ (s.ctxs.filter fun e => !s.qHolds e.1).flatMap ctxEvents ++
  s.clusters.flatMap clusterEvents ++ s.xsets.flatMap (failoverEvents s.glox.endpoint) ++
  s.xsets.flatMap xsetEvents ++ gloxEvents s ++ placementEvents s

/-- The state after the first event that changes it. -/
def State.firstChange (s : State) : List Event → Option State
  | [] => none
  | f :: l => match f s with
    | .next t => if t = s then s.firstChange l else some t
    | _ => s.firstChange l

/-! ## Issue (R21, R34) -/

/-- A context may issue any instruction: it waits for nothing and its VIQ is empty. -/
def Ctx.ready (c : Ctx) : Bool := decide (c.mode = .resident) && c.wait.isNone && decide (c.viqUsed = 0)

/-- A context has a next instruction to issue: any, or with convoys in its VIQ a convoy for which there is room. -/
def State.issues (s : State) (n : Nat) : Bool := ((s.ctxAt n).ready || (s.queueNext n).isSome) && !s.qHolds n

/-- A context's open convoy has slots to run, or its next one can begin. -/
def State.slotReady (s : State) (n : Nat) : Bool :=
  let c := s.ctxAt n
  decide (c.mode = .resident) && c.wait.isNone &&
    (match c.viq with | cv :: _ => !cv.todo.isEmpty | [] => !c.queued.isEmpty && !s.qHolds n)

/-- The context that a driver issues from: round-robin among those that may issue, from one past the last that did. -/
def State.pick (s : State) (d : Nat) : Option Nat :=
  let last := smGet 3 s.lastCtx d
  ((List.range 4).map fun i => 4 * d + (last + 1 + i) % 4).find? s.issues

/-- The first driver that has not issued in this cycle and has a context that may issue. -/
def State.nextDriver (s : State) : Option Nat :=
  ((s.ctxs.filter fun e => s.issues e.1).map fun e => e.1 / 4).find? fun d => !s.issued.contains d

/-- What a step does: an instruction or event in a state, a next state, or the stop of a driver number that does not
exist. -/
inductive Act where
  | run (i : Instr) (s : State)
  | go (s : State)
  | noContext

/-- A context executes what it fetches, or the next slot of its convoy. -/
def State.executes (s : State) (n : Nat) : Act :=
  match ({ s with cur := n } : State).fetchNext with
  | .run i t => .run i t
  | .stop t => .go t

/-- A driver issues from a context: an asynchronous trap that is due comes first (R166), and with convoys in the VIQ the
next one joins them (R21). -/
def State.issueFrom (s : State) (d n : Nat) : Act :=
  match s.asyncNow n with
  | some t => .go t
  | none =>
    let t := ({ s with issued := nsAdd d s.issued, lastCtx := smPut d (n % 4) s.lastCtx } : State).perfCount 72 0x60
      (some (s.ctxAt n).pasid) 1
    if (s.ctxAt n).viqUsed = 0 then t.executes n else .go (t.enqueue n)

/-- A driver issues, at most once in a cycle. -/
def State.issue (s : State) (d : Nat) : Act :=
  if 64 ≤ d then .noContext
  else if s.issued.contains d then .go s
  else match s.pick d with
  | some n => s.issueFrom d n
  | none => .go s

/-- An instruction that waits for room or completion is tried again: what it comes to, with the context that issued last
as before; nothing where it still waits. It takes no issue cycle. -/
def State.retry (ex : Instr → State → Host.Outcome State Fault Refusal) (n : Nat) : Event := fun s =>
  let back := fun (t : State) => ({ t with cur := s.cur } : State)
  match (s.setCtx n { s.ctxAt n with wait := none }).executes n with
  | .run i t => (match ex i t with
    | .next u =>
      let same := decide ((u.ctxAt n).wait = some .engine) && decide ((u.ctxAt n).pc = (s.ctxAt n).pc) &&
        decide ((u.ctxAt n).viq = (s.ctxAt n).viq)
      .next (if same then s else back u)
    | .fault r => .fault r
    | .refused r => .refused r)
  | .go t => .next (back t)
  | .noContext => .next s

/-- The contexts that wait for room or completion. -/
def State.retries (s : State) (ex : Instr → State → Host.Outcome State Fault Refusal) : List Event :=
  (s.ctxs.filter fun e => decide (e.2.mode = .resident) && decide (e.2.wait = some .engine) && !s.qHolds e.1).map fun e =>
    State.retry ex e.1

/-- What happens without the agenda: an event of the package, the next slot of an open convoy, an instruction that waits no
longer, or a driver's issue; `none` where only time can pass. -/
def State.busy (s : State) (ex : Instr → State → Host.Outcome State Fault Refusal) : Option Act :=
  match s.firstChange s.events with
  | some t => some (.go t)
  | none => match s.ctxs.find? fun e => s.slotReady e.1 with
    | some e => some (s.executes e.1)
    | none => match s.firstChange (s.retries ex) with
      | some t => some (.go t)
      | none => s.nextDriver.map s.issue

/-- What the head of the agenda asks for; a firing is granted where the scan reaches its actor. -/
def State.perform (s : State) : Agendum → Act
  | .event i =>
    if !isEvent i then .go s
    else match actorOf i with
    | some (cl, a) => if s.scanReaches cl a then .run i s else .go s
    | none => .run i s
  | .outside o => .go (s.outside o)
  | .issue d => s.issue d
  | .tick _ => .go s
  | .evict k n =>
    .go (if k < 128 then { s with tlbs := smPut k ((smGet [] s.tlbs k).eraseIdx n) s.tlbs }
      else { s with walks := smPut (k - 128) ((smGet [] s.walks (k - 128)).eraseIdx n) s.walks })
  | .perform num view => .go (s.performOne num view)
  | .lag l => .go { s with lags := l }
  | .clean line => .go (s.cleanLine line)

/-- What happens next: the agenda's head, else what the package does by itself, else a cycle passes. An agendum `tick k`
lets k cycles pass, in which the package goes on. -/
def State.act (s : State) (ex : Instr → State → Host.Outcome State Fault Refusal) : Act :=
  match s.agenda with
  | [] => (s.busy ex).getD (.go (s.tick 1))
  | .tick 0 :: l => .go { s with agenda := l }
  | .tick (k + 1) :: l => (s.busy ex).getD (.go (({ s with agenda := .tick k :: l } : State).tick 1))
  | a :: l => ({ s with agenda := l } : State).perform a

end Sys2Proof.Machine
end

