-- ==== Sys2Proof/Machine/Step.lean ====
section
/-! DEFINITION. One step of the machine, and the placing of a word where the next step fetches it. -/

namespace Sys2Proof.Machine

/-- One step: an instruction of a context, an event, or a cycle without either (log entry 22). -/
def step (s : State) : Host.Outcome State Fault Refusal :=
  match s.act exec with
  | .run i t => exec i t
  | .go t => .next t
  | .noContext => .fault .noSuchContext

/-- The instruction whose bits are w, followed by zeros, where context 0 fetches next. -/
def State.withFetchWord (s : State) (nbits w : Nat) : State := s.placeBytes (leBytes 40 (w % 2 ^ nbits))

end Sys2Proof.Machine
end

