-- ==== Sys2Proof/Safety.lean ====
section
/-! DEFINITION. What counts as a good state and a safe run, in the terms that the statements use: sparse tables in their
canonical form, instruction addresses aligned, and a step that goes on. -/

namespace Sys2Proof.Machine

/-- Every table of cells is in canonical form: keys strictly rising, no entry equal to what an unlisted cell reads as
(R243, R110, R139, R211, R213). -/
def State.canonical (s : State) : Bool :=
  Memory.wf s.mem && Memory.wf s.sp && Memory.wf s.twl && Memory.wf s.tiles &&
  smWf (0 : Nib) s.slices && smWf (0 : Word) s.preds && smWf (0 : Nib) s.idxs && smWf (0 : BitVec 40) s.accs

/-- A ring whose counters cover its consumers, whose slots lie in the scratchpad, and whose tags are in canonical form
(R299). -/
def Ring.sound (r : Ring) : Bool :=
  decide (r.free.length = r.cons) && decide (r.tokens.length = r.cons) && decide (r.ridx.length = r.cons) &&
  decide (r.base + r.slots * r.size ≤ 2 ^ 22) && smWf (0 : BitVec 2) r.tags

/-- Every table of machine parts lists its keys in rising order, every ring is sound, and a line cache holds dirty bytes of
host memory only (R243). -/
def State.keyed (s : State) : Bool :=
  smRising none s.ctxs && smRising none s.clusters && smRising none s.queues && smRising none s.slots &&
  smRising none s.home && (s.home.all fun e => decide (regionOf e.1 = 1)) && smRising none s.glox.flips &&
  smWf (0 : Word) s.perf &&
  smRising none s.xsets && smWf (0 : BitVec 16) s.glox.routes && smWf false s.glox.version &&
  smWf (0 : BitVec 32) s.glox.stamped && smWf (0 : Nat) s.glox.manager &&
  (s.clusters.all fun k => smRising none k.2.rings && k.2.rings.all fun r => r.2.sound) &&
  ((s.ctxs.map Prod.snd ++ s.parked).all fun c => smRising none c.chans)

/-- The instruction addresses that a context holds are multiples of 4: PC, STVEC and EPC (R79, R138, R148). -/
def Ctx.aligned (c : Ctx) : Bool :=
  decide (c.pc.toNat % 4 = 0) && decide (c.stvec.toNat % 4 = 0) && decide (c.epc.toNat % 4 = 0)

/-- MODQ is odd, at least 3 and below 2^30 (R143). -/
def Ctx.modulusOk (c : Ctx) : Bool :=
  decide (c.modq.toNat % 2 = 1) && decide (3 ≤ c.modq.toNat) && decide (c.modq.toNat < 2 ^ 30)

/-- Every context and driver that the machine may issue from next exists (R20). -/
def State.contextsExist (s : State) : Bool :=
  (s.ctxs.all fun e => decide (e.1 < 256)) && (s.agenda.all fun a => match a with | .issue d => decide (d < 64) | _ => true)

/-- A step is safe where it goes on: it neither stops nor refuses. -/
def State.goesOn (s : State) : Prop := ∃ t, step s = .next t

end Sys2Proof.Machine
end

