-- ==== Sys2Proof/Certificates/Slice0/Obligations.lean ====
section
/-! DEFINITION. The statements for the provers, from the numbered rules of the spec, and the words in which they speak. -/

namespace Sys2Proof.Claims

open Sys2Proof.Machine

/-! ## Words of the statements -/

/-- The context with a value written to X[r]; x0 discards it (R136). -/
def putReg (c : Ctx) (r : XReg) (v : Word) : Ctx :=
  { c with x := if r = 0 then c.x else c.x.set r.toNat v r.isLt }

/-- Sequential flow past a scalar parcel: PC moves on by 4 and RETIRED counts (R79, R146). -/
def onward (c : Ctx) : Ctx := { c with pc := c.pc + 4, retired := c.retired + 1 }

/-- The state with a register result and nothing else but the flow changed. -/
def wrote (s : State) (r : XReg) (v : Word) : State := s.setMe (onward (putReg s.me r v))

/-- A transfer to a target, with RETIRED counted. -/
def went (s : State) (c : Ctx) (t : Word) : State := s.setMe { c with pc := t, retired := c.retired + 1 }

/-- The context after the entry of a trap (R163): the trap CSRs, STATUS, PC, and whatever was under way is gone. -/
def entered (c : Ctx) (t : TrapInfo) (epc : Word) : Ctx :=
  { c with
    mode := .resident, viq := [], queued := [], wait := none, group := none, remote := .idle, inval := none
    cause := t.cause.setWidth 64, esub := t.sub.setWidth 64, epc := epc, eval := t.eval
    eelem := (match t.elem with | some k => BitVec.ofNat 64 k | none => c.eelem)
    status := (if c.status.getLsbD 0 then 7 else 5)
    frozenUnits := c.frozenUnits ++ t.unit.toList
    pc := c.stvec }

/-- The state after a context entered a trap, outside a handler: the entry is a fence of the strand alone (R294). -/
def trappedIn (s : State) (n : Nat) (t : TrapInfo) (epc : Word) : State :=
  let u := s.fenceAt n 0xFFFF 0
  u.setCtx n (entered (u.ctxAt n) t epc)

/-- The state after the current instruction trapped, outside a handler. -/
def trapped (s : State) (cause : BitVec 8) (sub : Nat) (eval : Word) : State :=
  trappedIn s s.cur (trapOf cause sub eval) s.me.pc

/-- The current instruction ends, and nothing changed but the flow. -/
def flowed (s : State) : State := s.setMe (onward s.me)

/-- Every byte of physical memory and of the scratchpads reads as before. -/
def sameBytes (s t : State) : Prop :=
  (∀ a, t.readByte a = s.readByte a) ∧ (∀ cl a, t.readSp cl a = s.readSp cl a)

/-- Bytes at a place, least significant first. -/
def littleEndian (s : State) (l : List Loc) : Nat := l.foldr (fun b n => (s.locByte b).toNat + 256 * n) 0

/-- A context runs outside a trap handler. -/
def plainMode (c : Ctx) : Prop := c.status.getLsbD 2 = false

end Sys2Proof.Claims

open Sys2Proof Sys2Proof.Machine Sys2Proof.Claims

/-! ## Scalar registers and arithmetic (R136, R150 to R155) -/

/-- R136, R10: a register written reads as written but for x0, which reads 0; every other register keeps its value. -/
def Obligations.RegisterFile : Prop :=
  ∀ (s : State) (r q : XReg) (v : Word),
    ((wrote s r v).me.reg r = if r = 0 then 0 else v) ∧
    (q ≠ r → (wrote s r v).me.reg q = s.me.reg q) ∧
    s.me.reg 0 = 0 ∧ State.reset.me.reg q = 0

/-- R150 to R152, R39, R40: every register and immediate form of the integer instructions completes with its result in
X[rd], and changes nothing else; the words of the counting instructions are those of their fn9. -/
def Obligations.ScalarIntegerResults : Prop :=
  (∀ (s : State) (rd ra rb : XReg),
     let a := s.me.reg ra
     let b := s.me.reg rb
     let n := b.toNat % 64
     let len := min (b.toNat / 64 % 128) 64
     exec (.add rd ra rb) s = .next (wrote s rd (a + b)) ∧
     exec (.sub rd ra rb) s = .next (wrote s rd (a - b)) ∧
     exec (.and rd ra rb) s = .next (wrote s rd (a &&& b)) ∧
     exec (.or rd ra rb) s = .next (wrote s rd (a ||| b)) ∧
     exec (.xor rd ra rb) s = .next (wrote s rd (a ^^^ b)) ∧
     exec (.andn rd ra rb) s = .next (wrote s rd (a &&& ~~~b)) ∧
     exec (.sll rd ra rb) s = .next (wrote s rd (BitVec.ofNat 64 (a.toNat * 2 ^ n))) ∧
     exec (.srl rd ra rb) s = .next (wrote s rd (BitVec.ofNat 64 (a.toNat / 2 ^ n))) ∧
     exec (.sra rd ra rb) s = .next (wrote s rd (BitVec.ofInt 64 (a.toInt / (2 ^ n : Nat)))) ∧
     exec (.slt rd ra rb) s = .next (wrote s rd (if a.toInt < b.toInt then 1 else 0)) ∧
     exec (.sltn rd ra rb) s = .next (wrote s rd (if a.toNat < b.toNat then 1 else 0)) ∧
     exec (.mul rd ra rb) s = .next (wrote s rd (BitVec.ofNat 64 (a.toNat * b.toNat))) ∧
     exec (.mulh rd ra rb) s = .next (wrote s rd (BitVec.ofInt 64 (a.toInt * b.toInt / (2 ^ 64 : Nat)))) ∧
     exec (.mulhn rd ra rb) s = .next (wrote s rd (BitVec.ofNat 64 (a.toNat * b.toNat / 2 ^ 64))) ∧
     exec (.div rd ra rb) s = .next (wrote s rd (if b = 0 then BitVec.allOnes 64 else BitVec.ofInt 64 (a.toInt.tdiv b.toInt))) ∧
     exec (.divn rd ra rb) s = .next (wrote s rd (if b = 0 then BitVec.allOnes 64 else BitVec.ofNat 64 (a.toNat / b.toNat))) ∧
     exec (.rem rd ra rb) s = .next (wrote s rd (if b = 0 then a else BitVec.ofInt 64 (a.toInt.tmod b.toInt))) ∧
     exec (.remn rd ra rb) s = .next (wrote s rd (if b = 0 then a else BitVec.ofNat 64 (a.toNat % b.toNat))) ∧
     exec (.min rd ra rb) s = .next (wrote s rd (if a.toInt ≤ b.toInt then a else b)) ∧
     exec (.max rd ra rb) s = .next (wrote s rd (if a.toInt ≤ b.toInt then b else a)) ∧
     exec (.minn rd ra rb) s = .next (wrote s rd (if a.toNat ≤ b.toNat then a else b)) ∧
     exec (.maxn rd ra rb) s = .next (wrote s rd (if a.toNat ≤ b.toNat then b else a)) ∧
     exec (.bext rd ra rb) s = .next (wrote s rd (BitVec.ofNat 64 (a.toNat / 2 ^ n % 2 ^ len))) ∧
     exec (.bins rd ra rb) s = .next (wrote s rd (BitVec.ofNat 64 (a.toNat % 2 ^ len * 2 ^ n)))) ∧
  (∀ (s : State) (rd ra : XReg) (imm : BitVec 14) (sh : BitVec 6),
     let a := s.me.reg ra
     let i := imm.signExtend 64
     let word := fun (fn9 : Nat) => 2 ^ 2 * 0x16 + 2 ^ 8 * rd.toNat + 2 ^ 13 * ra.toNat + 2 ^ 23 * fn9
     decodeTableWord 32 (word 0) = some (.clz rd ra) ∧ decodeTableWord 32 (word 1) = some (.ctz rd ra) ∧
     decodeTableWord 32 (word 2) = some (.popc rd ra) ∧
     (∃ n, n ≤ 64 ∧ a.toNat < 2 ^ (64 - n) ∧ (n < 64 → 2 ^ (63 - n) ≤ a.toNat) ∧
       exec (.clz rd ra) s = .next (wrote s rd (BitVec.ofNat 64 n))) ∧
     (∃ n, n ≤ 64 ∧ a.toNat % 2 ^ n = 0 ∧ (n < 64 → a.toNat / 2 ^ n % 2 = 1) ∧
       exec (.ctz rd ra) s = .next (wrote s rd (BitVec.ofNat 64 n))) ∧
     exec (.popc rd ra) s = .next (wrote s rd (BitVec.ofNat 64 (((List.range 64).filter fun k => a.getLsbD k).length))) ∧
     exec (.addi rd ra imm) s = .next (wrote s rd (a + i)) ∧
     exec (.andi rd ra imm) s = .next (wrote s rd (a &&& i)) ∧
     exec (.ori rd ra imm) s = .next (wrote s rd (a ||| i)) ∧
     exec (.xori rd ra imm) s = .next (wrote s rd (a ^^^ i)) ∧
     exec (.slli rd ra sh) s = .next (wrote s rd (BitVec.ofNat 64 (a.toNat * 2 ^ sh.toNat))) ∧
     exec (.srli rd ra sh) s = .next (wrote s rd (BitVec.ofNat 64 (a.toNat / 2 ^ sh.toNat))) ∧
     exec (.srai rd ra sh) s = .next (wrote s rd (BitVec.ofInt 64 (a.toInt / (2 ^ sh.toNat : Nat)))) ∧
     exec (.slti rd ra imm) s = .next (wrote s rd (if a.toInt < i.toInt then 1 else 0)) ∧
     exec (.sltni rd ra imm) s = .next (wrote s rd (if a.toNat < i.toNat then 1 else 0)))

/-- R153, R154: the words of lhi, lpc and jal, and what each does: lhi writes its immediate shifted, lpc an address
relative to its own, and jal the link, and goes to its target. -/
def Obligations.LongFormatInstructions : Prop :=
  ∀ (s : State) (rd : XReg) (far : BitVec 19),
    let word := fun (op6 : Nat) => 2 + 2 ^ 2 * op6 + 2 ^ 8 * rd.toNat + 2 ^ 13 * far.toNat
    let away := s.me.pc + BitVec.ofInt 64 (far.toInt * 4)
    decodeTableWord 32 (word 0x00) = some (.jal rd far) ∧
    decodeTableWord 32 (word 0x01) = some (.lhi rd far) ∧
    decodeTableWord 32 (word 0x02) = some (.lpc rd far) ∧
    exec (.lhi rd far) s = .next (wrote s rd (BitVec.ofInt 64 (far.toInt * 2 ^ 13))) ∧
    exec (.lpc rd far) s = .next (wrote s rd away) ∧
    exec (.jal rd far) s = .next (went s (putReg s.me rd (s.me.pc + 4)) away)

/-- R80, R155: the words of the branches, which transfer as their rules say and write nothing; jr writes the link and
computes its target from the old register, and a target that is no multiple of 4 traps with nothing written. -/
def Obligations.ControlTransfers : Prop :=
  ∀ (s : State) (rd ra rb : XReg) (imm : BitVec 14),
    let c := s.me
    let a := c.reg ra
    let b := c.reg rb
    let target := c.pc + BitVec.ofInt 64 (imm.toInt * 4)
    let next := c.pc + 4
    let t := a + imm.signExtend 64
    let word := fun (op6 : Nat) => 1 + 2 ^ 2 * op6 + 2 ^ 8 * ra.toNat + 2 ^ 13 * rb.toNat + 2 ^ 18 * imm.toNat
    decodeTableWord 32 (word 0x20) = some (.beq ra rb imm) ∧ decodeTableWord 32 (word 0x21) = some (.bne ra rb imm) ∧
    decodeTableWord 32 (word 0x22) = some (.blt ra rb imm) ∧ decodeTableWord 32 (word 0x23) = some (.bge ra rb imm) ∧
    decodeTableWord 32 (word 0x24) = some (.bltn ra rb imm) ∧ decodeTableWord 32 (word 0x25) = some (.bgen ra rb imm) ∧
    (t.toNat % 4 = 0 → exec (.jr rd ra imm) s = .next (went s (putReg c rd next) t)) ∧
    (t.toNat % 4 ≠ 0 → plainMode c → exec (.jr rd ra imm) s = .next (trapped s causeMisalign 1 t)) ∧
    exec (.beq ra rb imm) s = .next (went s c (if a = b then target else next)) ∧
    exec (.bne ra rb imm) s = .next (went s c (if a ≠ b then target else next)) ∧
    exec (.blt ra rb imm) s = .next (went s c (if a.toInt < b.toInt then target else next)) ∧
    exec (.bge ra rb imm) s = .next (went s c (if b.toInt ≤ a.toInt then target else next)) ∧
    exec (.bltn ra rb imm) s = .next (went s c (if a.toNat < b.toNat then target else next)) ∧
    exec (.bgen ra rb imm) s = .next (went s c (if b.toNat ≤ a.toNat then target else next))

/-! ## Scalar FP32 (R157) -/

/-- A scalar FP32 instruction with a result and the flags it raises, in a context that enables none of them. -/
def Sys2Proof.Claims.flagged (s : State) (rd : XReg) (v : Nat) (fl : FpFlags) : State :=
  s.setMe (onward { putReg s.me rd (BitVec.ofNat 64 v) with fcsr := s.me.fcsr ||| fl.setWidth 64 })

/-- An exact value with its flags rounded to FP32, together with the flags of the rounding (R10, R41, R44). -/
def Sys2Proof.Claims.rounded (mode : Nat) (x : FVal × FpFlags) : Nat × FpFlags :=
  ((roundF .fp32 mode x.1).1, x.2 ||| (roundF .fp32 mode x.1).2)

/-- R46, R157: result and flags of each scalar FP32 instruction. -/
def Sys2Proof.Claims.scalarFp (c : Ctx) : Instr → Option (XReg × Nat × FpFlags)
  | .fadd rd ra rb rm =>
    let m := modeOf rm (c.fcsr.extractLsb' 12 3)
    some (rd, rounded m (sumF (m == 2) [decodeF .fp32 ((c.reg ra).toNat % 2 ^ 32), decodeF .fp32 ((c.reg rb).toNat % 2 ^ 32)]))
  | .fsub rd ra rb rm =>
    let m := modeOf rm (c.fcsr.extractLsb' 12 3)
    some (rd, rounded m (sumF (m == 2)
      [decodeF .fp32 ((c.reg ra).toNat % 2 ^ 32), (decodeF .fp32 ((c.reg rb).toNat % 2 ^ 32)).negate]))
  | .fmul rd ra rb rm =>
    let m := modeOf rm (c.fcsr.extractLsb' 12 3)
    some (rd, rounded m (sumOfProducts (m == 2)
      [(decodeF .fp32 ((c.reg ra).toNat % 2 ^ 32), decodeF .fp32 ((c.reg rb).toNat % 2 ^ 32))] []))
  | .fdiv rd ra rb rm =>
    let m := modeOf rm (c.fcsr.extractLsb' 12 3)
    some (rd, rounded m (divF (decodeF .fp32 ((c.reg ra).toNat % 2 ^ 32)) (decodeF .fp32 ((c.reg rb).toNat % 2 ^ 32))))
  | .fmadd rd ra rb rm =>
    let m := modeOf rm (c.fcsr.extractLsb' 12 3)
    some (rd, rounded m (sumOfProducts (m == 2)
      [(decodeF .fp32 ((c.reg ra).toNat % 2 ^ 32), decodeF .fp32 ((c.reg rb).toNat % 2 ^ 32))]
      [decodeF .fp32 ((c.reg rd).toNat % 2 ^ 32)]))
  | .fcmp rd ra rb cc =>
    let r := compareF cc.toNat (decodeF .fp32 ((c.reg ra).toNat % 2 ^ 32)) (decodeF .fp32 ((c.reg rb).toNat % 2 ^ 32))
    some (rd, if r.1 then 1 else 0, r.2)
  | .fcvt rd ra k rm =>
    let m := modeOf rm (c.fcsr.extractLsb' 12 3)
    let x := decodeF .fp32 ((c.reg ra).toNat % 2 ^ 32)
    some (rd, match k.toNat with
      | 0 => ftoiF true 64 m x
      | 1 => ftoiF false 64 m x
      | 2 => roundF .fp32 m (ofIntF (c.reg ra).toInt)
      | _ => roundF .fp32 m (ofIntF (c.reg ra).toNat))
  | _ => none

/-- R157: the scalar FP32 instructions complete with their result and merge their flags where no flag they raise is
enabled; a raised flag that is enabled traps with FP_EXC, the flags in ESUB, and writes and merges nothing. -/
def Obligations.ScalarFloatResults : Prop :=
  ∀ (s : State) (i : Instr) (rd : XReg) (v : Nat) (fl : FpFlags), scalarFp s.me i = some (rd, v, fl) →
    (fl &&& s.me.fcsr.extractLsb' 6 6 = 0 → exec i s = .next (flagged s rd v fl)) ∧
    (fl &&& s.me.fcsr.extractLsb' 6 6 ≠ 0 → plainMode s.me → exec i s = .next (trapped s causeFpExc fl.toNat 0))


/-! ## CSRs (R141 to R149, R158, R215 to R220, R362) and vsetvl (R160) -/

namespace Sys2Proof.Claims

/-- The writable bits of each writable CSR (R142 to R149, R215 to R218, R362); the others are Z fields. -/
def csrMask (n : Nat) : Option Word :=
  if 0x010 ≤ n ∧ n ≤ 0x017 then some 0xFFFFFFE007
  else match n with
  | 0x000 => some 0xFFFFF
  | 0x001 => some 0xFFFFF
  | 0x004 => some 0xFFFF
  | 0x005 => some 0xFFFFFFFF
  | 0x006 => some 0x3FFFFFFF
  | 0x008 => some 0xFFFF
  | 0x018 => some 0xFFF
  | 0x019 => some 0xFF
  | 0x01A => some 0xFF
  | 0x01B => some 0xFF
  | 0x01C => some 0xFF
  | 0x100 => some 7
  | 0x101 => some 0xFFFFFFFFFFFFFFFC
  | 0x102 => some 0xFF
  | 0x103 => some 0xFFFFFFFFFFFFFFFC
  | 0x104 => some 0xFFFFFFFFFFFFFFFF
  | 0x105 => some 0x7FF
  | 0x106 => some 0xFFFFF
  | 0x107 => some 0xFFFFFFFFFFFFFFFF
  | 0x110 => some 0x0FFFFFFFFFFFFFF8
  | 0x111 => some 0x0FFFFFFFFFFFFFE0
  | 0x112 => some 0xFFFFF
  | 0x120 => some 0xFFFF
  | 0x121 => some 0xFFFFFFFF
  | _ => none

/-- The constraint that a field map puts on a value whose Z fields are dropped; STATUS and PTDESC have rules of their
own. -/
def csrAllows (c : Ctx) (n : Nat) (v : Word) : Prop :=
  match n with
  | 0x000 => v.toNat ≤ c.vlmax.toNat
  | 0x001 => v.toNat < c.vlmax.toNat
  | 0x005 => v.toNat / 2 ^ 23 % 256 ≠ 255
  | 0x006 => v.toNat % 2 = 1 ∧ 3 ≤ v.toNat
  | 0x008 => v.toNat / 2 ^ 12 % 8 ≤ 4
  | 0x01A => v.toNat ≤ c.shareRows
  | 0x01B => v.toNat ≤ 128
  | 0x01C => v.toNat ≤ c.shareRows
  | 0x120 => 1 ≤ v.toNat ∧ v.toNat ≤ 20
  | _ => if 0x010 ≤ n ∧ n ≤ 0x017 then tcfgOk c.shareRows v = true else True

/-- A CSR access that the privilege, the matrix units and the tokens under way let through (R98, R214, R219, R220). -/
def csrOpen (s : State) (n : Nat) (write : Bool) (v : Option Word) : Prop :=
  (0x100 ≤ n → s.me.status.getLsbD 0 = true) ∧ s.me.csrTileOff n v = none ∧
    (csrWaits n write && s.tokensLeft s.me) = false

/-- A CSR that belongs to the matrix units (R214). -/
def csrOfTiles (n : Nat) : Prop := 0x010 ≤ n ∧ n ≤ 0x019 ∨ n = 0x01D

/-- Matrix tokens of the current strand are under way (R221). -/
def tokensOut (s : State) : Prop :=
  ∃ cl ∈ s.me.clusters, ∃ e ∈ (s.clAt cl).nodes, ∃ t ∈ e.2.fifo, t.sid = s.me.sid

/-- The value that an instruction of R158 would leave, from the old value and X[ra]. -/
def csrNext (i : Instr) (old a : Word) : Option Word :=
  match i with
  | .csrw _ _ _ => some a
  | .csrs _ _ _ => some (old ||| a)
  | .csrc _ _ _ => some (old &&& ~~~a)
  | _ => none

end Sys2Proof.Claims

/-- R5, R141, R143, R147, R158, R159, R214, R219, R220, R363: csrr completes with the CSR's value in X[rd], and
changes nothing else; MODMU is the floor of 2^62 / q; a user's read of a supervisor CSR traps with PRIV. csrw, csrs
and csrc of a value that its field map allows complete: the CSR then reads as that value without its Z fields, X[rd]
holds the old value, and no other CSR, register or byte changes but RETIRED, PC, and MODMU with MODQ. A write that
breaks a constraint of the field map raises ILLEGAL_OPERAND with ESUB 6, a change of STATUS.SUP raises ILLEGAL_OP with
ESUB 5, and neither writes the CSR or X[rd]. A user's write of a supervisor CSR raises PRIV. A write of PTDESC whose
table is invalid raises ILLEGAL_OPERAND 6, and one that meets poison MEM_POISON with EVAL DESC. A CSR of the matrix
units raises TILE_OFF 1 without a share and TILE_OFF 0 for a disabled tile or accumulator, and TCFG, or a write of TEN
and ACCFMT, waits while tokens of the strand are under way. -/
def Obligations.CsrInstructions : Prop :=
  (∀ (s : State) (rd : XReg) (csr : BitVec 9),
     (csrOpen s csr.toNat false none → exec (.csrr rd csr) s = .next (wrote s rd (s.csrRead s.me csr.toNat))) ∧
     (s.csrRead s.me 0x007).toNat = 2 ^ 62 / (s.me.modq.toNat % 2 ^ 30) % 2 ^ 64 ∧
     (0x100 ≤ csr.toNat → s.me.status.getLsbD 0 = false → plainMode s.me →
       exec (.csrr rd csr) s = .next (trapped s causePriv 0 (BitVec.ofNat 64 (parcelOf (.csrr rd csr)))))) ∧
  (∀ (s : State) (i : Instr) (rd ra : XReg) (csr : BitVec 9),
     i ∈ [Instr.csrw rd ra csr, .csrs rd ra csr, .csrc rd ra csr] → plainMode s.me → 0x100 ≤ csr.toNat →
     s.me.status.getLsbD 0 = false → exec i s = .next (trapped s causePriv 0 (BitVec.ofNat 64 (parcelOf i)))) ∧
  (∀ (s : State) (i : Instr) (rd ra : XReg) (csr : BitVec 9),
     i ∈ [Instr.csrr rd csr, .csrw rd ra csr, .csrs rd ra csr, .csrc rd ra csr] → plainMode s.me → csrOfTiles csr.toNat →
     let k := csr.toNat - 0x010
     (s.me.share = 0 → exec i s = .next (trapped s causeTileOff 1 0)) ∧
     (s.me.share ≠ 0 → k < 8 → s.me.ten.getLsbD k = false →
       exec i s = .next (trapped s causeTileOff 0 (BitVec.ofNat 64 k))) ∧
     (s.me.share ≠ 0 → tokensOut s →
       k < 8 ∧ s.me.ten.getLsbD k = true ∨ csr = 0x018 ∧ i ≠ .csrr rd csr →
       exec i s = .next (s.setMe { s.me with wait := some .engine }))) ∧
  (∀ (s : State) (i : Instr) (rd ra : XReg) (v : Word) (a : Nat),
     i ∈ [Instr.csrw rd ra 0x019, .csrs rd ra 0x019, .csrc rd ra 0x019] → plainMode s.me → s.me.share ≠ 0 →
     csrNext i s.me.accfmt (s.me.reg ra) = some v →
     let changes := fun k => s.me.ten.getLsbD (8 + k) = false ∧ v.toNat / 4 ^ k % 4 ≠ s.me.accfmt.toNat / 4 ^ k % 4
     (a < 4 → changes a → (∀ k < a, ¬ changes k) →
       exec i s = .next (trapped s causeTileOff 0 (BitVec.ofNat 64 (8 + a)))) ∧
     ((∀ k < 4, ¬ changes k) → tokensOut s → exec i s = .next (s.setMe { s.me with wait := some .engine }))) ∧
  (∀ (s : State) (i : Instr) (rd ra : XReg) (v : Word),
     i ∈ [Instr.csrw rd ra 0x111, .csrs rd ra 0x111, .csrc rd ra 0x111] → plainMode s.me → s.me.status.getLsbD 0 = true →
     csrNext i s.me.ptdesc (s.me.reg ra) = some v →
     let desc := v &&& 0x0FFFFFFFFFFFFFE0
     (s.descAwake desc = true → s.captureDesc desc = .invalid →
       exec i s = .next (trapped s causeOperand 6 (BitVec.ofNat 64 (parcelOf i)))) ∧
     (s.descAwake desc = true → s.captureDesc desc = .poison → exec i s = .next (trapped s causeMemPoison 0 desc)) ∧
     (s.descAwake desc = false → exec i s = .next (s.setMe { s.me with wait := some .engine }))) ∧
  ((∀ (s : State) (i : Instr) (rd ra : XReg) (csr : BitVec 9) (m v : Word),
      i ∈ [Instr.csrw rd ra csr, .csrs rd ra csr, .csrc rd ra csr] →
      csrMask csr.toNat = some m → csrNext i (s.csrRead s.me csr.toNat) (s.me.reg ra) = some v →
      csrOpen s csr.toNat true (some (v &&& 0xFF)) → csrAllows s.me csr.toNat (v &&& m) →
      (csr = 0x100 → v.getLsbD 0 = s.me.status.getLsbD 0) →
      (csr = 0x111 → s.descAwake (v &&& m) = true ∧ ∃ d, s.captureDesc (v &&& m) = .ok d) → s.me.sid ∉ s.me.children →
      ∃ t, exec i s = .next t ∧
        t.csrRead t.me csr.toNat = v &&& m ∧
        (∀ n, n < 512 → n ≠ csr.toNat → n ≠ 0x021 → (n = 0x007 → csr ≠ 0x006) → t.csrRead t.me n = s.csrRead s.me n) ∧
        t.me.reg rd = (if rd = 0 then 0 else s.csrRead s.me csr.toNat) ∧ (∀ q, q ≠ rd → t.me.reg q = s.me.reg q) ∧
        t.me.pc = s.me.pc + 4 ∧ sameBytes s t) ∧
   (∀ (s : State) (i : Instr) (rd ra : XReg) (csr : BitVec 9) (m v : Word),
      i ∈ [Instr.csrw rd ra csr, .csrs rd ra csr, .csrc rd ra csr] →
      csrMask csr.toNat = some m → csrNext i (s.csrRead s.me csr.toNat) (s.me.reg ra) = some v →
      csrOpen s csr.toNat true (some (v &&& 0xFF)) → plainMode s.me →
      (csr.toNat ≠ 0x111 → ¬ csrAllows s.me csr.toNat (v &&& m) →
        exec i s = .next (trapped s causeOperand 6 (BitVec.ofNat 64 (parcelOf i)))) ∧
      (csr = 0x100 → v.getLsbD 0 ≠ s.me.status.getLsbD 0 →
        exec i s = .next (trapped s causeOp 5 (BitVec.ofNat 64 (parcelOf i))))))

/-- R160: the word of vsetvl, and what it does in every state: it writes the smaller of X[ra] and VLMAX to VL and
X[rd], leaves VSTART, waits for nothing and never traps. -/
def Obligations.VsetvlResult : Prop :=
  ∀ (s : State) (rd ra : XReg),
    let n := if s.me.vlmax.toNat < (s.me.reg ra).toNat then s.me.vlmax else s.me.reg ra
    decodeTableWord 32 (2 ^ 2 * 0x3F + 2 ^ 8 * rd.toNat + 2 ^ 13 * ra.toNat) = some (.vsetvl rd ra) ∧
    exec (.vsetvl rd ra) s = .next (s.setMe (onward { putReg s.me rd n with vl := n }))

/-! ## Traps (R161 to R165) -/

/-- R161, R163, R165: trap and brk enter the handler with their code in ESUB, EVAL 0 and EPC their own address.
Entering a trap outside a handler saves the cause, subcode, EPC and EVAL, makes the strand supervisor with the old
privilege in PSUP, and goes to STVEC; no register and no byte changes (an uncorrectable error of a gang member is
R359's). A trap inside a handler is a double trap: the context stops, the trap CSRs keep the first trap's values, and
the record of the second is posted with the event's number. -/
def Obligations.TrapEntry : Prop :=
  (∀ (s : State) (code : BitVec 9), plainMode s.me →
     exec (.trap code) s = .next (trapped s causeSwTrap code.toNat 0) ∧
     exec (.brk code) s = .next (trapped s causeBreak code.toNat 0)) ∧
  (∀ (s : State) (n : Nat) (t : TrapInfo) (epc : Word), plainMode (s.ctxAt n) →
     (t.cause ≠ causeHwUe ∨ (s.ctxAt n).record.gang ≤ 1) →
     let u := s.enterTrap n t epc
     u = trappedIn s n t epc ∧ (s.writes = [] → u = s.setCtx n (entered (s.ctxAt n) t epc)) ∧
     (u.ctxAt n).pc = (s.ctxAt n).stvec ∧ (u.ctxAt n).epc = epc ∧ (u.ctxAt n).cause = t.cause.setWidth 64 ∧
     (u.ctxAt n).status.getLsbD 0 = true ∧ (u.ctxAt n).status.getLsbD 1 = (s.ctxAt n).status.getLsbD 0 ∧
     (u.ctxAt n).status.getLsbD 2 = true ∧ (∀ q, (u.ctxAt n).reg q = (s.ctxAt n).reg q) ∧ sameBytes s u) ∧
  (∀ (s : State) (n : Nat) (t : TrapInfo) (epc : Word), (s.ctxAt n).status.getLsbD 2 = true →
     (t.cause ≠ causeHwUe ∨ (s.ctxAt n).record.gang ≤ 1) → s.ctl.fqen = false → s.fq.length < 256 →
     let u := s.enterTrap n t epc
     let c := u.ctxAt n
     c.mode = .stopped ∧ c.cause = (s.ctxAt n).cause ∧ c.epc = (s.ctxAt n).epc ∧ c.eval = (s.ctxAt n).eval ∧
     c.esub = (s.ctxAt n).esub ∧ c.eelem = (s.ctxAt n).eelem ∧ c.pc = (s.ctxAt n).pc ∧
     ∃ r, u.fq = s.fq ++ [r] ∧ r.kind = 1 ∧ r.cause = t.cause ∧ r.epc = epc ∧ r.eval = t.eval ∧ r.ctx = n ∧
       r.seq = s.seq + 1 ∧ u.seq = s.seq + 1)

/-- R162: in supervisor mode tret resumes at EPC with the privilege of PSUP, clears PSUP and EX, and keeps every
register, byte and trap CSR; in user mode it raises PRIV. -/
def Obligations.TretResult : Prop :=
  ∀ (s : State),
    (s.me.status.getLsbD 0 = true → ∃ t, exec .tret s = .next t ∧
      t.me.pc = s.me.epc ∧ t.me.status = (if s.me.status.getLsbD 1 then 1 else 0) ∧ t.me.retired = s.me.retired + 1 ∧
      (∀ q, t.me.reg q = s.me.reg q) ∧
      (∀ n, n < 512 → n ≠ 0x100 → n ≠ 0x021 → t.csrRead t.me n = s.csrRead s.me n) ∧ sameBytes s t) ∧
    (s.me.status.getLsbD 0 = false → plainMode s.me →
      exec .tret s = .next (trapped s causePriv 0 (BitVec.ofNat 64 (parcelOf .tret))))

/-! ## Scalar memory (R245, R252, R260 to R265) -/

namespace Sys2Proof.Claims

/-- The scalar loads: destination, address, bytes, class, and how the value read widens (R260, R262). -/
def loadOf (c : Ctx) : Instr → Option (XReg × Word × Nat × Nat × (Nat → Word))
  | .ldb rd ra imm k => some (rd, c.reg ra + imm.signExtend 64, 1, k.toNat, fun v => BitVec.signExtend 64 (BitVec.ofNat 8 v))
  | .ldbn rd ra imm k => some (rd, c.reg ra + imm.signExtend 64, 1, k.toNat, fun v => BitVec.ofNat 64 v)
  | .ldh rd ra imm k => some (rd, c.reg ra + imm.signExtend 64, 2, k.toNat, fun v => BitVec.signExtend 64 (BitVec.ofNat 16 v))
  | .ldhn rd ra imm k => some (rd, c.reg ra + imm.signExtend 64, 2, k.toNat, fun v => BitVec.ofNat 64 v)
  | .ldw rd ra imm k => some (rd, c.reg ra + imm.signExtend 64, 4, k.toNat, fun v => BitVec.signExtend 64 (BitVec.ofNat 32 v))
  | .ldwn rd ra imm k => some (rd, c.reg ra + imm.signExtend 64, 4, k.toNat, fun v => BitVec.ofNat 64 v)
  | .ldd rd ra imm k => some (rd, c.reg ra + imm.signExtend 64, 8, k.toNat, fun v => BitVec.ofNat 64 v)
  | .lda rd ra off _ k => some (rd, c.reg ra + off.signExtend 64, 8, k.toNat, fun v => BitVec.ofNat 64 v)
  | _ => none

/-- The scalar stores: source, address, bytes and class. -/
def storeOf (c : Ctx) : Instr → Option (XReg × Word × Nat × Nat)
  | .stb rs ra imm k => some (rs, c.reg ra + imm.signExtend 64, 1, k.toNat)
  | .sth rs ra imm k => some (rs, c.reg ra + imm.signExtend 64, 2, k.toNat)
  | .stw rs ra imm k => some (rs, c.reg ra + imm.signExtend 64, 4, k.toNat)
  | .std rs ra imm k => some (rs, c.reg ra + imm.signExtend 64, 8, k.toNat)
  | .stl rs ra off _ k => some (rs, c.reg ra + off.signExtend 64, 8, k.toNat)
  | _ => none

/-- The atomic instructions: destination, address register, bytes, and what they store of the old value (R263, R264). -/
def atomicOf (c : Ctx) : Instr → Option (XReg × XReg × Nat × (Nat → Option Nat))
  | .amoAdd rd ra rb _ _ _ => some (rd, ra, 8, fun o => some ((o + (c.reg rb).toNat) % 2 ^ 64))
  | .amoAnd rd ra rb _ _ _ => some (rd, ra, 8, fun o => some (BitVec.ofNat 64 o &&& c.reg rb).toNat)
  | .amoOr rd ra rb _ _ _ => some (rd, ra, 8, fun o => some (BitVec.ofNat 64 o ||| c.reg rb).toNat)
  | .amoXor rd ra rb _ _ _ => some (rd, ra, 8, fun o => some (BitVec.ofNat 64 o ^^^ c.reg rb).toNat)
  | .amoMin rd ra rb _ _ _ => some (rd, ra, 8, fun o => some
      (if (c.reg rb).toInt < (BitVec.ofNat 64 o).toInt then (c.reg rb).toNat else o))
  | .amoMax rd ra rb _ _ _ => some (rd, ra, 8, fun o => some
      (if (BitVec.ofNat 64 o).toInt < (c.reg rb).toInt then (c.reg rb).toNat else o))
  | .amoMinn rd ra rb _ _ _ => some (rd, ra, 8, fun o => some (min o (c.reg rb).toNat))
  | .amoMaxn rd ra rb _ _ _ => some (rd, ra, 8, fun o => some (max o (c.reg rb).toNat))
  | .amoSwp rd ra rb _ _ _ => some (rd, ra, 8, fun _ => some (c.reg rb).toNat)
  | .amoFadd rd ra rb _ _ _ => some (rd, ra, 4, fun o => some (roundF .fp32 0
      (sumF false [decodeF .fp32 o, decodeF .fp32 ((c.reg rb).toNat % 2 ^ 32)]).1).1)
  | .amocas rd ra rb _ _ _ => some (rd, ra, 8, fun o => if o = (c.reg rd).toNat then some (c.reg rb).toNat else none)
  | _ => none

/-- The places of a store hold its bytes, least significant first, and every other byte reads as in another state. -/
def holdsBytes (s t : State) (l : List Loc) (v : Nat) : Prop :=
  (∀ i (h : i < l.length), t.locByte l[i] = BitVec.ofNat 8 (v / 256 ^ i)) ∧
  (∀ b : Loc, (∀ x ∈ l, x.scratch ≠ b.scratch ∨ x.key ≠ b.key) → t.locByte b = s.locByte b)

/-- A byte that an agent may observe at a place: the newest, or one that a write still on its way left or replaced. -/
def observable (s : State) (b : Loc) (x : Byte) : Prop :=
  x = s.locByte b ∨ ∃ w ∈ s.writes, ∃ p ∈ w.bytes, p.1 = b.scratch ∧ p.2.1 = b.key ∧ (x = p.2.2.1 ∨ x = p.2.2.2)

/-- The newest write on its way to a place is the current strand's own, in a class that R280 keeps with an access. -/
def ownLast (s : State) (b : Loc) (cls : Nat) : Prop :=
  ∃ w, (s.writes.reverse.find? fun w => w.bytes.any fun p => p.1 == b.scratch && p.2.1 == b.key) = some w ∧
    w.sid = s.me.sid ∧ (w.cls = cls ∨ w.cls = 15 ∨ cls = 15) ∧
    ∀ p ∈ w.bytes, p.1 = b.scratch → p.2.1 = b.key → p.2.2.2 = s.locByte b

/-- Both tables of cells are in canonical form. -/
def cellsOk (s : State) : Prop := Memory.wf s.mem = true ∧ Memory.wf s.sp = true

/-- No two places are one cell. -/
def cellsApart (l : List Loc) : Prop := (l.map fun b => (b.scratch, b.key)).Nodup

end Sys2Proof.Claims

/-- R2, R262 to R265, R275: a store completes: the bytes at its place are those of the register, every other byte of
memory and of the scratchpads is as the translation left it, and of the registers only PC and RETIRED change. A store
of 8 bytes to region 3 does the write of that register. An atomic completes: X[rd] receives the old value, the place
holds what its operation gives of it, or stays where amocas finds another value than X[rd], and every other byte is as
the translation left it. The model's choices here are log entry 3. -/
def Obligations.ScalarStoreAndAtomicResults : Prop :=
  (∀ (s s' : State) (i : Instr) (rs : XReg) (a : Word) (n k : Nat) (l : List Loc),
     storeOf s.me i = some (rs, a, n, k) → a.toNat % n = 0 →
     s.place1 1 k a.toNat n (s.mmioGate 1 a.toNat n (parcelOf i) (s.me.reg rs)) = .ok (.bytes l) s' → l.length = n → cellsApart l → cellsOk s' →
     (∀ b ∈ l, s'.locPoison b = false) →
     ∃ t, exec i s = .next t ∧ holdsBytes s' t l (s.me.reg rs).toNat ∧ t.ctxs = (s'.setMe (onward s'.me)).ctxs) ∧
  (∀ (s s' : State) (i : Instr) (rd ra : XReg) (n : Nat) (f : Nat → Option Nat) (l : List Loc),
     atomicOf s.me i = some (rd, ra, n, f) → (s.me.reg ra).toNat % n = 0 →
     s.place1 3 15 (s.me.reg ra).toNat n (s.me.noMmio 3 (s.me.reg ra).toNat) = .ok (.bytes l) s' → l.length = n → cellsApart l → cellsOk s' →
     (∀ b ∈ l, s'.locPoison b = false) →
     let old := littleEndian s' l
     ∃ t, exec i s = .next t ∧ holdsBytes s' t l ((f old).getD old) ∧
       (s'.writes = [] → t.ctxs = (wrote s' rd (BitVec.ofNat 64 old)).ctxs) ∧
       t.me = { onward (putReg s'.me rd (BitVec.ofNat 64 old)) with order := t.me.order }) ∧
  (∀ (s s' : State) (i : Instr) (rs : XReg) (a : Word) (k off : Nat),
     storeOf s.me i = some (rs, a, 8, k) → a.toNat % 8 = 0 →
     s.place1 1 k a.toNat 8 (s.mmioGate 1 a.toNat 8 (parcelOf i) (s.me.reg rs)) = .ok (.mmio off) s' → s'.writes = [] →
     exec i s = .next (flowed (s'.mmioWrite false off (s.me.reg rs))))

/-- R2, R165, R260 to R264: a load whose address is a multiple of its size, and whose place holds no poison, completes
with the bytes there, least significant first, widened by its rule; but for the translation's own effects nothing else
changes. Where writes are still on their way to an agent, each byte is the newest there or one of a write that is, and
the newest where the strand's own earlier write in the same class, or in class 15, wrote it last. A load of 8 bytes
from region 3 reads that register. A load, store or atomic whose address is no multiple of its size traps with
MISALIGN, ESUB 2 and EVAL the address, before anything else. The model's choices here are log entry 3. -/
def Obligations.ScalarLoadResults : Prop :=
  (∀ (s s' : State) (i : Instr) (rd : XReg) (a : Word) (n k : Nat) (ext : Nat → Word) (l : List Loc),
     loadOf s.me i = some (rd, a, n, k, ext) → a.toNat % n = 0 →
     s.place1 0 k a.toNat n (s.mmioGate 0 a.toNat n 0 0) = .ok (.bytes l) s' → (∀ b ∈ l, s'.locPoison b = false) →
     (s'.writes = [] → exec i s = .next (wrote s' rd (ext (littleEndian s' l)))) ∧
     ∃ t v, exec i s = .next t ∧ sameBytes s' t ∧
       t.me = { onward (putReg s'.me rd (ext v)) with order := t.me.order } ∧
       v < 256 ^ l.length ∧ ∀ j b, l[j]? = some b → observable s' b (BitVec.ofNat 8 (v / 256 ^ j)) ∧
         (ownLast s' b k → BitVec.ofNat 8 (v / 256 ^ j) = s'.locByte b)) ∧
  (∀ (s s' : State) (i : Instr) (rd : XReg) (a : Word) (k off : Nat) (ext : Nat → Word),
     loadOf s.me i = some (rd, a, 8, k, ext) → a.toNat % 8 = 0 →
     s.place1 0 k a.toNat 8 (s.mmioGate 0 a.toNat 8 0 0) = .ok (.mmio off) s' → s'.writes = [] →
     exec i s = .next (wrote (s'.mmioRead off).2 rd (s'.mmioRead off).1)) ∧
  (∀ (s : State) (i : Instr) (a : Word) (n : Nat), plainMode s.me → a.toNat % n ≠ 0 →
     ((∃ rd k ext, loadOf s.me i = some (rd, a, n, k, ext)) ∨ (∃ rs k, storeOf s.me i = some (rs, a, n, k)) ∨
       (∃ rd ra f, atomicOf s.me i = some (rd, ra, n, f) ∧ a = s.me.reg ra)) →
     exec i s = .next (trapped s causeMisalign 2 a))

/-- R245, R252, R253, R261, R366, R372: pf completes and never faults; cflush and cinv complete where their address
translates for reading outside region 3, write the dirty copy of its line back, count in the hotness tables, and count
as a write of their class: the strand's earlier writes in it are then performed on their L-die; none of them changes a
register, a flag or a byte of memory or scratchpad. A scalar access that a cached translation serves changes nothing
at all while it is translated. The model's choices here are log entries 3, 71, 83 and 84. -/
def Obligations.CacheMaintenanceAndTranslation : Prop :=
  (∀ (s s' : State) (ra : XReg) (imm : BitVec 10) (k : BitVec 4) (pa : Nat),
     exec (.pf ra imm k) s = .next (s.setMe (onward s.me)) ∧
     (inWindow (s.me.reg ra + imm.signExtend 64).toNat = false →
       s.translate s.me 0 (s.me.noMmio 0 (s.me.reg ra + imm.signExtend 64).toNat)
         (s.me.reg ra + imm.signExtend 64).toNat = .ok pa s' →
       let hot := (s'.scalarHot s.me (s.me.reg ra + imm.signExtend 64).toNat 1).hot
       let u : State := { s' with home := s'.home.filter fun e => decide (e.1 / 64 ≠ s'.cell pa / 64), hot := hot }
       ∃ t, exec (.cflush ra imm k) s = .next t ∧ exec (.cinv ra imm k) s = .next t ∧
         t = { flowed u with writes := t.writes, moment := t.moment, lags := t.lags } ∧
         (s'.writes = [] → s'.lags = [] → t = flowed u) ∧
         (s'.lags = [] → (∀ w ∈ s'.writes, w.instr ≤ s'.moment) → ∀ w ∈ t.writes, w.sid = s'.me.sid →
           w.cls = k.toNat ∨ w.cls = 15 ∨ k = 15 → (smFind w.die w.seen).isSome = true)) ∧
     (inWindow (s.me.reg ra + imm.signExtend 64).toNat = true →
       exec (.cflush ra imm k) s = .next (s.setMe (onward s.me)) ∧ exec (.cinv ra imm k) s = .next (s.setMe (onward s.me)))) ∧
  (∀ (s : State) (c : Ctx) (d : PteFormat) (e : TlbEntry) (kind va : Nat), c.desc = some d →
     ((smGet [] s.tlbs 72).find? fun x => x.serves c d va && x.allows kind (!c.sup) false) = some e →
     let o := e.out + va % 2 ^ e.size
     s.leafOk d o = true → regionOf (s.outPa d o) ≠ 3 →
     s.translate c kind (c.noMmio kind va) va = .ok (s.outPa d o) s)

/-! ## fence and milestones (R287 to R289, R408 to R412) -/

/-- R281, R288, R289, R294: a fence that need not wait completes with only the flow changed where no write is still on
its way to an agent; otherwise the strand's writes in its classes, and those that a kept pair puts before a read in
its classes, have then reached every agent of its scope, taken from each write's own position, and every agent with
level visible, and no register and no byte changes. One of level visible with an unacknowledged store in its classes
waits, and completes when the acknowledgements are there. The model's choices here are log entries 3 and 83. -/
def Obligations.FenceResults : Prop :=
  ∀ (s : State) (ra : XReg) (scope : BitVec 3) (visible : Bool) (n : Nat) (mask : BitVec 16),
    let v := s.me.reg ra
    let m : BitVec 16 := if v.toNat % 2 ^ 16 = 0 ∨ v.getLsbD 15 = true then 0xFFFF else v.setWidth 16
    let reach := fun (w : Write) => viewsOf (if visible then 5 else scope.toNat) w.die
    let open' := s.glox.packets.any fun p =>
      (decide (p.sid = s.me.sid) || p.heirs.contains s.me.sid) && p.store && m.getLsbD p.cls
    (visible = false ∨ open' = false →
      (s.writes = [] → exec (.fence ra scope visible) s = .next (flowed s)) ∧
      ∃ t, exec (.fence ra scope visible) s = .next t ∧
        t = { s with writes := t.writes, moment := t.moment, ctxs := t.ctxs } ∧
        t.me = { onward s.me with order := t.me.order } ∧ (∀ k, k ≠ s.cur → t.ctxAt k = s.ctxAt k) ∧
        ∀ w ∈ t.writes, w.sid = s.me.sid → (m.getLsbD w.cls = true → w.own = true) ∧
          (m.getLsbD w.cls = true ∨ m &&& w.readIn ≠ 0 → ∀ a ∈ reach w, (smFind a w.seen).isSome = true)) ∧
    (visible = true → open' = true → s.writes = [] →
      exec (.fence ra scope visible) s = .next (s.setMe { s.me with wait := some (.fence m) })) ∧
    ((s.ctxAt n).wait = some (.fence mask) →
      (∀ p ∈ s.glox.packets, p.sid = (s.ctxAt n).sid ∨ (s.ctxAt n).sid ∈ p.heirs → p.store = true →
        mask.getLsbD p.cls = false) →
      exec (.fenceComplete n) s = .next (s.setCtx n (onward { s.ctxAt n with wait := none })))

namespace Sys2Proof.Claims

/-- A milestone that the current strand may use: in no other PASID's hands, and not broken (R410, R411). -/
def msUsable (s : State) (n : MsName) : Prop :=
  let m := s.msAt s.me.firstCl n
  (m.owned = true → m.owner.setWidth 64 = s.me.pasid) ∧ m.broken = false

/-- The state after the release of a milestone instruction, with the milestone replaced and the flow gone on. -/
def counted (s : State) (n : MsName) (m : Milestone) : State := flowed ((s.releaseMs s.cur n).setMs s.me.firstCl n m)

end Sys2Proof.Claims

/-- R284, R408 to R412: the milestone instructions on a milestone that the strand may use: ms.arrive adds 1, ms.add
X[rd], ms.set replaces the count and clears OVF, and each is a release; ms.read gives the word, ms.wait goes on where
the count has reached its target and waits otherwise, and each that goes on is an acquire; a waiting strand goes on
when the count is there. Nothing else changes; a release or an acquire changes nothing at all where no write is on its
way. A value of 2^32 or more, a milestone of another PASID, a broken one, and a count that would overflow trap, in
that order, with nothing counted. -/
def Obligations.MilestoneResults : Prop :=
  ∀ (s : State) (rd : XReg) (ms : BitVec 12) (pkg : Bool) (k : Nat),
    let n : MsName := { num := ms.toNat, pkg := pkg }
    let m := s.msAt s.me.firstCl n
    let v := s.me.reg rd
    let all := [Instr.msArrive ms pkg, .msAdd rd ms pkg, .msSet rd ms pkg, .msRead rd ms pkg, .msWait rd ms pkg]
    let bare := [Instr.msArrive ms pkg, .msRead rd ms pkg]
    let foreign := m.owned = true ∧ m.owner.setWidth 64 ≠ s.me.pasid
    let number := BitVec.ofNat 64 (ms.toNat + if pkg then 4096 else 0)
    (s.writes = [] → s.releaseMs s.cur n = s ∧ s.acquire s.cur = s) ∧
    (msUsable s n →
      (m.count.toNat + 1 < 2 ^ 32 → exec (.msArrive ms pkg) s = .next (counted s n { m with count := m.count + 1 })) ∧
      (v.toNat < 2 ^ 32 → m.count.toNat + v.toNat < 2 ^ 32 →
        exec (.msAdd rd ms pkg) s = .next (counted s n { m with count := m.count + v.setWidth 32 })) ∧
      (v.toNat < 2 ^ 32 →
        exec (.msSet rd ms pkg) s = .next (counted s n { m with count := v.setWidth 32, ovf := false })) ∧
      exec (.msRead rd ms pkg) s = .next (wrote (s.acquire s.cur) rd m.toWord) ∧
      (v.toNat < 2 ^ 32 → v.toNat ≤ m.count.toNat → exec (.msWait rd ms pkg) s = .next (flowed (s.acquire s.cur))) ∧
      (v.toNat < 2 ^ 32 → m.count.toNat < v.toNat →
        exec (.msWait rd ms pkg) s = .next (s.setMe { s.me with wait := some (.msWait n v.toNat) }))) ∧
    ((s.ctxAt k).wait = some (.msWait n v.toNat) → v.toNat ≤ (s.msAt (s.ctxAt k).firstCl n).count.toNat →
      exec (.msWaitSatisfied k) s =
        .next (State.acquire (s.setCtx k (onward { s.ctxAt k with wait := none })) k)) ∧
    (plainMode s.me →
      (2 ^ 32 ≤ v.toNat → ∀ i ∈ [Instr.msAdd rd ms pkg, .msSet rd ms pkg, .msWait rd ms pkg],
        exec i s = .next (trapped s causeOperand 6 (BitVec.ofNat 64 (parcelOf i)))) ∧
      (foreign → ∀ i ∈ all, v.toNat < 2 ^ 32 ∨ i ∈ bare →
        exec i s = .next (trapped s causePriv 3 (BitVec.ofNat 64 (parcelOf i)))) ∧
      (¬ foreign → m.broken = true → ∀ i ∈ all, v.toNat < 2 ^ 32 ∨ i ∈ bare → exec i s = .next (trapped s causeGangBroken 0 number)) ∧
      (¬ foreign → m.broken = false → 2 ^ 32 ≤ m.count.toNat + 1 →
        exec (.msArrive ms pkg) s = .next (trapped s causeMsOverflow 0 number)) ∧
      (v.toNat < 2 ^ 32 → ¬ foreign → m.broken = false → 2 ^ 32 ≤ m.count.toNat + v.toNat →
        exec (.msAdd rd ms pkg) s = .next (trapped s causeMsOverflow 0 number)))


/-! ## Channels (R297 to R306) -/

namespace Sys2Proof.Claims

/-- An instruction answers a next state of which a property holds. -/
def completes (i : Instr) (s : State) (P : State → Prop) : Prop := ∃ t, exec i s = .next t ∧ P t

/-- The state after another changed in clusters and contexts alone. -/
def onlyUnits (s t : State) : Prop := t = { s with clusters := t.clusters, ctxs := t.ctxs }

/-- Every other ring is as before. -/
def ringsKept (s t : State) (cl k : Nat) : Prop := ∀ cl' k', cl' ≠ cl ∨ k' ≠ k → t.ringAt cl' k' = s.ringAt cl' k'

/-- A ring whose counters cover its consumers, and whose slots lie in the scratchpad (R299). -/
def ringSound (r : Ring) : Prop := r.sound = true

/-- One DATA token that holds a 64-bit value has been produced into a ring (R297, R302), and no other ring and no byte
outside its slot changed. -/
def pushedWord (s t : State) (cl k : Nat) (r : Ring) (v : Word) (rel : Bool) : Prop :=
  let at0 := r.slotAt (r.widx % r.slots)
  (∃ r', t.ringAt cl k = some r' ∧ r'.desc = r.desc ∧ r'.widx = (r.widx + 1) % r.slots ∧ r'.ridx = r.ridx ∧
    r'.eosp = r.eosp ∧ (∀ i ∈ r.attached, r'.freeOf i + 1 = r.freeOf i ∧ r'.tokensOf i = r.tokensOf i + 1) ∧
    (r.attached ≠ [] → smGet 0 r'.tags (r.widx % r.slots) = 0 ∧ r'.plain.contains (r.widx % r.slots) = !rel ∧
      (rel = true → smGet 0 r'.moments (r.widx % r.slots) = t.moment))) ∧
  (r.attached ≠ [] → ∀ j, j < r.size →
    t.readSp cl (at0 + j) = if j < 8 then BitVec.ofNat 8 (v.toNat / 256 ^ j) else 0) ∧
  (∀ cl' a, (r.attached = [] ∨ ∀ j, j < r.size → s.spCell cl' a ≠ s.spCell cl (at0 + j)) →
    t.readSp cl' a = s.readSp cl' a) ∧
  ringsKept s t cl k ∧ t = { s with clusters := t.clusters, ctxs := t.ctxs, sp := t.sp, spPoison := t.spPoison,
                                    writes := t.writes, moment := t.moment }

/-- Consumer i has consumed one token of a ring (R297), and nothing else of the fabric changed. -/
def poppedToken (s t : State) (cl k : Nat) (r : Ring) (i : Nat) : Prop :=
  (∃ r', t.ringAt cl k = some r' ∧ r'.desc = r.desc ∧ r'.widx = r.widx ∧ r'.eosp = r.eosp ∧ r'.tags = r.tags ∧
    r'.plain = r.plain ∧ r'.tokensOf i + 1 = r.tokensOf i ∧ r'.freeOf i = r.freeOf i + 1 ∧ r'.readAt i = (r.readAt i + 1) % r.slots ∧
    ∀ j, j ≠ i → r'.tokensOf j = r.tokensOf j ∧ r'.freeOf j = r.freeOf j ∧ r'.readAt j = r.readAt j) ∧
  ringsKept s t cl k ∧ onlyUnits s t

/-- The state from which a token is taken: a token that a release produced is an acquire of the strand that runs, of what
had been written when it was produced (R284, R285). -/
def acquired (s : State) (r : Ring) (i : Nat) : State :=
  if r.plain.contains (r.readAt i) = true then s else s.acquireAt s.cur (smGet 0 r.moments (r.readAt i))

/-- The word that ch.pop delivers: bytes 0 to 7 of the slot at the read index. -/
def headWord (s : State) (cl : Nat) (r : Ring) (i : Nat) : Word :=
  BitVec.ofNat 64 (leNat (s.readSpBytes cl (r.slotAt (r.readAt i)) 8))

end Sys2Proof.Claims

/-- R297, R302 to R304: ch.push on a channel with room produces one DATA token whose bytes 0 to 7 are X[ra] and whose
other bytes are 0; ch.pop with a token at hand delivers bytes 0 to 7 of its slot and consumes it, as an acquire where
the token's push was a release; without room or a token they wait, and a waiting one that finds it does the same.
ch.tpop reports T_i and the tag and consumes nothing; ch.detach sets T_i to 0 and takes F_i out of every production. -/
def Obligations.ChannelPushAndPop : Prop :=
  (∀ (s : State) (c : BitVec 6) (ra : XReg) (rel : Bool) (cl k n : Nat) (r : Ring), ringSound r → cellsOk s →
     (s.chanCheck s.me c.toNat .push = .ok (cl, k, r) →
       (r.room 1 = true → completes (.chPush c ra rel) s fun t =>
         pushedWord s t cl k r (s.me.reg ra) rel ∧ t.ctxs = (s.setMe (onward s.me)).ctxs) ∧
       (r.room 1 = false → exec (.chPush c ra rel) s = .next (s.setMe { s.me with wait := some (.chPush c ra rel) }))) ∧
     ((s.ctxAt n).wait = some (.chPush c ra rel) → s.chanCheck (s.ctxAt n) c.toNat .push = .ok (cl, k, r) →
       r.room 1 = true → completes (.chPushResume n) s fun t =>
         pushedWord s t cl k r ((s.ctxAt n).reg ra) rel ∧ t.ctxs = (s.setCtx n (onward { s.ctxAt n with wait := none })).ctxs)) ∧
  (∀ (s : State) (rd : XReg) (c : BitVec 6) (i : BitVec 3) (cl k n : Nat) (r : Ring), ringSound r →
     (s.chanCheck s.me c.toNat (.pop i.toNat) = .ok (cl, k, r) →
       (0 < r.tokensOf i.toNat → s.poisonSp cl (r.slotAt (r.readAt i.toNat)) 8 = false →
         completes (.chPop rd c i) s fun t => poppedToken s t cl k r i.toNat ∧
           t.ctxs = (wrote (acquired s r i.toNat) rd (headWord s cl r i.toNat)).ctxs) ∧
       (r.tokensOf i.toNat = 0 → exec (.chPop rd c i) s = .next (s.setMe { s.me with wait := some (.chPop rd c i) }))) ∧
     ((s.ctxAt n).wait = some (.chPop rd c i) → s.chanCheck (s.ctxAt n) c.toNat (.pop i.toNat) = .ok (cl, k, r) →
       0 < r.tokensOf i.toNat → s.poisonSp cl (r.slotAt (r.readAt i.toNat)) 8 = false →
       completes (.chPopResume n) s fun t => poppedToken s t cl k r i.toNat ∧
         let u := acquired { s.setCtx n { s.ctxAt n with wait := none } with cur := n } r i.toNat
         t.ctxs = (wrote u rd (headWord s cl r i.toNat)).ctxs)) ∧
  (∀ (s : State) (rd : XReg) (c : BitVec 6) (i : BitVec 3) (cl k : Nat) (r : Ring), ringSound r →
     (s.chanCheck s.me c.toNat (.pop i.toNat) = .ok (cl, k, r) →
       let u := if r.tokensOf i.toNat = 0 then s else acquired s r i.toNat
       exec (.chTpop rd c i) s = .next (wrote u rd (if r.tokensOf i.toNat = 0 then 4
         else BitVec.ofNat 64 (r.tokensOf i.toNat * 2 ^ 16 + (smGet 0 r.tags (r.readAt i.toNat)).toNat)))) ∧
     (s.chanCheck s.me c.toNat (.detach i.toNat) = .ok (cl, k, r) →
       completes (.chDetach c i) s fun t =>
         (∃ r', t.ringAt cl k = some r' ∧ r'.tokensOf i.toNat = 0 ∧ i.toNat ∉ r'.attached ∧
           (∀ j, j ≠ i.toNat → r'.tokensOf j = r.tokensOf j ∧ (j ∈ r'.attached ↔ j ∈ r.attached)) ∧
           r' = { r with tokens := r'.tokens, detached := r'.detached }) ∧
         ringsKept s t cl k ∧ onlyUnits s t ∧ t.ctxs = (s.setMe (onward s.me)).ctxs))

/-- R299, R301, R306: ch.bind with x0 unbinds a number, and frees a ring that no other number holds; with a descriptor
it takes the lowest free ring of the grant, with every F_i at the slot count and every T_i and index at 0, or with
ATTACH becomes a further holder of the ring that a gang member bound with the same descriptor. An unbind of a ring in
a pipeline that is neither Unbound nor Done raises ILLEGAL_OPERAND 10, a bind of a bound number CH_MISUSE 6, a
descriptor outside the limits or an ATTACH that matches no binding ILLEGAL_OPERAND 12, and a grant without a free ring
CH_MISUSE 9. The model's choices here are log entry 54. -/
def Obligations.ChannelBinding : Prop :=
  ∀ (s s' : State) (c : BitVec 6) (ra : XReg) (d : List Byte) (cl k : Nat) (b : ChanBind) (r : Ring),
    let fails := fun cause sub eval =>
      exec (.chBind c ra) s = .next (trappedIn s' s.cur (trapOf cause sub eval) s.me.pc)
    let parcel := BitVec.ofNat 64 (parcelOf (.chBind c ra))
    (plainMode s.me → smFind c.toNat s.me.chans = some b →
      (s.me.reg ra = 0 → s.inPipeline s.me b.cluster b.ring = true →
        exec (.chBind c ra) s = .next (trapped s causeOperand 10 parcel)) ∧
      (s.me.reg ra ≠ 0 → exec (.chBind c ra) s = .next (trapped s causeChMisuse 6 (BitVec.ofNat 64 c.toNat)))) ∧
    (s.me.reg ra ≠ 0 → smFind c.toNat s.me.chans = none → s.readVirt s.me 15 (s.me.reg ra).toNat 16 = .ok d s' →
      plainMode (s'.ctxAt s.cur) →
      let bad := chanDescOk s'.me.clusters.length d = false
      let attach := byteAt d 10 / 2 % 2 = 1
      let peer := s'.peerBind s'.me (byteAt d 12) (byteAt d 13)
      (bad ∨ (attach ∧ (peer = none ∨ ∃ q, peer = some q ∧ chanDescEq d q.desc = false)) → fails causeOperand 12 parcel) ∧
      (¬ bad → ¬ attach → s'.freeRing s'.me (s'.me.clusters.getD (byteAt d 8) 0) = none →
        fails causeChMisuse 9 (BitVec.ofNat 64 c.toNat))) ∧
    (s.me.reg ra = 0 → smFind c.toNat s.me.chans = none → exec (.chBind c ra) s = .next (s.setMe (onward s.me))) ∧
    (s.me.reg ra = 0 → smRising none s.me.chans = true → smRising none (s.clAt b.cluster).rings = true →
      smFind c.toNat s.me.chans = some b → s.inPipeline s.me b.cluster b.ring = false →
      s.ringAt b.cluster b.ring = some r → r.holders = [(s.me.sid, c.toNat)] →
      completes (.chBind c ra) s fun t => smFind c.toNat t.me.chans = none ∧ t.ringAt b.cluster b.ring = none ∧
        ringsKept s t b.cluster b.ring ∧ onlyUnits s t ∧ t.me = onward { s.me with chans := t.me.chans }) ∧
    (s.me.reg ra ≠ 0 → smFind c.toNat s.me.chans = none → s.readVirt s.me 15 (s.me.reg ra).toNat 16 = .ok d s' →
      chanDescOk s'.me.clusters.length d = true → byteAt d 10 / 2 % 2 = 0 →
      s'.me.clusters[byteAt d 8]? = some cl → s'.freeRing s'.me cl = some k →
      completes (.chBind c ra) s fun t =>
        smFind c.toNat t.me.chans = some { cluster := cl, ring := k, desc := d } ∧
        (∃ r', t.ringAt cl k = some r' ∧ r'.desc = d ∧ r'.widx = 0 ∧ r'.eosp = false ∧ r'.attached = List.range r'.cons ∧
          ∀ i, i < r'.cons → r'.freeOf i = r'.slots ∧ r'.tokensOf i = 0 ∧ r'.readAt i = 0) ∧
        ringsKept s' t cl k ∧ onlyUnits s' t ∧ t.me = onward { s'.me with chans := t.me.chans }) ∧
    (s.me.reg ra ≠ 0 → smFind c.toNat s.me.chans = none → s.readVirt s.me 15 (s.me.reg ra).toNat 16 = .ok d s' →
      chanDescOk s'.me.clusters.length d = true → byteAt d 10 / 2 % 2 = 1 →
      s'.peerBind s'.me (byteAt d 12) (byteAt d 13) = some b → chanDescEq d b.desc = true →
      s'.ringAt b.cluster b.ring = some r →
      completes (.chBind c ra) s fun t =>
        smFind c.toNat t.me.chans = some { cluster := b.cluster, ring := b.ring, desc := d } ∧
        t.ringAt b.cluster b.ring = some { r with holders := r.holders ++ [(s'.me.sid, c.toNat)] } ∧
        ringsKept s' t b.cluster b.ring ∧ onlyUnits s' t ∧ t.me = onward { s'.me with chans := t.me.chans })

/-- R306: a channel instruction on an unbound number raises CH_MISUSE 1 with the number in EVAL; a push into a channel
with an actor producer raises 2, and one after an EOS 7; a pop as a consumer beyond the channel's raises
ILLEGAL_OPERAND 5, as an actor's index CH_MISUSE 2, and as a detached consumer 3; ch.detach makes the same checks of
its index but for the actor's. None has another effect. -/
def Obligations.ChannelChecks : Prop :=
  ∀ (s : State) (rd ra : XReg) (c : BitVec 6) (i : BitVec 3) (rel : Bool) (cl k : Nat) (r : Ring), plainMode s.me →
    (s.chanAt s.me c.toNat = none → ∀ j ∈ [Instr.chPush c ra rel, .chPop rd c i, .chTpop rd c i, .chDetach c i],
      exec j s = .next (trapped s causeChMisuse 1 (BitVec.ofNat 64 c.toNat))) ∧
    (s.chanAt s.me c.toNat = some (cl, k, r) →
      (r.actorProducer = true → exec (.chPush c ra rel) s = .next (trapped s causeChMisuse 2 (BitVec.ofNat 64 c.toNat))) ∧
      (r.actorProducer = false → r.eosp = true →
        exec (.chPush c ra rel) s = .next (trapped s causeChMisuse 7 (BitVec.ofNat 64 c.toNat))) ∧
      (∀ j ∈ [Instr.chPop rd c i, .chTpop rd c i],
        (r.cons ≤ i.toNat → exec j s = .next (trapped s causeOperand 5 (BitVec.ofNat 64 (parcelOf j)))) ∧
        (i.toNat < r.cons → r.actorConsumer i.toNat = true →
          exec j s = .next (trapped s causeChMisuse 2 (BitVec.ofNat 64 c.toNat))) ∧
        (i.toNat < r.cons → r.actorConsumer i.toNat = false → i.toNat ∈ r.detached →
          exec j s = .next (trapped s causeChMisuse 3 (BitVec.ofNat 64 c.toNat)))) ∧
      (r.cons ≤ i.toNat →
        exec (.chDetach c i) s = .next (trapped s causeOperand 5 (BitVec.ofNat 64 (parcelOf (.chDetach c i))))) ∧
      (i.toNat < r.cons → i.toNat ∈ r.detached →
        exec (.chDetach c i) s = .next (trapped s causeChMisuse 3 (BitVec.ofNat 64 c.toNat))))

/-! ## The stream fabric (R311 to R321) -/

namespace Sys2Proof.Claims

/-- A record or descriptor that an instruction reads at the address in X[ra] (class 15). -/
def reads (s s' : State) (ra : XReg) (n : Nat) (l : List Byte) : Prop :=
  s.readVirt s.me 15 (s.me.reg ra).toNat n = .ok l s'

/-- What sf accepts: the cluster of the record, for a unit granted and in no running pipeline (R311). -/
def unitOpen (s s' : State) (l : List Byte) (at0 a cl : Nat) : Prop := s'.sfCheck s.me (byteAt l at0) a = .ok cl

/-- Only units of one cluster, and contexts, changed. -/
def otherUnits (s t : State) (cl : Nat) : Prop :=
  onlyUnits s t ∧ (∀ n, n ≠ cl → t.clAt n = s.clAt n)

/-- The same after a release (R284): what agents have observed of writes on their way may have changed too. -/
def otherUnitsReleased (s t : State) (cls : List Nat) : Prop :=
  t = { s with clusters := t.clusters, ctxs := t.ctxs, writes := t.writes, moment := t.moment } ∧
    (s.writes = [] → t.writes = [] ∧ t.moment = s.moment) ∧ (∀ n, n ∉ cls → t.clAt n = s.clAt n)

end Sys2Proof.Claims

/-- R284, R311 to R314, R321: sf with a record that keeps its rules makes it the unit's configuration, the unit in its
reset state; no other unit, ring or byte changes. The push is a release. The model's choices here are log entry 53. -/
def Obligations.UnitConfiguration : Prop :=
  ∀ (s s' : State) (u : BitVec 5) (ra : XReg) (l : List Byte) (cl : Nat), reads s s' ra 64 l →
    (∀ g, u.toNat < 24 → unitOpen s s' l 7 u.toNat cl → s'.agRecord s.me cl u.toNat l = some g →
      completes (.sfAg u ra) s fun t => (t.clAt cl).ags = smPut u.toNat g (s'.clAt cl).ags ∧ g.cfg = l ∧
        g.started = false ∧ g.ended = false ∧ g.slot = [] ∧ (∀ x ∈ g.counters, x = 0) ∧
        t.clAt cl = { s'.clAt cl with ags := (t.clAt cl).ags } ∧ otherUnitsReleased s' t [cl] ∧ t.me = onward s'.me) ∧
    (∀ (i : Instr) (kind : JnKind) (j : Jn), u.toNat < 16 →
      (i, kind) ∈ [(Instr.sfRoute u ra, .route), (.sfMerge u ra, .merge), (.sfReord u ra, .reorder), (.sfPack u ra, .pack),
        (.sfUnpack u ra, JnKind.unpack)] →
      unitOpen s s' l 19 (24 + u.toNat) cl → s'.jnRecord s.me cl u.toNat kind l = some j →
      completes i s fun t => (t.clAt cl).jns = smPut u.toNat j (s'.clAt cl).jns ∧ j.cfg = l ∧ j.kind = kind ∧
        j.ended = false ∧ j.window = [] ∧ j.entries = [] ∧ j.tag = BitVec.ofNat 32 (fieldAt l 24 4) ∧
        t.clAt cl = { s'.clAt cl with jns := (t.clAt cl).jns } ∧ otherUnitsReleased s' t [cl] ∧ t.me = onward s'.me) ∧
    (∀ s3, 16 ≤ u.toNat → u.toNat ≤ 18 → unitOpen s s' l 19 (25 + u.toNat) cl →
      s'.cmdRecord s.me cl (25 + u.toNat) l = some s3 → exec (.sfRoute u ra) s = .next (flowed (s3.releasePackage s3.cur)))

namespace Sys2Proof.Claims

/-- Each member of a list is reset to its configuration, with `started` an address generator of START 0xFF is started, and
nothing else of the cluster changed (R320). -/
def membersReset (s t : State) (cl : Nat) (m : List Nat) (started : Bool) : Prop :=
  let k := s.clAt cl
  let u := t.clAt cl
  (∀ a, a < 24 → smFind a u.ags = (smFind a k.ags).map fun g =>
    if a ∈ m then { g.resetUnit with started := started && decide (g.start = 0xFF) } else g) ∧
  (∀ n, n < 16 → smFind n u.jns = (smFind n k.jns).map fun j => if 24 + n ∈ m then j.resetUnit else j) ∧
  u.nodeCmd = k.nodeCmd.map (fun x => if 41 ∈ m then { x with ended := false, frozen := false } else x) ∧
  (∀ a, a = 42 ∨ a = 43 → smFind a u.copyCmd = (smFind a k.copyCmd).map fun x =>
    if a ∈ m then { x with ended := false, frozen := false } else x) ∧
  u = { k with ags := u.ags, jns := u.jns, nodeCmd := u.nodeCmd, copyCmd := u.copyCmd } ∧
  (∀ n, n ≠ cl → t.clAt n = s.clAt n)

end Sys2Proof.Claims

/-- R319, R320: the table of the pipeline states. pl.bind of a pipeline that is Unbound, Bound or Done makes it Bound
with its descriptor; pl.start makes a Bound or Done one Running with its members reset and those of START 0xFF
started, or Done at once where it has no member, and a Frozen one Running again; pl.freeze makes a Running one Frozen;
pl.stop makes a Running, Frozen or Done one Bound with its members reset, and channels and bytes as they are.
Elsewhere they change nothing, or raise ILLEGAL_OPERAND with ESUB 12 on an Unbound one or another descriptor, and with
ESUB 10 where pl.bind finds it Running or Frozen. The model's choices here are log entry 17. -/
def Obligations.PipelineStates : Prop :=
  ∀ (s s' s2 : State) (ra : XReg) (d : List Byte) (cl : Nat) (p : Pipe), reads s s' ra 16 d → byteAt d 0 < 8 →
    p = s.me.pipe (byteAt d 0) →
    let m := descMembers d
    let kept := fun (u t : State) =>
      (∀ n, n ≠ byteAt d 0 → t.me.pipe n = u.me.pipe n) ∧
        t.ctxs = (u.setMe (onward { u.me with pipes := t.me.pipes })).ctxs ∧
        t = { u with ctxs := t.ctxs, clusters := t.clusters, unitAsks := t.unitAsks }
    let stops := fun (i : Instr) (sub : Nat) => plainMode s'.me →
      exec i s = .next (trappedIn s' s'.cur (trapOf causeOperand sub (BitVec.ofNat 64 (parcelOf i))) s'.me.pc)
    (p.state ∈ [PipeState.unbound, .bound, .done] → s'.plCheck s.me (byteAt d 0) d = .ok cl →
      State.assignIdx cl false m (if p.state = .unbound then s' else s'.releaseIdx p.cluster (descMembers p.desc)) = some s2 →
      exec (.plBind ra) s =
        .next (flowed (s2.setPipe s2.cur (byteAt d 0) { state := .bound, desc := d, cluster := cl }))) ∧
    (p.state ∈ [PipeState.running, .frozen] → stops (.plBind ra) 10) ∧
    (p.state = .unbound ∨ p.desc ≠ d → ∀ i ∈ [Instr.plStart ra, .plStop ra, .plFreeze ra], stops i 12) ∧
    (p.desc = d →
      (p.state = .running →
        exec (.plFreeze ra) s = .next (flowed (s'.setPipe s'.cur (byteAt d 0) { p with state := .frozen }))) ∧
      (p.state ∈ [PipeState.bound, .frozen, .done] → exec (.plFreeze ra) s = .next (flowed s')) ∧
      (p.state = .running → exec (.plStart ra) s = .next (flowed s')) ∧
      (p.state = .frozen →
        exec (.plStart ra) s = .next (flowed (s'.setPipe s'.cur (byteAt d 0) { p with state := .running }))) ∧
      (p.state ∈ [PipeState.bound, .done] → m ≠ [] → State.assignIdx p.cluster true m s' = some s2 →
        completes (.plStart ra) s fun t => t.me.pipe (byteAt d 0) = { p with state := .running } ∧ kept s2 t ∧
          t.unitAsks = s2.unitAsks ∧ membersReset s2 t p.cluster m true) ∧
      (p.state ∈ [PipeState.bound, .done] → m = [] →
        exec (.plStart ra) s = .next (flowed
          ((s'.setPipe s'.cur (byteAt d 0) { p with state := .done }).arriveField p.cluster d 12 s'.me.sid))) ∧
      (p.state = .bound → exec (.plStop ra) s = .next (flowed s')) ∧
      (p.state ∈ [PipeState.running, .frozen, .done] →
        completes (.plStop ra) s fun t => t.me.pipe (byteAt d 0) = { p with state := .bound, preempted := false } ∧
          kept s' t ∧ membersReset s' t p.cluster m false ∧ ∀ c n, t.ringAt c n = s'.ringAt c n))

namespace Sys2Proof.Claims

/-- A junction that a running pipeline names and that may fire. -/
def jnReady (s : State) (cl u n : Nat) (j : Jn) (k : JnKind) : Prop :=
  u < 16 ∧ s.runsIn cl (24 + u) = some n ∧ smFind u (s.clAt cl).jns = some j ∧ j.kind = k ∧ j.ended = false ∧
    j.frozen = false ∧ j.stopped = false ∧ s.unitAsked cl (24 + u) = false ∧ s.mayFire cl (24 + u) = true

end Sys2Proof.Claims

namespace Sys2Proof.Claims

/-- An address generator after a number of tuples (R313). -/
def agAfter (g : Ag) : Nat → Ag
  | 0 => g
  | n + 1 => (agAfter g n).tuple.1

/-- None of its next tuples ends a run or the visit. -/
def agGoesOn (g : Ag) (n : Nat) : Prop := ∀ i < n, (agAfter g i).tuple.2 = false ∧ (agAfter g i).tuple.1.visited = false

/-- An address generator that a running pipeline names and that may fire. -/
def agReady (s : State) (cl u n : Nat) (g : Ag) : Prop :=
  u < 24 ∧ s.mayFire cl u = true ∧ s.runsIn cl u = some n ∧ smFind u (s.clAt cl).ags = some g ∧ g.ended = false ∧
    g.frozen = false ∧ s.unitAsked cl u = false

/-- R312, R313: an owed control token leaves first, and EOS ends the unit. In address mode a tuple's address is the 8 bytes
of a slot; the last tuple of a visit that pl.start began owes EOS, after an EOR where a run ends there. In read mode the
elements at the addresses of the next tuples fill a slot. In write mode the elements of the head slot go to those
addresses, EOR and FLUSH are discarded, and EOS ends the unit. -/
def agFirings (s : State) (cl u n : Nat) (g : Ag) : Prop :=
  let fires := fun (t : State) => exec (.agFiring cl u) s = .next (t.fired cl u)
  let address : Tok := { tag := 0, data := leBytes 8 g.addr }
  (∀ x l, g.mode < 2 → g.owed = x :: l → s.noRoom cl [g.ring] = [] →
    fires ((s.setAg cl u { g with owed := l, ended := decide (x = 2) }).produce cl g.ring [ctlTok x])) ∧
  (∀ r, g.owed = [] → g.started = true → g.slot = [] → g.bad = [] → s.ringAt cl g.ring = some r → r.room 1 = true →
    (g.mode = 0 → r.size = 8 → g.tuple.1.visited = false → g.tuple.2 = false →
      fires ((s.setAg cl u g.tuple.1).produce cl g.ring [address])) ∧
    (g.mode = 0 → r.size = 8 → g.tuple.1.visited = true → g.start = 0xFF → g.held = false →
      (∀ e ∈ (s.clAt cl).ags, e.2.start ≠ u) →
      fires ((s.setAg cl u { g.tuple.1 with started := false, owed := (if g.tuple.2 then [1] else []) ++ [2] }).produce cl
        g.ring [address])) ∧
    (∀ k l s', g.mode = 1 → 0 < k → r.size = k * g.elem → agGoesOn g k →
      s.unitReads (s.ctxAt n) g.scratch cl ((List.range k).map fun i => ((agAfter g i).addr, g.elem)) = .ok l s' →
      (∀ d ∈ l, ∀ x ∈ d, x.2 = false) →
      fires ((s'.setAg cl u (agAfter g k)).produce cl g.ring [{ tag := 0, data := l.flatten.map Prod.fst }]))) ∧
  (∀ r t, g.mode = 2 → s.ringAt cl g.ring = some r → s.headTok cl r g.cidx = some t →
    (t.tag = 2 → fires ((s.setAg cl u { g with ended := true, pos := 0 }).consume cl g.ring g.cidx 1)) ∧
    (t.tag = 1 ∨ t.tag = 3 → fires (s.consume cl g.ring g.cidx 1)) ∧
    (t.tag = 0 → g.started = false → g.start = 0xFF → fires (s.consume cl g.ring g.cidx 1)) ∧
    (∀ k s', 0 < k → t.tag = 0 → g.started = true → g.pos = 0 → t.bad = [] → t.data.length = k * g.elem → agGoesOn g k →
      s.unitWrites (s.ctxAt n) g.scratch cl ((List.range k).map fun i =>
        ((agAfter g i).addr, (t.pbytes.drop (i * g.elem)).take g.elem)) = .ok () s' →
      fires ((s'.setAg cl u (agAfter g k)).consume cl g.ring g.cidx 1)))

/-- A junction's unit produces and consumes nothing, and its owner takes the fault (R330). -/
def interpretsPoison (s : State) (i : Instr) (cl u n : Nat) (x : Option TrapInfo) : Prop :=
  ∀ t, x = some t → exec i s = .next (s.freezeUnit cl (24 + u) (s.ctxAt n).sid t)

/-- R314, R315, R330: a route passes a DATA slot to the output that its table names for its key, or discards it; with STAMP
the slot takes the tag counter first, a discarded one too. A control slot goes to every named output, and EOS ends the
junction. Poison in the key or under the stamp freezes the unit; any other is carried on and counted. -/
def routeFirings (s : State) (cl u n : Nat) (j : Jn) (t : Tok) (at0 : Nat) : Prop :=
  let fires := fun (v : State) => exec (.routeFiring cl u) s = .next (v.fired cl (24 + u))
  let stamp := byteAt j.cfg 21 % 2 = 1
  let off := byteAt j.cfg 20
  let o := fieldAt j.cfg 28 4 / 16 ^ ((j.key t / (2 ^ byteAt j.cfg 18 : Nat)) % 8).toNat % 16
  let stamped : Tok := { t with data := t.data.take off ++ leBytes 4 j.tag.toNat ++ t.data.drop (off + 4) }
  let counted := fun (s : State) => match t.bad with
    | w :: _ => s.countUe cl 2 (BitVec.ofNat 64 (at0 + 8 * w))
    | [] => s
  let keyBad := t.interp at0 (byteAt j.cfg 16) j.keyBytes
  let next := { j with tag := j.tag + 1 }
  (t.tag = 0 → interpretsPoison s (.routeFiring cl u) cl u n keyBad) ∧
  (t.tag = 0 → stamp → keyBad = none → interpretsPoison s (.routeFiring cl u) cl u n (t.interp at0 off 4)) ∧
  (t.tag = 0 → ¬ stamp → keyBad = none →
    (o = 15 → fires ((counted s).jnEat cl j 0)) ∧
    (∀ k, o ≠ 15 → j.outs.getD o none = some k → s.noRoom cl [k] = [] →
      fires (((counted s).jnEat cl j 0).produce cl k [t]))) ∧
  (t.tag = 0 → stamp → keyBad = none → t.interp at0 off 4 = none →
    (o = 15 → fires ((counted (s.setJn cl u next)).jnEat cl next 0)) ∧
    (∀ k, o ≠ 15 → j.outs.getD o none = some k → s.noRoom cl [k] = [] →
      fires (((counted (s.setJn cl u next)).jnEat cl next 0).produce cl k [stamped]))) ∧
  (t.tag ≠ 0 → s.noRoom cl (j.outs.filterMap id) = [] →
    let v := (j.outs.filterMap id).foldl (fun v k => v.produce cl k [ctlTok t.tag]) (s.jnEat cl j 0)
    fires (if t.tag = 2 then v.endJn cl u (s.ctxAt n).sid j else v))

/-- R316: the table of the merge. -/
def mergeFirings (s : State) (cl u n k : Nat) (j : Jn) (l r : Tok) (al ar : Nat) : Prop :=
  let left := s.jnEat cl j 0
  let right := s.jnEat cl j 1
  let gives := fun (v : State) (t : Tok) => exec (.mergeFiring cl u) s = .next ((v.produce cl k [t]).fired cl (24 + u))
  let keyBad := (l.interp al (byteAt j.cfg 16) j.keyBytes).or (r.interp ar (byteAt j.cfg 16) j.keyBytes)
  (l.tag = 0 → r.tag = 0 → interpretsPoison s (.mergeFiring cl u) cl u n keyBad) ∧
  (l.bad = [] → r.bad = [] → s.noRoom cl [k] = [] →
    (l.tag = 0 → r.tag = 0 → j.key l ≤ j.key r → gives left l) ∧
    (l.tag = 0 → r.tag = 0 → j.key r < j.key l → gives right r) ∧
    (l.tag = 0 → r.tag = 1 ∨ r.tag = 2 → gives left l) ∧
    (l.tag = 1 ∨ l.tag = 2 → r.tag = 0 → gives right r) ∧
    (l.tag = 1 → r.tag = 2 → gives left (ctlTok 1)) ∧
    (l.tag = 2 → r.tag = 1 → gives right (ctlTok 1)) ∧
    (l.tag = 3 → gives left (ctlTok 3)) ∧
    (l.tag ≠ 3 → r.tag = 3 → gives right (ctlTok 3)) ∧
    (j.ins.getD 0 64 ≠ j.ins.getD 1 64 →
      (l.tag = 1 → r.tag = 1 → gives (left.jnEat cl j 1) (ctlTok 1)) ∧
      (l.tag = 2 → r.tag = 2 → exec (.mergeFiring cl u) s =
        .next ((((left.jnEat cl j 1).produce cl k [ctlTok 2]).endJn cl u (s.ctxAt n).sid j).fired cl (24 + u)))))

/-- R317: a reorder emits the slot of the lowest tag of its window where that is the next one, or where every input shows a
head and none a lesser tag, and passes a lone input's control token on with its window empty; EOS ends it. A DATA head is
otherwise stored at a free place of the work area. -/
def reorderFirings (s : State) (cl u n k : Nat) (j : Jn) (z : Nat) : Prop :=
  let fires := fun (v : State) => exec (.reorderFiring cl u) s = .next (v.fired cl (24 + u))
  let slot := fun place => fieldAt j.cfg 56 4 + place * z
  (∀ tag place, (tag, place) ∈ j.window → (∀ w ∈ j.window, w ≠ (tag, place) → tag.toNat < w.1.toNat) →
    (tag = j.tag ∨ ∀ i < j.ins.length, ∃ t r a, s.jnHead cl j i = some (t, r, a) ∧
      (t.tag = 0 → tag.toNat ≤ fieldAt t.data (byteAt j.cfg 20) 4)) →
    (∀ i t r a, s.jnHead cl j i = some (t, r, a) → t.bad = []) → s.spPoison = [] → s.noRoom cl [k] = [] →
    fires ((s.setJn cl u { j with tag := tag + 1, window := j.window.filter fun w => decide (w.2 ≠ place) }).produce cl k
      [{ tag := 0, data := s.readSpBytes cl (slot place) z }])) ∧
  (∀ o t r a, j.ins = [o] → j.window = [] → s.jnHead cl j 0 = some (t, r, a) → t.bad = [] →
    (t.tag = 0 → j.lastIn = 0 → 0 < fieldAt j.cfg 22 2 →
      fires (((s.putPBytes (((List.range z).map fun b =>
        ({ scratch := true, key := s.spCell cl (slot 0 + b), va := slot 0 + b } : Loc)).zip t.pbytes)).setJn cl u
          { j with window := [(BitVec.ofNat 32 (fieldAt t.data (byteAt j.cfg 20) 4), 0)] }).jnEat cl j 0)) ∧
    (t.tag = 1 ∨ t.tag = 3 → s.noRoom cl [k] = [] → fires ((s.jnEat cl j 0).produce cl k [ctlTok t.tag])) ∧
    (t.tag = 2 → s.noRoom cl [k] = [] →
      fires (((s.jnEat cl j 0).produce cl k [ctlTok 2]).endJn cl u (s.ctxAt n).sid j)))

/-- The pieces that complete the one tile of a band: its directory entry, and its list by ascending coordinate (R76, R77). -/
def oneTile (j : Jn) (es : List (Nat × Nat)) : List (Nat × List PByte) :=
  let eb := entryBytes j.fmt
  (j.setAt + 16, clean (leBytes 4 j.listAt ++ leBytes 4 es.length)) ::
    es.zipIdx.map fun e => (j.setAt + j.listAt + eb * e.2, clean (leBytes eb (e.1.2 + e.1.1 * 2 ^ (4 * eb))))

/-- R76, R77, R318: a pack takes the elements of a DATA slot, writes the header at its first firing and the directory entry
and list of every tile of a band that the slot completes; EOS completes the set with zeros and ends it. -/
def packFirings (s : State) (cl u n : Nat) (j : Jn) (t : Tok) : Prop :=
  let fires := fun (v : State) => exec (.packFiring cl u) s = .next (v.fired cl (24 + u))
  let head := j.packHead
  let area := 64 * j.cols * entryBytes j.fmt
  let writes := fun (j1 : Jn) => s.unitWrites (s.ctxAt n) j.setSpace cl (head.1 ++ (Jn.packBands (j1.bands + 1) j1).1)
  let after := fun (j1 : Jn) => (Jn.packBands (j1.bands + 1) j1).2
  (j.listAt = 0 → head = ([(j.setAt, clean (leBytes 4 j.rows ++ leBytes 4 j.cols ++ leBytes 1 j.fmt ++
    leBytes 1 (entryBytes j.fmt) ++ leBytes 6 0))], { j with listAt := 16 + 8 * ((j.rows + 63) / 64) * ((j.cols + 63) / 64) })) ∧
  (j.listAt ≠ 0 → head = ([], j)) ∧
  (∀ s', t.bad = [] →
    (t.tag = 0 → (head.2.gather t).count ≠ j.count → writes (head.2.gather t) = .ok () s' →
      fires (((s'.scramble cl (fieldAt j.cfg 56 4) area).setJn cl u (after (head.2.gather t))).jnEat cl (after (head.2.gather t)) 0)) ∧
    (t.tag = 0 → (head.2.gather t).count = j.count → writes (head.2.gather t) = .ok () s' →
      fires ((s'.setJn cl u (after (head.2.gather t))).jnEat cl (after (head.2.gather t)) 0)) ∧
    (t.tag = 1 ∨ t.tag = 3 → writes head.2 = .ok () s' → fires ((s'.setJn cl u (after head.2)).jnEat cl (after head.2) 0)) ∧
    (t.tag = 2 → let full := { head.2 with count := j.rows * j.cols }
      writes full = .ok () s' →
      fires (((s'.setJn cl u (after full)).jnEat cl (after full) 0).endJn cl u (s.ctxAt n).sid (after full)))) ∧
  (j.band = 0 → 0 < j.rows * j.cols → j.rows ≤ 64 → j.cols ≤ 64 → j.count = j.rows * j.cols → j.badEntries = [] →
    (∀ e ∈ j.entries, e.1 < j.count) →
    ∃ es, (Jn.packBands (j.bands + 1) j).1 = oneTile j es ∧ es.Pairwise (fun a b => a.1 ≤ b.1) ∧
      List.Perm es (j.entries.map fun e => (morton (e.1 / j.cols) (e.1 % j.cols), e.2))) ∧
  (j.count < (min ((j.band + 1) * 64) j.rows) * j.cols → Jn.packBands (j.bands + 1) j = ([], j))

/-- R77, R318: an unpack delivers the next elements of its set in a slot, each the value of the list entry with its
coordinate, or 0 where its tile's list has none; after the last it produces EOS and ends. -/
def unpackFirings (s : State) (cl u n k : Nat) (j : Jn) (z : Nat) : Prop :=
  let fires := fun (v : State) => exec (.unpackFiring cl u) s = .next (v.fired cl (24 + u))
  let total := j.rows * j.cols
  let c := s.ctxAt n
  let b := setBits j.fmt
  let eb := entryBytes j.fmt
  (j.listAt ≠ 0 → total ≤ j.count → fires ((s.produce cl k [ctlTok 2]).endJn cl u c.sid j)) ∧
  (∀ (head : List PByte) (dirs : List (List PByte)) (vs : Nat → Nat),
    s.unitReads c j.setSpace cl ((j.setAt, 16) :: (List.range (j.bands * j.tileCols)).map fun i => (j.setAt + 16 + 8 * i, 8)) =
      .ok (head :: dirs) s →
    let m := min (8 * z / b) (total - j.count)
    (j.listAt ≠ 0 ∨ j.setOk head dirs.flatten = true) → j.count < total →
    (∀ i < m, s.setElem cl j c dirs.flatten (j.count + i) = .ok (vs i, false) s) →
    fires ((s.setJn cl u { j with count := j.count + m, listAt := 1 }).produce cl k
      [{ tag := 0, data := leBytes z ((List.range m).foldr (fun i a => vs i * 2 ^ (b * i) + a) 0) }])) ∧
  (∀ (dir : List PByte) (i : Nat) (l : List (List PByte)) (s' : State),
    let row := i / j.cols
    let col := i % j.cols
    let entry := ((dir.drop (8 * (row / 64 * j.tileCols + col / 64))).take 8)
    let off := leNat ((entry.take 4).map Prod.fst)
    let len := leNat ((entry.drop 4).map Prod.fst)
    let coord := fun (e : List PByte) => leNat (e.map Prod.fst) / 2 ^ (4 * eb) % 2 ^ 12
    let want := morton (row % 64) (col % 64)
    (∀ x ∈ entry, x.2 = false) →
    s.unitReads c j.setSpace cl ((List.range len).map fun q => (j.setAt + off + eb * q, eb)) = .ok l s' →
    ((∀ e ∈ l, coord e ≠ want) → s.setElem cl j c dir i = .ok (0, false) s') ∧
    (∀ (p : Nat) (e : List PByte), l[p]? = some e → coord e = want →
      (∀ (q : Nat) (f : List PByte), q < p → l[q]? = some f → coord f ≠ want) → (∀ x ∈ e, x.2 = false) →
      s.setElem cl j c dir i = .ok (leNat (e.map Prod.fst) % 2 ^ b, false) s'))

end Sys2Proof.Claims

/-- R297, R308, R311 to R318, R330: what each firing of an address generator and of a junction does, of those that the
arbiter may grant in this cycle. A production of one token by any agent into a ring with room advances the write
index, takes one from every attached F_i and adds one to every attached T_i; a consumption takes one from T_i, adds
one to F_i and advances the read index. An element that a unit reads from the scratchpad is the bytes there. The
model's choices here are log entries 14, 15 and 16. -/
def Obligations.UnitFirings : Prop :=
  (∀ (s : State) (cl u n k : Nat) (g : Ag) (j : Jn) (t t2 : Tok) (r r2 : Ring) (a a2 : Nat),
     (agReady s cl u n g → agFirings s cl u n g) ∧
     (jnReady s cl u n j .route → s.jnHead cl j 0 = some (t, r, a) → routeFirings s cl u n j t a) ∧
     (jnReady s cl u n j .merge → s.jnHead cl j 0 = some (t, r, a) → s.jnHead cl j 1 = some (t2, r2, a2) → j.named = [k] →
       mergeFirings s cl u n k j t t2 a a2) ∧
     (jnReady s cl u n j .reorder → j.named = [k] → s.ringAt cl k = some r → reorderFirings s cl u n k j r.size) ∧
     (jnReady s cl u n j .pack → s.jnHead cl j 0 = some (t, r, a) → packFirings s cl u n j t) ∧
     (jnReady s cl u n j .unpack → j.named = [k] → s.noRoom cl [k] = [] → s.ringAt cl k = some r →
       unpackFirings s cl u n k j r.size)) ∧
  (∀ (s : State) (cl k i : Nat) (r : Ring) (t : Tok), s.ringAt cl k = some r → ringSound r →
     (r.room 1 = true → ∃ r', (s.produce cl k [t]).ringAt cl k = some r' ∧ r'.widx = (r.widx + 1) % r.slots ∧
       r'.eosp = (r.eosp || decide (t.tag = 2)) ∧ r'.ridx = r.ridx ∧
       (∀ j ∈ r.attached, r'.freeOf j + 1 = r.freeOf j ∧ r'.tokensOf j = r.tokensOf j + 1) ∧
       (∀ j ∈ r.detached, r'.tokensOf j = r.tokensOf j ∧ r'.freeOf j = r.freeOf j)) ∧
     (i ∈ r.attached → 0 < r.tokensOf i → poppedToken s (s.consume cl k i 1) cl k r i)) ∧
  (∀ (s : State) (c : Ctx) (cl a n : Nat), a + n ≤ 2 ^ 22 → s.perf = [] → s.writes = [] → s.spPoison = [] →
     s.unitRead c true cl a n = .ok ((s.readSpBytes cl a n).map fun b => (b, false)) s)

/-! ## Engines (R321 to R330) -/

/-- R322, R324, R326 to R328: cp.copy, bp.run and bp.twl with records that keep their rules and room in the FIFO
append one entry and count it, as a release; the strand goes on, and no byte changes. An idle pipe starts the pass,
its gate token consumed, or runs the twiddle load, at the head of a FIFO; a load copies the bytes of the scratchpad to
the RAM; an idle copy engine starts the command at the head of its FIFO, its wait milestone met and no turn of its
command channel due. The model's choices here are log entries 24, 25 and 26. -/
def Obligations.EngineCommandsAndStarts : Prop :=
  (∀ (s s' s2 : State) (e : Bool) (ra rb : XReg) (l : List Byte) (job : BpJob) (cl : Nat),
     (reads s s' ra 64 l → copyOk s.me.clusters.length l = true →
       (s'.copyAt (s.me.copyCmd s'.cur l).2 (if e then 1 else 0)).fifo.length < 16 →
       completes (.cpCopy e ra) s fun t =>
         let cl := (s.me.copyCmd s'.cur l).2
         let x := s'.copyAt cl (if e then 1 else 0)
         t.copyAt cl (if e then 1 else 0) = { x with fifo := x.fifo ++ [(s.me.copyCmd s'.cur l).1], pushed := x.pushed + 1 } ∧
           otherUnitsReleased s' t [cl] ∧ t.ctxs = (s'.setMe (onward s'.me)).ctxs) ∧
     (s.me.share ≠ 0 → reads s s' ra 64 l → s'.passJob s.me (s.me.reg ra) l = some (job, cl, s2) →
       (s'.bpAt cl s.me.shareNo).fifo.length < 8 →
       completes (.bpRun ra) s fun t =>
         let b := s2.bpAt cl s.me.shareNo
         t.bpAt cl s.me.shareNo = { b with fifo := b.fifo ++ [job], pushed := b.pushed + 1 } ∧
           otherUnitsReleased s2 t [cl] ∧
           t.ctxs = (s2.setMe (onward s2.me)).ctxs) ∧
     (s.me.share ≠ 0 → (∀ k ∈ s.me.clusters, (s.bpAt k s.me.shareNo).fifo.length < 8) →
       let n := (s.me.reg rb).toNat
       n ≠ 0 → n % 4 = 0 → n ≤ (if s.me.share = 3 then 16384 else 8192) → (s.me.reg ra).toNat + n ≤ 2 ^ 22 →
       completes (.bpTwl ra rb) s fun t =>
         (∀ k ∈ s.me.clusters, let b := s.bpAt k s.me.shareNo
           t.bpAt k s.me.shareNo = { b with
             fifo := b.fifo ++ [.twl (s.me.reg ra).toNat n (decide (s.me.share = 3)) s.me.sid], pushed := b.pushed + 1 }) ∧
           otherUnitsReleased s t s.me.clusters ∧ t.ctxs = (s.setMe (onward s.me)).ctxs)) ∧
  (∀ (s : State) (cl share e : Nat) (l : List Byte) (addr : Word) (sid ctx c0 q : Nat) (coef pch dn : Option Nat)
     (ci pi src n : Nat) (low full : Bool) (rest : List BpJob) (k : CopyCmd) (ks : List CopyCmd) (gate : Option Nat) (gi : Nat),
     (share < 2 → s.bpIdle cl = true → s.pipeRuns cl [gate, dn, coef, pch] = true → (s.clAt cl).bpTurn = share →
       (s.bpAt cl share).fifo = .pass l addr sid ctx c0 q gate dn coef pch gi ci pi low full :: rest →
       ((gate = none ∧ dn = none ∧ coef = none ∧ pch = none) ∨ s.mayFire cl 40 = true) →
       (∀ g, gate = some g → ∃ r, s.ringAt cl g = some r ∧ 0 < r.tokensOf gi) →
       let s1 := match gate with | some g => s.consume cl g gi 1 | none => s
       let s2 := s1.setBp cl share { s.bpAt cl share with running := some { endAt := s.cycle + passCycles l } }
       exec (.bpPassStart cl share) s =
         .next (State.pipeFired (s2.setCl cl { s2.clAt cl with bpTurn := 1 - share }) cl share s)) ∧
     (share < 2 → s.bpIdle cl = true → (s.bpAt cl share).fifo = .twl src n full sid :: rest → Memory.wf s.twl = true →
       s.spPoison = [] → completes (.twiddleLoad cl share) s fun t =>
         (∀ i, i < n → smGet 0 t.twl (cl * 16384 + 8192 * share + i) = s.readSp cl (src + i)) ∧
         (∀ x, (x < cl * 16384 + 8192 * share ∨ cl * 16384 + 8192 * share + n ≤ x) → smGet 0 t.twl x = smGet 0 s.twl x) ∧
         t.bpAt cl share = { s.bpAt cl share with fifo := rest, completed := (s.bpAt cl share).completed + 1 } ∧
         t = { s with clusters := t.clusters, twl := t.twl, twlPoison := t.twlPoison }) ∧
     (e < 2 → (s.copyAt cl e).active = none → (s.copyAt cl e).fifo = k :: ks → (s.copyAt cl e).frozen = false →
       (∀ m, smFind (42 + e) (s.clAt cl).copyCmd = some m → m.turn = false ∨ s.cmdHead cl (42 + e) m = none) →
       (∀ w, msField k.rcd 8 = some w → fieldAt k.rcd 12 4 ≤ (s.msAt cl w).count.toNat) →
       completes (.cpCommandStart cl e) s fun t =>
         t.copyAt cl e = { s.copyAt cl e with
           active := some k, fifo := ks, pos := 0, saved := [], readyAt := s.cycle + copyCycles k.rcd } ∧
         (t.clAt cl).copyCmd = (match smFind (42 + e) (s.clAt cl).copyCmd with
           | some m => smPut (42 + e) { m with turn := !k.fromChan } (s.clAt cl).copyCmd
           | none => (s.clAt cl).copyCmd) ∧ otherUnits s t cl ∧ t.ctxs = s.ctxs))

/-- R310, R321, R325, R328: a copy command whose accesses all succeed ends with its writes made, counted, and its
milestone reached, its writes performed before it; a pass runs the groups whose slots are there, and once they are
done and its time is out ends with its outputs and its STATUS written, then its flags, its DONE token and its
milestone. A copy engine takes a command record, and a matrix node a command slot, from the head of its command
channel; at EOS the unit's channel ends. A channel's watchdog that runs out reports CH_STALL to the strand that waits
for room. The model's choices here are log entries 18 and 25. -/
def Obligations.EngineEndsAndCommandChannels : Prop :=
  (∀ (s s1 s2 s3 : State) (cl share e sid ctx c0 q ci pi cg : Nat) (k : CopyCmd) (c : Ctx) (w : List (Loc × PByte))
     (l : List Byte) (addr : Word) (coef pch dn : Option Nat) (low full : Bool) (rest : List BpJob) (d d1 d2 : BpDone)
     (st : Word) (gate : Option Nat),
     ((s.copyAt cl e).active = some k → (s.copyAt cl e).frozen = false → (s.copyAt cl e).readyAt ≤ s.cycle →
       s.unitAsked cl (42 + e) = false → s.strandCtx k.sid = some c →
       State.copyRun cl c k (s.copyAt cl e).saved (copyTotal k.rcd - (s.copyAt cl e).pos) (s.copyAt cl e).pos [] s =
         (copyTotal k.rcd, w, none, s1) →
       exec (.cpCommandComplete cl e) s = .next (((((s1.copyApply cl w).performUnits cl 1).setCopy cl e { s.copyAt cl e with
         active := none, pos := 0, saved := [], completed := (s.copyAt cl e).completed + 1 }).arriveField cl k.rcd 4 k.sid).perfCount
         cl 0x0B (some c.pasid) 1)) ∧
     ((s.bpAt cl share).running = some d → d.status = none → s.cycle < d.endAt → s.unitAsked cl 40 = false →
       (s.bpAt cl share).fifo = .pass l addr sid ctx c0 q gate dn coef pch cg ci pi low full :: rest →
       s.pipeRuns cl [gate, dn, coef, pch] = true →
       ((gate = none ∧ dn = none ∧ coef = none ∧ pch = none) ∨ s.mayFire cl 40 = true) →
       State.bpGroups cl share full l q coef pch ci pi (groupCount l) d s = (d1, s1) → d1.status = none →
       exec (.bpPassEnd cl share) s =
         .next (State.pipeFired (s1.setBp cl share { s1.bpAt cl share with running := some d1 }) cl share s)) ∧
     ((s.bpAt cl share).running = some d → d.status = none → d.endAt ≤ s.cycle → s.unitAsked cl 40 = false →
       (s.bpAt cl share).fifo = .pass l addr sid ctx c0 q gate dn coef pch cg ci pi low full :: rest →
       s.pipeRuns cl [gate, dn, coef, pch] = true →
       ((gate = none ∧ dn = none ∧ coef = none ∧ pch = none) ∨ s.mayFire cl 40 = true) →
       State.bpGroups cl share full l q coef pch ci pi (groupCount l) d s = (d1, s1) →
       (d1.modErr.isSome = true ∨ groupCount l ≤ d1.next) → d1.status = none →
       s1.passWrite cl l d1 = (s2, d2) → d2.status = some st → d2.posted = 0 →
       s2.passStatusWrite cl sid addr st = (some s3, s3) → (∀ x, dn = some x → s3.noRoom cl [x] = []) →
       exec (.bpPassEnd cl share) s = .next (State.pipeFired (State.passPost (match dn with
         | some x => s3.produce cl x [{ tag := 0, data := leBytes 8 st.toNat }]
         | none => s3) cl share sid l { d2 with posted := 1 }) cl share s))) ∧
  (∀ (s : State) (cl a n due : Nat) (m : CmdChan) (t : Tok) (r : Ring) (q : Nat × Nat × Nat × Nat × Nat),
     (a = 41 ∨ a = 42 ∨ a = 43 → (if a = 41 then (s.clAt cl).nodeCmd else smFind a (s.clAt cl).copyCmd) = some m →
       s.runsIn cl a = some n → s.cmdHead cl a m = some (t, r) → s.cmdTurn cl a m (s.ctxAt n) = true →
       s.mayFire cl a = true →
       (t.tag = 2 → exec (.commandChannelTake cl a) s =
         .next (((s.consume cl m.ring m.cidx 1).setCmd cl a { m with ended := true }).fired cl a)) ∧
       (a = 41 → t.tag = 0 → t.bad = [] → ∀ k, s.slotToken (s.ctxAt n) n t.data = some k →
         exec (.commandChannelTake cl a) s =
           .next (((s.consume cl m.ring m.cidx 1).insertToken cl (s.ctxAt n).shareNo k).fired cl a)) ∧
       (a ≠ 41 → t.tag = 0 → t.bad = [] → 64 ≤ t.data.length → copyOk (s.ctxAt n).clusters.length t.data = true →
         let s1 := (s.consume cl m.ring m.cidx 1).setCmd cl a { m with turn := false }
         let x := s1.copyAt cl (a - 42)
         exec (.commandChannelTake cl a) s = .next ((s1.setCopy cl (a - 42) { x with
           fifo := { ((s.ctxAt n).copyCmd n t.data).1 with fromChan := true } :: x.fifo, pushed := x.pushed + 1 }).fired cl a))) ∧
     (s.stallDue cl a = some due → due ≤ s.ticks → s.ringAt cl a = some r →
       (s.pending.find? fun q => decide (q.1 = cl) && decide (q.2.1 = a)) = some q →
       completes (.chStall cl a) s fun t =>
         (t.ctxAt q.2.2.1).async = (s.ctxAt q.2.2.1).async ++
           [trapOf causeChStall ((r.lacking q.2.2.2.2).getD 0) (BitVec.ofNat 64 q.2.2.2.1)] ∧
         t.ringAt cl a = some { r with stall := .reported (s.ctxAt q.2.2.1).sid } ∧ ringsKept s t cl a ∧ onlyUnits s t))

/-! ## Matrix nodes (R219 to R228) -/

namespace Sys2Proof.Claims

/-- The matrix instructions as operation, accumulator, tile operands and rounding (R221). -/
def mxOf : Instr → Option (BitVec 3 × Nat × Nat × Nat × BitVec 3)
  | .mxMma acc ta tb => some (0, acc.toNat, ta.toNat, tb.toNat, 0)
  | .mxMms acc ta tb => some (1, acc.toNat, ta.toNat, tb.toNat, 0)
  | .mxZacc acc => some (2, acc.toNat, 0, 0, 0)
  | .mxRnd td acc rm => some (3, acc.toNat, td.toNat, 0, rm)
  | _ => none

/-- A share's node. -/
def nodeOf (s : State) (cl share : Nat) : Node := smGet ({} : Node) (s.clAt cl).nodes share

end Sys2Proof.Claims

/-- R214, R221, R222, R224 to R227, R284: an mx instruction that passes its checks waits while a FIFO of its span is
full, and otherwise dispatches its token on every spanned node, to complete after the last stream before it, its own
stream and its fill, as a release; MXLAT receives the latency; a null token completes at once with latency 0. mx.settl
writes the three lengths, capped, to the CSRs and to their registers. A token at its completion time on every node of
its span leaves their FIFOs and counts. A product's entries become the accumulation of their steps, mx.zacc's 0;
mx.rnd writes the rounded tile elements and the tile's ROWS, COLS, TR and FB; every other accumulator entry, every
other tile element and every memory byte keeps its value. One that meets a poisoned row writes nothing and reports it.
The model's choices here are log entry 81. -/
def Obligations.MatrixTokens : Prop :=
  (∀ (s : State) (i : Instr) (op : BitVec 3) (acc ta tb : Nat) (rm : BitVec 3) (xm xn xk : XReg),
     (mxOf i = some (op, acc, ta, tb, rm) →
       let c := s.me
       let t := c.token s.cur op acc ta tb rm c.mxm.toNat c.mxn.toNat c.mxk.toNat
       let start := c.clusters.foldl (fun m cl => max m (nodeOf s cl c.shareNo).streamEnd) s.cycle
       let others := fun (u : State) => (∀ cl, cl ∉ c.clusters → u.clAt cl = s.clAt cl) ∧
         u = { s with clusters := u.clusters, ctxs := u.ctxs, nextId := s.nextId + 1, writes := u.writes, moment := u.moment } ∧
         (s.writes = [] → u.writes = [] ∧ u.moment = s.moment)
       c.tokenCheck t = none →
       ((∃ cl ∈ c.clusters, 16 ≤ (nodeOf s cl c.shareNo).fifo.length) →
         exec i s = .next (s.setMe { c with wait := some .engine })) ∧
       ((∀ cl ∈ c.clusters, (nodeOf s cl c.shareNo).fifo.length < 16) →
         (t.null = false → completes i s fun u =>
           (∀ cl ∈ c.clusters, let n := nodeOf s cl c.shareNo
             nodeOf u cl c.shareNo = { n with
               fifo := n.fifo ++ [{ t with num := s.nextId, doneAt := start + t.stream.1 + t.stream.2 }]
               streamEnd := start + t.stream.1, dispatched := n.dispatched + 1 }) ∧ others u ∧
           u.me = onward { c with mxlat := BitVec.ofNat 64 ((start + t.stream.1 + t.stream.2 - s.cycle) % 2 ^ 16) }) ∧
         (t.null = true → s.perf = [] → (∀ cl ∈ c.clusters, (s.clAt cl).nodeCmd = none) → completes i s fun u =>
           (∀ cl ∈ c.clusters, let n := nodeOf s cl c.shareNo
             nodeOf u cl c.shareNo = { n with dispatched := n.dispatched + 1, completed := n.completed + 1 }) ∧ others u ∧
           u.me = onward { c with mxlat := 0 }))) ∧
     (s.me.share ≠ 0 →
       let m := BitVec.ofNat 64 (min (s.me.reg xm).toNat s.me.shareRows)
       let n := BitVec.ofNat 64 (min (s.me.reg xn).toNat 128)
       let k := BitVec.ofNat 64 (min (s.me.reg xk).toNat s.me.shareRows)
       exec (.mxSettl xm xn xk) s = .next (s.setMe (onward { putReg (putReg (putReg s.me xm m) xn n) xk k with
         mxm := m, mxn := n, mxk := k })))) ∧
  (∀ (s : State) (cl share : Nat) (t : Token) (rest : List Token), (nodeOf s cl share).fifo = t :: rest → t.span.Nodup →
     (∀ k ∈ t.span, ∃ h l, (nodeOf s k share).fifo = h :: l ∧ h.num = t.num ∧ h.doneAt ≤ s.cycle) → s.perf = [] →
     (∀ k ∈ t.span, (s.clAt k).nodeCmd = none) →
     let popped := fun (u : State) => ∀ k ∈ t.span, nodeOf u k share =
       { nodeOf s k share with fifo := (nodeOf s k share).fifo.tail, completed := (nodeOf s k share).completed + 1 }
     (∀ x n, s.tileUe (t.span.flatMap t.reads) = some x → s.ctxOf t.sid = some n →
       completes (.mxTokenComplete cl share) s fun u => popped u ∧ u.accs = s.accs ∧ u.tiles = s.tiles ∧ u.idxs = s.idxs ∧
         u.ctxAt n = { s.ctxAt n with async := (s.ctxAt n).async ++ [x] }) ∧
     (s.tilePoison = [] → smWf (0 : BitVec 40) s.accs = true → Memory.wf s.tiles = true → t.acc < 4 → t.ta < 8 →
       t.lowRow + t.m ≤ 128 → t.lowRow + t.rows ≤ 128 → t.n ≤ 128 → t.op.toNat ≤ 3 →
       let b := fmtBits (tcFmt t.fmtA)
       let size := if t.op.toNat ≤ 1 then (t.m, t.n) else if t.op.toNat = 2 then (t.rows, 128) else (0, 0)
       completes (.mxTokenComplete cl share) s fun u => popped u ∧ sameBytes s u ∧ u.idxs = s.idxs ∧
         (∀ k ∈ t.span,
           (t.op.toNat ≤ 1 → ∀ i j, i < t.m → j < t.n → u.accAt k t.acc (t.lowRow + i) j =
             s.tokenEntry k t (s.tokenSteps k t i) i j % 2 ^ 40) ∧
           (t.op.toNat = 2 → ∀ i j, i < t.rows → j < 128 → u.accAt k t.acc (t.lowRow + i) j = 0) ∧
           (t.op.toNat = 3 → ∀ i j, i < t.m → b * (j + 1) ≤ 2048 → u.tileElem k t.ta (t.lowRow + i) b j =
             if j < t.n then
               rndValue (t.accfmt.toNat / 4 ^ t.acc % 4) (tcFmt t.fmtA) t.rm (s.accAt k t.acc (t.lowRow + i) j) % 2 ^ b
             else s.tileElem k t.ta (t.lowRow + i) b j)) ∧
         (∀ q, (∀ k ∈ t.span, ∀ i j, i < size.1 → j < size.2 → q ≠ accKey k t.acc (t.lowRow + i) j) →
           smGet 0 u.accs q = smGet 0 s.accs q) ∧
         (t.op.toNat ≠ 3 → u.tiles = s.tiles ∧ ∀ n, u.ctxAt n = s.ctxAt n) ∧
         (t.op.toNat = 3 → (∀ q, (∀ k ∈ t.span, ∀ i y, i < t.m → y < 256 → q ≠ tileKey k t.ta (t.lowRow + i) y) →
             smGet 0 u.tiles q = smGet 0 s.tiles q) ∧
           ∀ n, s.ctxOf t.sid = some n → let w := (s.ctxAt n).tc t.ta
             u.ctxAt n = (s.ctxAt n).setTc t.ta (tcWord false false (tcM w) (tcN w) t.n t.m (tcFmt w)))))


/-! ## Vector slots (R22, R119 to R126, R169, R170) -/

namespace Sys2Proof.Claims

/-- What a slot of the open convoy sees. -/
def slotEnv (s : State) (cv : Convoy) : VEnv := { s := s, c := s.me, cv := cv }

/-- The current strand has an open convoy, and no slice is poisoned. -/
def openSlot (s : State) (cv : Convoy) : Prop := s.me.viq = [cv] ∧ s.slicePoison = []

/-- The instruction as its word has it: a row that shares another's opcode is that one with its fn field (R85, R196). -/
def asRun : Instr → Instr
  | .vslideUp f => .vslideDown { f with fn := 1 }
  | .vslideRot f => .vslideDown { f with fn := 2 }
  | .vbcastFib f => .vbcast { f with fn := 1, mode := 0 }
  | .tldP f => .tld { f with fn := f.fn ||| 1 }
  | .tpruneT f => .tprune { f with fn := 1 }
  | i => i

/-- What a slot adds to its convoy, with its extra cycles and the alias class of its instruction. -/
def logged (s : State) (cv : Convoy) (i : Instr) (a : VAcc) : VAcc :=
  { a with log := { a.log with
      cross := (slotEnv s cv).crossings (asRun i) a.log, cls := clsOf (asRun i), through := throughOf (asRun i) } }

/-- The destination rows that a slot marks as written: those of its elements, and those of its writes (R130). -/
def marks (v : VEnv) (o : Opnd) (g : SlotLog) : Prop :=
  g.rows.Nodup ∧ ∀ x, x ∈ g.rows ↔ x ∈ v.rowsOf o ∨ ∃ w ∈ g.slices, x = (w.row, o.s + o.w * w.row, o.w)

/-- The state after a slot of the open convoy ran with a log and at most one fault, where memory was translated on the way:
the log joins the convoy's, and nothing else changes until the convoy retires. -/
def slotRanIn (s s' : State) (cv : Convoy) (i : Instr) (a : VAcc) : State :=
  s'.setMe { s'.me with viq := [cv.push (logged s cv i a)] }

/-- The same without memory. -/
def slotRan (s : State) (cv : Convoy) (i : Instr) (a : VAcc) : State := slotRanIn s s cv i a

/-- One element written to a slot's log, newest first (R10, R90). -/
def putElem (v : VEnv) (d : VDest) (e x : Nat) (g : SlotLog) : SlotLog :=
  match d with
  | .slices o => { g with slices := (v.put o e x).reverse ++ g.slices }
  | .pred p => { g with preds := v.putPred p e (x % 2 == 1) :: g.preds }

/-- The loop of R169 over elements in ascending order: an active element is computed and written, its flags noted (R44); a
fault, or a flag that is enabled (R45), ends the loop at it; an inactive element is zeroed under .z and else kept. -/
def laneRun (v : VEnv) (d : VDest) (p : BitVec 4) (pz : Bool)
    (val : List SliceWrite → Nat → Except TrapInfo (Nat × FpFlags)) : List Nat → SlotLog → VAcc
  | [], g => { log := g }
  | e :: l, g =>
    if v.act p e then
      match val g.slices e with
      | .error t => { log := g, fault := some (e, t) }
      | .ok (x, fl) =>
        if fl &&& v.c.fcsr.extractLsb' 6 6 ≠ 0 then { log := g, fault := some (e, trapOf causeFpExc fl.toNat 0) }
        else
          let g := putElem v d e x g
          laneRun v d p pz val l (if fl = 0 then g else { g with flags := (e, fl) :: g.flags })
    else laneRun v d p pz val l (if pz then putElem v d e 0 g else g)

/-- What a slot of R169 does: its writes in program order, with the rows of its destination. -/
def laneSlot (v : VEnv) (d : VDest) (p : BitVec 4) (pz : Bool)
    (val : List SliceWrite → Nat → Except TrapInfo (Nat × FpFlags)) : VAcc :=
  let a := laneRun v d p pz val ((List.range (v.cv.vl - v.cv.vstart)).map (v.cv.vstart + ·)) {}
  { a with log := { a.log with
      slices := a.log.slices.reverse
      preds := a.log.preds.reverse
      flags := a.log.flags.reverse
      rows := match d with | .slices o => v.rowsOf o | .pred _ => [] } }

/-- A row of the tables of spec 06: destination, predicate, zeroing, and F(e) with the flags of it. -/
abbrev LaneRow := VDest × BitVec 4 × Bool × (List SliceWrite → Nat → Except TrapInfo (Nat × FpFlags))

/-- S1(e), S2(e) and D(e) as bit strings (R170). -/
def src1Bits (v : VEnv) (f : VR) (own : List SliceWrite) (e : Nat) : Nat := v.getAt own f.src1 e (v.row e)
def src2Bits (v : VEnv) (f : VR) (own : List SliceWrite) (e : Nat) : Nat :=
  if f.mode = 3 then (v.c.reg f.src2.reg).toNat
  else v.getAt own f.src2 (if f.mode = 0 then e else if f.mode = 1 then 0 else e % 2 ^ (f.seg.toNat + 1)) (v.row e)
def destBits (v : VEnv) (f : VR) (own : List SliceWrite) (e : Nat) : Nat := v.getAt own f.dest e (v.row e)
def src2Width (f : VR) : Nat := if f.mode = 3 then 16 else f.src2.w

/-- The integer of a bit string of n slices: signed unless ext (R37). -/
def intBits (ext : Bool) (n x : Nat) : Int := intOf (!ext) (4 * n) x

/-- An integer row: F of a = Int(S1), b = Int(S2) and d = Int(D), into the destination. -/
def intRow (v : VEnv) (f : VR) (F : Int → Int → Int → Nat) : LaneRow :=
  (.slices f.dest, f.pred, f.pz, fun own e => .ok (F (intBits f.ext f.src1.w (src1Bits v f own e))
    (intBits f.ext (src2Width f) (src2Bits v f own e)) (intBits f.ext f.dest.w (destBits v f own e)), 0))

/-- A shift row: F of the value at the destination's width and the amount modulo that width (R40). -/
def shiftRow (v : VEnv) (f : VR) (F : Nat → Nat → Nat) : LaneRow :=
  (.slices f.dest, f.pred, f.pz, fun own e =>
    .ok (F (wrapTo (4 * f.dest.w) (intBits f.ext f.src1.w (src1Bits v f own e))) (src2Bits v f own e % (4 * f.dest.w)), 0))

/-- A row over the bits of source 1. -/
def bitsRow (v : VEnv) (f : VR) (F : Nat → Nat) : LaneRow :=
  (.slices f.dest, f.pred, f.pz, fun own e => .ok (F (src1Bits v f own e), 0))

/-- The six conditions of R176. -/
def condition (cc : Nat) (a b : Int) : Bool :=
  if cc = 0 then decide (a = b) else if cc = 1 then decide (a ≠ b) else if cc = 2 then decide (a < b)
  else if cc = 3 then decide (a ≥ b) else if cc = 4 then decide (a ≤ b) else decide (a > b)

/-- An immediate row (R177). -/
def immRow (v : VEnv) (f : VI) (F : Int → Int → Nat) : LaneRow :=
  (.slices f.dest, f.pred, f.pz, fun own e =>
    .ok (F (intBits f.ext f.src1.w (v.getAt own f.src1 e (v.row e))) f.imm.toInt, 0))

/-- Nar(Q) of R38 at n slices. -/
def nar (sat ext : Bool) (n : Nat) (q : Int) : Nat := narrow sat (!ext) (4 * n) q

/-- The integer rows of R174 to R177. -/
def integerRow (v : VEnv) : Instr → Option LaneRow
  | .vadd f => some (intRow v f fun a b _ => nar f.sat f.ext f.dest.w (a + b))
  | .vsub f => some (intRow v f fun a b _ => nar f.sat f.ext f.dest.w (a - b))
  | .vrsub f => some (intRow v f fun a b _ => nar f.sat f.ext f.dest.w (b - a))
  | .vmul f => some (intRow v f fun a b _ => nar f.sat f.ext f.dest.w (a * b))
  | .vmulh f => some (intRow v f fun a b _ => nar f.sat f.ext f.dest.w (a * b / (2 ^ (4 * f.dest.w) : Nat)))
  | .vmacc f => some (intRow v f fun a b d => nar f.sat f.ext f.dest.w (d + a * b))
  | .vnmac f => some (intRow v f fun a b d => nar f.sat f.ext f.dest.w (d - a * b))
  | .vdiv f => some (intRow v f fun a b _ => nar f.sat f.ext f.dest.w
      (divBy (!f.ext) (4 * max f.src1.w (max (src2Width f) f.dest.w)) a b))
  | .vrem f => some (intRow v f fun a b _ => nar f.sat f.ext f.dest.w (remBy a b))
  | .vmin f => some (intRow v f fun a b _ => nar f.sat f.ext f.dest.w (min a b))
  | .vmax f => some (intRow v f fun a b _ => nar f.sat f.ext f.dest.w (max a b))
  | .vand f => some (intRow v f fun a b _ => Nat.land (wrapTo (4 * f.dest.w) a) (wrapTo (4 * f.dest.w) b))
  | .vor f => some (intRow v f fun a b _ => Nat.lor (wrapTo (4 * f.dest.w) a) (wrapTo (4 * f.dest.w) b))
  | .vxor f => some (intRow v f fun a b _ => Nat.xor (wrapTo (4 * f.dest.w) a) (wrapTo (4 * f.dest.w) b))
  | .vandn f => some (intRow v f fun a b _ =>
      Nat.land (wrapTo (4 * f.dest.w) a) (2 ^ (4 * f.dest.w) - 1 - wrapTo (4 * f.dest.w) b))
  | .vsll f => some (shiftRow v f fun x n => x * 2 ^ n % 2 ^ (4 * f.dest.w))
  | .vsrl f => some (shiftRow v f fun x n => x / 2 ^ n)
  | .vsra f => some (shiftRow v f fun x n => wrapTo (4 * f.dest.w) (intOf true (4 * f.dest.w) x / (2 ^ n : Nat)))
  | .vclz f => some (bitsRow v f fun x => nar f.sat f.ext f.dest.w (leadZeros (4 * f.src1.w) x : Nat))
  | .vpopc f => some (bitsRow v f fun x => nar f.sat f.ext f.dest.w (popCount (4 * f.src1.w) x : Nat))
  | .vabs f => some (bitsRow v f fun x => nar f.sat f.ext f.dest.w ((intBits f.ext f.src1.w x).natAbs : Nat))
  | .vmv f => some (intRow v f fun _ b _ => nar f.sat f.ext f.dest.w b)
  | .vid f => some (.slices f.dest, f.pred, f.pz, fun _ e => .ok (nar f.sat f.ext f.dest.w (e : Nat), 0))
  | .vsel f => some (.slices f.dest, 12, false, fun own e => .ok (nar f.sat f.ext f.dest.w
      (if v.pred f.pred.toNat e then intBits f.ext f.src1.w (src1Bits v f own e)
        else intBits f.ext (src2Width f) (src2Bits v f own e)), 0))
  | .vcmp f => some (.pred f.dest.s, f.pred, f.pz, fun own e =>
      .ok (if condition f.fn.toNat (intBits f.ext f.src1.w (src1Bits v f own e))
        (intBits f.ext (src2Width f) (src2Bits v f own e)) then 1 else 0, 0))
  | .vaddi f => some (immRow v f fun a i => nar f.sat f.ext f.dest.w (a + i))
  | .vandi f => some (immRow v f fun a i => Nat.land (wrapTo (4 * f.dest.w) a) (wrapTo (4 * f.dest.w) i))
  | .vori f => some (immRow v f fun a i => Nat.lor (wrapTo (4 * f.dest.w) a) (wrapTo (4 * f.dest.w) i))
  | .vxori f => some (immRow v f fun a i => Nat.xor (wrapTo (4 * f.dest.w) a) (wrapTo (4 * f.dest.w) i))
  | .vslli f => some (immRow v f fun a _ =>
      wrapTo (4 * f.dest.w) a * 2 ^ (f.imm.toNat % 64 % (4 * f.dest.w)) % 2 ^ (4 * f.dest.w))
  | .vsrli f => some (immRow v f fun a _ => wrapTo (4 * f.dest.w) a / 2 ^ (f.imm.toNat % 64 % (4 * f.dest.w)))
  | .vsrai f => some (immRow v f fun a _ => wrapTo (4 * f.dest.w)
      (intOf true (4 * f.dest.w) (wrapTo (4 * f.dest.w) a) / (2 ^ (f.imm.toNat % 64 % (4 * f.dest.w)) : Nat)))
  | .vmvi f => some (.slices f.dest, f.pred, f.pz, fun _ _ => .ok (nar f.sat f.ext f.dest.w f.imm.toInt, 0))
  | .vcmpi f => some (.pred f.dest.s, f.pred, f.pz, fun own e =>
      .ok (if condition f.fn.toNat (intBits f.ext f.src1.w (v.getAt own f.src1 e (v.row e))) f.imm.toInt then 1 else 0, 0))
  | _ => none

/-- A float row: an exact value with its flags, rounded once into the destination (R41, R44, R178). -/
def realRow (v : VEnv) (f : VR) (mode : Nat) (F : FVal → FVal → FVal → FVal × FpFlags) : LaneRow :=
  (.slices f.dest, f.pred, f.pz, fun own e =>
    let x := F (decW f.src1.w f.sat (src1Bits v f own e))
      (decW (if f.mode = 3 then f.src1.w else f.src2.w) f.sat (src2Bits v f own e))
      (decW f.dest.w false (destBits v f own e))
    .ok ((roundW f.dest.w mode x.1).1, x.2 ||| (roundW f.dest.w mode x.1).2))

/-- A complex product row, with the old destination added or not (R52, R183). -/
def complexRow (v : VEnv) (f : VR) (mode : Nat) (acc : Bool) : LaneRow :=
  (.slices f.dest, f.pred, f.pz, fun own e =>
    let a := decC f.src1.w (src1Bits v f own e)
    let b := decC (if f.mode = 3 then f.src1.w else f.src2.w) (src2Bits v f own e)
    let bi := if f.ext then b.2.negate else b.2
    let d := decC f.dest.w (destBits v f own e)
    let re := sumOfProducts (mode == 2) [(a.1, b.1), (a.2.negate, bi)] (if acc then [d.1] else [])
    let im := sumOfProducts (mode == 2) [(a.1, bi), (a.2, b.1)] (if acc then [d.2] else [])
    .ok ((roundC f.dest.w mode re.1 im.1).1, re.2 ||| im.2 ||| (roundC f.dest.w mode re.1 im.1).2))

/-- The float rows of R179 to R183. -/
def floatRow (v : VEnv) : Instr → Option LaneRow
  | .vfadd f => let m := modeOf f.fn v.cv.dyn; some (realRow v f m fun a b _ => sumF (m == 2) [a, b])
  | .vfsub f => let m := modeOf f.fn v.cv.dyn; some (realRow v f m fun a b _ => sumF (m == 2) [a, b.negate])
  | .vfmul f => let m := modeOf f.fn v.cv.dyn; some (realRow v f m fun a b _ => sumOfProducts (m == 2) [(a, b)] [])
  | .vfmacc f => let m := modeOf f.fn v.cv.dyn; some (realRow v f m fun a b d => sumOfProducts (m == 2) [(a, b)] [d])
  | .vfnmsac f => let m := modeOf f.fn v.cv.dyn
    some (realRow v f m fun a b d => sumOfProducts (m == 2) [(a.negate, b)] [d])
  | .vfdiv f => some (realRow v f (modeOf f.fn v.cv.dyn) fun a b _ => divF a b)
  | .vfsqrt f => some (realRow v f (modeOf f.fn v.cv.dyn) fun a _ _ => sqrtF a)
  | .vfmin f => some (realRow v f 0 fun a b _ => minMaxF false a b)
  | .vfmax f => some (realRow v f 0 fun a b _ => minMaxF true a b)
  | .vfcmp f => some (.pred f.dest.s, f.pred, f.pz, fun own e =>
      let r := compareF f.fn.toNat (decW f.src1.w f.sat (src1Bits v f own e))
        (decW (if f.mode = 3 then f.src1.w else f.src2.w) f.sat (src2Bits v f own e))
      .ok (if r.1 then 1 else 0, r.2))
  | .vfclass f => some (bitsRow v f fun x => 2 ^ classBit ((fmtOfWidth f.src1.w).getD .fp32) (decW f.src1.w false x))
  | .vfexp2 f => some (realRow v f 0 fun a _ _ => exp2F a)
  | .vflog2 f => some (realRow v f 0 fun a _ _ => log2F a)
  | .vfrcp f => some (realRow v f 0 fun a _ _ => rcpF a)
  | .vfrsqrt f => some (realRow v f 0 fun a _ _ => rsqrtF a)
  | .vcmul f => some (complexRow v f (modeOf f.fn v.cv.dyn) false)
  | .vcmac f => some (complexRow v f (modeOf f.fn v.cv.dyn) true)
  | _ => none

/-- A modular row: an input at or above MODQ is MOD_RANGE, source 1 before source 2 (R61, R184). -/
def modRow (v : VEnv) (f : VR) (F : Nat → Nat → Nat) : LaneRow :=
  (.slices f.dest, f.pred, f.pz, fun own e =>
    let a := src1Bits v f own e
    let b := src2Bits v f own e
    if v.cv.modq ≤ a then .error (trapOf causeModRange 0 (BitVec.ofNat 64 a))
    else if v.cv.modq ≤ b then .error (trapOf causeModRange 0 (BitVec.ofNat 64 b))
    else .ok (F a b % v.cv.modq, 0))

/-- E(b) that element e of a block conversion reads (R189). -/
def blockE (v : VEnv) (f : VR) (own : List SliceWrite) (e : Nat) : Nat := v.getAt own f.src2 (e / 32) (v.row e)

/-- The modular, converting and block rows of R184 to R192. -/
def otherRow (v : VEnv) : Instr → Option LaneRow
  | .vmadd f => some (modRow v f fun a b => a + b)
  | .vmsub f => some (modRow v f fun a b => a + v.cv.modq - b)
  | .vmmul f => some (modRow v f fun a b => a * b)
  | .vmred f => some (.slices f.dest, f.pred, f.pz, fun own e =>
      let a := src1Bits v f own e
      if v.cv.modq * v.cv.modq ≤ a then .error (trapOf causeModRange 0 (BitVec.ofNat 64 a)) else .ok (a % v.cv.modq, 0))
  | .vcvt f =>
    if f.ext = true then some (.slices f.dest, f.pred, f.pz, fun own e =>
      let a := decC f.src1.w (src1Bits v f own e)
      .ok (roundC f.dest.w (modeOf f.fn v.cv.dyn) a.1 a.2))
    else if (f.fn = 4 ∨ f.fn = 5 ∧ v.cv.dyn = 4) ∧ f.efbOk = true then none
    else if f.dest.w = 3 ∧ f.src1.w = 3 then some (bitsRow v f fun x => x)
    else if f.dest.w = 3 then some (.slices f.dest, f.pred, f.pz, fun own e =>
      let a := roundF .t6 (modeOf f.fn v.cv.dyn) (decW f.src1.w false (src1Bits v f own e))
      let b := roundF .t6 (modeOf f.fn v.cv.dyn)
        (decW (if f.mode = 3 then f.src1.w else f.src2.w) f.sat (src2Bits v f own e))
      .ok (b.1 * 64 + a.1, a.2 ||| b.2))
    else some (realRow v f (modeOf f.fn v.cv.dyn) fun a _ _ => (a, 0))
  | .vftoi f => some (.slices f.dest, f.pred, f.pz, fun own e =>
      .ok (ftoiF (!f.ext) (4 * f.dest.w) (modeOf f.fn v.cv.dyn) (decW f.src1.w f.sat (src1Bits v f own e))))
  | .vitof f => some (.slices f.dest, f.pred, f.pz, fun own e =>
      .ok (roundW f.dest.w (modeOf f.fn v.cv.dyn) (ofIntF (intBits f.ext f.src1.w (src1Bits v f own e)))))
  | .vbfmant f => some (.slices f.dest, f.pred, f.pz, fun own e =>
      let x := src1Bits v f own e
      if f.ext = true then
        let re := bfMant (blockE v f own e) (decC f.src1.w x).1
        let im := bfMant (blockE v f own e) (decC f.src1.w x).2
        .ok (re.1 + 2 ^ 16 * im.1, re.2 ||| im.2)
      else .ok (bfMant (blockE v f own e) (decW f.src1.w false x)))
  | .vbfval f => some (.slices f.dest, f.pred, f.pz, fun own e =>
      let m := src1Bits v f own e
      .ok (if f.ext = true then
          roundC f.dest.w (modeOf f.fn v.cv.dyn) (bfValue (blockE v f own e) m) (bfValue (blockE v f own e) (m / 2 ^ 16))
        else roundW f.dest.w (modeOf f.fn v.cv.dyn) (bfValue (blockE v f own e) m)))
  | _ => none

end Sys2Proof.Claims

/-- R61, R169, R170, R174 to R192: a slot of an integer, float, complex, modular or converting instruction, or of
vbfmant and vbfval, completes: every active element holds its row's F(e), every other one is zeroed or kept, its flags
are noted (R44), an element that raises an enabled flag is an element fault with FP_EXC (R45) and a residue out of
range one with MOD_RANGE, and until the convoy retires nothing but its log changes. The model's choices here are log
entry 1. -/
def Obligations.LaneSlots : Prop :=
  (∀ (s : State) (cv : Convoy) (i : Instr) (d : VDest) (p : BitVec 4) (pz : Bool)
     (F : List SliceWrite → Nat → Except TrapInfo (Nat × FpFlags)),
     openSlot s cv → integerRow (slotEnv s cv) i = some (d, p, pz, F) →
     exec i s = .next (slotRan s cv i (laneSlot (slotEnv s cv) d p pz F))) ∧
  ((∀ (s : State) (cv : Convoy) (i : Instr) (d : VDest) (p : BitVec 4) (pz : Bool)
      (F : List SliceWrite → Nat → Except TrapInfo (Nat × FpFlags)),
      openSlot s cv → floatRow (slotEnv s cv) i = some (d, p, pz, F) →
      exec i s = .next (slotRan s cv i (laneSlot (slotEnv s cv) d p pz F))) ∧
   (∀ (s : State) (cv : Convoy) (i : Instr) (d : VDest) (p : BitVec 4) (pz : Bool)
      (F : List SliceWrite → Nat → Except TrapInfo (Nat × FpFlags)),
      openSlot s cv → otherRow (slotEnv s cv) i = some (d, p, pz, F) →
      exec i s = .next (slotRan s cv i (laneSlot (slotEnv s cv) d p pz F))))

namespace Sys2Proof.Claims

/-- One element of the chain: its bits, its flags and the next carry; T6x2 takes two steps (R47, R187). -/
def chainStep (v : VEnv) (f : VR) (own : List SliceWrite) (c e : Nat) : Nat × FpFlags × Nat :=
  let a := efbStep f.dest.w c (decW f.src1.w false (src1Bits v f own e))
  if f.dest.w = 3 then
    let b := efbStep 3 a.2.2 (decW (if f.mode = 3 then f.src1.w else f.src2.w) f.sat (src2Bits v f own e))
    (b.1 * 64 + a.1, a.2.1 ||| b.2.1, b.2.2)
  else a

/-- The chain of R47 over the elements of a slot, with its carry c as FP32 bits. -/
def chainRun (v : VEnv) (f : VR) : List Nat → Nat → SlotLog → VAcc
  | [], _, g => { log := g }
  | e :: l, c, g =>
    if v.act f.pred e then
      let a := chainStep v f g.slices c e
      if a.2.1 &&& v.c.fcsr.extractLsb' 6 6 ≠ 0 then { log := g, fault := some (e, trapOf causeFpExc a.2.1.toNat 0) }
      else
        let g := putElem v (.slices f.dest) e a.1 g
        let g := { g with efc := g.efc ++ [(e, BitVec.ofNat 32 a.2.2)] }
        chainRun v f l a.2.2 (if a.2.1 = 0 then g else { g with flags := (e, a.2.1) :: g.flags })
    else chainRun v f l c (if f.pz then putElem v (.slices f.dest) e 0 g else g)

end Sys2Proof.Claims

/-! ## Cross-lane slots (R193 to R209) -/

namespace Sys2Proof.Claims

/-- Src(op, j): zero bits at and beyond VL (R193). -/
def srcAt (v : VEnv) (o : Opnd) (j : Nat) : Nat := if j < v.cv.vl then v.get o j else 0

/-- Source 2 of a cross-lane instruction for element e. -/
def indexOf (v : VEnv) (f : VR) (e : Nat) : Nat :=
  if f.mode = 3 then (v.c.reg f.src2.reg).toNat
  else v.get f.src2 (if f.mode = 0 then e else if f.mode = 1 then 0 else e % 2 ^ (f.seg.toNat + 1))

/-- The first element of e's fibre: the greatest one at or below e where p13 is set, or 0 (R201). -/
def fibreFirst (v : VEnv) (e : Nat) : Nat := ((List.range (e + 1)).filter fun k => k == 0 || v.pred 13 k).foldl max 0

/-- What element e of a permute takes (R196, R197). -/
def permuted (v : VEnv) : Instr → Option (VR × (Nat → Nat))
  | .vslideDown f =>
    if f.fn = 0 then some (f, fun e => srcAt v f.src1 (e + indexOf v f e))
    else if f.fn = 1 then some (f, fun e => if indexOf v f e ≤ e then srcAt v f.src1 (e - indexOf v f e) else 0)
    else if f.fn = 2 then some (f, fun e => srcAt v f.src1 ((e + indexOf v f e) % v.cv.vl))
    else none
  | .vslideUp f => some (f, fun e => if indexOf v f e ≤ e then srcAt v f.src1 (e - indexOf v f e) else 0)
  | .vslideRot f => some (f, fun e => srcAt v f.src1 ((e + indexOf v f e) % v.cv.vl))
  | .vxchg f => some (f, fun e => srcAt v f.src1 (Nat.xor e (indexOf v f e)))
  | .vperm f => some (f, fun e => srcAt v f.src1 (indexOf v f e))
  | .vrev f => some (f, fun e => srcAt v f.src1 (v.cv.vl - 1 - e))
  | .vzip f => some (f, fun e => srcAt v (if e % 2 = 0 then f.src1 else f.src2) (e / 2))
  | .vunzip f => some (f, fun e =>
      let j := 2 * e + f.fn.toNat % 2
      if j < v.cv.vl then srcAt v f.src1 j else srcAt v f.src2 (j - v.cv.vl))
  | .vbcast f => some (f, fun e =>
      if f.fn = 1 then srcAt v f.src1 (fibreFirst v e) else srcAt v f.src1 (v.c.reg f.src2.reg).toNat)
  | .vbcastFib f => some (f, fun e => srcAt v f.src1 (fibreFirst v e))
  | .vexpand f => some (f, fun e => srcAt v f.src1 (v.cv.vstart + ((v.actives f.pred).filter fun x => decide (x < e)).length))
  | _ => none

/-- The writes of a slot that reads every source before it writes (R120). -/
def moved (v : VEnv) (o : Opnd) (p : BitVec 4) (pz : Bool) (F : Nat → Nat) : List SliceWrite :=
  ((List.range (v.cv.vl - v.cv.vstart)).map (v.cv.vstart + ·)).flatMap fun e =>
    if v.act p e then v.put o e (F e) else if pz then v.put o e 0 else []

end Sys2Proof.Claims

/-- R120, R193 to R198: a permute, a broadcast or vexpand gives every active element the source element that its rule
names, zero bits at and beyond VL, all sources read before any write; vcompress packs the active elements from VSTART
on, and zeroes the rest under .z; vpush sends each active element to the element that its index names, in ascending
order, drops an index at or beyond VL, and with a mask marks the elements that two or more reached. The model's
choices here are log entry 1. -/
def Obligations.PermuteCompressAndPushSlots : Prop :=
  (∀ (s : State) (cv : Convoy) (i : Instr) (f : VR) (F : Nat → Nat), openSlot s cv →
     permuted (slotEnv s cv) i = some (f, F) →
     exec i s = .next (slotRan s cv i { log := {
       slices := moved (slotEnv s cv) f.dest f.pred f.pz F, rows := (slotEnv s cv).rowsOf f.dest } })) ∧
  (∀ (s : State) (cv : Convoy) (f : VR), openSlot s cv →
     let v := slotEnv s cv
     let act := v.actives f.pred
     let hits := (act.filter fun e => decide (v.get f.src2 e < cv.vl)).map fun e => (e, v.get f.src2 e)
     let count := fun (j : Nat) => (hits.filter fun p => decide (p.2 = j)).length
     (∃ g, exec (.vcompress f) s = .next (slotRan s cv (.vcompress f) { log := g }) ∧ g.preds = [] ∧
       g.slices = (act.zipIdx.flatMap fun p => v.put f.dest (cv.vstart + p.2) (v.get f.src1 p.1)) ++
         (if f.pz then (List.range (cv.vl - (cv.vstart + act.length))).flatMap fun i =>
           v.put f.dest (cv.vstart + act.length + i) 0 else []) ∧
       marks v f.dest g ∧ g = { slices := g.slices, rows := g.rows }) ∧
     (∃ g, exec (.vpush f) s = .next (slotRan s cv (.vpush f) { log := g }) ∧
       g.slices = (hits.flatMap fun p => v.put f.dest p.2 (v.get f.src1 p.1)) ++
         (if f.pz then v.elems.flatMap fun j => if count j = 0 then v.put f.dest j 0 else [] else []) ∧
       g.preds = (if f.ext then v.elems.map fun j => v.putPred f.fn.toNat j (decide (2 ≤ count j)) else []) ∧
       marks v f.dest g ∧ g = { slices := g.slices, preds := g.preds, rows := g.rows }))

namespace Sys2Proof.Claims

/-- The result of an integer reduction over the active inputs of a range: sum, min, max, and, or, xor, or the sum of residues
modulo MQ; over none the identity (R64, R199, R200, R202). -/
def reduced (v : VEnv) (f : VR) (l : List Nat) : Nat :=
  let a := l.map fun e => intBits f.ext f.src1.w (v.get f.src1 e)
  let b := l.map fun e => wrapTo (4 * f.dest.w) (intBits f.ext f.src1.w (v.get f.src1 e))
  let d := 4 * f.dest.w
  match f.redOp, a, b with
  | 0, _, _ => nar f.sat f.ext f.dest.w (a.foldl (· + ·) 0)
  | 1, x :: t, _ => nar f.sat f.ext f.dest.w (t.foldl min x)
  | 2, x :: t, _ => nar f.sat f.ext f.dest.w (t.foldl max x)
  | 3, _, x :: t => nar f.sat f.ext f.dest.w (t.foldl Nat.land x : Nat)
  | 4, _, x :: t => nar f.sat f.ext f.dest.w (t.foldl Nat.lor x : Nat)
  | 5, _, x :: t => nar f.sat f.ext f.dest.w (t.foldl Nat.xor x : Nat)
  | 6, _, _ => (l.map fun e => v.get f.src1 e).foldl (· + ·) 0 % v.cv.modq
  | 1, [], _ => nar f.sat f.ext f.dest.w (if f.ext then 2 ^ d - 1 else 2 ^ (d - 1) - 1)
  | 2, [], _ => nar f.sat f.ext f.dest.w (if f.ext then 0 else -(2 ^ (d - 1)))
  | 3, _, [] => nar f.sat f.ext f.dest.w (2 ^ d - 1)
  | _, _, _ => nar f.sat f.ext f.dest.w 0

/-- Of two inputs of vargmax the one that holds the greater value, or the lesser one under .imin and .fmin (R199, R202). -/
def beats (v : VEnv) (f : VR) (e b : Nat) : Prop :=
  let int := fun k => intBits f.ext f.src1.w (v.get f.src1 k)
  let order := cmpF (decW f.src1.w false (v.get f.src1 e)) (decW f.src1.w false (v.get f.src1 b))
  match f.redOp with
  | 0 => int b < int e
  | 1 => int e < int b
  | 2 => order = .gt
  | _ => order = .lt

/-- What vargmax delivers of its inputs: all ones where none qualifies, else the lowest element that none beats (R202). -/
def isArg (v : VEnv) (f : VR) (l : List Nat) (n : Nat) : Prop :=
  let ok := l.filter fun e => decide (f.redOp < 2) || !(decW f.src1.w false (v.get f.src1 e)).isNan
  if ok = [] then n = 2 ^ (4 * f.dest.w) - 1
  else n ∈ ok ∧ ∀ e ∈ ok, ¬ beats v f e n ∧ (e < n → beats v f n e)

/-- The balanced tree of positions 0 to 2^k - 1, whose first level combines 2i with 2i + 1 (R62, R63). -/
def pairTree (step : Flagged → Flagged → Flagged) : Nat → (Nat → Flagged) → Flagged
  | 0, x => x 0
  | k + 1, x => step (pairTree step k x) (pairTree step k fun i => x (i + 2 ^ k))

/-- Positions 0 to n from left to right. -/
def leftFold (step : Flagged → Flagged → Flagged) (x : Nat → Flagged) : Nat → Flagged
  | 0 => x 0
  | n + 1 => step (leftFold step x n) (x (n + 1))

/-- A float reduction of elements a to b - 1 as a vector of its own: by default each lane from left to right, then the tree
over the lanes; in reproducible mode a tree over each 32 elements, then the blocks from left to right. Inactive and missing
positions are identities (R62 to R64, R202). -/
def floatReduced (v : VEnv) (f : VR) (a b : Nat) : Flagged :=
  let step := fStep f.dest.w (modeOf f.fn v.cv.dyn) f.redOp
  let none : Flagged := (fIdentity f.redOp, 0)
  let x := fun i => if i < b - a then v.leaf f (a + i) else none
  let L := v.c.lanes
  if v.cv.rm = true then leftFold step (fun k => pairTree step 5 fun i => x (32 * k + i)) ((b - a + 31) / 32 - 1)
  else pairTree step (Nat.clog 2 L) fun i =>
    if i < L then leftFold step (fun r => x (r * L + i)) ((b - a + L - 1) / L - 1) else none

/-- The results of a reduction in their places: element 0 of the destination without SEG; under SEG the first element of
each fibre, with the others zeroed under .z (R201, R202). -/
def placed (v : VEnv) (f : VR) (R : Nat → Nat → Nat) : List SliceWrite :=
  let rs := (v.fibres f.redSeg).map fun p => (p.1, R p.1 p.2)
  if v.cv.vl ≤ v.cv.vstart then []
  else if f.redSeg then
    let mine := rs.filter fun p => decide (v.cv.vstart ≤ p.1)
    (if f.pz then (v.elems.filter fun e => !mine.any fun p => decide (p.1 = e)).flatMap fun e => v.put f.dest e 0 else []) ++
      mine.flatMap fun p => v.put f.dest p.1 p.2
  else rs.flatMap fun p => v.put f.dest 0 p.2

/-- The destination rows that a reduction marks: row 0 without SEG, and none where nothing is written. -/
def fibreMarks (v : VEnv) (f : VR) (g : SlotLog) : Prop :=
  if v.cv.vl ≤ v.cv.vstart then g.rows = []
  else if f.redSeg then marks v f.dest g
  else g.rows = [(0, f.dest.s, f.dest.w)]

end Sys2Proof.Claims

/-- R62 to R64, R199 to R204: vred, vfred and vargmax put the combination of the active inputs of each fibre in its
place, vfred in the order of R62 or R63 with the flags of its steps; a residue at or above MODQ in a modular sum is
MOD_RANGE at the lowest such element; vscan gives each active element the combination of its fibre's active inputs up
to itself; vfscan accumulates strictly in element order, starting afresh at each fibre. The model's choices here are
log entries 12, 13 and 75. -/
def Obligations.ReductionAndScanSlots : Prop :=
  (∀ (s : State) (cv : Convoy) (f : VR) (e : Nat), openSlot s cv →
     let v := slotEnv s cv
     (f.redOp < 7 → (f.redOp ≠ 6 ∨ ∀ e ∈ v.actives f.pred, v.get f.src1 e < cv.modq) →
       ∃ g, exec (.vred f) s = .next (slotRan s cv (.vred f) { log := g }) ∧
         g.slices = placed v f (fun a b => reduced v f (v.inputs f.pred a b)) ∧ fibreMarks v f g ∧
         g = { slices := g.slices, rows := g.rows }) ∧
     (f.redOp = 6 → e ∈ v.actives f.pred → cv.modq ≤ v.get f.src1 e →
       (∀ k ∈ v.actives f.pred, k < e → v.get f.src1 k < cv.modq) →
       exec (.vred f) s = .next (slotRan s cv (.vred f) { fault := some (e, trapOf causeModRange 0 (BitVec.ofNat 64 (v.get f.src1 e))) })) ∧
     (f.redOp < 4 → ∃ g R, exec (.vargmax f) s = .next (slotRan s cv (.vargmax f) { log := g }) ∧
       g.slices = placed v f R ∧ (∀ p ∈ v.fibres f.redSeg, isArg v f (v.inputs f.pred p.1 p.2) (R p.1 p.2)) ∧ fibreMarks v f g ∧ g = { slices := g.slices, rows := g.rows }) ∧
     (s.me.fcsr.extractLsb' 6 6 = 0 →
       ∃ g, exec (.vfred f) s = .next (slotRan s cv (.vfred f) { log := g }) ∧
         g.slices = placed v f (fun a b => (roundW f.dest.w (modeOf f.fn cv.dyn) (floatReduced v f a b).1).1) ∧
         fibreMarks v f g ∧
         g.flags = (if cv.vl ≤ cv.vstart then [] else
           ((v.fibres f.redSeg).map fun p => (p.1, (floatReduced v f p.1 p.2).2)).filter fun x => decide (x.2 ≠ 0)) ∧
         g = { slices := g.slices, rows := g.rows, flags := g.flags })) ∧
  (∀ (s : State) (cv : Convoy) (f : VR), openSlot s cv →
     let v := slotEnv s cv
     (f.redOp < 7 → (f.redOp ≠ 6 ∨ ∀ e ∈ v.actives f.pred, v.get f.src1 e < cv.modq) →
       exec (.vscan f) s = .next (slotRan s cv (.vscan f) { log := {
         slices := moved v f.dest f.pred f.pz fun e =>
           reduced v f (v.inputs f.pred (if f.redSeg then fibreFirst v e else 0) (e + 1)),
         rows := v.rowsOf f.dest } })) ∧
     (s.me.fcsr.extractLsb' 6 6 = 0 → ∃ (g : SlotLog) (R : Nat → FVal), exec (.vfscan f) s = .next (slotRan s cv (.vfscan f) { log := g }) ∧
       g.slices = moved v f.dest f.pred f.pz (fun e => (roundW f.dest.w (modeOf f.fn cv.dyn) (R e)).1) ∧
       (∀ e, cv.vstart ≤ e → e < cv.vl → R e = (fStep f.dest.w (modeOf f.fn cv.dyn) f.redOp
         (if e = cv.vstart ∨ (e = 0 ∨ f.redSeg = true ∧ v.pred 13 e = true) then fIdentity f.redOp else R (e - 1), 0)
         (v.leaf f e)).1) ∧
       g = { slices := g.slices, rows := v.rowsOf f.dest, flags := g.flags }))

/-- R205 to R209: the predicate instructions, vsetfib, vext, vins, pcnt and pfirst complete with the bits and the
scalar result that their rules give; pfirst without a set bit gives -1. The model's choices here are log entry 1. -/
def Obligations.PredicateAndScalarSlots : Prop :=
  ∀ (s : State) (cv : Convoy) (f : VR), openSlot s cv →
    let v := slotEnv s cv
    let row := fun (F : Nat → Bool) (e : Nat) =>
      if v.act f.pred e then [v.putPred f.dest.s e (F e)] else if f.pz then [v.putPred f.dest.s e false] else []
    let bits := fun (i : Instr) (F : Nat → Bool) => slotRan s cv i { log := { preds := v.elems.flatMap (row F) } }
    let scalar := fun (i : Instr) (w : Word) => slotRan s cv i { log := { scalar := some (f.dest.reg, w) } }
    let ones := (v.actives f.pred).filter (v.pred f.src1.s)
    let i := (v.c.reg f.src2.reg).toNat
    let j := (v.c.reg f.src1.reg).toNat
    exec (.pand f) s = .next (bits (.pand f) fun e => v.pred f.src1.s e && v.pred f.src2.s e) ∧
    exec (.por f) s = .next (bits (.por f) fun e => v.pred f.src1.s e || v.pred f.src2.s e) ∧
    exec (.pxor f) s = .next (bits (.pxor f) fun e => v.pred f.src1.s e ^^ v.pred f.src2.s e) ∧
    exec (.pandn f) s = .next (bits (.pandn f) fun e => v.pred f.src1.s e && !v.pred f.src2.s e) ∧
    exec (.pset f) s = .next (bits (.pset f) fun e => decide (e < i)) ∧
    exec (.pmov f) s = .next (bits (.pmov f) fun e => v.pred f.src1.s e) ∧
    exec (.pcnt f) s = .next (scalar (.pcnt f) (BitVec.ofNat 64 ones.length)) ∧
    (∀ e ∈ ones, (∀ k ∈ ones, e ≤ k) → exec (.pfirst f) s = .next (scalar (.pfirst f) (BitVec.ofNat 64 e))) ∧
    (ones = [] → exec (.pfirst f) s = .next (scalar (.pfirst f) (BitVec.allOnes 64))) ∧
    exec (.vext f) s = .next (scalar (.vext f) (if v.act f.pred i then
      BitVec.ofInt 64 (intBits f.ext f.src1.w (v.get f.src1 i)) else 0)) ∧
    (v.act f.pred j = true → exec (.vins f) s = .next (slotRan s cv (.vins f) { log := {
      slices := v.put f.dest j (i % 2 ^ (4 * f.dest.w)), rows := [(v.row j, f.dest.s + f.dest.w * v.row j, f.dest.w)] } })) ∧
    (v.act f.pred j = false → exec (.vins f) s = .next (slotRan s cv (.vins f) {})) ∧
    exec (.vsetfib f) s = .next (slotRan s cv (.vsetfib f) { log := {
      preds := v.elems.map fun e => v.putPred f.dest.s e (v.newKey f e)
      scalar := some (f.src2.reg, BitVec.ofNat 64 (v.elems.filter (v.newKey f)).length) } })

/-- R47, R186, R187, R189, R190: vcvt under EFB runs the chain in ascending element order from EFC, each active
element's carry noted for the commit; vbfexp gives every block from VSTART div 32 the exponent of its active elements,
all chosen before any is written. The model's choices here are log entry 10. -/
def Obligations.ErrorFeedbackAndBlockExponentSlots : Prop :=
  (∀ (s : State) (cv : Convoy) (f : VR), openSlot s cv → f.ext = false → (f.fn = 4 ∨ f.fn = 5 ∧ cv.dyn = 4) →
     f.efbOk = true →
     let v := slotEnv s cv
     let a := chainRun v f ((List.range (cv.vl - cv.vstart)).map (cv.vstart + ·)) s.me.efc.toNat {}
     exec (.vcvt f) s = .next (slotRan s cv (.vcvt f) { a with log := { a.log with
       slices := a.log.slices.reverse, flags := a.log.flags.reverse, rows := v.rowsOf f.dest } })) ∧
  (∀ (s : State) (cv : Convoy) (f : VR), openSlot s cv →
     let v := slotEnv s cv
     let els := fun (b : Nat) => ((List.range 32).map (32 * b + ·)).filter fun e => decide (e < cv.vl) && v.pred f.pred.toNat e
     let value := fun (b : Nat) => bfExponent ((els b).flatMap fun e =>
       let x := v.get f.src1 e
       if f.ext then [(decC f.src1.w x).1, (decC f.src1.w x).2] else [decW f.src1.w false x])
     ∃ g, exec (.vbfexp f) s = .next (slotRan s cv (.vbfexp f) { log := g }) ∧
       g.slices = (((List.range ((cv.vl + 31) / 32 - cv.vstart / 32)).map (cv.vstart / 32 + ·)).flatMap fun b =>
         v.put f.dest b (value b)) ∧
       g.rows.Nodup ∧ (∀ x, x ∈ g.rows ↔ ∃ b, cv.vstart / 32 ≤ b ∧ b < (cv.vl + 31) / 32 ∧
         x = (v.row b, f.dest.s + f.dest.w * v.row b, f.dest.w)) ∧
       g = { slices := g.slices, rows := g.rows })


/-! ## The end of a convoy (R23, R122 to R126, R163) -/

namespace Sys2Proof.Claims

/-- A log that writes slices, predicates, flags and a scalar alone. -/
def plainLog (g : SlotLog) : Prop :=
  g.mems = [] ∧ g.amos = [] ∧ g.pop = none ∧ g.push = none ∧ g.tiles = [] ∧ g.spcfg = none ∧ g.fill = [] ∧
    g.spillAt = none ∧ g.efc = []

/-- The slices after a list of writes in their order. -/
def slicesAfter (m : SMap Nib) (l : List SliceWrite) : SMap Nib := l.foldl (fun m w => smSet 0 m w.key w.val) m

/-- The predicate words after a list of writes in their order. -/
def predsAfter (m : SMap Word) (l : List PredWrite) : SMap Word :=
  l.foldl (fun m w => smSet 0 m w.key (setPredBit (smGet 0 m w.key) w.row w.val)) m

end Sys2Proof.Claims

/-- R23, R44, R47, R111, R122, R126, R130, R146, R263, R269, R271, R274: a convoy whose slots have all run without a
fault completes whatever its logs hold. Its slice writes commit in (row, slot) order and after them the words of its
vfill, and a bank row that they cover whole loses its poison; its predicate writes commit in that order; its writes to
tiles, index tiles, accumulators and TCFG are performed in slot order. VDIRTY gains the bit of every block of 64
slices that a committed row or a filled word touches; FCSR gains the flags; EFC takes the last carry; the scalar
result is written; VSTART becomes 0, PC moves past the convoy and RETIRED counts it; spcfg switches every spanned
cluster. No other context changes, and of this one nothing else but what its later reads are ordered after. With no
counter enabled, memory reads as the updates of its vamo and then its stores leave it, and nothing else of the machine
changes. Where a channel's counters or an atomic's old value no longer meet what the slots took, the convoy is issued
again with no effect, and the convoys behind it in the VIQ with it. One update gives its bytes the result of its
operation and leaves every other byte. The model's choices here are log entries 1 and 3. -/
def Obligations.ConvoyCommit : Prop :=
  (∀ (s s1 : State) (n : Nat) (cv : Convoy), (s.ctxAt n).viq = [cv] → cv.todo = [] → cv.whole = none → cv.fault = none →
    let c := s.ctxAt n
    let logs := cv.logs
    (s.beforeAmos c logs).putAmos (logs.flatMap SlotLog.amos) = some s1 → s.chansHold c logs = true →
    completes (.convoyRetire n) s fun t =>
      let u := t.ctxAt n
      let w := (logs.flatMap SlotLog.tiles).foldl (fun a x => a.applyTile n x) s
      let sl := commitSlices logs fun _ => true
      let keys := sl.map SliceWrite.key ++ (logs.flatMap SlotLog.fill).map Prod.fst
      t.slices = (logs.flatMap SlotLog.fill).foldl (fun m p => smSet 0 m p.1 p.2) (slicesAfter s.slices sl) ∧
      (∀ b, b ∈ t.slicePoison ↔ b ∈ s.slicePoison ∧ ∃ i, i < 16 ∧ 16 * b + i ∉ keys) ∧
      t.preds = predsAfter s.preds (commitPreds logs fun _ => true) ∧
      t.tiles = w.tiles ∧ t.idxs = w.idxs ∧ t.accs = w.accs ∧ (∀ b, b ∈ t.tilePoison → b ∈ s.tilePoison) ∧
      (let touched := fun b => (∃ r ∈ logs.flatMap SlotLog.rows, 0 < r.2.2 ∧ r.2.1 / 64 ≤ b ∧ b ≤ (r.2.1 + r.2.2 - 1) / 64) ∨
          ∃ p ∈ logs.flatMap SlotLog.fill, p.1 % 1024 / 64 = b
        ∀ b, b < 16 → (u.vdirty.getLsbD b = true ↔ c.vdirty.getLsbD b = true ∨ touched b) ∧
          (u.dirtySince.getLsbD b = true ↔ c.dirtySince.getLsbD b = true ∨ touched b)) ∧
      u.fcsr = (logs.flatMap SlotLog.flags).foldl (fun w f => w ||| f.2.setWidth 64) c.fcsr ∧
      u.efc = (match (logs.flatMap SlotLog.efc).getLast? with | some f => f.2.setWidth 64 | none => c.efc) ∧
      (logs.findSome? SlotLog.scalar = none → u.x = c.x) ∧
      (∀ r v, logs.findSome? SlotLog.scalar = some (r, v) → u.x = (putReg c r v).x) ∧
      u = { c with
        pc := cv.epc + BitVec.ofNat 64 cv.size, vstart := 0, viq := [], retired := c.retired + 1
        atWaypoint := cv.waypoint, tcfg := (w.ctxAt n).tcfg
        vdirty := u.vdirty, dirtySince := u.dirtySince, fcsr := u.fcsr, efc := u.efc, x := u.x, order := u.order } ∧
      (∀ m, m ≠ n → t.ctxAt m = s.ctxAt m) ∧
      ((∀ g ∈ logs, g.push = none ∧ g.pop = none) → ∀ cl, t.clAt cl = { s.clAt cl with
        spcfg := (if cl ∈ c.clusters then (logs.findSome? SlotLog.spcfg).getD (s.clAt cl).spcfg else (s.clAt cl).spcfg) }) ∧
      (s.perf = [] →
        (cellsOk s → (∀ g ∈ logs, g.push = none) →
          ∀ l : Loc, t.locByte l = overlay (logs.flatMap SlotLog.mems) l (s1.locByte l)) ∧
        ((∀ g ∈ logs, g.push = none ∧ g.mems = [] ∧ g.amos = []) → sameBytes s t) ∧
        t = { s with
          ctxs := t.ctxs, slices := t.slices, slicePoison := t.slicePoison, preds := t.preds, tiles := t.tiles
          idxs := t.idxs, accs := t.accs, tilePoison := t.tilePoison, mem := t.mem, sp := t.sp, home := t.home
          memPoison := t.memPoison, spPoison := t.spPoison, clusters := t.clusters
          writes := t.writes, moment := t.moment, lags := t.lags })) ∧
  (∀ (s : State) (n : Nat) (cv : Convoy), (s.ctxAt n).viq = [cv] → cv.todo = [] → cv.whole = none → cv.fault = none →
    ((s.beforeAmos (s.ctxAt n) cv.logs).putAmos (cv.logs.flatMap SlotLog.amos) = none ∨
      s.chansHold (s.ctxAt n) cv.logs = false) →
    exec (.convoyRetire n) s = .next (s.setCtx n { s.ctxAt n with viq := [], queued := [] })) ∧
  (∀ (s : State) (a : AmoWrite) (l : List AmoWrite),
    let locs := a.keys.map fun k => Loc.mk a.scratch k 0
    (littleEndian s locs = a.old → s.putAmos (a :: l) = (s.putAmo a).putAmos l) ∧
    (littleEndian s locs ≠ a.old → s.putAmos (a :: l) = none) ∧
    (cellsOk s → cellsApart locs →
      holdsBytes s (s.putAmo a) locs (amoF a.op (8 * a.keys.length) (littleEndian s locs) a.val)))

/-- R122, R123, R124, R163, R229, R271, R292, R293: a convoy with an element fault at k commits the slice, predicate,
flag and carry writes of the elements below k, sets VDIRTY for the rows that have such an element, and enters the trap
with EPC at its header and VSTART and EELEM k. Its stores of the elements below k are performed; those above k may be,
and that of k itself only where another slot faulted; its atomics likewise, and where the old value of one below k is
no longer what its slot took, the convoy is issued again with no effect. One that commits all or nothing commits no
slice, predicate, tile, flag or carry, keeps VSTART at its value at issue and sets EELEM to k; a fault of a whole
instruction commits none of them, leaves VSTART, and EELEM but where it names a lane. Of the stores of these two any
may have been performed, but of a vspill that faulted at a lane those of the lanes below it are, and its own is not.
X, RETIRED, every other context and the rest of the machine stay. Outside a handler, and but for HW_UE of a gang's
member, which R359 answers. The model's choices here are log entries 3, 46 and 47. -/
def Obligations.ConvoyFaults : Prop :=
  ∀ (s : State) (n k : Nat) (cv : Convoy) (t : TrapInfo), (s.ctxAt n).viq = [cv] → cv.todo = [] →
    plainMode (s.ctxAt n) → (t.cause ≠ causeHwUe ∨ (s.ctxAt n).record.gang ≤ 1) →
    let c := s.ctxAt n
    let logs := cv.logs
    let mems := logs.flatMap SlotLog.mems
    let amos := logs.flatMap SlotLog.amos
    let strayed := fun (u : State) => ∃ keep : Nat → Nat → Bool,
      (∀ p ∈ logs.zipIdx, ∀ b, p.1.spillAt = some b → keep p.2 b = false ∧ ∀ e, e < b → keep p.2 e = true) ∧
      ∀ l : Loc, u.locByte l =
        overlay (logs.zipIdx.flatMap fun p => p.1.mems.filter fun m => keep p.2 m.elem) l (s.locByte l)
    let stays := fun (u : State) => (∀ m, m ≠ n → u.ctxAt m = s.ctxAt m) ∧ u = { s with
      ctxs := u.ctxs, free := u.free, mem := u.mem, sp := u.sp, home := u.home, memPoison := u.memPoison
      spPoison := u.spPoison, writes := u.writes, moment := u.moment, lags := u.lags }
    (cv.whole = none → cv.fault = some (k, t) → cv.atomic = false → (amos = [] ∨ s.writes = [] ∧ s.lags = []) →
      ∀ s1, (amos = [] ∧ s1 = s ∨ mems = [] ∧ s.putAmos (amos.filter fun a => decide (a.elem < k)) = some s1) →
      completes (.convoyRetire n) s fun u =>
        u.slices = slicesAfter s.slices (commitSlices logs fun e => decide (e < k)) ∧
        u.preds = predsAfter s.preds (commitPreds logs fun e => decide (e < k)) ∧
        (let touched := fun b => ∃ r ∈ logs.flatMap SlotLog.rows, r.1 * c.lanes < k ∧ cv.vstart < k ∧ 0 < r.2.2 ∧
            r.2.1 / 64 ≤ b ∧ b ≤ (r.2.1 + r.2.2 - 1) / 64
          ∀ b, b < 16 → ((u.ctxAt n).vdirty.getLsbD b = true ↔ c.vdirty.getLsbD b = true ∨ touched b) ∧
            ((u.ctxAt n).dirtySince.getLsbD b = true ↔ c.dirtySince.getLsbD b = true ∨ touched b)) ∧
        (u.ctxAt n).fcsr =
          ((logs.flatMap SlotLog.flags).filter fun f => decide (f.1 < k)).foldl (fun w f => w ||| f.2.setWidth 64) c.fcsr ∧
        (u.ctxAt n).efc = (match ((logs.flatMap SlotLog.efc).filter fun f => decide (f.1 < k)).getLast? with
          | some f => f.2.setWidth 64
          | none => c.efc) ∧
        u.ctxAt n = { entered c { t with elem := some k } cv.epc with
          vstart := BitVec.ofNat 64 k, vdirty := (u.ctxAt n).vdirty, dirtySince := (u.ctxAt n).dirtySince, fcsr := (u.ctxAt n).fcsr, efc := (u.ctxAt n).efc
          order := (u.ctxAt n).order } ∧
        (∀ m, m ≠ n → u.ctxAt m = s.ctxAt m) ∧ u.tiles = s.tiles ∧ u.idxs = s.idxs ∧ u.accs = s.accs ∧
        (∀ cl, u.clAt cl = s.clAt cl) ∧
        (s.perf = [] → u = { s with
          ctxs := u.ctxs, free := u.free, slices := u.slices, slicePoison := u.slicePoison, preds := u.preds
          mem := u.mem, sp := u.sp, home := u.home, memPoison := u.memPoison, spPoison := u.spPoison
          writes := u.writes, moment := u.moment, lags := u.lags }) ∧
        (s.perf = [] → cellsOk s → ∃ keep : Nat → Bool, (∀ e, e < k → keep e = true) ∧
          (t.sub.toNat / 512 = memSlot logs → keep k = false) ∧
          (amos = [] → ∀ l : Loc, u.locByte l = overlay (mems.filter fun m => keep m.elem) l (s.locByte l)) ∧
          (mems = [] → ∀ l : Loc, u.locByte l =
            ((amos.filter fun a => !decide (a.elem < k) && keep a.elem).foldl State.putAmo s1).locByte l))) ∧
    (cv.whole = none → cv.fault = some (k, t) → cv.atomic = false → mems = [] → s.writes = [] → s.lags = [] →
      s.putAmos (amos.filter fun a => decide (a.elem < k)) = none →
      exec (.convoyRetire n) s = .next (s.setCtx n { c with viq := [], queued := [] })) ∧
    (cv.whole = none → cv.fault = some (k, t) → cv.atomic = true →
      completes (.convoyRetire n) s fun u => stays u ∧ (cellsOk s → strayed u) ∧
        u.ctxAt n = { entered c { t with elem := some k } cv.epc with
          vstart := BitVec.ofNat 64 cv.vstart, order := (u.ctxAt n).order }) ∧
    (cv.whole = some t →
      completes (.convoyRetire n) s fun u => stays u ∧ (cellsOk s → strayed u) ∧
        u.ctxAt n = { entered c t cv.epc with order := (u.ctxAt n).order })

/-! ## Vector memory (R132 to R134, R257, R266 to R274) -/

namespace Sys2Proof.Claims

/-- The addressing form of a vector memory instruction: 0 unit stride, 1 strided, 2 indexed (R267). -/
def loadForm : Instr → Option (VM × Nat)
  | .vld f => some (f, 0)
  | .vlds f => some (f, 1)
  | .vldx f => some (f, 2)
  | _ => none
def storeForm : Instr → Option (VM × Nat)
  | .vst f => some (f, 0)
  | .vsts f => some (f, 1)
  | .vstx f => some (f, 2)
  | _ => none

/-- The address of element e and its first bit (R134, R267). -/
def elemAddress (v : VEnv) (f : VM) (form e : Nat) : Word × Nat :=
  if form = 0 then (v.c.reg f.base + f.idx.signExtend 64 + BitVec.ofNat 64 (4 * f.data.w * e / 8), 4 * f.data.w * e % 8)
  else if form = 1 then (v.c.reg f.base + f.idx.signExtend 64 + BitVec.ofNat 64 e * v.c.reg f.stride, 0)
  else (v.c.reg f.base + BitVec.ofNat 64 (v.get f.index e), 0)

/-- The element of a vector access. -/
def elemOf (v : VEnv) (f : VM) (form e : Nat) : Elem :=
  { e := e, cl := (v.c.laneAt (e % v.c.lanes)).1, va := (elemAddress v f form e).1.toNat, bit := (elemAddress v f form e).2,
    bits := 4 * f.data.w }

/-- The bytes that a set of elements names, all reachable and none poisoned, with the state after translation. -/
def placesOf (s s' : State) (kind : AccKind) (space : Bool) (form cls : Nat) (els : List Elem) (r : Elem → List Loc) : Prop :=
  s.resolve s.me kind space form cls els els = .ok (r, none) s' ∧ s'.slicePoison = [] ∧ s'.slices = s.slices ∧
    s'.preds = s.preds ∧ ∀ x ∈ els, ∀ b ∈ r x, s'.locPoison b = false

/-- Element e among those of an access. -/
def among (v : VEnv) (f : VM) (form : Nat) (els : List Elem) (own : List SliceWrite) (e : Nat) : Elem :=
  (els.find? fun x => x.e == e).getD (v.memElem f form own e)

/-- The state after the reads of a vector load: what each of them observed orders its later reads, and with no write on its
way nothing changes (R277 to R281). -/
def readIn (s' : State) (c : Ctx) (cls : Nat) (els : List Elem) : State :=
  (s'.beforeLoad c cls els).afterLoad c cls els

end Sys2Proof.Claims

/-- R134, R267, R268, R271, R275: a vector store logs the bits of every active element at its address, and vspill
those of every lane's range; vfill logs the slices of every lane's range from its bytes; when a convoy that stores
retires, every byte reads as the writes of its slots leave it in their order, and every other byte as before. The
bytes of vfill are those that its strand observes, which are the newest where no write is on its way. The model's
choices here are log entry 3. -/
def Obligations.VectorStores : Prop :=
  (∀ (s s' : State) (cv : Convoy) (i : Instr) (f : VM) (form : Nat) (r : Elem → List Loc), openSlot s cv →
     let v := slotEnv s cv
     let els := (v.actives f.pred).map (elemOf v f form)
     let bytes := (f.idx.toNat % 1024 + 1 + 1) / 2
     let lane := fun (k : Nat) => Elem.mk k (s.me.laneAt k).1 (s.me.reg f.base + BitVec.ofNat 64 (bytes * k)).toNat 0 (8 * bytes)
     let lanes := (List.range s.me.lanes).map lane
     let spilled := fun (x : Elem) => memWrites x (r x) (v.spillBits f x.e)
     let v' : VEnv := { v with s := s'.beforeLoad s.me f.cls.toNat lanes }
     let filled := fun (x : Elem) => (List.range (f.idx.toNat % 1024 + 1)).map fun k => (v.sliceKey x.e (f.data.s + k),
       BitVec.ofNat 4 (v'.loadBits f.cls.toNat x (r x) / 16 ^ k))
     (storeForm i = some (f, form) → placesOf s s' 1 f.space form f.cls.toNat els r →
       exec i s = .next (slotRanIn s s' cv i { log := { mems := els.flatMap fun x => memWrites x (r x) (v.get f.data x.e) } })) ∧
     (placesOf s s' 1 f.space 0 f.cls.toNat lanes r →
       exec (.vspill f) s = .next (slotRanIn s s' cv (.vspill f) { log := { mems := lanes.flatMap spilled } })) ∧
     (placesOf s s' 0 f.space 0 f.cls.toNat lanes r →
       exec (.vfill f) s = .next (slotRanIn s (readIn s' s.me f.cls.toNat lanes) cv (.vfill f) { log := {
         fill := lanes.flatMap filled } })) ∧
     (s'.writes = [] → readIn s' s.me f.cls.toNat lanes = s' ∧
       ∀ x l, v'.loadBits f.cls.toNat x l = ({ v with s := s' } : VEnv).memBits [] x l)) ∧
  (∀ (s : State) (n : Nat) (cv : Convoy), (s.ctxAt n).viq = [cv] → cv.todo = [] → cv.whole = none → cv.fault = none →
     (∀ g ∈ cv.logs, g.amos = [] ∧ g.push = none ∧ g.pop = none) → s.perf = [] → cellsOk s →
     completes (.convoyRetire n) s fun t => (t.ctxAt n).pc = cv.epc + BitVec.ofNat 64 cv.size ∧
       ∀ l : Loc, t.locByte l = overlay (cv.logs.flatMap SlotLog.mems) l (s.locByte l))

namespace Sys2Proof.Claims

/-- The updates of a vamo over its active elements, ascending, each seeing those before it (R263, R269). -/
def updates (v v' : VEnv) (f : VM) (els : List Elem) (r : Elem → List Loc) : List Nat → SlotLog → SlotLog
  | [], g => g
  | e :: l, g =>
    let x := among v' f 2 els g.slices e
    let old := v'.memBits g.mems x (r x)
    let b := v'.getAt g.slices f.data e (v'.row e)
    updates v v' f els r l { g with
      mems := g.mems ++ memWrites x (r x) (amoF (f.fn.toNat % 16) x.bits old b)
      amos := g.amos ++ [{ elem := e, scratch := f.space, keys := (r x).map Loc.key, op := f.fn.toNat % 16, val := b, old := old }]
      slices := if 16 ≤ f.fn.toNat then (v'.put f.data e old).reverse ++ g.slices else g.slices }

end Sys2Proof.Claims

/-- R134, R263, R267 to R270: a vector load gives every active element the bits at its address, as memory and the
convoy's earlier slots have them, and the others are zeroed under .z or kept; vamo updates the active elements in
ascending order, and with a result gives each the old value. The elements of an access are those of its form, but
where the rows of a result cross the rows of the index, each index is read as the rows before leave it. A load
observes the newest bytes where no write is on its way. The model's choices here are log entries 3 and 45. -/
def Obligations.VectorLoadAndAtomicSlots : Prop :=
  (∀ (s s' : State) (cv : Convoy) (i : Instr) (f : VM) (form : Nat) (r : Elem → List Loc), openSlot s cv →
     loadForm i = some (f, form) →
     let v := slotEnv s cv
     let els := v.accessElems f form 0 true (v.loadElem f form [] none)
     let v' : VEnv := { v with s := s'.beforeLoad s.me f.cls.toNat els }
     placesOf s s' 0 f.space form f.cls.toNat els r →
     exec i s = .next (slotRanIn s (readIn s' s.me f.cls.toNat els) cv i
       (laneSlot v' (.slices f.data) f.pred (f.fn.toNat % 2 == 1) fun own e =>
         let x := among v' f form els own e
         .ok (v'.loadBits f.cls.toNat x (r x), 0))) ∧
     (form ≠ 2 ∨ crossRows f.data f.index (rowCount s.me.lanes cv.vl) = false → els = (v.actives f.pred).map (elemOf v f form)) ∧
     (s'.writes = [] → readIn s' s.me f.cls.toNat els = s' ∧
       ∀ x l, v'.loadBits f.cls.toNat x l = ({ v with s := s' } : VEnv).memBits [] x l)) ∧
  (∀ (s s' : State) (cv : Convoy) (f : VM) (r : Elem → List Loc), openSlot s cv →
     let v := slotEnv s cv
     let v' := { v with s := s' }
     let els := v.accessElems f 2 3 (decide (16 ≤ f.fn.toNat)) (v.amoElem f [] none)
     placesOf s s' 3 f.space 2 f.cls.toNat els r →
     let g := updates v v' f els r (v.actives f.pred) {}
     let rows := if 16 ≤ f.fn.toNat then v'.rowsOf f.data else []
     exec (.vamo f) s = .next (slotRanIn s s' cv (.vamo f) { log := { amos := g.amos, slices := g.slices.reverse, rows := rows } }) ∧
     (f.fn.toNat < 16 ∨ crossRows f.data f.index (rowCount s.me.lanes cv.vl) = false →
       els = (v.actives f.pred).map (elemOf v f 2)))

/-- R253, R272 to R274: vpf completes with no effect at all; spcfg notes its configuration for the retirement where no
engine command of the strand and no convoy of its children is left, and else waits for them; when its convoy retires,
every spanned cluster has it, no other cluster changes and no byte moves. -/
def Obligations.PrefetchAndScratchpadConfiguration : Prop :=
  ∀ (s : State) (cv : Convoy) (f : VM) (n : Nat) (w : Word) (g : SlotLog),
    (openSlot s cv →
      exec (.vpf f) s = .next (slotRan s cv (.vpf f) {}) ∧
      (s.engineWork s.me.sid = false → s.childConvoys s.me = false →
        exec (.spcfg f) s = .next (slotRan s cv (.spcfg f) { log := { spcfg := some (s.me.reg f.base) } })) ∧
      ((s.engineWork s.me.sid = true ∨ s.childConvoys s.me = true) → completes (.spcfg f) s fun t =>
        t = { s with ctxs := t.ctxs } ∧ t.me = { s.me with wait := some .engine } ∧
        ∀ m, m ≠ s.cur → t.ctxAt m = s.ctxAt m)) ∧
    ((s.ctxAt n).viq = [cv] → cv.todo = [] → cv.whole = none → cv.fault = none → cv.logs = [g] → g.spcfg = some w →
      plainLog { g with spcfg := none } →
      s.perf = [] → completes (.convoyRetire n) s fun t =>
        (∀ cl ∈ (s.ctxAt n).clusters, (t.clAt cl).spcfg = w) ∧
        (∀ cl, cl ∉ (s.ctxAt n).clusters → t.clAt cl = s.clAt cl) ∧ t.sp = s.sp ∧ t.mem = s.mem)

/-! ## Vector channels (R305) -/

namespace Sys2Proof.Claims

/-- A slot that faults as a whole: its convoy will trap, and nothing else changes until it retires (R165, R257). -/
def wholeRan (s s' : State) (cv : Convoy) (i : Instr) (t : TrapInfo) : State :=
  s'.setMe { s'.me with viq := [cv.pushWhole (logged s cv i {}).log t] }

/-- The context waits with its convoy open, and nothing else changes. -/
def slotWaits (i : Instr) (s : State) (w : Wait) : Prop :=
  completes i s fun t => t = { s with ctxs := t.ctxs } ∧ t.me = { s.me with wait := some w } ∧
    ∀ m, m ≠ s.cur → t.ctxAt m = s.ctxAt m

end Sys2Proof.Claims

/-- R126, R305, R306: vch.push logs the elements below VL as one bit string over its slots, inactive ones zero, with
the closing token; vch.pop delivers the elements from its slots' bit string. A channel that fails a check, more slots
than the ring has (CH_MISUSE 4) and a control token among those of a pop (CH_MISUSE 5) are faults of the whole
instruction; where room or tokens lack, the strand waits. At retirement the tokens move: a push fills its slots for
every attached consumer, a pop takes them from its own. A convoy that waits for counters that have come goes on. -/
def Obligations.VectorChannelSlots : Prop :=
  ∀ (s : State) (cv : Convoy) (f : VR) (cl k n i q T : Nat) (r : Ring) (toks : List (BitVec 2 × List Byte)) (g : SlotLog),
    (openSlot s cv →
      let v := slotEnv s cv
      let ch := f.src2.s % 64
      (∀ e, s.chanCheck s.me ch .push = .error e →
        exec (.vchPush f) s = .next (wholeRan s s cv (.vchPush f) (chanTrap ch (slotWord (.vchPush f)) e))) ∧
      (∀ e, s.chanCheck s.me ch (.pop f.fn.toNat) = .error e →
        exec (.vchPop f) s = .next (wholeRan s s cv (.vchPop f) (chanTrap ch (slotWord (.vchPop f)) e))) ∧
      (s.chanCheck s.me ch .push = .ok (cl, k, r) →
        (r.slots < pushNeed cv.vl f r →
          exec (.vchPush f) s = .next (wholeRan s s cv (.vchPush f) (trapOf causeChMisuse 4 (BitVec.ofNat 64 ch)))) ∧
        (pushNeed cv.vl f r ≤ r.slots → r.room (pushNeed cv.vl f r) = false → slotWaits (.vchPush f) s .vch) ∧
        (pushNeed cv.vl f r ≤ r.slots → r.room (pushNeed cv.vl f r) = true →
          exec (.vchPush f) s = .next (slotRan s cv (.vchPush f) { log := { push := some (ch, v.pushToks f r) } }))) ∧
      (s.chanCheck s.me ch (.pop f.fn.toNat) = .ok (cl, k, r) →
        let T := dataToks cv.vl f.dest.w r.size
        let slot := fun (j : Nat) => s.slotTok cl r ((r.readAt f.fn.toNat + j) % r.slots)
        let bits := leNat ((List.range T).flatMap fun j => (slot j).data)
        (r.slots < T → exec (.vchPop f) s =
          .next (wholeRan s s cv (.vchPop f) (trapOf causeChMisuse 4 (BitVec.ofNat 64 ch)))) ∧
        (T ≤ r.slots → r.tokensOf f.fn.toNat < T → slotWaits (.vchPop f) s .vch) ∧
        (T ≤ r.slots → T ≤ r.tokensOf f.fn.toNat → (∃ j, j < T ∧ (slot j).tag ≠ 0) → exec (.vchPop f) s =
          .next (wholeRan s s cv (.vchPop f) (trapOf causeChMisuse 5 (BitVec.ofNat 64 ch)))) ∧
        (T ≤ r.slots → T ≤ r.tokensOf f.fn.toNat → (∀ j, j < T → (slot j).tag = 0 ∧ (slot j).bad = []) →
          exec (.vchPop f) s = .next (slotRan s cv (.vchPop f) { log := {
            slices := moved v f.dest f.pred f.pz fun e => bits / 2 ^ (4 * f.dest.w * e) % 2 ^ (4 * f.dest.w),
            rows := v.rowsOf f.dest, pop := some (ch, f.fn.toNat, T) } })))) ∧
    ((s.ctxAt n).viq = [cv] → cv.todo = [] → cv.whole = none → cv.fault = none → s.perf = [] →
      ringSound r → cv.logs = [g] →
      (g.push = some (i, toks) → plainLog { g with push := none } → s.chanCheck (s.ctxAt n) i .push = .ok (cl, k, r) →
        r.room toks.length = true → completes (.convoyRetire n) s fun t => ∃ r', t.ringAt cl k = some r' ∧
          r'.widx = (r.widx + toks.length) % r.slots ∧
          ∀ j ∈ r.attached, r'.freeOf j + toks.length = r.freeOf j ∧ r'.tokensOf j = r.tokensOf j + toks.length) ∧
      (g.pop = some (i, q, T) → plainLog { g with pop := none } → s.chanCheck (s.ctxAt n) i (.pop q) = .ok (cl, k, r) →
        T ≤ r.tokensOf q → completes (.convoyRetire n) s fun t => ∃ r', t.ringAt cl k = some r' ∧
          r'.tokensOf q + T = r.tokensOf q ∧ r'.freeOf q = r.freeOf q + T ∧ r'.readAt q = (r.readAt q + T) % r.slots ∧
          ∀ j, j ≠ q → r'.tokensOf j = r.tokensOf j ∧ r'.freeOf j = r.freeOf j ∧ r'.readAt j = r.readAt j)) ∧
    ((s.ctxAt n).wait = some .vch → s.vchReady (s.ctxAt n) = true →
      exec (.vchResume n) s = .next (s.setCtx n { s.ctxAt n with wait := none }))

/-! ## Tiles (R211 to R241) -/

namespace Sys2Proof.Claims

/-- A VT slot may reach its items: they are enabled, and no token of the strand names them (R214, R228). -/
def itemsOpen (s : State) (items : List Nat) : Prop :=
  s.me.tileOff items = none ∧ s.tokensName s.me items = false ∧ s.tilePoison = []

/-- Element (i, j) of a tile in memory: rows X[xb] apart (R230), or with rows and columns exchanged (R232). -/
def tileElemAt (v : VEnv) (f : VT) (t b cl : Nat) (trans : Bool) (p : Nat × Nat) : Elem :=
  let row := if trans then p.2 else p.1
  let bit := b * if trans then p.1 else p.2
  { e := p.1 * 128 + p.2, cl := cl, bits := b, bit := bit % 8,
    va := (v.c.reg f.xa + BitVec.ofNat 64 row * v.c.reg f.xb + BitVec.ofNat 64 (bit / 8)).toNat }

/-- The clusters whose scratchpads, or the one cluster that for all, makes a tile access (R229). -/
def accessClusters (v : VEnv) (sp : Bool) : List Nat := if sp then v.c.clusters else [v.c.firstCl]

/-- The elements of a signposted tile for some clusters: the signposts, then position by position the value, where they
are loaded, and the index (R73, R74). -/
def signedElems (y : SignLayout) (base : Word) (pos : List (Nat × Nat)) (load : Bool) (cls : List Nat) : List Elem :=
  cls.map (signElem base) ++ pos.flatMap fun p => cls.flatMap fun cl =>
    (if load then [valElem y base cl p.1 p.2] else []) ++ if y.iw = 0 then [] else [idxElem y base cl p.1 p.2]

/-- The bytes that a tile load of elements reads, none poisoned, with the state after translation. -/
def tilePlaces (s s' : State) (sp : Bool) (els hot : List Elem) (r : Elem → List Loc) : Prop :=
  s.resolve s.me 0 sp 1 15 els hot = .ok (r, none) s' ∧ ∀ x ∈ els, ∀ q ∈ r x, s'.locPoison q = false

end Sys2Proof.Claims

/-- R73 to R75, R214, R219, R228 to R232, R241: a VT instruction that names a disabled item is TILE_OFF, and one whose
items a token of the strand names waits. tld and tldt give element (i, j) of the tile of every spanned cluster the
bits at its address, tldt with rows and columns exchanged, and clear TR and FB; a packed tile is TILE_SHAPE 3. tld.p
and tsigck read every access's signpost and indices: where the first that fails a check does, SPARSE_META with its
subcode; where all pass, tsigck completes with no write at all and tld.p with the values, the indices and the flags of
the signpost. With no write on its way the bits are the newest. The model's choices here are log entries 51 and 82. -/
def Obligations.TileLoadSlots : Prop :=
  (∀ (s : State) (cv : Convoy) (i : Instr) (items : List Nat), openSlot s cv → vtItems i = some items →
     (∀ u, s.me.tileOff items = some u → exec i s = .next (wholeRan s s cv i u)) ∧
     (s.me.tileOff items = none → s.tokensName s.me items = true → slotWaits i s .engine)) ∧
  (∀ (s s' : State) (cv : Convoy) (f : VT) (trans : Bool) (r : Elem → List Loc), openSlot s cv →
     let v := slotEnv s cv
     let t := f.td.toNat
     let b := fmtBits (tcFmt (s.me.tc t))
     let sp := f.fn.getLsbD 1
     let i := if trans then Instr.tldt f else .tld f
     let pos := cells (tcRows (s.me.tc t)) (tcCols (s.me.tc t))
     let els := pos.flatMap fun p => (accessClusters v sp).map fun cl => tileElemAt v f t b cl trans p
     let v' : VEnv := { v with s := s'.beforeLoad s.me 15 els }
     itemsOpen s [t] → (trans = false → f.fn.getLsbD 0 = false) →
     (tcM (s.me.tc t) ≤ 1 →
       tilePlaces s s' sp els (s.me.clusters.flatMap fun cl => pos.map (tileElemAt v f t b cl trans)) r →
       exec i s = .next (slotRanIn s (readIn s' s.me 15 els) cv i { log := { tiles :=
         ((accessClusters v sp).flatMap fun a => pos.flatMap fun p =>
           (if sp then [a] else s.me.clusters).flatMap fun cl =>
             tileWrites cl t (s.me.shareBase + p.1) b p.2
               (v'.tileBits sp (tileElemAt v f t b a trans p) (r (tileElemAt v f t b a trans p)))) ++
         [.flags t false false] } }) ∧
       (s'.writes = [] → readIn s' s.me 15 els = s' ∧
         ∀ x l, v'.tileBits sp x l = ({ v with s := s' } : VEnv).memBits [] x l)) ∧
     (1 < tcM (s.me.tc t) → exec i s = .next (wholeRan s s cv i (tileShape 3 t)))) ∧
  (∀ (s s' : State) (cv : Convoy) (f : VT) (load : Bool) (r : Elem → List Loc), openSlot s cv →
     let v := slotEnv s cv
     let t := f.td.toNat
     let w := s.me.tc t
     let y := signLayout w
     let base := s.me.reg f.xa
     let sp := f.fn.getLsbD 1
     let i := if load then Instr.tldP f else .tsigck f
     let pos := cells (tcRows w) y.pc
     let ipos := if y.iw = 0 then [] else pos
     let els := signedElems y base pos load (accessClusters v sp)
     let v' : VEnv := { v with s := s'.beforeLoad s.me 15 els }
     let bits := fun (x : Elem) => v'.tileBits sp x (r x)
     let sign := fun (cl : Nat) => leBytes 16 (bits (signElem base cl))
     let check := fun (cl : Nat) => (signCheck w (sign cl)).or
       (idxCheck (tcM w) (tcN w) (tcRows w * (tcCols w / tcM w)) (ipos.map fun p => bits (idxElem y base cl p.1 p.2)))
     itemsOpen s [t] → tilePlaces s s' sp els (signedElems y base pos load s.me.clusters) r →
     (∀ sub, (accessClusters v sp).findSome? check = some sub →
       exec i s = .next (wholeRan s s' cv i (sparseMeta sub base))) ∧
     ((∀ cl ∈ accessClusters v sp, check cl = none) →
       exec i s = .next (slotRanIn s (readIn s' s.me 15 els) cv i (if load then { log := { tiles :=
         ((accessClusters v sp).flatMap fun a =>
           let cls := if sp then [a] else s.me.clusters
           (pos.flatMap fun p => cls.flatMap fun cl =>
             tileWrites cl t (s.me.shareBase + p.1) y.b p.2 (bits (valElem y base a p.1 p.2))) ++
           (ipos.flatMap fun p => cls.map fun cl => .idx (idxKey cl t (s.me.shareBase + p.1) p.2)
             (BitVec.ofNat 4 (bits (idxElem y base a p.1 p.2)))) ++
           [.flags t (byteAt (sign a) 8 % 2 == 1) (byteAt (sign a) 8 / 2 % 2 == 1)]) } } else {}))) ∧
     (s'.writes = [] → readIn s' s.me 15 els = s' ∧
       ∀ x l, v'.tileBits sp x l = ({ v with s := s' } : VEnv).memBits [] x l))

namespace Sys2Proof.Claims

/-- Where element e of a move lies: cluster, row, column (R235). -/
def moveAt (v : VEnv) (f : VT) (col : Bool) (e : Nat) : Nat × Nat × Nat :=
  if col then ((v.c.laneAt (e % v.c.lanes)).1, e % v.c.lanes % 128, (v.c.reg f.xa).toNat + e / v.c.lanes)
  else (v.c.firstCl, (v.c.reg f.xa).toNat, e)

/-- The active elements of a move that lie inside its item. -/
def movedElems (v : VEnv) (f : VT) (n : Nat) (col : Bool) : List Nat :=
  (v.actives f.pred).filter fun e =>
    decide ((moveAt v f col e).2.1 < (v.c.itemSize (f.fn.getLsbD 0) n).1) &&
    decide ((moveAt v f col e).2.2 < (v.c.itemSize (f.fn.getLsbD 0) n).2)

end Sys2Proof.Claims

/-- R73, R74, R233 to R236: tst logs every element of the tile of each spanned cluster at its address, and with P the
signpost, the packed values and the indices in their layout; tzero clears the whole view of the tile, and gives a
packed tile the pattern p mod N; vtrow and vtcol move a row or a column of a tile or accumulator into the vector,
vrowt and vcolt the vector into it, for the active elements that lie inside the item, the accumulators converted by
the mode and the width with the flags of the conversion, none of them enabled here. The model's choices here are log
entry 50. -/
def Obligations.TileStoreClearAndMoveSlots : Prop :=
  (∀ (s s' : State) (cv : Convoy) (f : VT) (r : Elem → List Loc), openSlot s cv →
     let v := slotEnv s cv
     let t := f.ta.toNat
     let w := s.me.tc t
     let y := signLayout w
     let base := s.me.reg f.xa
     let p := f.fn.getLsbD 0
     let pos := cells (tcRows w) (if p then y.pc else tcCols w)
     let ipos := if p = true ∧ y.iw ≠ 0 then pos else []
     let value := fun (cl : Nat) (q : Nat × Nat) =>
       if p then valElem y base cl q.1 q.2 else tileElemAt v f t y.b cl false q
     let els := (if p then s.me.clusters.map (signElem base) else []) ++ pos.flatMap fun q => s.me.clusters.flatMap fun cl =>
       value cl q :: if ipos.isEmpty then [] else [idxElem y base cl q.1 q.2]
     let stored := s.me.clusters.flatMap fun cl =>
       (if p then [(signElem base cl, leNat (signBytes w))] else []) ++
       (pos.map fun q => (value cl q, s.tileElem cl t (s.me.shareBase + q.1) y.b q.2)) ++
       (ipos.map fun q => (idxElem y base cl q.1 q.2, s.idxAt cl t (s.me.shareBase + q.1) q.2))
     let d := f.td.toNat
     (itemsOpen s [t] → placesOf s s' 1 (f.fn.getLsbD 1) 1 15 els r →
       exec (.tst f) s = .next (slotRanIn s s' cv (.tst f) { log := {
         mems := stored.flatMap fun x => memWrites x.1 (r x.1) x.2 } })) ∧
     (itemsOpen s [d] → exec (.tzero f) s = .next (slotRan s cv (.tzero f) { log := { tiles :=
       (s.me.clusters.flatMap fun cl => .clear (tileKey cl d s.me.shareBase 0) (256 * s.me.shareRows) ::
         if tcM (s.me.tc d) ≤ 1 then []
         else (cells s.me.shareRows 128).map fun q =>
           .idx (idxKey cl d (s.me.shareBase + q.1) q.2) (BitVec.ofNat 4 (q.2 % tcN (s.me.tc d)))) } }))) ∧
  (∀ (s : State) (cv : Convoy) (f : VT) (col : Bool), openSlot s cv →
     let v := slotEnv s cv
     let acc := f.fn.getLsbD 0
     let out := fun (e : Nat) =>
       let p := moveAt v f col e
       if acc then accOut (s.me.accMode f.ta.toNat) f.vec.w (s.accAt p.1 f.ta.toNat (s.me.shareBase + p.2.1) p.2.2)
       else (s.tileElem p.1 f.ta.toNat (s.me.shareBase + p.2.1) (fmtBits (tcFmt (s.me.tc f.ta.toNat))) p.2.2, 0)
     let conv := fun (e : Nat) => accIn (s.me.accMode f.td.toNat) f.vec.w (v.get f.vec e)
     let item := fun (n : BitVec 3) => [if acc then 8 + n.toNat else n.toNat]
     let enabled := s.me.fcsr.extractLsb' 6 6
     (itemsOpen s (item f.ta) → (∀ e ∈ movedElems v f f.ta.toNat col, (out e).2 &&& enabled = 0) →
       exec (if col then .vtcol f else .vtrow f) s = .next (slotRan s cv (if col then .vtcol f else .vtrow f) { log := {
         slices := (movedElems v f f.ta.toNat col).flatMap fun e => v.put f.vec e (out e).1
         flags := ((movedElems v f f.ta.toNat col).filter fun e => decide ((out e).2 ≠ 0)).map fun e => (e, (out e).2)
         rows := v.rowsOf f.vec } })) ∧
     (itemsOpen s (item f.td) → (acc = true → ∀ e ∈ movedElems v f f.td.toNat col, (conv e).2 &&& enabled = 0) →
       exec (if col then .vcolt f else .vrowt f) s = .next (slotRan s cv (if col then .vcolt f else .vrowt f) { log := {
         tiles := (movedElems v f f.td.toNat col).flatMap fun e =>
           let p := moveAt v f col e
           if acc then [TileWrite.acc (accKey p.1 f.td.toNat (s.me.shareBase + p.2.1) p.2.2) (BitVec.ofNat 40 (conv e).1)]
           else tileWrites p.1 f.td.toNat (s.me.shareBase + p.2.1) (fmtBits (tcFmt (s.me.tc f.td.toNat))) p.2.2
             (v.get f.vec e)
         flags := if acc then
             ((movedElems v f f.td.toNat col).filter fun e => decide ((conv e).2 ≠ 0)).map fun e => (e, (conv e).2)
           else [] } })))

/-- R237 to R240: in every spanned cluster tprune keeps the N greatest magnitudes of every group of M and tprune.t
those of the block pattern, FB telling whether a block took the band; tpackt packs the transpose, and tunpack spreads
the packed values over dense rows; TILE_SHAPE where the shape rules of each do not hold. The model's choices here are
log entry 51. -/
def Obligations.TilePruneAndPackSlots : Prop :=
  ∀ (s : State) (cv : Convoy) (f : VT), openSlot s cv → itemsOpen s [f.td.toNat, f.ta.toNat] →
    let cls := s.me.clusters
    let d := f.td.toNat
    let a := f.ta.toNat
    let wd := s.me.tc d
    let wa := s.me.tc a
    let b := fmtBits (tcFmt wa)
    let rows := tcRows wa
    let row := fun (i : Nat) => s.me.shareBase + i
    let val := fun (cl i j : Nat) => s.tileElem cl a (row i) b j
    let m := tcM wd
    let shape := fun (i : Instr) (sub item : Nat) => exec i s = .next (wholeRan s s cv i (tileShape sub item))
    let group := fun (cl i g : Nat) => (List.range m).map fun c => magRank (tcFmt wa) (val cl i (g * m + c))
    let block := fun (cl bi g : Nat) =>
      blockPattern m (tcN wd) fun p => magRank (tcFmt wa) (val cl (bi * m + p.1) (g * m + p.2))
    let kept := fun (trans : Bool) (cl i g : Nat) =>
      if trans then (List.range m).filter fun c => (block cl (i / m) g).1.contains (i % m, c)
      else keepBest (tcN wd) (group cl i g)
    let fits := 1 < m ∧ rows = tcRows wd ∧ tcCols wa = tcCols wd ∧ tcFmt wa = tcFmt wd ∧ tcCols wa % m = 0
    (∀ (i : Instr) (trans : Bool), (i = .tprune f ∧ trans = decide (f.fn = 1) ∨ i = .tpruneT f ∧ trans = true) →
      (tcM wa ≠ 1 → shape i 5 a) ∧
      (tcM wa = 1 → ¬ fits → shape i 5 d) ∧
      (tcM wa = 1 → fits → trans = true → rows % m ≠ 0 → shape i 6 d) ∧
      (tcM wa = 1 → fits → (trans = true → rows % m = 0) → exec i s = .next (slotRan s cv i { log := { tiles :=
        (cls.flatMap fun cl => (List.range rows).flatMap fun i => packRow cl d (row i) b
          ((List.range (tcCols wa / m)).flatMap fun g => (kept trans cl i g).map fun c => (c, val cl i (g * m + c)))) ++
        [.flags d trans (trans && cls.any fun cl =>
          (cells (rows / m) (tcCols wa / m)).any fun p => (block cl p.1 p.2).2)] } }))) ∧
    (let turned := tcRows wd = tcCols wa ∧ tcCols wd = rows ∧ tcN wd = tcN wa ∧ tcM wd = tcM wa ∧ tcFmt wd = tcFmt wa
     (tcTR wa = false → shape (.tpackt f) 6 a) ∧
     (tcTR wa = true → ¬ turned → shape (.tpackt f) 5 d) ∧
     (tcTR wa = true → turned → rows % tcM wa ≠ 0 → shape (.tpackt f) 6 a) ∧
     (tcTR wa = true → turned → rows % tcM wa = 0 → exec (.tpackt f) s = .next (slotRan s cv (.tpackt f) { log := { tiles :=
        (cls.flatMap fun cl => (List.range (tcCols wa)).flatMap fun k =>
          packRow cl d (row k) b ((List.range rows).flatMap fun i =>
            ((List.range (tcHeld wa)).filter fun p =>
              decide (p / tcN wa * tcM wa + s.idxAt cl a (row i) p = k)).map fun p => (i % tcM wa, val cl i p))) ++
        [.flags d true (tcFB wa)] } }))) ∧
    (let same := m = 1 ∧ tcFmt wd = tcFmt wa ∧ tcRows wd = rows ∧ tcCols wd = tcCols wa
     let column := fun (cl i p : Nat) => if tcM wa ≤ 1 then p else p / tcN wa * tcM wa + s.idxAt cl a (row i) p
     (¬ same → shape (.tunpack f) 5 d) ∧
     (same → exec (.tunpack f) s = .next (slotRan s cv (.tunpack f) { log := { tiles :=
        (cls.flatMap fun cl => (List.range rows).flatMap fun i =>
          ((List.range (tcCols wa)).flatMap fun j => tileWrites cl d (row i) b j 0) ++
          (List.range (tcHeld wa)).flatMap fun p =>
            if column cl i p < tcCols wa then tileWrites cl d (row i) b (column cl i p) (val cl i p) else []) ++
        [.flags d false false] } })))

/-! ## Exchange sets (R393 to R403) -/

namespace Sys2Proof.Claims

/-- The record of an exchange instruction: its handle is well formed, the record aligned, and its bytes are read. -/
def xRecord (s s' : State) (ra rb : XReg) (l : List Byte) : Prop :=
  s.handleOk (s.me.reg ra) = true ∧ (s.me.reg rb).toNat % 8 = 0 ∧ reads s s' rb 32 l

/-- The handle names a registered set, and carries the generation of its instance (R394, R403). -/
def xOpen (s : State) (h : Word) (x : XSet) : Prop :=
  s.handleOk h = true ∧ smFind (hSet h) s.xsets = some x ∧ hGen h = (x.inst (hInst h)).gen

/-- The current instruction, an xch instruction, ends in the trap of a refused handle or record: ILLEGAL_OPERAND with its
ESUB and the parcel, taken after what the read of the record did. -/
def xRefused (s s' : State) (i : Instr) (sub : Nat) : Prop :=
  plainMode (s'.ctxAt s.cur) →
    exec i s = .next (trappedIn s' s.cur (trapOf causeOperand sub (BitVec.ofNat 64 (parcelOf i))) s.me.pc)

/-- A registration record that breaks its table (R396), with the member table d: its scope, the number of members, its
rate, a byte that must be 0, an entry of the member table, or an arbiter that no member's endpoint holds. -/
def badSet (s : State) (l d : List Byte) : Prop :=
  let n := fieldAt l 2 2 + 1
  let entry := fun (k : Nat) => fieldAt d (8 * k) 8
  (byteAt l 1 ≠ 3 ∧ byteAt l 1 ≠ 4) ∨ 4096 < n ∨ zeroAt l 24 8 = false ∨ fieldAt l 16 2 = 0 ∨
  (byteAt l 1 = 3 ∧ (1000 < fieldAt l 16 2 ∨ zeroAt l 4 4 = false)) ∨ (byteAt l 1 = 4 ∧ 3584 < fieldAt l 16 2) ∨
  (∃ k, k < n ∧ (2 ^ 19 ≤ entry k ∨ (byteAt l 1 = 3 ∧ entry k % 2 ^ 13 ≠ s.glox.endpoint))) ∨
  (byteAt l 1 = 4 ∧ ((∀ k, k < n → entry k % 2 ^ 13 ≠ fieldAt l 4 2) ∨ ∀ k, k < n → entry k % 2 ^ 13 ≠ fieldAt l 6 2))

/-- A member of an instance replaced. -/
def withMember (s : State) (set g m : Nat) (v : XMem) : State := s.setInst set g ((s.instAt set g).put m v)

end Sys2Proof.Claims

/-- R395, R396: xch.post of a demand that its member may post records it and writes 0, and where every member has then
posted the instance is granted; of a registration it creates the set and of a deregistration of an idle set it removes
it. Every row of xch.post does what its record's KIND says; where the post cannot be, it writes the status of the
first check that fails and changes nothing: 1 for a set that is not registered, or is already, 2 to 5 for a demand, 6
for an instance in progress. A bad handle raises ILLEGAL_OPERAND 5, a misaligned record MISALIGN 2, a record that
breaks its table ILLEGAL_OPERAND 12, and KIND 1 or 2 of a user strand PRIV 0. The model's choices here are log entries
56, 57 and 80. -/
def Obligations.ExchangePosts : Prop :=
  ∀ (s s' s'' s3 : State) (i : Instr) (rd ra rb : XReg) (l d : List Byte) (x : XSet),
    i ∈ [Instr.xchPostDemand rd ra rb, .xchPostRegister rd ra rb, .xchPostDeregister rd ra rb] →
    (plainMode s.me → s.handleOk (s.me.reg ra) = false →
      exec i s = .next (trapped s causeOperand 5 (BitVec.ofNat 64 (parcelOf i)))) ∧
    (plainMode s.me → s.handleOk (s.me.reg ra) = true → (s.me.reg rb).toNat % 8 ≠ 0 →
      exec i s = .next (trapped s causeMisalign 2 (s.me.reg rb))) ∧
    (xRecord s s' ra rb l →
    let h := s.me.reg ra
    let m := hMember h
    let g := hInst h
    let v := (x.inst g).mem m
    let counts := (List.range x.n).map fun j => fieldAt d (8 * j) 8
    (byteAt l 0 = 0 → zeroAt l 1 7 = true → zeroAt l 30 2 = true → msFieldOk l 24 = true →
      smFind (hSet h) s'.xsets = some x → s'.readVirt s'.me 15 (fieldAt l 8 8) (8 * x.n) = .ok d s'' →
      counts.getD m 0 = 0 → g = smGet 0 x.posts m % 2 ^ 16 →
      (x.insts.filter fun e => decide (e.1 ≠ g) && e.2.busy).length < 2 →
      x.table[m]? = some (s''.glox.endpoint, s'.me.firstCl) → v.state = .bound →
      let v' : XMem := { v with state := .posted, demand := counts, cal := BitVec.ofNat 64 (fieldAt l 16 8),
                                calms := msField l 24, cap := fieldAt l 28 2, postSid := s'.me.sid }
      let x' : XSet := { x.putInst g ((x.inst g).put m v') with posts := smPut m (smGet 0 x.posts m + 1) x.posts }
      let t := s''.setXSet (hSet h) x'
      let all := (List.range x.n).all fun k => decide (((x'.inst g).mem k).state = .posted)
      exec i s = .next (wrote (if all then t.grantInst (hSet h) g else t) rd 0)) ∧
    (byteAt l 0 = 1 → s'.me.status.getLsbD 0 = true →
      s'.readVirt s'.me 15 (fieldAt l 8 8) (8 * (fieldAt l 2 2 % 4096 + 1)) = .ok d s'' →
      s''.xchRegister h l d = some (0, s3) →
      exec i s = .next (wrote s3 rd 0) ∧ s3 = { s'' with xsets := s3.xsets } ∧ smFind (hSet h) s''.xsets = none ∧
        ∃ y, smFind (hSet h) s3.xsets = some y ∧ y.n = fieldAt l 2 2 + 1 ∧ y.n ≤ 4096 ∧ y.table.length = y.n ∧
          y.domain = decide (byteAt l 1 = 4) ∧ y.rate = fieldAt l 16 2 ∧ y.guard = fieldAt l 18 2 ∧
          y.lead = fieldAt l 20 4 ∧ y.insts = [] ∧ y.posts = []) ∧
    (byteAt l 0 = 2 → s'.me.status.getLsbD 0 = true → zeroAt l 1 31 = true → smFind (hSet h) s'.xsets = some x →
      (∀ e ∈ x.insts, e.2.busy = false) →
      exec i s = .next (wrote { s' with xsets := smDel (hSet h) s'.xsets } rd 0)) ∧
    (byteAt l 0 = 0 → zeroAt l 1 7 = true → zeroAt l 30 2 = true → msFieldOk l 24 = true →
      smFind (hSet h) s'.xsets = some x → s'.readVirt s'.me 15 (fieldAt l 8 8) (8 * x.n) = .ok d s'' →
      let turn := g = smGet 0 x.posts m % 2 ^ 16 ∧ (x.insts.filter fun e => decide (e.1 ≠ g) && e.2.busy).length < 2
      let mine := x.table[m]? = some (s''.glox.endpoint, s'.me.firstCl)
      (counts.getD m 0 ≠ 0 → exec i s = .next (wrote s'' rd 2)) ∧
      (counts.getD m 0 = 0 → ¬ turn → exec i s = .next (wrote s'' rd 3)) ∧
      (counts.getD m 0 = 0 → turn → ¬ mine → exec i s = .next (wrote s'' rd 4)) ∧
      (counts.getD m 0 = 0 → turn → mine → v.state ≠ .bound → exec i s = .next (wrote s'' rd 5))) ∧
    (byteAt l 0 = 0 → zeroAt l 1 7 = true → zeroAt l 30 2 = true → msFieldOk l 24 = true →
      smFind (hSet h) s'.xsets = none → exec i s = .next (wrote s' rd 1)) ∧
    (byteAt l 0 = 1 → s'.me.status.getLsbD 0 = true →
      s'.readVirt s'.me 15 (fieldAt l 8 8) (8 * (fieldAt l 2 2 % 4096 + 1)) = .ok d s'' →
      s''.xchRegister h l d = some (1, s3) →
      exec i s = .next (wrote s'' rd 1) ∧ (smFind (hSet h) s''.xsets).isSome = true) ∧
    (byteAt l 0 = 2 → s'.me.status.getLsbD 0 = true → zeroAt l 1 31 = true →
      (smFind (hSet h) s'.xsets = none → exec i s = .next (wrote s' rd 1)) ∧
      (smFind (hSet h) s'.xsets = some x → (∃ e ∈ x.insts, e.2.busy = true) → exec i s = .next (wrote s' rd 6))) ∧
    (byteAt l 0 ∈ [1, 2] → s'.me.status.getLsbD 0 = false → plainMode (s'.ctxAt s.cur) →
      exec i s = .next (trappedIn s' s.cur (trapOf causePriv 0 (BitVec.ofNat 64 (parcelOf i))) s.me.pc)) ∧
    (2 < byteAt l 0 → xRefused s s' i 12) ∧
    (byteAt l 0 = 0 → zeroAt l 1 7 = false ∨ zeroAt l 30 2 = false ∨ msFieldOk l 24 = false → xRefused s s' i 12) ∧
    (byteAt l 0 = 2 → s'.me.status.getLsbD 0 = true → zeroAt l 1 31 = false → xRefused s s' i 12) ∧
    (byteAt l 0 = 1 → s'.me.status.getLsbD 0 = true →
      s'.readVirt s'.me 15 (fieldAt l 8 8) (8 * (fieldAt l 2 2 % 4096 + 1)) = .ok d s'' → badSet s'' l d →
      plainMode (s''.ctxAt s.cur) →
      exec i s = .next (trappedIn s'' s.cur (trapOf causeOperand 12 (BitVec.ofNat 64 (parcelOf i))) s.me.pc)))

/-- R393, R397 to R399, R403: xch.recv of an instance not yet posted binds its receive side; xch.send of a granted
member queues its stream, waits for a grant still to come or for room in a full queue of 64, and beyond the posted
demand or after xch.end raises XCH_OVER; xch.end closes the sending side; xch.stat reports the bytes received; a
handle of another generation raises XCH_GEN with the current one in EVAL and has no other effect. The push of a send
is a release at package scope. xch.end waits for nothing: with bytes unsent it sends no marker yet, and a second one
no further marker. A waiting xch.send is tried again once its member is granted. A bad handle or one of no registered
set, and a source beyond the set, raise ILLEGAL_OPERAND 5; a misaligned record MISALIGN 2; a record that breaks its
table ILLEGAL_OPERAND 12. The model's choices here are log entry 58. -/
def Obligations.ExchangeStreams : Prop :=
  ∀ (s s' s'' : State) (rd ra rb : XReg) (l d : List Byte) (x : XSet) (n : Nat),
    let h := s.me.reg ra
    let m := hMember h
    let g := hInst h
    let v := (s'.instAt (hSet h) g).mem m
    let u := (s''.instAt (hSet h) g).mem m
    let w := (x.inst g).mem m
    let dest := fieldAt l 16 2
    let size := fieldAt l 8 8
    let room := (v.demand.getD dest 0 + 4095) / 4096 * 4096
    (plainMode s.me → s.handleOk h = true → smFind (hSet h) s.xsets = some x → hGen h ≠ (x.inst g).gen →
      ∀ i ∈ [Instr.xchSend ra rb, .xchRecv ra rb, .xchEnd ra, .xchStat rd ra rb],
        exec i s = .next (trapped s causeXchGen 0 (BitVec.ofNat 64 (x.inst g).gen))) ∧
    (plainMode s.me → s.handleOk h = false ∨ smFind (hSet h) s.xsets = none →
      ∀ i ∈ [Instr.xchSend ra rb, .xchRecv ra rb, .xchEnd ra, .xchStat rd ra rb],
        exec i s = .next (trapped s causeOperand 5 (BitVec.ofNat 64 (parcelOf i)))) ∧
    (xOpen s h x →
    (plainMode s.me → (s.me.reg rb).toNat % 8 ≠ 0 → ∀ i ∈ [Instr.xchSend ra rb, .xchRecv ra rb],
      exec i s = .next (trapped s causeMisalign 2 (s.me.reg rb))) ∧
    (xRecord s s' ra rb l → size = 0 ∨ 2 ^ 40 < size ∨ x.n ≤ dest ∨ dest = m ∨ 2 ≤ byteAt l 18 ∨ byteAt l 19 ≠ 0 ∨
      msFieldOk l 20 = false ∨ zeroAt l 24 8 = false → xRefused s s' (.xchSend ra rb) 12) ∧
    (xRecord s s' ra rb l → 2 ≤ byteAt l 20 ∨ zeroAt l 21 11 = false ∨ msFieldOk l 16 = false →
      xRefused s s' (.xchRecv ra rb) 12) ∧
    (xRecord s s' ra rb l → 1 ≤ size → size ≤ 2 ^ 40 → dest < x.n → dest ≠ m → byteAt l 18 < 2 → byteAt l 19 = 0 →
      msFieldOk l 20 = true → zeroAt l 24 8 = true → v.ended = true → plainMode (s'.ctxAt s.cur) →
      exec (.xchSend ra rb) s = .next (trappedIn s' s.cur (trapOf causeXchOver 0 (BitVec.ofNat 64 dest)) s.me.pc)) ∧
    (xRecord s s' ra rb l → byteAt l 20 < 2 → zeroAt l 21 11 = true → msFieldOk l 16 = true →
      s'.readVirt s'.me 15 (fieldAt l 8 8) (16 * x.n) = .ok d s'' → (u.state = .open ∨ u.state = .bound) →
      exec (.xchRecv ra rb) s = .next (flowed (withMember s'' (hSet h) g m { u with
        state := .bound, recv := l, recvSid := s''.me.sid, received := [], discarded := []
        offs := (List.range x.n).map fun j => (fieldAt d (16 * j) 8, fieldAt d (16 * j + 8) 8) }))) ∧
    (xRecord s s' ra rb l → 1 ≤ size → size ≤ 2 ^ 40 → dest < x.n → dest ≠ m → byteAt l 18 < 2 → byteAt l 19 = 0 →
      msFieldOk l 20 = true → zeroAt l 24 8 = true → v.ended = false →
      (v.state = .granted → smGet 0 v.queued dest + size ≤ room → s'.sendsOf s'.me.sid < 64 →
        exec (.xchSend ra rb) s = .next (flowed (withMember (s'.releasePackage s'.cur) (hSet h) g m { v with
          sends := v.sends ++ [{ src := fieldAt l 0 8, len := size, dest := dest, scratch := byteAt l 18 == 1
                                 ms := msField l 20, sid := s'.me.sid, pos := smGet 0 v.queued dest }]
          queued := smPut dest (smGet 0 v.queued dest + size) v.queued }))) ∧
      (v.state = .granted → room < smGet 0 v.queued dest + size → plainMode (s'.ctxAt s.cur) →
        exec (.xchSend ra rb) s = .next (trappedIn s' s.cur (trapOf causeXchOver 0 (BitVec.ofNat 64 dest)) s.me.pc)) ∧
      (v.state = .granted → smGet 0 v.queued dest + size ≤ room → 64 ≤ s'.sendsOf s'.me.sid →
        completes (.xchSend ra rb) s fun t => t.xsets = s'.xsets ∧ t.me.wait = some .engine ∧ t.me.pc = s'.me.pc) ∧
      (v.state ∈ [XState.open, .bound, .posted] →
        exec (.xchSend ra rb) s = .next (s'.setMe { s'.me with wait := some (.xchSend ra rb) }))) ∧
    (w.state = .granted → w.sendFrozen = false → w.unsent = false →
      completes (.xchEnd ra) s fun t =>
        let j := t.instAt (hSet h) g
        (j.mem m).ended = true ∧ (j.mem m).state ∈ [XState.sent, .closed] ∧
          (∀ k, k < x.n → k ≠ m → (m, k) ∈ j.markers) ∧ (∀ q, t.me.reg q = s.me.reg q) ∧ t.me.pc = s.me.pc + 4) ∧
    (w.state ∈ [XState.open, .bound, .posted] → completes (.xchEnd ra) s fun t =>
      ((t.instAt (hSet h) g).mem m).ended = true ∧ ((t.instAt (hSet h) g).mem m).state = w.state ∧
        (∀ q, t.me.reg q = s.me.reg q) ∧ t.me.pc = s.me.pc + 4) ∧
    ((w.state = .granted ∨ w.state = .ending) → w.unsent = true ∨ w.sendFrozen = true →
      completes (.xchEnd ra) s fun t =>
        let j := t.instAt (hSet h) g
        (j.mem m).ended = true ∧ (j.mem m).state = .ending ∧ (j.mem m).sends = w.sends ∧
          (∀ k, (m, k) ∈ j.markers ↔ (m, k) ∈ (x.inst g).markers) ∧ (∀ q, t.me.reg q = s.me.reg q) ∧
          t.me.pc = s.me.pc + 4) ∧
    (w.ended = true → w.state ∈ [XState.sent, .closed] → completes (.xchEnd ra) s fun t =>
      let j := t.instAt (hSet h) g
      (j.mem m).ended = true ∧ (j.mem m).state ∈ [XState.sent, .closed] ∧ (j.mem m).sends = w.sends ∧
        (∀ k, (m, k) ∈ j.markers ↔ (m, k) ∈ (x.inst g).markers) ∧ (∀ q, t.me.reg q = s.me.reg q) ∧
        t.me.pc = s.me.pc + 4) ∧
    (x.n ≤ (s.me.reg rb).toNat → plainMode s.me →
      exec (.xchStat rd ra rb) s = .next (trapped s causeOperand 5 (BitVec.ofNat 64 (parcelOf (.xchStat rd ra rb))))) ∧
    ((s.me.reg rb).toNat < x.n → exec (.xchStat rd ra rb) s = .next (wrote s rd (BitVec.ofNat 64
      ((if (s.me.reg rb).toNat ∈ w.discarded then 2 ^ 63 else 0) + smGet 0 w.received (s.me.reg rb).toNat % 2 ^ 63)))) ∧
    ((s.ctxAt n).wait = some (.xchSend ra rb) → (s.ctxAt n).reg ra = h → w.state = .granted →
      ∃ j, exec (.xchSend ra rb) { s.setCtx n { s.ctxAt n with wait := none } with cur := n } = .next j ∧
        exec (.xchSendGrant n) s = .next { j with cur := s.cur }))

namespace Sys2Proof.Claims

/-- What a member's send unit may transmit now: its one queued stream towards a destination, of at most one quantum, and
the bytes of it that are read (R398). The packet carries no stamp towards a member of this package, and one towards a member
elsewhere (R389). -/
def sendable (s s' : State) (x : XSet) (set g m : Nat) (q : XSend) (b : List PByte) (st : Option (Nat × Bool)) : Prop :=
  let v := (x.inst g).mem m
  smFind set s.xsets = some x ∧ v.state = .granted ∧ v.sendFrozen = false ∧ s.unitAsked (64 + set) (xUnit g m 0) = false ∧
    v.sends = [q] ∧ (∀ u ∈ v.unacked, u.dest ≠ q.dest ∨ u.pos + u.len ≤ q.pos) ∧ smGet 0 v.sentTo q.dest = q.pos ∧ 0 < q.len ∧ q.len ≤ 4096 ∧ s'.xsets = s.xsets ∧
    s.streamPlane set q.dest = .go st ∧ ∃ c, s.strandCtx q.sid = some c ∧
      ({ s with free := if st.isSome then s.free + 1 else s.free } : State).unitRead c q.scratch (x.clusterOf m)
        (q.src % 2 ^ 64) q.len = .ok b s'

/-- The stream of a send is on its way, its member has sent up to its end, and the send has left the queue; a stamp counts
in OUT of its version, and a member of this package has none. -/
def onItsWay (s s' t : State) (x : XSet) (set g m : Nat) (q : XSend) (b : List PByte) (st : Option (Nat × Bool)) : Prop :=
  (t.instAt set g).flight = (s.instAt set g).flight ++ [{ src := m, dst := q.dest, pos := q.pos, data := b, stamp := st }] ∧
    ((x.table[q.dest]?).map Prod.fst = some s.glox.endpoint → st = none ∧ t.glox = s'.glox) ∧
    (∀ p ver, st = some (p, ver) → s.verOf p = ver ∧
      smGet 0 t.glox.stamped (outKey p ver) = smGet 0 s'.glox.stamped (outKey p ver) + 1) ∧
    smGet 0 ((t.instAt set g).mem m).sentTo q.dest = q.pos + q.len ∧ ((t.instAt set g).mem m).sends = [] ∧
    ((t.instAt set g).mem m).unacked = ((s.instAt set g).mem m).unacked ++ [q]

end Sys2Proof.Claims

/-- R393, R397, R398, R402, R403: a phase under way transmits a sender's stream within its quanta; after the calendar
what is left is sent; a packet that its receiver takes whole is written, counted and acknowledged; an end marker is
noted; a heartbeat is noted; a standby takes over after 10 µs without one, gives the instances in progress a new
generation and posts a record; a member that learns of it re-posts what is not acknowledged. The model's choices here
are log entries 49, 58 and 59. -/
def Obligations.ExchangeEvents : Prop :=
  ∀ (s s' : State) (x : XSet) (set g m k src : Nat) (q : XSend) (b : List PByte) (st : Option (Nat × Bool)) (p : Phase)
    (w : XPacket) (c : Ctx),
    let i := x.inst g
    let v := i.mem m
    (sendable s s' x set g m q b st → i.phases[k]? = some p → p.start ≤ s.time →
      s.time < (match i.phases[k + 1]? with | some n => n.start | none => i.tend) → p.grants = [(m, q.dest, src)] →
      smGet 0 i.spent (k * 4096 + m) + q.len ≤ src * 4096 →
      completes (.phaseStart set g k) s fun t => onItsWay s s' t x set g m q b st ∧
        smGet 0 (t.instAt set g).spent (k * 4096 + m) = smGet 0 i.spent (k * 4096 + m) + q.len) ∧
    (sendable s s' x set g m q b st → i.calendar = true → i.tend ≤ s.time → i.members = [(m, v)] →
      v.queued = [(q.dest, q.pos + q.len)] → completes (.calendarEnd set g) s fun t =>
        onItsWay s s' t x set g m q b st) ∧
    (smFind set s.xsets = some x → i.flight.head? = some w → s.takesPackets set g w.dst = true → w.src ≠ w.dst →
      let r := i.mem w.dst
      let o := r.offs.getD w.src (0, 0)
      r.discards = false → w.data ≠ [] → w.pos + w.data.length ≤ o.2 → s.strandCtx r.recvSid = some c →
      s.unitWrite c (byteAt r.recv 20 % 2 == 1) (x.clusterOf w.dst) ((fieldAt r.recv 0 8 + o.1 + w.pos) % 2 ^ 64) w.data =
        .ok () s' → s'.xsets = s.xsets → completes (.exchangeArrival set g) s fun t =>
          let j := t.instAt set g
          j.flight = i.flight.tail ∧ smGet 0 (j.mem w.dst).received w.src = max (smGet 0 r.received w.src) (w.pos + w.data.length) ∧
            smGet 0 (j.mem w.src).acked w.dst = w.pos + w.data.length ∧ (s'.ctl.fqen = false → sameBytes s' t)) ∧
    (smFind set s.xsets = some x → (src, m) ∈ i.markers → (∀ w ∈ i.flight, w.src ≠ src ∨ w.dst ≠ m) →
      completes (.endMarkerArrival set g src m) s fun t => src ∈ ((t.instAt set g).mem m).marks) ∧
    (smFind set s.xsets = some x → x.standby.isSome = true →
      exec (.heartbeat set) s = .next (s.setXSet set { x with lastBeat := s.time })) ∧
    (smFind set s.xsets = some x → x.standby = some k → x.lastBeat + 10000 ≤ s.time → s.ctl.fqen = false →
      s.fq.length < 256 → completes (.standbyTakeover set) s fun t =>
        (∃ y, smFind set t.xsets = some y ∧ y.primary = k ∧ y.standby = none ∧
          y.insts.map Prod.fst = x.insts.map Prod.fst ∧
          ∀ e ∈ x.insts, ∃ j, (e.1, j) ∈ y.insts ∧ j.gen = (if e.2.busy then (e.2.gen + 1) % 2 ^ 16 else e.2.gen)) ∧
        ∃ r, t.fq = s.fq ++ [r] ∧ r.kind = 10) ∧
    (smFind set s.xsets = some x → v.announced = false → smFind m i.members = some v →
      (∃ e ∈ i.members, e.1 ≠ m ∧ e.2.announced = false) →
      completes (.generationAnnouncement set g m) s fun t =>
        t = { s.setInst set g { i.put m { v with
            announced := true, state := .posted, sentTo := v.acked
            rest := (List.range x.n).map fun d => smGet 0 v.queued d - smGet 0 v.acked d } with
          flight := i.flight.filter fun p => decide (p.src ≠ m), markers := i.markers.filter fun p => decide (p.1 ≠ m) } with
          glox := t.glox } ∧
        ((∀ w ∈ i.flight, w.src = m → w.stamp = none) → t.glox = s.glox))

/-- R400, R401: in every phase each member sends to at most one member and receives from at most one, as many quanta
as the phase has or fewer; over all phases each pair is granted what it demands; and each phase starts where the one
before it ends. -/
def Obligations.ExchangeSchedule : Prop :=
  ∀ (n rate guard t0 : Nat) (q : List (Nat × Nat × Nat)), (∀ e ∈ q, e.1 < n ∧ e.2.1 < n ∧ e.1 ≠ e.2.1) →
    (q.map fun e => (e.1, e.2.1)).Nodup →
    let ps := schedule n q
    let ts := timePhases rate guard t0 ps
    (∀ p ∈ ps, (p.2.map fun e => e.1).Nodup ∧ (p.2.map fun e => e.2.1).Nodup ∧ ∀ e ∈ p.2, 0 < e.2.2 ∧ e.2.2 ≤ p.1) ∧
    (∀ i j c, (i, j, c) ∈ q →
      (((ps.flatMap Prod.snd).filter fun e => decide (e.1 = i ∧ e.2.1 = j)).map fun e => e.2.2).sum = c) ∧
    ts.1.map (fun p => (p.len, p.grants)) = ps ∧
    (∀ p, ts.1[0]? = some p → p.start = t0) ∧
    (∀ k a b, ts.1[k]? = some a → ts.1[k + 1]? = some b → b.start = a.start + (a.len * 4096 + rate - 1) / rate + guard) ∧
    (∀ a, ts.1.getLast? = some a → ts.2 = a.start + (a.len * 4096 + rate - 1) / rate + guard)

/-! ## Launch, placement and pre-emption (R31 to R32, R332 to R350, R355 to R358) -/

namespace Sys2Proof.Claims

/-- A record has been appended at the tail of a queue's ring, or waits for the tail's stack to leave self-refresh, and the
queue holds a slot unless every slot is taken; of the other queues, which are mapped as the slots allow, no more than the
waiting counts changed, and no strand and no cluster did. -/
def appended (s t : State) (n : Nat) (l : List Byte) : Prop :=
  let q := s.queueAt n
  let pa := q.base.toNat + 64 * (q.tail % 2 ^ q.log2n)
  (if s.asleepRange pa l.length = true then t.mem = s.mem ∧ t.waiting = s.waiting ++ [(pa, l)]
    else t.mem = (s.writePhys pa l).mem ∧ t.waiting = s.waiting) ∧
    (∃ w, t.queueAt n = { q with tail := q.tail + 1, w := w }) ∧
    (∀ k, k ≠ n → ∃ w, t.queueAt k = { s.queueAt k with w := w }) ∧
    ((∃ e ∈ t.slots, e.2.queue = n) ∨ 64 ≤ t.slots.length) ∧ t.ctxs = s.ctxs ∧ t.clusters = s.clusters

/-- A launch window shows the status of the last record stored to it: that of the physical function in its queue's copy,
that of a virtual function on its own (R430). -/
def winShows (t : State) (fn k n st : Nat) : Prop :=
  if fn = 0 then (t.queueAt n).winStatus = st else smGet 0 t.ctl.vfWin (4096 * (fn - 1) + k) = st

end Sys2Proof.Claims

/-- R333, R337, R338: a record passes where it keeps its table, its loop and its size, its queue grants the privilege,
is of the launching strand's PASID, is enabled and has room; launch appends it and writes 0, or writes the status of
the check that failed; an accepted launch is a release at package scope; a store to the window does the same, notes
the status of that window, and posts a record of a failure. The window of a physical function names its queue, that of
virtual function v its i-th queue, and one beyond its range has no effect. The model's choices here are log entry 32. -/
def Obligations.LaunchRecords : Prop :=
  ∀ (s s' : State) (rd ra : XReg) (l : List Byte) (n fn k base count : Nat) (q : Queue) (pasid : Option Word),
    let names := (fn = 0 ∧ k = n) ∨ (1 ≤ fn ∧ fn ≤ 16 ∧ smGet (0, 0) s.ctl.vfs (fn - 1) = (base, count) ∧ k < count ∧ n = base + k)
    (q.recStatus pasid l = 0 ↔ recFieldsOk l = true ∧ recLoopOk l = true ∧ recFits l = true ∧
      (byteAt l 20 / 4 % 2 = 1 → q.supok = true) ∧ (∀ p, pasid = some p → p = q.pasid) ∧ q.enable = true ∧
      q.tail - q.head < 2 ^ q.log2n) ∧
    (reads s s' ra 64 l → (s.me.reg ra).toNat % 64 = 0 →
      (if fieldAt l 50 2 = 0xFFFF then s.me.queue else fieldAt l 50 2) = n → n ≤ 4095 →
      (s'.queueAt n).head ≤ (s'.queueAt n).tail →
      let st := (s'.queueAt n).recStatus (some s.me.pasid) l
      (st = 0 → ∃ t, exec (.launch rd ra) s = .next (wrote t rd 0) ∧ appended (s'.releasePackage s'.cur) t n l) ∧
      (st ≠ 0 → exec (.launch rd ra) s = .next (wrote s' rd (BitVec.ofNat 64 st)))) ∧
    (l.length = 64 → n ≤ 4095 → names → (s.queueAt n).head ≤ (s.queueAt n).tail →
      let st := (s.queueAt n).recStatus none l
      let u := if fn = 0 then s.setQueue n { s.queueAt n with winStatus := st }
        else { s with ctl := { s.ctl with vfWin := smPut (4096 * (fn - 1) + k) st s.ctl.vfWin } }
      (st = 0 → completes (.launchWindowStore ⟨fn, k⟩ l) s fun t => appended u t n l ∧ winShows t fn k n 0) ∧
      (st ≠ 0 → s.ctl.fqen = false → s.fq.length < 256 → completes (.launchWindowStore ⟨fn, k⟩ l) s fun t =>
        winShows t fn k n st ∧ t.mem = s.mem ∧ ∃ r, t.fq = s.fq ++ [r] ∧ r.kind = 3 ∧ r.queue = n ∧
          r.esub = BitVec.ofNat 16 st)) ∧
    ((fn = 0 ∧ 4096 ≤ k) ∨ 17 ≤ fn ∨ (1 ≤ fn ∧ smGet (0, 0) s.ctl.vfs (fn - 1) = (base, count) ∧ count ≤ k) →
      exec (.launchWindowStore ⟨fn, k⟩ l) s = .next s)

/-- R31, R32, R339, R340, R343, R355: a record that the placement unit can place becomes its strands: the context of
each starts at the record's entry with its argument in X[3], every other register 0, in the span found, and the head
leaves its queue, or stays for its next replica where they are placed one at a time. A parked strand without vpart
children that can be placed goes on from its image, which keeps its sid, and its resume entry is gone. No other
context changes. At a rotation boundary every slot then belongs to a queue with work, and a queue with work but
without a slot has waited one more. The model's choices here are log entries 34, 35 and 36. -/
def Obligations.PlacementAndRotation : Prop :=
  ∀ (s s' : State) (slot n : Nat) (sl : Slot) (l : List (Rep × Place × List Grant × Nat)) (c : Ctx) (p : Place)
    (b : List PByte),
    let q := s.queueAt sl.queue
    let r := q.recOf (s.headBytes q)
    let next := (q.replica.map Prod.fst).getD 0 + 1
    let img := b.map Prod.fst
    let back : Ctx := { c with mode := .resident, vspan := p.vspan, parent := none, placedAt := s.nextId, order := { all := s.moment } }
    (smFind slot s.slots = some sl → s.planNow slot = some (.fresh l) → (l.map fun m => m.2.2.2).Nodup →
      (∀ k ∈ s.slotOrder.takeWhile fun k => decide (k ≠ slot), s.planNow k = none) →
      completes (.placement slot) s fun t =>
        (∀ m ∈ l,
          let c := t.ctxAt m.2.2.2
          c.mode = .resident ∧ c.pc = r.entry ∧ c.reg 3 = r.arg ∧ (∀ k, k ≠ 3 → c.reg k = 0) ∧ c.vspan = m.2.1.vspan ∧
            c.vlmax = BitVec.ofNat 64 (64 * m.2.1.lanes) ∧ c.status = (if r.sup then 1 else 0) ∧ c.pasid = q.pasid ∧
            c.stvec = clearLow 2 q.stvec ∧ c.grants = m.2.2.1) ∧
        (if r.single = true ∧ next < r.replicas then
          (t.queueAt sl.queue).head = q.head ∧ ((t.queueAt sl.queue).replica.map Prod.fst) = some next
         else (t.queueAt sl.queue).head = q.head + 1 ∧ (t.queueAt sl.queue).replica = none) ∧
        ∀ k, (∀ m ∈ l, m.2.2.2 ≠ k) → t.ctxAt k = s.ctxAt k) ∧
    (smFind slot s.slots = some sl → s.planNow slot = some (.resume [(c, p, n)]) → c.parent = none →
      (∀ k ∈ s.slotOrder.takeWhile fun k => decide (k ≠ slot), s.planNow k = none) →
      s.readImage back = .ok b s' → back.imgBad b = none → imgHeaderOk img = true → back.imgFits img = true →
      completes (.placement slot) s fun t =>
        (t.ctxAt n).mode = .resident ∧ (t.ctxAt n).sid = c.sid ∧ (t.ctxAt n).vspan = p.vspan ∧
        (t.ctxAt n).pc = BitVec.ofNat 64 (fieldAt img 24 8 / 4 * 4) ∧
        (∀ k, 0 < k → k < 32 → (t.ctxAt n).reg (BitVec.ofNat 5 k) = BitVec.ofNat 64 (fieldAt img (0x40 + 8 * k) 8)) ∧
        (t.parked.all fun x => decide (x.sid ≠ c.sid)) = true ∧ c.sid ∉ (t.queueAt c.queue).resume ∧
        ∀ k, k ≠ n → t.ctxAt k = s.ctxAt k) ∧
    (s.boundary < s.boundaries → smRising none s.slots = true → smRising none s.queues = true →
      (∀ e ∈ s.slots, e.1 < 64) → (s.slots.map fun e => e.2.queue).Nodup →
      completes .rotationBoundary s fun t =>
        t.boundary = s.boundary + 1 ∧ (∀ e ∈ t.slots, 0 < (t.queueAt e.2.queue).count) ∧ t.mem = s.mem ∧
          ∀ k, 0 < (s.queueAt k).count → (∀ e ∈ t.slots, e.2.queue ≠ k) → (t.queueAt k).w = (s.queueAt k).w + 1)

/-- R346 to R349, R356, R357: idle goes on at its deadline or waits for it; yield goes on where nothing is due, in a
handler too where something is, takes PREEMPT where a pre-emption is due or a mapped head wants the strand's span,
against its whole unit, and with 1 ends the strand, or waits for its tokens, its passes, its remote accesses still to
be accepted and its children's; at the end of the grace period PREEMPT is taken with ESUB 1, the running pipelines
frozen, where no queue command acts on the strand; a strand that has not parked in time is stopped and reported, once.
The model's choices here are log entries 37 and 74. -/
def Obligations.WaitingAndPreemption : Prop :=
  ∀ (s : State) (ra : XReg) (n t0 : Nat) (i : Instr),
    let v := s.me.reg ra
    let frozen := fun (c : Ctx) (n : Nat) => if (c.pipe n).state = .running then PipeState.frozen else (c.pipe n).state
    (v.toNat ≤ s.time → exec (.idle ra) s = .next (flowed s)) ∧
    (s.time < v.toNat → exec (.idle ra) s = .next (s.setMe { s.me with wait := some (.idle v.toNat) })) ∧
    ((s.ctxAt n).wait = some (.idle t0) → t0 ≤ s.time →
      exec (.idleDeadline n) s = .next (s.setCtx n (onward { s.ctxAt n with wait := none }))) ∧
    (i ∈ [Instr.yield ra, .yieldEnd ra] →
      (v = 0 → s.me.preemptDue = none → s.wanted s.cur = false → exec i s = .next (flowed s)) ∧
      (v = 0 → s.me.preemptDue.isSome = true → plainMode s.me → completes i s fun t =>
        t.me.cause = causePreempt.setWidth 64 ∧ t.me.esub = 0 ∧ t.me.epc = s.me.pc + 4 ∧ t.me.pc = s.me.stvec ∧
          t.me.status = (if s.me.status.getLsbD 0 then 7 else 5) ∧ (∀ q, t.me.reg q = s.me.reg q) ∧
          t.me.retired = s.me.retired + 1) ∧
      (v = 0 → s.me.preemptDue = none → s.wanted s.cur = true → s.cur ∈ s.ctxsOf (s.unitSids s.me.sid) → plainMode s.me →
        completes i s fun t => t.me.cause = causePreempt.setWidth 64 ∧ t.me.esub = 0 ∧ t.me.epc = s.me.pc + 4 ∧
          t.me.pc = s.me.stvec ∧ (∀ q, t.me.reg q = s.me.reg q) ∧
          ∀ k ∈ s.ctxsOf (s.unitSids s.me.sid), (t.ctxAt k).preemptDue.isSome = true) ∧
      (v = 0 → s.me.ex = true → (s.me.preemptDue.isSome = true → exec i s = .next (flowed s)) ∧
        (s.me.preemptDue = none → s.wanted s.cur = true → completes i s fun t => t.me.pc = s.me.pc + 4 ∧
          (∀ q, t.me.reg q = s.me.reg q) ∧ t.me.status = s.me.status ∧
          ∀ k ∈ s.ctxsOf (s.unitSids s.me.sid), (t.ctxAt k).preemptDue.isSome = true)) ∧
      (v = 1 → s.spent s.cur = true → (∀ k ∈ s.childrenIn s.cur, s.spent k = true) → s.me.parent ≠ some s.cur →
        completes i s fun t => (t.ctxAt s.cur).mode = .free) ∧
      (v = 1 → (s.spent s.cur = false ∨ ∃ k ∈ s.childrenIn s.cur, s.spent k = false) →
        exec i s = .next (s.setMe { s.me with wait := some .engine })) ∧
      (2 ≤ v.toNat → plainMode s.me →
        exec i s = .next (trapped s causeOperand 6 (BitVec.ofNat 64 (parcelOf (.yield ra)))))) ∧
    (let c := s.ctxAt n;
      c.graceEnd = some t0 → t0 ≤ s.ticks → c.mode = .resident → plainMode c → c.between = true →
      (s.qHolds n = true → exec (.preemptGraceExpiry n) s = .next s) ∧ (s.qHolds n = false →
      completes (.preemptGraceExpiry n) s fun t => (t.ctxAt n).cause = causePreempt.setWidth 64 ∧ (t.ctxAt n).esub = 1 ∧
        (t.ctxAt n).epc = c.pc ∧ (t.ctxAt n).pc = c.stvec ∧ (∀ q, (t.ctxAt n).reg q = c.reg q) ∧
        ((t.ctxAt n).preemptEntry).isSome = true ∧ ∀ k, ((t.ctxAt n).pipe k).state = frozen c k)) ∧
    (let c := s.ctxAt n;
      c.stopAt = some t0 → t0 ≤ s.ticks → c.mode ≠ .free → s.ctl.fqen = false → s.fq.length < 256 →
      (c.graceOver = true → exec (.preemptStop n) s = .next s) ∧
      (c.graceOver = false → completes (.preemptStop n) s fun t =>
        (t.ctxAt n).mode = .stopped ∧ (t.ctxAt n).pc = c.pc ∧ (t.ctxAt n).graceOver = true ∧
        (∀ q, (t.ctxAt n).reg q = c.reg q) ∧ ∃ r, t.fq = s.fq ++ [r] ∧ r.kind = 2 ∧ r.ctx = n ∧ r.cause = causePreempt))

/-- R351 to R355: the image begins with its header, a right check sum, and the registers, rd as 1; ctx.save writes it
and goes on with 0 in X[rd], the dirty blocks noted, those that vpart children have written among them; with PARK its
context is free and the strand the first to resume of its queue; ctx.rest of an image of the same span and PASID takes
PC, registers and CSRs from it; both wait for the strand's tokens and passes, ctx.save also for its remote accesses
and with PARK for its children; a misaligned image, a bit of X[rs2] that is reserved, or PARK of ctx.rest, a running
pipeline, and an image that is poisoned before its slices, has a wrong header or is of another span, share or PASID,
or holds fabric state, trap; in user mode both raise PRIV. The model's choices here are log entries 28, 29 and 91. -/
def Obligations.ContextImages : Prop :=
  ∀ (s s' : State) (rd ra rb : XReg) (c : Ctx) (pc : Word) (l : List PByte) (k : Nat),
    let a := s.me.reg ra
    let f := (s.me.reg rb).toNat
    let parcels := [(Instr.ctxSave rd ra rb, 4), (.ctxRest ra rb, 2)]
    let word := fun (i : Instr) => BitVec.ofNat 64 (parcelOf i)
    let front := s.imgFront c pc (some rd)
    let img := l.map Prod.fst
    let whole := s.absorb s.cur
    (s.me.sid ∉ s.me.children → whole.me = { s.me with vdirty := s.me.vdirty ||| s.childDirty s.me }) ∧
    (front.length = 0xA48 ∧ imgHeaderOk front = true ∧ fieldAt front 24 8 = pc.toNat ∧
      (k < 32 → fieldAt front (0x40 + 8 * k) 8 = if BitVec.ofNat 5 k = rd ∧ k ≠ 0 then 1 else (c.reg (BitVec.ofNat 5 k)).toNat)) ∧
    (s.me.status.getLsbD 0 = true → a.toNat % 4096 = 0 → f < 4 → s.me.pipeRuns = false → s.quiet s.me = true →
      s.unaccepted s.me.sid = false → whole.imgWrite whole.me a (s.me.pc + 4) (some rd) = .ok () s' →
      let u := (s'.markSaved s.me.sid s.me.pasid a).releasePackage s'.cur
      let kept := { s'.me with
        seen := s'.me.seen ||| s'.me.vdirty.setWidth 16, tseen := s'.me.tseen ||| s'.me.ten.setWidth 12
        vdirty := 0, ten := if 2 ≤ f then 0 else s'.me.ten }
      (f % 2 = 0 → exec (.ctxSave rd ra rb) s = .next (u.setMe (onward (putReg kept rd 0))) ∧ sameBytes s' u ∧
        u = { s' with glox := u.glox, writes := u.writes, moment := u.moment }) ∧
      (f % 2 = 1 → s.childrenIn s.cur = [] → completes (.ctxSave rd ra rb) s fun t =>
        (t.ctxAt s'.cur).mode = .free ∧
        (∃ p ∈ t.parked, p.mode = .parked ∧ p.image = a ∧ p.sid = s'.me.sid ∧ p.pc = s'.me.pc + 4) ∧
        (t.queueAt s'.me.queue).resume = s'.me.sid :: (s'.queueAt s'.me.queue).resume)) ∧
    (s.me.status.getLsbD 0 = true → a.toNat % 4096 = 0 → f = 0 ∨ f = 2 → s.me.pipeRuns = false → s.quiet s.me = true →
      s.imgRead s.me a = .ok l s' → s.me.imgBad l = none → imgHeaderOk img = true → s.me.imgFits img = true →
      s.me.imgFabric img = false → s'.imgAwake l = true →
      let csr := fun (off bits : Nat) => fieldAt img off 8 % 2 ^ bits
      completes (.ctxRest ra rb) s fun t =>
        t.me.pc = BitVec.ofNat 64 (fieldAt img 24 8 / 4 * 4) ∧ t.me.reg 0 = 0 ∧
        (∀ k, 0 < k → k < 32 → t.me.reg (BitVec.ofNat 5 k) = BitVec.ofNat 64 (fieldAt img (0x40 + 8 * k) 8)) ∧
        t.me.vl.toNat = csr 0x140 20 ∧ t.me.vstart.toNat = csr 0x148 20 ∧ t.me.efc.toNat = csr 0x168 32 ∧
        t.me.modq.toNat = csr 0x170 30 ∧ t.me.fcsr.toNat = csr 0x180 16 ∧ t.me.accfmt.toNat = csr 0x208 8 ∧
        t.me.mxm.toNat = csr 0x210 8 ∧ t.me.mxn.toNat = csr 0x218 8 ∧ t.me.mxk.toNat = csr 0x220 8 ∧
        t.me.retired.toNat = csr 0x248 64 ∧ (∀ k : Fin 4, t.me.lidx[k].toNat = csr (0x260 + 8 * k.val) 12) ∧
        t.me.status.toNat = csr 0x340 3 ∧ t.me.stvec.toNat = csr 0x348 64 / 4 * 4 ∧ t.me.cause.toNat = csr 0x350 8 ∧
        t.me.epc.toNat = csr 0x358 64 / 4 * 4 ∧ t.me.eval.toNat = csr 0x360 64 ∧ t.me.esub.toNat = csr 0x368 11 ∧
        t.me.eelem.toNat = csr 0x370 20 ∧ t.me.sscratch.toNat = csr 0x378 64 ∧
        t.me.ptroot.toNat = csr 0x3C0 60 / 8 * 8 ∧ t.me.ptdesc.toNat = csr 0x3C8 60 / 32 * 32 ∧
        t.me.quantum.toNat = csr 0x440 16 ∧ t.me.wdog.toNat = csr 0x448 32 ∧
        t.me.ten.toNat = (if f = 2 then 0 else fieldAt img 16 2 % 2 ^ 12) ∧ t.me.vdirty = 0 ∧
        (s'.ctl.fqen = false → t.mem = s'.mem)) ∧
    (s.me.status.getLsbD 0 = true → a.toNat % 4096 = 0 → f = 0 ∨ f = 2 → s.me.pipeRuns = false → s.quiet s.me = true →
      s.imgRead s.me a = .ok l s' → plainMode (s'.ctxAt s.cur) →
      let traps := fun (t : TrapInfo) => exec (.ctxRest ra rb) s = .next (trappedIn s' s.cur t s.me.pc)
      (s.me.imgBad l = some k → (s'.ctxAt s.cur).record.gang ≤ 1 →
        traps (trapOf causeHwUe 5 (a + BitVec.ofNat 64 (8 * k)))) ∧
      (s.me.imgBad l = none → imgHeaderOk img = false → traps (trapOf causeOperand 12 (word (.ctxRest ra rb)))) ∧
      (s.me.imgBad l = none → imgHeaderOk img = true → (s.me.imgFits img = false ∨ s.me.imgFabric img = true) →
        traps (trapOf causeOperand 13 (word (.ctxRest ra rb))))) ∧
    (∀ i ∈ parcels,
      let good := f < 4 ∧ (i.2 = 2 → f % 2 = 0)
      (s.me.status.getLsbD 0 = false → plainMode s.me → exec i.1 s = .next (trapped s causePriv 0 (word i.1))) ∧
      (s.me.status.getLsbD 0 = true → plainMode s.me → a.toNat % 4096 ≠ 0 →
        exec i.1 s = .next (trapped s causeMisalign 2 a)) ∧
      (s.me.status.getLsbD 0 = true → plainMode s.me → a.toNat % 4096 = 0 → ¬ good →
        exec i.1 s = .next (trapped s causeOperand 6 (word i.1))) ∧
      (s.me.status.getLsbD 0 = true → plainMode s.me → a.toNat % 4096 = 0 → good → s.me.pipeRuns = true →
        exec i.1 s = .next (trapped s causeOperand 10 (word i.1))) ∧
      (s.me.status.getLsbD 0 = true → a.toNat % 4096 = 0 → good → s.me.pipeRuns = false →
        (s.quiet s.me = false ∨ (i.2 = 4 ∧ (s.unaccepted s.me.sid = true ∨ (f % 2 = 1 ∧ s.childrenIn s.cur ≠ [])))) →
        exec i.1 s = .next (s.setMe { s.me with wait := some .engine })))

namespace Sys2Proof.Claims

/-- pprobe's word for a page that an access may use: the fields of R377. -/
def reportsPage (v pa size level : Nat) (r w x u acc dirty : Bool) : Prop :=
  v < 2 ^ 20 ∧ v % 2 = 1 ∧ v / 2 % 8 = 0 ∧ v / 2 ^ 4 % 8 = level ∧ v / 2 ^ 7 % 64 = size ∧ v.testBit 13 = r ∧ v.testBit 14 = w ∧
    v.testBit 15 = x ∧ v.testBit 16 = u ∧ v.testBit 17 = acc ∧ v.testBit 18 = dirty ∧ v.testBit 19 = decide (regionOf pa = 1)

end Sys2Proof.Claims

/-- R358, R377: vpart with a descriptor that keeps its table and contexts to spare starts one child for each part at
the entry, with the argument in X[3], its number in LIDX0 and a pre-emption that is due against its parent, and waits;
without contexts it writes 1; run again it waits while a child is left and then writes 0; without a cluster span,
misaligned, or with a descriptor that breaks its table it traps. pprobe writes what the translation would give, with
the rights of a user where the strand is one or asks so, the flags of the page or the level and the cause of the
failure, and changes nothing else. The model's choices here are log entries 39 and 41. -/
def Obligations.PartitionsAndProbes : Prop :=
  ∀ (s s' : State) (rd ra rb : XReg) (d : List Byte) (ns : List Nat) (f : PteFormat) (e : TlbEntry) (i : PageInfo)
    (upd : List (Nat × Nat)) (steps : List WalkPoint) (k v : Nat),
    (s.me.pc ∉ s.me.vparts → s.me.clusterSpan = true → (s.me.reg ra).toNat % 8 = 0 → reads s s' ra 32 d →
      vpartOk s.me.clusters.length d = true → s'.me.mode = .resident →
      (freeContexts (byteAt d 1) (s'.usedContexts []) = none → exec (.vpart rd ra) s = .next (wrote s' rd 1)) ∧
      (freeContexts (byteAt d 1) (s'.usedContexts []) = some ns → completes (.vpart rd ra) s fun t =>
        ns.length = byteAt d 1 ∧ t.me.wait = some (.vpart rd) ∧ t.me.pc = s'.me.pc ∧
        (∀ g n, ns[g]? = some n → (t.ctxAt n).mode = .resident ∧ (t.ctxAt n).pc = BitVec.ofNat 64 (fieldAt d 16 8 / 4 * 4) ∧
          (t.ctxAt n).reg 3 = BitVec.ofNat 64 (fieldAt d 24 8) ∧ (t.ctxAt n).parent = some s'.cur ∧
          (t.ctxAt n).lidx[0] = BitVec.ofNat 64 g ∧ (t.ctxAt n).pasid = s'.me.pasid ∧
          (t.ctxAt n).lanes = 16 * byteAt d (2 + g) ∧ (t.ctxAt n).preemptDue = s'.me.preemptDue) ∧
        (∀ q, t.me.reg q = s'.me.reg q) ∧ ∀ n, n ∉ ns → n ≠ s'.cur → t.ctxAt n = s'.ctxAt n)) ∧
    (s.me.pc ∈ s.me.vparts → s.me.children ≠ [] →
      exec (.vpart rd ra) s = .next (s.setMe { s.me with wait := some (.vpart rd) })) ∧
    (s.me.pc ∉ s.me.vparts → plainMode s.me →
      (s.me.clusterSpan = false →
        exec (.vpart rd ra) s = .next (trapped s causePriv 1 (BitVec.ofNat 64 (parcelOf (.vpart rd ra))))) ∧
      (s.me.clusterSpan = true → (s.me.reg ra).toNat % 8 ≠ 0 →
        exec (.vpart rd ra) s = .next (trapped s causeMisalign 2 (s.me.reg ra)))) ∧
    (s.me.pc ∉ s.me.vparts → s.me.clusterSpan = true → (s.me.reg ra).toNat % 8 = 0 → reads s s' ra 32 d →
      vpartOk s.me.clusters.length d = false → plainMode (s'.ctxAt s.cur) → exec (.vpart rd ra) s =
        .next (trappedIn s' s.cur (trapOf causeOperand 12 (BitVec.ofNat 64 (parcelOf (.vpart rd ra)))) s.me.pc)) ∧
    (s.me.pc ∈ s.me.vparts → s.me.children = [] → exec (.vpart rd ra) s =
      .next (s.setMe (onward (putReg { s.me with vparts := s.me.vparts.filter fun p => decide (p ≠ s.me.pc) } rd 0)))) ∧
    (let b := (s.me.reg rb).toNat
      let a := (s.me.reg ra).toNat
      let user := !s.me.status.getLsbD 0 || decide (4 ≤ b)
      let result := s.probe s.me (b % 4) user a
      let walk := s.siteWalk sDie s.me f (b % 4) user true a
      let outside := a < 2 ^ 64 - 2 ^ 28
      (b < 8 → result = some v → exec (.pprobe rd ra rb) s = .next (wrote s rd (BitVec.ofNat 64 v))) ∧
      (b < 8 → result = none → exec (.pprobe rd ra rb) s = .next (s.setMe { s.me with wait := some .engine })) ∧
      (8 ≤ b → plainMode s.me →
        exec (.pprobe rd ra rb) s = .next (trapped s causeOperand 6 (BitVec.ofNat 64 (parcelOf (.pprobe rd ra rb))))) ∧
      (outside → s.me.desc = none → result = some 10) ∧
      (outside → s.me.desc = some f →
        (s.hit sDie s.me f (b % 4) user a = some e → e.level < 8 → e.size < 64 →
          (s.leafOk f (e.addr a) = true → ∃ w, result = some w ∧
            reportsPage w (s.outPa f (e.addr a)) e.size e.level e.pr e.pw e.px e.pu e.acc e.dirty) ∧
          (s.leafOk f (e.addr a) = false → result = some (16 * e.level + 8))) ∧
        (s.hit sDie s.me f (b % 4) user a = none →
          (walk = .page i upd steps → i.level < 8 → i.size < 64 → ∃ w, result = some w ∧
            reportsPage w (s.outPa f (i.out + a % 2 ^ i.size)) i.size i.level i.r i.w i.x i.u i.a i.d) ∧
          (walk = .absent k → result = some (16 * k + if f.pri then 6 else 2)) ∧
          (walk = .denied k → result = some (16 * k + if f.pri then 6 else 4)) ∧
          (walk = .prot k → result = some (16 * k + 4)) ∧
          (walk = .format k ∨ walk = .poison k → result = some (16 * k + 8)) ∧ (walk = .asleep → result = none))) ∧
      (2 ^ 64 - 2 ^ 28 ≤ a → b % 4 ≠ 2 →
        result = some (2 ^ 20 + if (s.windowAt s.me a 1).isSome = true then 1 else 0)))

namespace Sys2Proof.Claims

/-- The physical function's command port has taken a command and is not busy. -/
def commanded (s : State) (op ctx target : Nat) : State := s.setQport 0 { s.qport 0 with qcmd := qcmdWord op ctx target }

/-- A command has ended with a status. -/
def ended (t : State) (st : Nat) : Prop := (t.qport 0).busy = false ∧ (t.qport 0).stat = BitVec.ofNat 8 st

/-- A command ends with a status and does nothing else. -/
def turnedAway (i : Instr) (s : State) (st : Nat) : Prop :=
  completes i s fun t => ended t st ∧ t = { s with ctl := t.ctl }

/-- A command stays busy, and has done nothing yet. -/
def commandWaits (i : Instr) (s : State) : Prop :=
  completes i s fun t => (t.qport 0).busy = true ∧ t = { s with ctl := t.ctl }

end Sys2Proof.Claims

/-- R359, R431: the commands of QCMD on a port that is not busy: END and END_GANG leave their contexts free and the
gang's parked strands gone, SAVE_RELEASE writes the image and parks the strand, RESPAWN starts a poisoned member again
on the spare cluster, CLEAR_BROKEN clears the bit, REPLACE_CLUSTER puts the spare in a free cluster's place; each ends
with status 0. A strand that cannot end or be saved yet leaves the port busy; a context in another state gives status
1, a unit that is busy 2, an operand out of its range 3, with no other effect; and a command to a busy port is
discarded. The model's choices here are log entry 65. -/
def Obligations.QueueCommands : Prop :=
  ∀ (s s' : State) (n cl : Nat) (target : BitVec 16),
    let all := [Instr.qcmdEnd n, .qcmdSaveAndRelease n, .qcmdEndGang n, .qcmdRespawn n, .qcmdClearBroken target,
      .qcmdReplaceCluster cl]
    ((s.qport 0).busy = true → ∀ i ∈ all, exec i s = .next s) ∧
    ((s.qport 0).busy = false → n < 256 →
    let c := s.ctxAt n
    let a := (s.qport 0).qarg
    let desc := clearLow 5 (lowBits 60 (s.queueAt c.queue).ptdesc)
    let saveable := c.mode = .stopped ∨ (c.mode = .resident ∧ c.ex = true)
    let spare := fun (t : State) (k : Nat) => (k / 8, k) ∈ t.repair.clusters
    (c.mode ≠ .free → c.mode ≠ .parked → s.endable n = true → (∀ k ∈ s.childrenIn n, s.endable k = true) →
      c.parent ≠ some n → completes (.qcmdEnd n) s fun t => ended t 0 ∧ (t.ctxAt n).mode = .free) ∧
    (c.mode ≠ .free → c.mode ≠ .parked → (s.endable n = false ∨ ∃ k ∈ s.childrenIn n, s.endable k = false) →
      commandWaits (.qcmdEnd n) s) ∧
    (c.mode = .free ∨ c.mode = .parked → turnedAway (.qcmdEnd n) s 1) ∧
    (saveable → (a.toNat % 4096 ≠ 0 → turnedAway (.qcmdSaveAndRelease n) s 3) ∧
      (a.toNat % 4096 = 0 → c.pipeRuns = true → turnedAway (.qcmdSaveAndRelease n) s 2) ∧
      (a.toNat % 4096 = 0 → c.pipeRuns = false → (s.endable n = false ∨ s.childrenIn n ≠ []) →
        commandWaits (.qcmdSaveAndRelease n) s)) ∧
    (¬ saveable → turnedAway (.qcmdSaveAndRelease n) s 1) ∧
    (c.mode = .free → turnedAway (.qcmdEndGang n) s 1) ∧
    (c.mode ≠ .free → (∃ k ∈ s.ctxsOf (s.unitSids c.sid), s.endable k = false) → commandWaits (.qcmdEndGang n) s) ∧
    (¬ (c.mode = .stopped ∧ c.poisoned = true) → turnedAway (.qcmdRespawn n) s 1) ∧
    (c.mode = .stopped → c.poisoned = true → s.canReplace c.firstCl (fun k => decide (k = n)) = false →
      turnedAway (.qcmdRespawn n) s 2) ∧
    (c.mode = .stopped → c.poisoned = true → s.canReplace c.firstCl (fun k => decide (k = n)) = true →
      (s.quiet c = false ∨ s.descAwake desc = false) → commandWaits (.qcmdRespawn n) s) ∧
    (target.toNat < 4096 ∨ 8192 ≤ target.toNat → turnedAway (.qcmdClearBroken target) s 3) ∧
    (64 ≤ cl → cl < 2 ^ 16 → turnedAway (.qcmdReplaceCluster cl) s 3) ∧
    (cl < 64 → s.canReplace cl (fun _ => false) = false → turnedAway (.qcmdReplaceCluster cl) s 2) ∧
    (saveable → a.toNat % 4096 = 0 → c.pipeRuns = false →
      s.endable n = true → s.childrenIn n = [] →
      let u := (commanded s 2 n 0).absorb n
      State.writePieces (u.ctxAt n) a ((u.imgPieces (u.ctxAt n) c.pc none).flatMap fun p =>
        splitPages (p.2.length / 4096 + 2) p.1 p.2) u = .ok () s' → s'.ctxs = u.ctxs →
      completes (.qcmdSaveAndRelease n) s fun t => ended t 0 ∧ (t.ctxAt n).mode = .free ∧
        ∃ p ∈ t.parked, p.mode = .parked ∧ p.sid = c.sid ∧ p.image = a ∧ p.pc = c.pc) ∧
    (c.mode ≠ .free → (∀ k ∈ s.ctxsOf (s.unitSids c.sid), s.endable k = true) →
      completes (.qcmdEndGang n) s fun t => ended t 0 ∧
        (∀ k ∈ s.ctxsOf (s.unitSids c.sid), (t.ctxAt k).mode = .free) ∧ ∀ p ∈ t.parked, p ∈ s.parked ∧
          (p.sid ∈ s.unitSids c.sid → (s.ctxOf p.sid).isSome = true)) ∧
    (c.mode = .stopped → c.poisoned = true → s.canReplace c.firstCl (fun k => decide (k = n)) = true → s.quiet c = true →
      s.descAwake desc = true → completes (.qcmdRespawn n) s fun t => ended t 0 ∧ (t.ctxAt n).mode = .resident ∧ (t.ctxAt n).pc = c.record.entry ∧
        (t.ctxAt n).reg 3 = c.record.arg ∧ (t.ctxAt n).vspan = c.place.vspan ∧ spare t c.firstCl) ∧
    (4096 ≤ target.toNat → target.toNat < 8192 → completes (.qcmdClearBroken target) s fun t =>
      let name : MsName := { num := target.toNat - 4096, pkg := true }
      ended t 0 ∧ t.msAt 0 name = { s.msAt 0 name with broken := false } ∧ t = { s with ctl := t.ctl, pms := t.pms }) ∧
    (cl < 64 → s.canReplace cl (fun _ => false) = true → completes (.qcmdReplaceCluster cl) s fun t =>
      ended t 0 ∧ spare t cl ∧ t.clAt cl = {} ∧ (∀ k, k ≠ cl → t.clAt k = s.clAt k) ∧ ∀ k, t.ctxAt k = s.ctxAt k))

/-! ## Gloxel (R382 to R391, R436) -/

/-- R390, R391: rt.upd reads its record, does the operation at the plane and waits for the reply: a QUERY reports the
packets of a version at all ingresses and changes nothing, a FLIP to the other version starts, one to the current
version changes nothing, a WRITE of a version that carries no packets fills the entries and of another gives status 2;
a plane that another endpoint manages gives status 1, and one that is down 3; the reply reaches X[rd] once no flip is
under way. A flip at the ingress changes the stamped version, ends the oldest flip under way, and holds new packets
just while the old version has some. A record that breaks its table or is misaligned traps, and in user mode it raises
PRIV. That status 1 comes before 3 and 3 before 2, and that a switch is unreachable where the plane's port is down, is
the model's reading. The model's choices here are log entry 95. -/
def Obligations.RouteUpdates : Prop :=
  ∀ (s s' s'' : State) (i : Instr) (rd ra : XReg) (l e : List Byte) (n plane : Nat) (ver : Bool) (v : Word),
    let p := rtPlane l
    let w := rtVer l
    let sw := fieldAt l 2 2
    let status := fun (u : State) (st sum : Nat) =>
      BitVec.ofNat 64 (sum * 2 ^ 32 + (if u.planeVersion p then 256 else 0) + st)
    let waiting := fun (u : State) (x : Word) => u.setMe { u.me with wait := some (.rtUpd rd), reply := some x }
    let own := smGet 0 s''.glox.manager p = s''.glox.endpoint
    let mine := own ∧ p ∉ s''.glox.down
    let word := BitVec.ofNat 64 (parcelOf (.rtUpdWrite rd ra))
    (i ∈ [Instr.rtUpdWrite rd ra, .rtUpdFlip rd ra, .rtUpdQuery rd ra] →
      (s.me.status.getLsbD 0 = false → plainMode s.me →
        exec i s = .next (trapped s causePriv 0 word)) ∧
      (s.me.status.getLsbD 0 = true → plainMode s.me → (s.me.reg ra).toNat % 8 ≠ 0 →
        exec i s = .next (trapped s causeMisalign 2 (s.me.reg ra))) ∧
      (s.me.status.getLsbD 0 = true → (s.me.reg ra).toNat % 8 = 0 → reads s s' ra 32 l → rtRecordOk l = false →
        plainMode (s'.ctxAt s.cur) →
        exec i s = .next (trappedIn s' s.cur (trapOf causeOperand 12 word) s.me.pc)) ∧
      (s.me.status.getLsbD 0 = true → (s.me.reg ra).toNat % 8 = 0 → reads s s' ra 32 l → rtRecordOk l = true →
        (if rtOp l = 0 then s'.readVirt s.me 15 (fieldAt l 16 8) (2 * fieldAt l 10 2) = .ok e s'' else s'' = s') →
        (¬ own → exec i s = .next (waiting s'' (status s'' 1 0))) ∧
        (own → p ∈ s''.glox.down → exec i s = .next (waiting s'' (status s'' 3 0))) ∧
        (mine → rtOp l = 2 → exec i s = .next (waiting s'' (status s'' 0 (s''.outSum p w)))) ∧
        (mine → rtOp l = 1 → w = s''.planeVersion p → exec i s = .next (waiting s'' (status s'' 0 0))) ∧
        (mine → rtOp l = 1 → w ≠ s''.planeVersion p →
          let due := smPut p (smGet [] s''.glox.flips p ++ [w]) s''.glox.flips
          let u : State := { s'' with glox := { s''.glox with flips := due } }
          exec i s = .next (waiting u (status u 0 0))) ∧
        (mine → rtOp l = 0 → w ≠ s''.planeVersion p → s''.outSum p w = 0 →
          smWf (0 : BitVec 16) s''.glox.routes = true →
          ∃ t, exec i s = .next (waiting t (status s'' 0 0)) ∧
            t = { s'' with glox := { s''.glox with routes := t.glox.routes } } ∧
            ∀ d, d < 8192 → smGet 0 t.glox.routes (routeKey p (decide (sw / 2 ^ 15 = 1)) (sw % 256) w d) =
              if fieldAt l 8 2 ≤ d ∧ d < fieldAt l 8 2 + fieldAt l 10 2 then
                BitVec.ofNat 16 (fieldAt e (2 * (d - fieldAt l 8 2)) 2) &&& 0x80FF
              else smGet 0 s''.glox.routes (routeKey p (decide (sw / 2 ^ 15 = 1)) (sw % 256) w d)) ∧
        (mine → rtOp l = 0 → (w = s''.planeVersion p ∨ s''.outSum p w ≠ 0) →
          exec i s = .next (waiting s'' (status s'' 2 0))))) ∧
    ((s.ctxAt n).wait = some (.rtUpd rd) → (s.ctxAt n).reply = some v → s.glox.flips = [] →
      exec (.rtUpdReply n) s = .next (s.setCtx n (onward (putReg { s.ctxAt n with wait := none, reply := none } rd v)))) ∧
    (plane < 16 → s.verOf plane ≠ ver → smWf false s.glox.version = true → smRising none s.glox.flips = true →
      (smGet 0 s.glox.manager plane ≠ s.glox.endpoint ∨ (smGet [] s.glox.flips plane).head? = some ver) →
      completes (.flipReachesIngress plane ver) s fun t => t.verOf plane = ver ∧
        (∀ q, q ≠ plane → t.verOf q = s.verOf q) ∧ smGet [] t.glox.flips plane = (smGet [] s.glox.flips plane).tail ∧
        (∀ q, q ≠ plane → smGet [] t.glox.flips q = smGet [] s.glox.flips q) ∧
        (smGet 0 s.glox.stamped (outKey plane (!ver)) ≠ 0 → plane ∈ t.glox.holding) ∧
        (smGet 0 s.glox.stamped (outKey plane (!ver)) = 0 → plane ∉ t.glox.holding) ∧
        (∀ q, q ≠ plane → (q ∈ t.glox.holding ↔ q ∈ s.glox.holding)) ∧ t = { s with glox := t.glox })

namespace Sys2Proof.Claims

/-- A packet under way whose accepted acknowledgement is still to come, alone of its instruction. -/
def outstanding (s : State) (p : Packet) : Prop :=
  s.packetAt p.num = some p ∧ p.accepted = none ∧ p.waits = true ∧ (s.ctxAt p.ctx).mode = .resident ∧
    (s.ctxAt p.ctx).sid = p.sid ∧ (s.ctxAt p.ctx).remote = .waiting none ∧
    ∀ q ∈ s.glox.packets, q.ctx = p.ctx → q.sid = p.sid → q.waits = true → q.num = p.num

end Sys2Proof.Claims

/-- R385 to R387, R389, R436: an accepted acknowledgement lets the waiting instruction go on, takes the packet out of
its version's count and, of a store, keeps it for the visible one, which removes it; a refusal of one of its elements
with reason 1 to 5 gives the instruction REMOTE_NACK of that element, 200 µs without an answer REMOTE_TIMEOUT 1, and
200 µs without the visible one REMOTE_TIMEOUT 2 to each strand whose fence awaits the store, the storing strand's with
the store's class among them; ports go down, run at half width and are repaired; the host names a plane's manager. The
model's choices here are log entries 49 and 73. -/
def Obligations.RemoteAccesses : Prop :=
  ∀ (s : State) (p : Packet) (reason : BitVec 3) (n sent j k e : Nat) (el : Nat × Word) (mask : BitVec 16),
    let first := p.elems.headD (0, 0)
    (outstanding s p → smWf (0 : BitVec 32) s.glox.stamped = true →
      completes (.ackAccepted p.num) s fun t => (t.ctxAt p.ctx).remote = .ok ∧ (t.ctxAt p.ctx).wait = none ∧
        smGet 0 t.glox.stamped (outKey p.plane p.ver) = smGet 0 s.glox.stamped (outKey p.plane p.ver) - 1 ∧
        t.packetAt p.num = (if p.store then some { p with accepted := some s.ticks, waits := false } else none)) ∧
    (outstanding s p → 1 ≤ reason.toNat → reason.toNat ≤ 5 → p.elems[j]? = some el →
      completes (.remoteNack p.num ⟨j, reason⟩) s fun t =>
        (t.ctxAt p.ctx).remote = .fault el.1 (nackOf el.2.toNat reason.toNat) ∧ (t.ctxAt p.ctx).wait = none ∧
        t.packetAt p.num = none) ∧
    (outstanding s p → p.sentAt + usTicks 200 ≤ s.ticks →
      completes (.remoteTimeout p.num) s fun t =>
        (t.ctxAt p.ctx).remote = .fault first.1 (trapOf causeRemoteTimeout 1 first.2) ∧ (t.ctxAt p.ctx).wait = none ∧
        t.packetAt p.num = some { p with waits := false }) ∧
    (s.packetAt p.num = some p → p.accepted.isSome = true →
      completes (.ackVisible p.num) s fun t => t.packetAt p.num = none ∧ t = { s with glox := t.glox } ∧
        ∀ q, q ≠ p.num → t.packetAt q = s.packetAt q) ∧
    (s.packetAt p.num = some p → p.accepted = some sent → sent + usTicks 200 ≤ s.ticks → n ∈ s.fenceAwaits p →
      (s.fenceAwaits p).Nodup → completes (.visibleAckTimeout p.num) s fun t => t.packetAt p.num = none ∧
        (t.ctxAt n).async = (s.ctxAt n).async ++ [trapOf causeRemoteTimeout 2 first.2] ∧
        ∀ k, k ∉ s.fenceAwaits p → t.ctxAt k = s.ctxAt k) ∧
    (p.store = true → s.ctxOf p.sid = some n → (s.ctxAt n).wait = some (.fence mask) → mask.getLsbD p.cls = true →
      n ∈ s.fenceAwaits p) ∧
    (k < 16 →
      (completes (.gloxelPortDown k) s fun t => k ∈ t.glox.down ∧ (∀ q, q ≠ k → (q ∈ t.glox.down ↔ q ∈ s.glox.down)) ∧
        t = { s with glox := { s.glox with down := t.glox.down } }) ∧
      (completes (.linkDegrade k) s fun t => k ∈ t.glox.degraded ∧ k ∈ t.repair.ports ∧
        t = { s with glox := { s.glox with degraded := t.glox.degraded }
                     repair := { s.repair with ports := t.repair.ports } }) ∧
      (e < 8192 → smWf (0 : Nat) s.glox.manager = true → completes (.nameFabricManager k e) s fun t => smGet 0 t.glox.manager k = e ∧
        (∀ q, q ≠ k → smGet 0 t.glox.manager q = smGet 0 s.glox.manager q) ∧
        t = { s with glox := { s.glox with manager := t.glox.manager } })) ∧
    (completes (.portRepair k) s fun t => k ∉ t.glox.down ∧ (∀ q, q ≠ k → (q ∈ t.glox.down ↔ q ∈ s.glox.down)) ∧
      t = { s with glox := { s.glox with down := t.glox.down } })

/-! ## Translation services (R250, R259, R374 to R376) -/

namespace Sys2Proof.Claims

/-- What is under way: the packets up to now, the open convoys, each with its context, address and RETIRED, and the writes
up to now and of the convoys' strands. -/
def nowUnderWay (s : State) : Inval :=
  let open_ := s.ctxs.filter fun e => !e.2.viq.isEmpty
  { packets := s.glox.nextPacket
    convoys := open_.map fun e => (e.1, e.2.pc, e.2.retired)
    moment := s.moment
    sids := open_.map fun e => e.2.sid }

/-- The writes that were under way have been performed at system scope, that is for every agent; only what is known of the
writes still on their way has changed (R375). -/
def systemWide (s t : State) (i : Inval) : Prop :=
  t = { s with writes := t.writes, moment := t.moment } ∧ (s.writes = [] → t = s) ∧
    ∀ w ∈ t.writes, w.instr ≤ i.moment ∨ w.sid ∈ i.sids → ∀ d, d < 10 → (smFind d w.seen).isSome = true

/-- Nothing of what was under way is left: every earlier packet is answered and every convoy performed or discarded. -/
def nothingLeft (s : State) (i : Inval) : Prop :=
  (∀ p ∈ s.glox.packets, i.packets ≤ p.num) ∧
    ∀ x ∈ i.convoys, (s.ctxAt x.1).viq = [] ∨ (s.ctxAt x.1).pc ≠ x.2.1 ∨ (s.ctxAt x.1).retired ≠ x.2.2

/-- Just the cached translations and the cached table addresses that meet a removal are gone. -/
def dropped (s t : State) (e : TlbEntry → Prop) (w : WalkEntry → Prop) : Prop :=
  (∀ c x, x ∈ smGet [] t.tlbs c ↔ x ∈ smGet [] s.tlbs c ∧ ¬ e x) ∧
    ∀ c x, x ∈ smGet [] t.walks c ↔ x ∈ smGet [] s.walks c ∧ ¬ w x

end Sys2Proof.Claims

/-- R374 to R376: tlb.inv, first, is a fence at package scope over all classes: the strand's writes have then reached
every agent of the package; it then removes the entries of its page, its PASID or all, and goes on once no packet and
no convoy that was under way is left and their writes are performed at system scope; a host invalidation removes the
entries that its range meets, and completes after what was under way at it, performed at system scope too; a success
lets the waiting strands go on, a refusal gives them XLATE, a failure every one, with later requests failing until PRI
is enabled; tlb.inv with another KIND traps, and in user mode it raises PRIV. The model's choices here are log entry
42. -/
def Obligations.TranslationServices : Prop :=
  ∀ (s : State) (i : Instr) (ra rb : XReg) (pasid : BitVec 20) (va len : Nat) (l : List Inval) (w : Inval) (r : PageReq),
    let b := (s.me.reg rb).toNat
    let kind := b / 2 ^ 20
    let word := BitVec.ofNat 64 (parcelOf (.tlbInvPage ra rb))
    let hit := fun (p : Word) (page size : Nat) =>
      kind = 2 ∨ (p.toNat = b % 2 ^ 20 ∧ (kind = 1 ∨ (s.me.reg ra).toNat / 2 ^ size = page))
    let meets := fun (p : Word) (page size : Nat) =>
      p.toNat = pasid.toNat ∧ page * 2 ^ size < va + len ∧ va < (page + 1) * 2 ^ size
    (i ∈ [Instr.tlbInvPage ra rb, .tlbInvPasid ra rb, .tlbInvAll ra rb] →
      (s.me.status.getLsbD 0 = true → kind < 3 → s.me.inval = none →
        let fenced := s.fenceAt s.cur 0xFFFF 3
        let now := nowUnderWay fenced
        fenced = { s with writes := fenced.writes, moment := fenced.moment, ctxs := fenced.ctxs } ∧
        fenced.me = { s.me with order := fenced.me.order } ∧ (∀ k, k ≠ s.cur → fenced.ctxAt k = s.ctxAt k) ∧
        (s.writes = [] → fenced = s) ∧ completes i s fun t =>
        dropped s t (fun e => hit e.pasid e.page e.size) (fun e => hit e.pasid e.page e.sh) ∧
        (∀ x ∈ t.writes, x.sid = s.me.sid → x.cls < 16 → x.own = true ∧ ∀ d ∈ viewsOf 3 x.die, (smFind d x.seen).isSome = true) ∧
        (nothingLeft fenced now → ∃ u, systemWide fenced u now ∧ t = { flowed u with tlbs := t.tlbs, walks := t.walks }) ∧
        (¬ nothingLeft fenced now →
          t = { fenced.setMe { fenced.me with inval := some now, wait := some .engine } with
                tlbs := t.tlbs, walks := t.walks })) ∧
      (s.me.status.getLsbD 0 = true → kind < 3 → s.me.inval = some w →
        (nothingLeft s w → ∃ u, systemWide (s.setMe { s.me with inval := none }) u w ∧ exec i s = .next (flowed u)) ∧
        (¬ nothingLeft s w → exec i s = .next (s.setMe { s.me with wait := some .engine }))) ∧
      (s.me.status.getLsbD 0 = true → plainMode s.me → 3 ≤ kind → exec i s = .next (trapped s causeOperand 6 word)) ∧
      (s.me.status.getLsbD 0 = false → plainMode s.me → exec i s = .next (trapped s causePriv 0 word))) ∧
    (completes (.atsInvalidation pasid va len) s fun t =>
      dropped s t (fun e => meets e.pasid e.page e.size) (fun e => meets e.pasid e.page e.sh) ∧
      t = { s with tlbs := t.tlbs, walks := t.walks, invals := s.invals ++ [nowUnderWay s] }) ∧
    (s.invals = w :: l → (nothingLeft s w → completes .invalidationCompletion s fun t => systemWide { s with invals := l } t w) ∧
      (¬ nothingLeft s w → exec .invalidationCompletion s = .next s)) ∧
    (r ∈ s.sent → s.xsets = [] → s.perf = [] → completes (.responseSuccess r.group) s fun t =>
      (∀ q, q ∈ t.requests ↔ q ∈ s.requests ∧ q.group ≠ r.group) ∧
      (∀ k, (s.ctxAt k).mode = .descheduled → (s.ctxAt k).group = some r.group →
        t.ctxAt k = { s.ctxAt k with mode := .resident, group := none }) ∧
      (∀ u, u ∈ t.unitAsks ↔ u ∈ s.unitAsks ∧ u.group ≠ r.group) ∧
      t = { s with requests := t.requests, ctxs := t.ctxs, unitAsks := t.unitAsks }) ∧
    ((∀ q ∈ s.requests, q.group = r.group → q = r) → s.xsets = [] → s.unitAsks = [] → s.perf = [] →
      smRising none s.ctxs = true →
      let told := fun (t : State) => ∀ k, (s.ctxAt k).mode = .descheduled → (s.ctxAt k).group = some r.group →
        plainMode (s.ctxAt k) → t.ctxAt k =
          { entered (s.ctxAt k) (refusedTrap (r.sub.toNat + 512 * r.slot) (r.pages.headD 0) r.elem) (s.ctxAt k).pc with
            order := (t.ctxAt k).order }
      (r ∈ s.sent → completes (.invalidRequest r.group) s fun t => told t ∧
        ∀ q, q ∈ t.requests ↔ q ∈ s.requests ∧ q.group ≠ r.group) ∧
      (r ∈ s.requests → completes .responseFailure s fun t => told t ∧ t.requests = [] ∧ t.ctl.prifail = true)) ∧
    exec .priReenable s = .next { s with ctl := { s.ctl with prifail := false } }

/-! ## The host (R250, R259, R379, R408, R426 to R433) -/

namespace Sys2Proof.Claims

/-- The place of a range in local HBM that is awake (R248, R437). -/
def inAwakeHbm (s : State) (pa n : Nat) : Prop := inHbm pa n = true ∧ ∀ i, i < n → s.asleep (pa + i) = false

/-- The place of a range in local HBM of which a stack is in self-refresh. -/
def inSleepingHbm (s : State) (pa n : Nat) : Prop := inHbm pa n = true ∧ ∃ i, i < n ∧ s.asleep (pa + i) = true

end Sys2Proof.Claims

/-- R250, R259, R379, R408, R426 to R429, R432, R433, R437: a host or remote write to awake HBM stores its bytes, of a
packet one element after another, and nothing else, a host write to a stack in self-refresh waits for it, and a read
changes nothing; a device in recovery answers neither; a write of a queue's block that keeps its table changes that
queue; a milestone word takes COUNT, OVF and of a package milestone OWNED and OWNER; reading word 1 of a hotness entry
clears its counts; FQCTL and FQHEAD take their fields, and with ENABLE a held record goes to the ring, once its memory
is awake, raising vector 0 where IE is set; a register write does what its offset's own event does, the assignment of
queues to a virtual function among them; physical function 1 reaches every register but the configuration of a virtual
function's queues. A virtual function reaches its copies of QCMD, QARG and QSTAT, and reads at byte 64 of each of its
windows the status of the last record stored there, and 0 elsewhere. The model's choices here are log entries 33, 64
and 77. -/
def Obligations.HostAccesses : Prop :=
  ∀ (s : State) (pa n i cl : Nat) (l : List Byte) (es : List (Nat × List Byte)) (v : Word) (q : Queue) (h : Hot)
    (ms : MsName) (r : FqRec),
    (s.ctl.boot ≠ 3 → inAwakeHbm s pa l.length → exec (.hostCxlMemAccess pa (some l)) s = .next (s.writePhys pa l)) ∧
    (s.ctl.boot ≠ 3 → inSleepingHbm s pa l.length → exec (.hostCxlMemAccess pa (some l)) s =
      .next { s with waiting := s.waiting ++ [(pa, l)] }) ∧
    exec (.hostCxlMemAccess pa none) s = .next s ∧
    (s.ctl.boot ≠ 3 → (∀ e ∈ (pa, l) :: es, inAwakeHbm s e.1 e.2.length) →
      exec (.requestPacket (pa, l) es) s = .next (es.foldl (fun t e => t.writePhys e.1 e.2) (s.writePhys pa l))) ∧
    (s.ctl.boot = 3 → exec (.hostCxlMemAccess pa (some l)) s = .next s ∧ exec (.requestPacket (pa, l) es) s = .next s) ∧
    (n < 4096 → i < 8 → (s.queueAt n).enable = true → i ≠ 1 → completes (.queueConfigWrite n (8 * i) v) s fun t =>
      ∃ w, t.queueAt n = { s.queueAt n with w := w }) ∧
    (n < 4096 → i < 8 → (s.queueAt n).cfgPut i v = some q → completes (.queueConfigWrite n (8 * i) v) s fun t =>
      (∃ w, t.queueAt n = { q with enable := q.enable && (s.ctl.ready || (s.queueAt n).enable), w := w }) ∧
        (∀ k, k ≠ n → ∃ w, t.queueAt k = { s.queueAt k with w := w }) ∧ t.mem = s.mem ∧ t.ctxs = s.ctxs) ∧
    (i % 8 = 0 → msOffset i = some (cl, ms) → completes (.milestoneHostWrite i v) s fun t =>
      t.msAt cl ms = { s.msAt cl ms with
        count := v.setWidth 32, ovf := v.getLsbD 32
        owned := if ms.pkg then v.getLsbD 35 else (s.msAt cl ms).owned
        owner := if ms.pkg then v.extractLsb' 36 20 else (s.msAt cl ms).owner }) ∧
    (smFind n s.hot = some h → n < 2 ^ 15 → completes (.hotnessReadClear (0x400000 + 16 * n + 8)) s fun t =>
      smFind n t.hot = some { h with unit := 0, strided := 0, indexed := 0 } ∧ t = { s with hot := t.hot }) ∧
    (s.fq = [] → completes (.faultQueueEnable v) s fun t => t.ctl.fqen = v.getLsbD 8 ∧ t.ctl.fqie = v.getLsbD 9 ∧
      t.ctl.lost = v.extractLsb' 16 16 ∧ (s.ctl.fqen = true → t.ctl.fqlog2n = s.ctl.fqlog2n) ∧ t = { s with ctl := t.ctl }) ∧
    (s.fq = [r] → s.ctl.fqen = false → v.getLsbD 8 = true →
      let m := if 6 ≤ v.toNat % 32 ∧ v.toNat % 32 ≤ 16 then v.toNat % 32 else s.ctl.fqlog2n
      let entry := smGet ({} : Msix) s.ctl.msix 0
      let pa := s.hostPa (s.ctl.fqbase.toNat + 64 * s.ctl.fqtail.toNat)
      (s.asleepRange pa 64 = true → completes (.faultQueueEnable v) s fun t => t.fq = [r] ∧ t.mem = s.mem) ∧
      (s.asleepRange pa 64 = false →
      (s.ctl.fqtail.toNat + 1) % 2 ^ m ≠ s.ctl.fqhead.toNat % 2 ^ m → completes (.faultQueueEnable v) s fun t =>
        t.fq = [] ∧ t.ctl.fqtail = BitVec.ofNat 16 ((s.ctl.fqtail.toNat + 1) % 2 ^ m) ∧
        t.mem = (s.writePhys pa (fqBytes r)).mem ∧
        t.ctl.messages = (if v.getLsbD 9 = true ∧ entry.masked = false then s.ctl.messages ++ [(entry.addr, entry.data)]
          else s.ctl.messages))) ∧
    (i < 16 → v.toNat / 2 ^ 16 % 2 ^ 16 % 16 = 0 → v.toNat / 2 ^ 16 % 2 ^ 16 ≤ 240 →
      v.toNat % 2 ^ 16 + v.toNat / 2 ^ 16 % 2 ^ 16 ≤ 4096 → completes (.mmioRegisterWrite (17 * 2 ^ 26 + 8 * i) v) s fun t =>
        smGet (0, 0) t.ctl.vfs i = (v.toNat % 2 ^ 16, v.toNat / 2 ^ 16 % 2 ^ 16) ∧
        (∀ k, k ≠ i → smGet (0, 0) t.ctl.vfs k = smGet (0, 0) s.ctl.vfs k) ∧
        t = { s with ctl := { s.ctl with vfs := t.ctl.vfs } }) ∧
    (s.fq = [] → exec (.fqHeadWrite v) s = .next { s with ctl := { s.ctl with fqhead := v.setWidth 16 } }) ∧
    exec (.mmioRegisterWrite 0x48 v) s = exec (.faultQueueEnable v) s ∧
    exec (.mmioRegisterWrite 0x50 v) s = exec (.fqHeadWrite v) s ∧
    exec (.mmioRegisterWrite 0x18 v) s = exec (.clusterGate v) s ∧
    (n < 4096 → i < 8 → exec (.mmioRegisterWrite (0x40000 + 64 * n + 8 * i) v) s = exec (.queueConfigWrite n (8 * i) v) s) ∧
    (n < 4096 → i < 8 →
      let given := ∃ e ∈ s.ctl.vfs, e.2.1 ≤ n ∧ n < e.2.1 + e.2.2
      (given → exec (.mmioRegisterWrite (18 * 2 ^ 26 + 0x40000 + 64 * n + 8 * i) v) s = .next s) ∧
      (¬ given → exec (.mmioRegisterWrite (18 * 2 ^ 26 + 0x40000 + 64 * n + 8 * i) v) s =
        exec (.queueConfigWrite n (8 * i) v) s)) ∧
    (i < 16 →
      exec (.mmioRegisterWrite ((i + 1) * 2 ^ 26 + 8) v) s =
        .next (s.setQport (i + 1) { s.qport (i + 1) with qarg := v }) ∧
      (∀ off, off % 8 = 0 → off ≠ 0 → off ≠ 8 → off < 2 ^ 26 →
        exec (.mmioRegisterWrite ((i + 1) * 2 ^ 26 + off) v) s = .next s) ∧
      s.vfRead i 0 = (s.qport (i + 1)).qcmd ∧ s.vfRead i 8 = (s.qport (i + 1)).qarg ∧
      s.vfRead i 16 = (s.qport (i + 1)).statWord ∧
      (∀ j, s.vfRead i (0x10000 + 4096 * j + 64) = if j < (smGet (0, 0) s.ctl.vfs i).2
        then BitVec.ofNat 64 (smGet 0 s.ctl.vfWin (4096 * i + j)) else 0) ∧
      (∀ off, off ≠ 0 → off ≠ 8 → off ≠ 16 → off < 0x10000 ∨ off % 4096 ≠ 64 → s.vfRead i off = 0)) ∧
    (n < 4096 → (s.mmioRead (0x1000000 + 4096 * n + 64)).1 = BitVec.ofNat 64 (s.queueAt n).winStatus) ∧
    (s.ctl.fqen = false → completes (.mmioRegisterWrite 0x40 v) s fun t =>
      t.ctl.fqbase = v &&& 0xFFFFFFFFFFFFFFC0 ∧ t = { s with ctl := { s.ctl with fqbase := t.ctl.fqbase } })

/-! ## Power, errors and repair (R14, R111, R214, R243, R420, R436, R437) -/

namespace Sys2Proof.Claims

/-- An error site that exists: its block, its source and its location, and the poison of an uncorrectable error there. -/
def siteOk (s : State) : ErrSite → Option (Nat × Nat × Word × State)
  | .slice cl lane row =>
    if cl < 64 ∧ lane < 128 ∧ row < 64 then some (cl, 0, BitVec.ofNat 64 ((128 * cl + lane) * 1024 + 16 * row),
      { s with slicePoison := nsAdd ((128 * cl + lane) * 64 + row) s.slicePoison }) else none
  | .tile cl item row =>
    if cl < 64 ∧ item < 20 ∧ row < 128 then some (cl, 1, BitVec.ofNat 64 (if item < 12 then item else item - 12),
      { s with tilePoison := nsAdd (tilePoisonKey cl item row) s.tilePoison }) else none
  | .scratchpad cl off => if cl < 64 ∧ off < 2 ^ 22 then some (cl, 2, BitVec.ofNat 64 off, s.addSpPoison cl off) else none
  | .twiddle cl off =>
    if cl < 64 ∧ off < 16384 then some (cl, 2, BitVec.ofNat 64 off,
      { s with twlPoison := nsAdd ((cl * 16384 + off) / 4) s.twlPoison }) else none
  | .tlb die pa => if die < 9 ∧ paOk pa = true then some (64 + die, 5, BitVec.ofNat 64 pa, s) else none
  | .causeway die pa => if die < 9 ∧ paOk pa = true then some (64 + die, 6, BitVec.ofNat 64 pa, s) else none
  | .gloxel port pa => if port < 16 ∧ paOk pa = true then some (64 + port / 2, 7, BitVec.ofNat 64 pa, s) else none
  | .lineCache die pa =>
    if die < 9 ∧ paOk pa = true then some (64 + die, 4, BitVec.ofNat 64 pa,
      { s with memPoison := nsAdd (s.cell pa / 8) s.memPoison }) else none
  | .memory pa =>
    if paOk pa = true then some (if regionOf (s.cell pa) = 0 then 64 + stackOf (s.cell pa) / 2 else 72, 3, BitVec.ofNat 64 pa,
      { s with memPoison := nsAdd (s.cell pa / 8) s.memPoison }) else none
  | _ => none

/-- Exactly one record was posted into the held records. -/
def posted (s t : State) (kind : Nat) : Prop := ∃ r, t.fq = s.fq ++ [r] ∧ r.kind = kind ∧ r.seq = s.seq + 1 ∧ t.seq = s.seq + 1

/-- The fault queue holds what is posted: it is not enabled, and fewer than 256 records are held (R432). -/
def holdsRecords (s : State) : Prop := s.ctl.fqen = false ∧ s.fq.length < 256

end Sys2Proof.Claims

/-- R243, R418 to R420: an uncorrectable error poisons the place, counts in UE of its source and posts a record; a
corrected one counts in CE, both up to their largest value, a CE that reaches a multiple of THR posting a record, and
of a Gloxel port in the counters that select link retries; in a context's registers or CSRs an uncorrectable error
falls due as HW_UE. A lane is replaced while its cluster is free and has a spare left. A counter of events outside the
model that wraps goes on from 0, sets OVF and with OVIE posts a record. The model's choices here are log entries 60,
61 and 62. -/
def Obligations.ErrorsAndRepair : Prop :=
  ∀ (s u : State) (site : ErrSite) (block src n cl lane pa : Nat) (loc : Word), holdsRecords s →
    let word := (s.rasWord block src 0).toNat
    (siteOk s site = some (block, src, loc, u) →
      (completes (.uncorrectableError site) s fun t =>
        t.rasWord block src 0 = BitVec.ofNat 64 (if word / 2 ^ 16 % 2 ^ 16 < 2 ^ 16 - 1 then word + 2 ^ 16 else word) ∧
          t.rasWord block src 1 = loc ∧ posted s t 8 ∧ t = { u with ras := t.ras, fq := t.fq, seq := t.seq }) ∧
      (let ce := word / 2 ^ 32
        let thr := (s.rasWord block src 2).toNat
        let due := ce < 2 ^ 32 - 1 ∧ thr ≠ 0 ∧ (ce + 1) % thr = 0
        (src = 7 → s.perf = []) → completes (.correctedError site) s fun t =>
          t.rasWord block src 0 = BitVec.ofNat 64 (if ce < 2 ^ 32 - 1 then word + 2 ^ 32 else word) ∧
            t.rasWord block src 1 = loc ∧ (due → posted s t 8) ∧ (¬ due → t.fq = s.fq ∧ t.seq = s.seq) ∧
            t = { s with ras := t.ras, fq := t.fq, seq := t.seq })) ∧
    (n < 256 → (s.ctxAt n).mode ≠ .free → ∀ k ∈ [(ErrSite.registers n, 2), (.csrs n, 4)],
      completes (.uncorrectableError k.1) s fun t => posted s t 8 ∧
        (∃ v, (t.ctxAt n).async = (s.ctxAt n).async ++ [trapOf causeHwUe k.2 v]) ∧ ∀ q, (t.ctxAt n).reg q = (s.ctxAt n).reg q) ∧
    (cl < 64 → lane < 128 → s.clusterHeld cl (fun _ => false) = false →
      (s.repair.lanes.filter fun p => decide (p.1 = cl)).length < 4 →
      exec (.laneRepair cl lane) s =
        .next { s with repair := { s.repair with lanes := s.repair.lanes ++ [(cl, lane)] } }) ∧
    (block < 73 → n < blockCounters block →
      let key := block * 64 + 2 * n
      let ctl := smGet (0 : Word) s.perf key
      ctl.getLsbD 8 = true → countedElsewhere block (ctl.toNat % 256) = true → smWf (0 : Word) s.perf = true →
        completes (.counterWrap block n) s fun t =>
        smGet 0 t.perf key = ctl ||| 0x400 ∧ smGet (0 : Word) t.perf (key + 1) = 0 ∧
          (∀ k, k ≠ key → k ≠ key + 1 → smGet (0 : Word) t.perf k = smGet 0 s.perf k) ∧
          (ctl.getLsbD 9 = true → posted s t 7) ∧ (ctl.getLsbD 9 = false → t = { s with perf := t.perf })) ∧
    (cl < 16 → paOk pa = true → n < 32 → smWf (0 : Word) s.perf = true →
      let key := (64 + cl / 2) * 64 + 2 * n
      let ctl := smGet (0 : Word) s.perf key
      let count := (smGet (0 : Word) s.perf (key + 1)).toNat
      ctl.getLsbD 8 = true → ctl.getLsbD 11 = false → ctl.toNat % 256 = 0x48 → count + 1 < 2 ^ 48 →
      completes (.correctedError (.gloxel cl pa)) s fun t =>
        smGet 0 t.perf (key + 1) = BitVec.ofNat 64 (count + 1) ∧ smGet (0 : Word) t.perf key = ctl)

/-- R433, R434, R437: a request of P0 to P2 is noted, but not of a faster state than a trip allows, and takes effect;
a trip slows the package and posts a record; a cluster that holds nothing is gated, and one ungated reads 0;
self-refresh is set. A reset from BOOT 2 on, and power-on, give every item its reset value but what outlives them, HBM
reading 0, host and remote memory keeping what its home has, and the boot ROM runs; READY follows an accepted image; a
recovery image is accepted just on the ROM's conditions, its signature and its key's digest among them, and the
identity key is derived from it; the rollback counter only rises. The model's choices here are log entries 66, 67 and
84. -/
def Obligations.PowerAndReset : Prop :=
  ∀ (s : State) (p : BitVec 2) (stk : BitVec 16) (w : Word) (img : FwImage) (n cl : Nat),
    let key := fun (i : FwImage) => Config.deriveKey s.nalo.secret (sha384 (i.header ++ i.body))
    (p ≠ 3 → (s.ctl.trip = false ∨ 2 ≤ p) →
      exec (.powerStateRequest p) s = .next { s with ctl := { s.ctl with reqP := p } }) ∧
    ((p = 3 ∨ (s.ctl.trip = true ∧ p < 2)) → exec (.powerStateRequest p) s = .next s) ∧
    (s.ctl.pstate ≠ s.ctl.reqP → exec .powerStateChange s = .next { s with ctl := { s.ctl with pstate := s.ctl.reqP } }) ∧
    (s.ctl.trip = false → holdsRecords s → completes .thermalTrip s fun t =>
      t.ctl = { s.ctl with trip := true, reqP := 2 } ∧ posted s t 9) ∧
    exec .thermalTripClear s = .next { s with ctl := { s.ctl with trip := false } } ∧
    exec (.hbmSelfRefresh stk) s = .next { s with ctl := { s.ctl with hbmsr := stk } } ∧
    (cl < 64 → completes (.clusterGate w) s fun t =>
      (t.ctl.clgate.getLsbD cl = (w.getLsbD cl && (s.ctl.clgate.getLsbD cl || !s.clusterHeld cl fun _ => false))) ∧
        (s.ctl.clgate.getLsbD cl = true → w.getLsbD cl = false → (t.clAt cl).ms = [] ∧
          (Memory.wf s.sp = true → ∀ a, t.readSp cl a = 0)) ∧ t.mem = s.mem ∧ t.ctxs = s.ctxs) ∧
    (∀ i ∈ [Instr.powerOn, .deviceReset], (i = .deviceReset → 2 ≤ s.ctl.boot) → completes i s fun t =>
      t.ctxs = [] ∧ t.clusters = [] ∧ t.sp = [] ∧ t.queues = [] ∧ t.slots = [] ∧ t.tlbs = [] ∧ t.walks = [] ∧ t.perf = [] ∧
        t.seq = 0 ∧ t.pms = [] ∧ t.glox.routes = [] ∧ t.glox.packets = [] ∧ t.repair = s.repair ∧
        t.nalo.rollback = s.nalo.rollback ∧ t.nalo.running = s.nalo.bootImage ∧
        t.nalo.identity = s.nalo.bootImage.map key ∧
        t.ctl = { State.reset.ctl with boot := if s.nalo.bootImage.isSome then 1 else 3 } ∧
        (s.canonical = true → s.keyed = true → ∀ a, t.readByte a =
          if regionOf (s.cell a) = 0 then 0 else (smFind (s.cell a) s.home).getD (s.readByte a))) ∧
    (s.ctl.boot < 2 → exec .deviceReset s = .next s) ∧
    (s.ctl.boot = 1 → completes .ready s fun t => t.ctl = { s.ctl with boot := 2, ready := true } ∧
      (∀ e, e ∈ t.mem ↔ e ∈ s.mem ∧ regionOf e.1 ≠ 0) ∧ t = { s with
        mem := t.mem, memPoison := t.memPoison, writes := t.writes, ctl := t.ctl }) ∧
    (let good := ecdsaOk img.key (imageDigest img) img.sig = true ∧ keyDigest img.key ∈ s.nalo.digests ∧
        keyDigest img.key ∉ s.nalo.revoked ∧ s.nalo.rollback ≤ img.version;
      (s.ctl.boot = 3 → good → exec (.recoveryImage img) s = .next { s with
        ctl := { s.ctl with boot := 1 }, nalo := { s.nalo with running := some img, identity := some (key img) } }) ∧
      (s.ctl.boot ≠ 3 ∨ ¬ good → exec (.recoveryImage img) s = .next s)) ∧
    (exec (.advanceRollbackCounter n) s = .next (if s.nalo.rollback < n ∧ n ≤ 64 ∧ s.ctl.boot = 2 then
      { s with nalo := { s.nalo with rollback := n } } else s))

/-- R421 to R423, R435: a trigger of an armed package is numbered, disarms it and is to latch; one that comes before
it is armed again counts as missed; the latch freezes number, TIME and TAG and drives SNAP_OUT for 1 µs; snap with OP
1 arms, with OP 2 reports, another X[ra] traps, and in user mode it raises PRIV. Every request of SPDM and of the
management interface is answered, the certificate by its bytes and its digest, and a challenge, measurements and a key
exchange with a signature of the identity key, and nothing but the mailbox and the progress of SPDM changes. The
model's choices here are log entries 19, 20 and 63. -/
def Obligations.SnapshotsAndAttestation : Prop :=
  ∀ (s : State) (i : Instr) (rd ra : XReg) (tag : BitVec 16) (time n due stop : Nat) (timed : Bool),
    let a := s.me.reg ra
    let triggered := fun (u : State) (tag : BitVec 16) (due : Nat) (timed : Bool) =>
      ({ u with seq := u.seq + 1, snap := if u.snap.armed = true ∧ u.snap.pending = none then
          { u.snap with armed := false, pending := some (u.seq + 1, tag, due, timed) }
        else { u.snap with missed := u.snap.missed + 1 } } : State)
    let op := Instr.snapTrigger rd ra
    let signed := fun (kind : String) (l : List Nat) =>
      let g := ecdsaSign (s.nalo.identity.getD 0) (Config.spdmNonce s.free) (Config.spdmDigest l)
      ({ s with free := s.free + 1, nalo := { s.nalo with mailbox := (kind, l ++ [g.1, g.2]) :: s.nalo.mailbox } } : State)
    (i ∈ [op, .snapArm rd ra, .snapStatus rd ra] →
      (s.me.status.getLsbD 0 = true → a.toNat / 4 % 2 ^ 14 = 0 → a.toNat < 2 ^ 32 →
        (a.toNat % 4 = 0 → exec i s = .next (wrote (triggered s (a.extractLsb' 16 16) (s.cycle + 64) false) rd
          (BitVec.ofNat 64 (s.seq + 1)))) ∧
        (a.toNat % 4 = 1 → exec i s = .next (wrote { s with snap := { s.snap with armed := true, missed := 0 } } rd 0)) ∧
        (a.toNat % 4 = 2 → exec i s = .next (wrote s rd
          (BitVec.ofNat 64 ((if s.snap.armed then 2 ^ 63 else 0) + s.snap.missed.toNat))))) ∧
      (s.me.status.getLsbD 0 = true → a.toNat / 8 % 2 ^ 13 = 0 → a.toNat < 2 ^ 32 → a.toNat % 8 = 4 →
        let u := triggered s (a.extractLsb' 16 16) (s.cycle + 64) false
        exec i s = .next (wrote { u with snap := { u.snap with
          messages := u.snap.messages ++ [(s.time + 10000, a.extractLsb' 16 16)] } } rd (BitVec.ofNat 64 (s.seq + 1)))) ∧
      (s.me.status.getLsbD 0 = true → plainMode s.me →
        (2 ^ 32 ≤ a.toNat ∨ a.toNat / 8 % 2 ^ 13 ≠ 0 ∨ a.toNat % 4 = 3 ∨ (a.toNat / 4 % 2 = 1 ∧ a.toNat % 4 ≠ 0)) →
        exec i s = .next (trapped s causeOperand 6 (BitVec.ofNat 64 (parcelOf op)))) ∧
      (s.me.status.getLsbD 0 = false → plainMode s.me →
        exec i s = .next (trapped s causePriv 0 (BitVec.ofNat 64 (parcelOf op))))) ∧
    exec .snapIn s = .next (triggered s 0 (s.cycle + 64) false) ∧
    exec (.snapshotMessage time tag) s = .next (triggered s tag time true) ∧
    (s.snap.pending = some (n, tag, due, timed) → (if timed then due ≤ s.time else due ≤ s.cycle) →
      completes .snapshotLatch s fun t => t.snap.hseq = n ∧ t.snap.htime = s.time ∧ t.snap.htag = tag ∧
        t.snap.pending = none ∧ t.snap.pinOut = some (s.ticks + usTicks 1) ∧ t.snap.armed = s.snap.armed ∧
        t.ctxs = s.ctxs ∧ t.clusters = s.clusters ∧ (s.perf = [] → t = { s with snap := t.snap })) ∧
    (s.snap.pinOut = some stop → stop ≤ s.ticks →
      exec .snapOutEnd s = .next { s with snap := { s.snap with pinOut := none } }) ∧
    (∀ k ∈ [(Instr.getVersion, 1), (.getCapabilities, 2), (.negotiateAlgorithms, 3)], completes k.1 s fun t =>
      t.nalo.spdm = k.2 ∧ t.nalo.mailbox.length = s.nalo.mailbox.length + 1 ∧ t = { s with nalo := t.nalo }) ∧
    (∀ k ∈ [(Instr.getDigests, "DIGESTS", [sha384 s.nalo.certificate]),
        (.getCertificate, "CERTIFICATE", s.nalo.certificate.map BitVec.toNat)],
      exec k.1 s = .next { s with nalo := { s.nalo with mailbox := k.2 :: s.nalo.mailbox } }) ∧
    (∀ x q, s.nalo.identity = some x → ecMul ecBase 384 x = some q → s.nalo.certificate = Config.certificate q) ∧
    exec .challenge s = .next (signed "CHALLENGE_AUTH" []) ∧
    (∃ l, exec .getMeasurements s = .next (signed "MEASUREMENTS" l) ∧ l.length = 4 ∧ l[0]? = some s.nalo.romVersion ∧
      (∀ x, s.nalo.running = some x → l[1]? = some (sha384 (x.header ++ x.body)) ∧ l[2]? = some x.version) ∧
      l[3]? = some (sha384 (Config.repairBytes s.repair.lanes s.repair.clusters s.repair.rows s.repair.channels s.repair.ports))) ∧
    (completes .keyExchange s fun t => t.nalo.session = 1 ∧
      t = { signed "KEY_EXCHANGE_RSP" [] with nalo := { (signed "KEY_EXCHANGE_RSP" []).nalo with session := 1 } }) ∧
    (completes .finish s fun t => t.nalo.session = (if s.nalo.session = 1 then 2 else s.nalo.session) ∧
      (∃ l, t.nalo.mailbox = ("FINISH_RSP", l) :: s.nalo.mailbox) ∧ t = { s with nalo := t.nalo }) ∧
    (∀ k ∈ [(Instr.mgmtTemperature, "TEMPERATURE"), (.mgmtPower, "POWER")], completes k.1 s fun t =>
      (∃ v, t.nalo.mailbox = (k.2, [v]) :: s.nalo.mailbox) ∧ t = { s with nalo := t.nalo, free := t.free }) ∧
    (completes .mgmtRasSummary s fun t => (∃ l, t.nalo.mailbox = ("RAS", l) :: s.nalo.mailbox) ∧ t = { s with nalo := t.nalo })

/-! ## The whole machine -/

/-- R1, R20, R163: every instruction and every event completes in every state, if only with a trap, and a machine
whose context numbers exist always goes on. The model's choices here are log entry 4. -/
def Obligations.TheMachineGoesOn : Prop :=
  (∀ (i : Instr) (s : State), ∃ t, exec i s = .next t) ∧ ∀ s : State, s.contextsExist = true → s.goesOn

namespace Sys2Proof.Claims

/-- A context that a driver may issue from: it is ready, or the convoy behind those in its VIQ can join them, and no queue
command holds it (R21). -/
def mayIssue (s : State) (n : Nat) : Bool := ((s.ctxAt n).ready || (s.queueNext n).isSome) && !s.qHolds n

/-- Context n is the one from which driver d issues: the first that may, round-robin from one past the last that issued
(R21). -/
def isNext (s : State) (d n : Nat) : Prop :=
  let k := fun (i : Nat) => 4 * d + (smGet 3 s.lastCtx d + 1 + i) % 4
  ∃ i, i < 4 ∧ n = k i ∧ mayIssue s n = true ∧ ∀ j, j < i → mayIssue s (k j) = false

/-- A driver has issued from a context, and the issue counts. -/
def issuing (s : State) (d n : Nat) : State :=
  ({ s with issued := nsAdd d s.issued, lastCtx := smPut d (n % 4) s.lastCtx } : State).perfCount 72 0x60
    (some (s.ctxAt n).pasid) 1

/-- A driver has issued from a context, which is now the current one. -/
def issuedFrom (s : State) (d n : Nat) : State := { issuing s d n with cur := n }

/-- A parcel that R98 refuses, with cause and subcode: first the checks that its opcode alone decides, then those of the
decoder at large. -/
def parcelRefused (h c n : Nat) : Prop :=
  let op := h / 4 % 64
  let fn := h / 2 ^ 23 % 512
  let field := fun (k : Nat) => h / 2 ^ k % 32
  (h % 4 = 0 ∧ 0x22 ≤ op ∧ op ≤ 0x27 ∧ c = 1 ∧ n = 1) ∨
  (h % 4 = 1 ∧ (0x09 ≤ op ∧ op ≤ 0x0F ∨ 0x27 ≤ op) ∧ c = 1 ∧ n = 1) ∨ (h % 4 = 2 ∧ 3 ≤ op ∧ c = 1 ∧ n = 1) ∨
  (h % 4 = 0 ∧ (op ≤ 0x15 ∨ op = 0x17 ∨ op = 0x18) ∧ fn ≠ 0 ∧ c = 1 ∧ n = 2) ∨
  (h % 4 = 0 ∧ op = 0x1E ∧ 4 ≤ fn ∧ fn < 8 ∧ c = 1 ∧ n = 3) ∨
  (h % 4 = 0 ∧ 0x19 ≤ op ∧ op ≤ 0x1D ∧ fn ∈ [4, 6, 7] ∧ c = 1 ∧ n = 4) ∨
  (h % 4 = 0 ∧ op = 0x29 ∧ field 13 = 0 ∧ field 18 = 0 ∧ csrKnown fn = false ∧ c = 1 ∧ n = 5) ∨
  (h % 4 = 0 ∧ 0x2A ≤ op ∧ op ≤ 0x2C ∧ field 18 = 0 ∧ csrWritable fn = false ∧ c = 1 ∧ n = 5) ∨
  (h % 4 = 0 ∧ op = 0x28 ∧ field 8 = 0 ∧ field 18 = 0 ∧ fn < 16 ∧ 6 ≤ fn % 8 ∧ c = 2 ∧ n = 4) ∨
  (h % 4 ≠ 3 ∧ decodeScalar h = .bad c n)

/-- A header that R99 refuses in its steps 1 and 2: the subcode, with the slot in [5:4]. -/
def headerRefused (h n : Nat) : Prop :=
  let count := h / 4 % 4 + 1
  (2 ^ 14 ≤ h ∧ n = 1) ∨
  (h < 2 ^ 14 ∧ ∃ k, count ≤ k ∧ k < 4 ∧ unitCode h k ≠ 0 ∧ (∀ j, count ≤ j → j < k → unitCode h j = 0) ∧ n = 1 + 16 * k) ∨
  (h < 2 ^ 14 ∧ (∀ k, count ≤ k → k < 4 → unitCode h k = 0) ∧
    ∃ k, k < count ∧ (∃ i, i < k ∧ unitCode h i = unitCode h k) ∧
      (∀ j, j < k → ∀ i, i < j → unitCode h i ≠ unitCode h j) ∧ n = 2 + 16 * k)

/-- A header that passes them. -/
def headerGood (h : Nat) : Prop :=
  let count := h / 4 % 4 + 1
  h < 2 ^ 14 ∧ (∀ k, count ≤ k → k < 4 → unitCode h k = 0) ∧
    ∀ k, k < count → ∀ i, i < k → unitCode h i ≠ unitCode h k

/-- A major opcode that names no vector instruction (R97). -/
def reservedMajor (m : Nat) : Prop :=
  (0x19 ≤ m ∧ m ≤ 0x3F) ∨ (0x49 ≤ m ∧ m ≤ 0x4F) ∨ (0x6B ≤ m ∧ m ≤ 0x7F) ∨ (0x9A ≤ m ∧ m ≤ 0x9F) ∨
    (0xAC ≤ m ∧ m ≤ 0xBF) ∨ (0xCB ≤ m ∧ m ≤ 0xDF) ∨ 0xE2 ≤ m

/-- A slot that R99 refuses in its step 3, the first of its convoy: a reserved major opcode, a unit code that is not the
opcode's, or a field that fails the decoder's checks; the word is the slot's. -/
def slotRefused (h : Nat) (ws : List Nat) (t : DecodeTrap) : Prop :=
  ∃ k w, ws[k]? = some w ∧ w < 2 ^ 64 ∧
    (∀ j x, j < k → ws[j]? = some x → vecUnit (x / 2 ^ 56) = some (unitCode h j) ∧ ∃ i, decodeVec x = .ok i) ∧
    ((reservedMajor (w / 2 ^ 56) ∧ t = ⟨1, 1 + 16 * k, w⟩) ∨
      (∃ u, vecUnit (w / 2 ^ 56) = some u ∧ u ≠ unitCode h k ∧ t = ⟨3, 3 + 16 * k, w⟩) ∨
      (vecUnit (w / 2 ^ 56) = some (unitCode h k) ∧ ∃ c n, decodeVec w = .bad c n ∧ t = ⟨c, n + 16 * k, w⟩))

/-- Bytes that decode refuses: cause, subcode, and the word that EVAL holds (R98 to R101). -/
def bytesRefused (l : List Byte) (t : DecodeTrap) : Prop :=
  let h := leNat (l.take 4)
  (∃ c n, parcelRefused h c n ∧ t = ⟨c, n, h⟩) ∨ (h % 4 = 3 ∧ ∃ n, headerRefused h n ∧ t = ⟨3, n, h⟩) ∨
  (h % 4 = 3 ∧ headerGood h ∧ slotRefused h (wordsOf (h / 4 % 4 + 1) (l.drop 4)) t)

/-- The trap of a fetch of a parcel, and the state that the attempt leaves: no valid descriptor, a page that is absent or
protected with PRI off, an entry of a wrong format, a page of region 3, a poisoned table word, or a parcel in a poisoned
word (R78, R165, R366, R367, R370, R461). The access kind of a fetch is 2, and 4 is added in user mode. -/
def fetchFaults (s s' : State) (c : Ctx) (va : Nat) (cause : BitVec 8) (sub : Nat) (eval : Word) : Prop :=
  let user := !c.status.getLsbD 0
  let kind := if user then 6 else 2
  (c.desc = none ∧ cause = causePteFmt ∧ sub = 7 ∧ eval = BitVec.ofNat 64 va ∧ s' = s) ∨
  (∃ d e, c.desc = some d ∧ s.hit sDie c d 2 user va = some e ∧ s' = s ∧ eval = BitVec.ofNat 64 va ∧
    ((s.leafOk d (e.addr va) = false ∧ cause = causePteFmt ∧ sub = e.level) ∨
      (s.leafOk d (e.addr va) = true ∧ regionOf (s.outPa d (e.addr va)) = 3 ∧ cause = causeProt ∧ sub = kind))) ∨
  (∃ d k, c.desc = some d ∧ s.hit sDie c d 2 user va = none ∧ s' = s.countMiss sDie c ∧ eval = BitVec.ofNat 64 va ∧
    let walk := s'.siteWalk sDie c d 2 user false va
    ((walk = .absent k ∧ d.pri = false ∧ cause = causeXlate ∧ sub = kind) ∨
      (walk = .denied k ∧ d.pri = false ∧ cause = causeProt ∧ sub = kind) ∨
      (walk = .prot k ∧ cause = causeProt ∧ sub = kind) ∨ (walk = .format k ∧ cause = causePteFmt ∧ sub = k) ∨
      (walk = .poison k ∧ cause = causeMemPoison ∧ sub = 0))) ∨
  (∃ pa, s.translate c 2 (c.noMmio 2 va) va = .ok pa s' ∧ s'.asleep pa = false ∧ s'.remotePa pa = false ∧
    s'.memPoison.contains (s'.cell pa / 8) = true ∧ cause = causeMemPoison ∧ sub = 0 ∧
    eval = BitVec.ofNat 64 (va / 64 * 64))

/-- Nothing that the package does by itself is due. -/
def noEvent (s : State) : Prop := s.firstChange s.events = none

end Sys2Proof.Claims

/-- R21, R22, R78, R79, R98 to R101, R125, R166, R308: a driver that has not issued in this cycle issues from the
first context past the last that issued which may; an asynchronous trap that is due is taken in place of the issue;
else the context runs the instruction that the bytes at its PC decode to; bytes of a convoy that passes its checks
open it, and its first slot runs; with a convoy open its next slot runs, and with one in the VIQ the convoy that
follows joins it, and begins once it is the first. Bytes that fail a check of decode trap with the cause, the subcode
and the word of that check, a convoy that fails its operand checks with its first failure and the slot, a vamo beside
an XFER, VT or vbfexp slot with ILLEGAL_OPERAND 8; a parcel that cannot be fetched traps with the cause and subcode of
the fetch, waits for the host, or for its memory. An event on the agenda runs as it stands, a firing only where the
scan reaches its actor. With an empty agenda an event that is due happens first, then the next slot of an open convoy,
then an issue, and where none of these and no waiting instruction can go on, a cycle passes. The model's choices here
are log entries 1, 2, 22 and 94. -/
def Obligations.StepRunsDecodedInstruction : Prop :=
  ∀ (s s' t : State) (d n : Nat) (rest : List Agendum) (i : Instr) (l : List Byte) (cc : ConvoyCode) (cv : Convoy) (c : Ctx)
    (more : List Convoy),
    let r : State := { s with agenda := rest }
    let u := issuedFrom r d n
    let slots := cc.slots.map Prod.snd
    let joined := (s.ctxAt n).viq ++ (s.ctxAt n).queued
    (s.agenda = .issue d :: rest → d < 64 → d ∉ s.issued → isNext r d n → r.asyncNow n = some t → step s = .next t) ∧
    (s.agenda = .issue d :: rest → d < 64 → d ∉ s.issued → isNext r d n → r.asyncNow n = none → joined = [] →
      (∀ cause sub eval, fetchFaults u s' u.me u.me.pc.toNat cause sub eval → plainMode (s'.ctxAt n) →
        step s = .next (trappedIn s' n (trapOf cause sub eval) u.me.pc)) ∧
      (∀ q, u.fetchBytes u.me = .ask q s' → step s = .next (s'.hostWait n q)) ∧
      (u.fetchBytes u.me = .wait s' → step s = .next s') ∧
      (u.fetchBytes u.me = .ok l s' →
        (∀ x, bytesRefused l x → plainMode s'.me →
          step s = .next (trapped s' (BitVec.ofNat 8 x.cause) x.sub (BitVec.ofNat 64 x.word))) ∧
        (∀ cause sub k w, decodeBytes l = .convoy cc → s'.convoyCheck s'.me slots = some (cause, sub, k) →
          cc.slots[k]? = some w → plainMode s'.me →
          step s = .next (trapped s' cause (sub + 16 * k) (BitVec.ofNat 64 w.1))) ∧
        (∀ k w, decodeBytes l = .convoy cc → slots[k]? = some w → majorOf w = 0xC6 →
          (∀ j x, j < k → slots[j]? = some x → majorOf x ≠ 0xC6) → slots.any isAtomic = true →
          s'.convoyCheck s'.me slots = some (causeOperand, 8, k)) ∧
        (∀ x, decodeBytes l = .convoy cc → s'.convoyCheck s'.me slots = none → s'.me.slotsOff slots = some x →
          plainMode s'.me → step s = .next (trappedIn s' s'.cur x s'.me.pc)) ∧
        (decodeBytes l = .scalar i → step s = exec i (s'.setMe { s'.me with atWaypoint := false })) ∧
        (decodeBytes l = .convoy cc → s'.convoyCheck s'.me slots = none → s'.me.slotsOff slots = none →
          slots.head? = some i → step s = exec i (s'.setMe { s'.me with
            atWaypoint := false, viq := [s'.me.capture (4 + 8 * cc.slots.length) cc.waypoint slots] })))) ∧
    (s.agenda = .issue d :: rest → d < 64 → d ∉ s.issued → isNext r d n → r.asyncNow n = none →
      joined.getLast? = some cv →
      let behind : Ctx := { (issuing r d n).ctxAt n with pc := cv.epc + BitVec.ofNat 64 cv.size, vstart := 0 }
      (issuing r d n).fetchBytes behind = .ok l s' → decodeBytes l = .convoy cc → s'.convoyCheck behind slots = none →
      behind.slotsOff slots = none → step s = .next (s'.setCtx n { s'.ctxAt n with
        queued := (s'.ctxAt n).queued ++ [behind.capture (4 + 8 * cc.slots.length) cc.waypoint slots] })) ∧
    (s.agenda = .issue d :: rest → d < 64 → (d ∈ s.issued ∨ ∀ k, k / 4 = d → mayIssue r k = false) → step s = .next r) ∧
    (s.agenda = .event i :: rest → isEvent i = true →
      (actorOf i = none → step s = exec i r) ∧
      (∀ cl a, actorOf i = some (cl, a) → step s = if r.scanReaches cl a = true then exec i r else .next r)) ∧
    (s.agenda = [] →
      (s.firstChange s.events = some t → step s = .next t) ∧
      (noEvent s → s.ctxs.find? (fun e => s.slotReady e.1) = some (n, c) → s.ctxAt n = c →
        (c.viq = [cv] → cv.todo.head? = some i → step s = exec i { s with cur := n }) ∧
        (c.viq = [] → c.queued = cv :: more → cv.todo.head? = some i → step s = exec i
          (({ s with cur := n } : State).setMe { c with atWaypoint := false, viq := [cv], queued := more }))) ∧
      (noEvent s → s.ctxs.find? (fun e => s.slotReady e.1) = none → s.firstChange (s.retries exec) = none →
        (s.nextDriver = some d → step s = step { s with agenda := [.issue d] }) ∧
        (s.nextDriver = none → step s = .next (s.tick 1))))

/-- R79, R81 to R93: words of the encoding tables, written out from them, decode to what they stand for. -/
def Obligations.DecodingIsRight : Prop :=
  decodeTableWord 32 0x028000B4 = some (.trap 5) ∧
  decodeTableWord 32 0x000000B8 = some .tret ∧
  decodeTableWord 32 0x00316A38 = some (.div 10 11 12) ∧
  decodeTableWord 32 0x03316AF8 = some (.pprobe 10 11 12) ∧
  decodeTableWord 96 0x831010004080841500000023 = some (.vpush {
    dest := ⟨64, 4⟩, src1 := ⟨0, 4⟩, src2 := ⟨32, 2⟩, pred := 1, pz := false, mode := 0, seg := 0, ext := true, sat := false
    fn := 5 })

namespace Sys2Proof.Claims

/-- The first row of the table that shares an instruction's major opcode or sub-operation: the record, the register or
the fn field tells its fellows from it (R85, R196, R229, R395). -/
def wordRow : Instr → Instr
  | .xchPostRegister rd ra rb => .xchPostDemand rd ra rb
  | .xchPostDeregister rd ra rb => .xchPostDemand rd ra rb
  | .tlbInvPasid ra rb => .tlbInvPage ra rb
  | .tlbInvAll ra rb => .tlbInvPage ra rb
  | .rtUpdFlip rd ra => .rtUpdWrite rd ra
  | .rtUpdQuery rd ra => .rtUpdWrite rd ra
  | .snapArm rd ra => .snapTrigger rd ra
  | .snapStatus rd ra => .snapTrigger rd ra
  | .yieldEnd ra => .yield ra
  | .vslideUp f => .vslideDown f
  | .vslideRot f => .vslideDown f
  | .vbcastFib f => .vbcast f
  | .tldP f => .tld f
  | .tpruneT f => .tprune f
  | i => i

end Sys2Proof.Claims

/-- R78 to R94: for every instruction that has words, with every operand that its format admits, the decoder reads the
encoder's words as that instruction, every field as written; rows that share an opcode are read as the first of them.
The model's choices here are log entry 72. -/
def Obligations.EncodeDecodeRoundTrip : Prop :=
  ∀ (i : Instr) (n w : Nat), wellFormed i = true → encode i = some (n, w) → decodeTableWord n w = some (Sys2Proof.Claims.wordRow i)

/-- R137, R139, R141 to R149, R211, R213, R243, R433: what reset leaves: memory, scratchpads, slices, predicates,
tiles and accumulators 0, every table of parts empty and in its canonical form, no strand resident, the registers and
CSRs of a context at their reset values, and the control registers' reset fields. The model's choices here are log
entries 5 and 69. -/
def Obligations.ResetState : Prop :=
  let r := State.reset
  r.canonical = true ∧ r.keyed = true ∧ r.contextsExist = true ∧
  (∀ a, r.readByte a = 0) ∧ (∀ cl a, r.readSp cl a = 0) ∧ r.slices = [] ∧ r.preds = [] ∧ r.tiles = [] ∧ r.idxs = [] ∧
  r.accs = [] ∧ r.twl = [] ∧ r.clusters = [] ∧ r.pms = [] ∧ r.queues = [] ∧ r.slots = [] ∧ r.parked = [] ∧ r.tlbs = [] ∧
  r.walks = [] ∧ r.xsets = [] ∧ r.perf = [] ∧ r.hot = [] ∧
  (∀ n, let c := r.ctxAt n
    c.mode = .free ∧ c.modulusOk = true ∧ c.aligned = true ∧ c.pc = 0 ∧ (∀ k, c.reg k = 0) ∧
    (∀ k ∈ [0x000, 0x001, 0x002, 0x003, 0x004, 0x005, 0x008, 0x020, 0x021, 0x022, 0x024, 0x025, 0x026, 0x027, 0x100, 0x101,
      0x102, 0x103, 0x104, 0x105, 0x106, 0x107], r.csrRead c k = 0) ∧
    r.csrRead c 0x006 = 3 ∧ r.csrRead c 0x007 = 0x1555555555555555 ∧ r.csrRead c 0x120 = 20 ∧ r.csrRead c 0x121 = 1000) ∧
  r.ctl.boot = 0 ∧ r.ctl.ready = false ∧ r.ctl.hbmsr = 0 ∧ r.ctl.clgate = 0 ∧ r.ctl.reqP = 0 ∧ r.ctl.fqen = false ∧
  r.ctl.fqie = false ∧ r.ctl.fqlog2n = 6 ∧ r.ctl.lost = 0 ∧ r.ctl.fqhead = 0 ∧ r.ctl.fqtail = 0 ∧ r.seq = 0

/-- R243, R254, R299: from every state whose tables are in canonical form, with their keys rising, every ring sound
and no dirty line but of host memory, whatever a step does, the tables are so after it. -/
def Obligations.StepKeepsTheTables : Prop :=
  ∀ (s t : State), s.canonical = true → s.keyed = true → step s = .next t → t.canonical = true ∧ t.keyed = true
end

