-- ==== Sys2Proof/Laws/Order.lean ====
section
/-! SUPPORT. Which writes an agent observes (R276 to R288): what a performance, a release, a fence and an acquire can do, and
that none of them does anything while every write is performed everywhere. -/

namespace Sys2Proof.Machine

/-- A state differs from another in its held writes and its moment at most. -/
def State.sameBut (s t : State) : Prop := t = { s with writes := t.writes, moment := t.moment }

theorem State.sameBut_refl (s : State) : s.sameBut s := rfl

theorem State.settleWrites_cases (s : State) : s.settleWrites = s ∨ s.settleWrites = { s with writes := [] } := by
  unfold State.settleWrites
  split
  · exact .inr rfl
  · exact .inl rfl

/-- A performance changes what is held, and nothing else. -/
theorem State.performWith_sameBut (s : State) (f g : Write → List Nat) : s.sameBut (s.performWith f g) := by
  unfold State.performWith State.sameBut
  split
  · rfl
  · obtain h | h := State.settleWrites_cases { s with
      moment := s.moment + 1
      writes := (performList (s.moment + 1) f g s.writes).map Prod.fst }
    all_goals rw [h]

theorem State.performFor_sameBut (s : State) (f : Write → List Nat) : s.sameBut (s.performFor f) :=
  s.performWith_sameBut f _

theorem State.releaseTo_sameBut (s : State) (n : Nat) (mask : BitVec 16) (die scope : Nat) :
    s.sameBut (s.releaseTo n mask die scope) := s.performWith_sameBut _ _

theorem State.observe_sameBut (s : State) (die : Nat) (l : List (Bool × Nat)) : s.sameBut (s.observe die l) :=
  s.performFor_sameBut _

theorem State.performUnits_sameBut (s : State) (cl scope : Nat) : s.sameBut (s.performUnits cl scope) :=
  s.performFor_sameBut _

theorem State.beforeAccess_sameBut (s : State) (sid cls : Nat) (ports : List (Option Nat)) :
    s.sameBut (s.beforeAccess sid cls ports) := s.performFor_sameBut _

/-! ## No write is held -/

theorem State.performWith_none {s : State} (h : s.writes = []) (f g : Write → List Nat) : s.performWith f g = s := by
  simp [State.performWith, h]

theorem State.performFor_none {s : State} (h : s.writes = []) (f : Write → List Nat) : s.performFor f = s :=
  State.performWith_none h f _

theorem State.observe_none {s : State} (h : s.writes = []) (die : Nat) (l : List (Bool × Nat)) : s.observe die l = s :=
  State.performFor_none h _

theorem State.releaseTo_none {s : State} (h : s.writes = []) (n : Nat) (mask : BitVec 16) (die scope : Nat) :
    s.releaseTo n mask die scope = s := State.performWith_none h _ _

theorem State.beforeAccess_none {s : State} (h : s.writes = []) (sid cls : Nat) (ports : List (Option Nat)) :
    s.beforeAccess sid cls ports = s := State.performFor_none h _

theorem State.acquireAt_none {s : State} (h : s.writes = []) (n m : Nat) : s.acquireAt n m = s := by
  simp [State.acquireAt, h]

theorem State.fenceAt_none {s : State} (h : s.writes = []) (n : Nat) (mask : BitVec 16) (scope : Nat) :
    s.fenceAt n mask scope = s := by
  simp [State.fenceAt, h]

theorem State.afterReads_none {s : State} (h : s.writes = []) (k cls n m : Nat) : s.afterReads k cls n m = s := by
  simp [State.afterReads, h]

/-- A read then observes the newest write. -/
theorem State.seenByte_none {s : State} (h : s.writes = []) (c : Ctx) (cls : Nat) (port : Option Nat) (die m : Nat)
    (l : Loc) : s.seenByte c cls port die m l = s.locByte l := by
  simp [State.seenByte, h]

theorem State.noteWrites_none {s : State} (h : s.writes = []) (hl : s.lags = []) (t : State) (sid cls : Nat)
    (l : List WriteAt) : s.noteWrites t sid cls l = t := by
  simp [State.noteWrites, h, hl]

end Sys2Proof.Machine
end

