-- ==== Sys2Proof/Laws/Tables.lean ====
section
/-! SUPPORT. The laws of sparse tables: what is read after a write, and that every operation keeps the canonical form. -/

namespace Sys2Proof.Machine

variable {α : Type}

/-! ## Reading after a write -/

@[simp] theorem smFind_put_same (k : Nat) (v : α) (m : SMap α) : smFind k (smPut k v m) = some v := by
  induction m with
  | nil => simp [smPut, smFind]
  | cons e m ih =>
    unfold smPut
    split
    · simp [smFind]
    · split
      · simp [smFind]
      · rename_i h
        simp [smFind, Ne.symm h, ih]

theorem smFind_put_other {k j : Nat} (h : j ≠ k) (v : α) (m : SMap α) : smFind j (smPut k v m) = smFind j m := by
  induction m with
  | nil => simp [smPut, smFind, Ne.symm h]
  | cons e m ih =>
    obtain ⟨k', v'⟩ := e
    unfold smPut
    split
    · simp [smFind, Ne.symm h]
    · split
      · rename_i h1; subst h1; simp [smFind, Ne.symm h]
      · simp [smFind, ih]

@[simp] theorem smGet_put_same (d : α) (k : Nat) (v : α) (m : SMap α) : smGet d (smPut k v m) k = v := by
  simp [smGet]

theorem smGet_put_other (d : α) {k j : Nat} (h : j ≠ k) (v : α) (m : SMap α) :
    smGet d (smPut k v m) j = smGet d m j := by
  simp [smGet, smFind_put_other h]

/-! ## The rising order -/

/-- Keys rise strictly from above a bound. -/
theorem smRising_weaken {lo lo' : Option Nat} {m : SMap α}
    (hlo : ∀ a, lo' = some a → ∃ b, lo = some b ∧ a ≤ b) (h : smRising lo m = true) : smRising lo' m = true := by
  cases m with
  | nil => rfl
  | cons e m =>
    obtain ⟨k, v⟩ := e
    simp only [smRising, Bool.and_eq_true] at h ⊢
    refine ⟨?_, h.2⟩
    cases lo' with
    | none => rfl
    | some a =>
      obtain ⟨b, rfl, hab⟩ := hlo a rfl
      have := h.1
      simp only [decide_eq_true_eq] at this ⊢
      omega

/-- A table that rises from above `lo` has no key at or below it. -/
theorem smFind_below {lo j : Nat} {m : SMap α} (h : smRising (some lo) m = true) (hj : j ≤ lo) : smFind j m = none := by
  induction m generalizing lo with
  | nil => rfl
  | cons e m ih =>
    obtain ⟨k, v⟩ := e
    simp only [smRising, Bool.and_eq_true, decide_eq_true_eq] at h
    have hk : k ≠ j := by omega
    simp only [smFind, hk, if_false]
    exact ih h.2 (by omega)

theorem smRising_put {lo : Option Nat} (k : Nat) (v : α) {m : SMap α} (hlo : ∀ a, lo = some a → a < k)
    (h : smRising lo m = true) : smRising lo (smPut k v m) = true := by
  induction m generalizing lo with
  | nil =>
    cases lo with
    | none => rfl
    | some a => simp [smPut, smRising, hlo a rfl]
  | cons e m ih =>
    obtain ⟨k', v'⟩ := e
    simp only [smRising, Bool.and_eq_true] at h
    have top : ∀ (w : α) (n : SMap α), smRising (some k) n = true → smRising lo ((k, w) :: n) = true := by
      intro w n hn
      simp only [smRising, Bool.and_eq_true]
      refine ⟨?_, hn⟩
      cases lo with
      | none => rfl
      | some a => simpa using hlo a rfl
    unfold smPut
    split
    · rename_i hk
      apply top
      simp [smRising, hk, h.2]
    · split
      · rename_i hk
        subst hk
        exact top v m h.2
      · rename_i h1 h2
        simp only [smRising, Bool.and_eq_true]
        exact ⟨h.1, ih (fun a ha => by cases ha; omega) h.2⟩

theorem smRising_del {lo : Option Nat} (k : Nat) {m : SMap α} (h : smRising lo m = true) :
    smRising lo (smDel k m) = true := by
  induction m generalizing lo with
  | nil => exact h
  | cons e m ih =>
    obtain ⟨k', v'⟩ := e
    have h' := h
    simp only [smRising, Bool.and_eq_true] at h'
    unfold smDel
    split
    · apply smRising_weaken _ h'.2
      intro a ha
      subst ha
      have := h'.1
      simp only [decide_eq_true_eq] at this
      exact ⟨k', rfl, by omega⟩
    · split
      · exact h
      · simp only [smRising, Bool.and_eq_true]
        exact ⟨h'.1, ih h'.2⟩

theorem smRising_filter {lo : Option Nat} (p : Nat × α → Bool) {m : SMap α} (h : smRising lo m = true) :
    smRising lo (m.filter p) = true := by
  induction m generalizing lo with
  | nil => exact h
  | cons e m ih =>
    obtain ⟨k', v'⟩ := e
    have h' := h
    simp only [smRising, Bool.and_eq_true] at h'
    rw [List.filter_cons]
    split
    · simp only [smRising, Bool.and_eq_true]
      exact ⟨h'.1, ih h'.2⟩
    · apply smRising_weaken _ (ih h'.2)
      intro a ha
      subst ha
      have := h'.1
      simp only [decide_eq_true_eq] at this
      exact ⟨k', rfl, by omega⟩

/-! ## Members -/

theorem mem_smPut {k : Nat} {v : α} {e : Nat × α} : ∀ {m : SMap α}, e ∈ smPut k v m → e = (k, v) ∨ e ∈ m
  | [], h => by simpa [smPut] using h
  | (k', v') :: m, h => by
    unfold smPut at h
    split at h
    · simpa using h
    · split at h
      · rcases List.mem_cons.1 h with h | h
        · exact .inl h
        · exact .inr (List.mem_cons_of_mem _ h)
      · rcases List.mem_cons.1 h with h | h
        · exact .inr (by simp [h])
        · rcases mem_smPut h with h | h
          · exact .inl h
          · exact .inr (List.mem_cons_of_mem _ h)

theorem mem_smDel {k : Nat} {e : Nat × α} : ∀ {m : SMap α}, e ∈ smDel k m → e ∈ m
  | [], h => h
  | (k', v') :: m, h => by
    unfold smDel at h
    split at h
    · exact List.mem_cons_of_mem _ h
    · split at h
      · exact h
      · rcases List.mem_cons.1 h with h | h
        · simp [h]
        · exact List.mem_cons_of_mem _ (mem_smDel h)

/-! ## Deleting and setting -/

theorem smFind_del_other {k j : Nat} (h : j ≠ k) : ∀ (m : SMap α), smFind j (smDel k m) = smFind j m
  | [] => rfl
  | (k', v') :: m => by
    unfold smDel
    split
    · rename_i hk; subst hk; simp [smFind, Ne.symm h]
    · split
      · rfl
      · simp only [smFind, smFind_del_other h m]

theorem smFind_del_same {k : Nat} : ∀ {m : SMap α}, smRising none m = true → smFind k (smDel k m) = none := by
  have gen : ∀ (m : SMap α) (lo : Option Nat), smRising lo m = true → smFind k (smDel k m) = none := by
    intro m
    induction m with
    | nil => intro _ _; rfl
    | cons e m ih =>
      obtain ⟨k', v'⟩ := e
      intro lo h
      simp only [smRising, Bool.and_eq_true] at h
      unfold smDel
      split
      · rename_i hk
        exact smFind_below h.2 (by omega)
      · split
        · rename_i h1 h2
          simp only [smFind, Ne.symm h1, if_false]
          exact smFind_below h.2 (by omega)
        · rename_i h1 h2
          simp only [smFind, Ne.symm h1, if_false]
          exact ih _ h.2
  intro m h
  exact gen m none h

section
variable [DecidableEq α]

theorem smGet_set_other (d : α) {k j : Nat} (h : j ≠ k) (v : α) (m : SMap α) :
    smGet d (smSet d m k v) j = smGet d m j := by
  unfold smSet
  split
  · simp [smGet, smFind_del_other h]
  · exact smGet_put_other d h v m

theorem smGet_set_same (d : α) {k : Nat} (v : α) {m : SMap α} (h : smWf d m = true) :
    smGet d (smSet d m k v) k = v := by
  unfold smSet
  split
  · rename_i hv
    unfold smWf at h
    simp only [Bool.and_eq_true] at h
    simp [smGet, smFind_del_same h.1, hv]
  · simp

/-- Writing keeps the canonical form. -/
theorem smWf_set (d : α) (k : Nat) (v : α) {m : SMap α} (h : smWf d m = true) : smWf d (smSet d m k v) = true := by
  unfold smWf at h ⊢
  simp only [Bool.and_eq_true, List.all_eq_true, decide_eq_true_eq] at h ⊢
  unfold smSet
  split
  · exact ⟨smRising_del k h.1, fun e he => h.2 e (mem_smDel he)⟩
  · rename_i hv
    refine ⟨smRising_put k v (by simp) h.1, fun e he => ?_⟩
    rcases mem_smPut he with rfl | he
    · exact hv
    · exact h.2 e he

/-- Removing entries keeps the canonical form. -/
theorem smWf_filter (d : α) (p : Nat × α → Bool) {m : SMap α} (h : smWf d m = true) : smWf d (m.filter p) = true := by
  unfold smWf at h ⊢
  simp only [Bool.and_eq_true, List.all_eq_true, decide_eq_true_eq] at h ⊢
  exact ⟨smRising_filter p h.1, fun e he => h.2 e (List.mem_filter.1 he).1⟩

theorem smWf_clear (d : α) (lo n : Nat) {m : SMap α} (h : smWf d m = true) : smWf d (smClear lo n m) = true :=
  smWf_filter d _ h

/-- A fold of writes keeps the canonical form. -/
theorem smWf_foldl {β : Type} (d : α) (f : SMap α → β → SMap α) (hf : ∀ m b, smWf d m = true → smWf d (f m b) = true)
    (l : List β) {m : SMap α} (h : smWf d m = true) : smWf d (l.foldl f m) = true := by
  induction l generalizing m with
  | nil => exact h
  | cons b l ih => exact ih (hf m b h)

end

@[simp] theorem smWf_nil [DecidableEq α] (d : α) : smWf d ([] : SMap α) = true := rfl

end Sys2Proof.Machine
end

