-- ==== Sys2Proof/Laws/Flat.lean ====
section
/-! SUPPORT. What an access does in a context whose lowest 2^39 addresses a cached translation of cluster 0 maps to
themselves: it reaches its own bytes, and changes nothing but counts (R257, R366, R372). -/

namespace Sys2Proof.Machine

/-- Cluster 0 caches the flat translation for a context. -/
def State.flatFor (s : State) (c : Ctx) : Prop := c.desc = some flatFormat ∧ smGet [] s.tlbs 0 = [flatEntry c]

/-- The element lies in one page of cluster 0's site below 2^39. -/
def Elem.small (x : Elem) : Prop := x.cl = 0 ∧ x.va % 4096 + x.bytes ≤ 4096 ∧ x.va < 2 ^ 39

/-- The bytes of such an element. -/
def flatLocs (x : Elem) : List Loc := (List.range x.bytes).map fun i => { scratch := false, key := x.va + i, va := x.va + i }

theorem State.flat_hitIn {s : State} {c : Ctx} (h : s.flatFor c) {kind : AccKind} (hk : kind = 0 ∨ kind = 1) (user : Bool)
    {va : Nat} (hv : va < 2 ^ 39) : s.hitIn 0 c flatFormat kind user va = some (flatEntry c) := by
  have hs : (flatEntry c).serves c flatFormat va = true := by
    simp [TlbEntry.serves, flatEntry]
    omega
  have ha : (flatEntry c).allows kind user false = true := by
    rcases hk with rfl | rfl <;> cases user <;> rfl
  simp [State.hitIn, h.2, hs, ha]

theorem regionOf_small {a : Nat} (h : a < 2 ^ 40) : regionOf a = 0 := by
  unfold regionOf
  omega

theorem State.cell_small (s : State) {a : Nat} (h : a < 2 ^ 40) : s.cell a = a := by
  simp [State.cell, regionOf_small h]

theorem State.flat_translateOut {s : State} {c : Ctx} (h : s.flatFor c) {kind : AccKind} (hk : kind = 0 ∨ kind = 1) (gate : Gate)
    {va : Nat} (hv : va < 2 ^ 39) : s.translateOut 0 c kind gate va = .ok va s := by
  have hi := State.flat_hitIn h hk (!c.sup) hv
  have ha : (flatEntry c).addr va = va := by
    simp [TlbEntry.addr, flatEntry]
    omega
  have hr : regionOf va = 0 := regionOf_small (lt_trans hv (by norm_num))
  have hp : s.outPa flatFormat va = va := rfl
  have hl : s.leafOk flatFormat va = true := by
    simp only [State.leafOk, PteFormat.outOk, flatFormat, State.outPa, paOk, hr]
    simp
    omega
  have ho : s.hit 0 c flatFormat kind (!c.sup) va = some (flatEntry c) := by simp [State.hit, hi]
  unfold State.translateOut
  rw [h.1]
  simp only [ho, ha, hl, hp, hi, Gate.at, hr]
  simp

/-- The pages gathered so far are those of the identity. -/
structure PageAcc.Flat (s : State) (a : PageAcc) : Prop where
  st : a.s = s
  bad : a.bad = []
  first : a.first = none
  sleeps : a.sleeps = false
  pages : ∀ p o, smFind (pageKey 0 p) a.pages = some o → o = 4096 * p

theorem pageKey_inj {p q : Nat} (h : pageKey 0 p = pageKey 0 q) : p = q := by simpa [pageKey] using h

theorem PageAcc.flat_addElem {s : State} {c : Ctx} (h : s.flatFor c) {kind : AccKind} (hk : kind = 0 ∨ kind = 1)
    {a : PageAcc} (ha : a.Flat s) {x : Elem} (hx : x.small) :
    (PageAcc.addElem c kind a x).Flat s ∧ (smFind (pageKey 0 (x.va / 4096)) (PageAcc.addElem c kind a x).pages).isSome = true ∧
      ∀ p, (smFind (pageKey 0 p) a.pages).isSome = true → (smFind (pageKey 0 p) (PageAcc.addElem c kind a x).pages).isSome = true := by
  have hg : c.granBytes = 4096 := by simp [Ctx.granBytes, h.1, flatFormat]
  have hn : (x.va % 4096 + x.bytes - 1) / 4096 = 0 := by have := hx.2.1; omega
  have e : PageAcc.addElem c kind a x = PageAcc.add c kind x a x.va := by
    simp [PageAcc.addElem, Elem.pageVas, hg, hn]
  rw [e]
  unfold PageAcc.add
  rw [hg, hx.1, ha.bad, ha.st]
  by_cases hf : (smFind (pageKey 0 (x.va / 4096)) a.pages).isSome = true
  · simp only [hf, Bool.true_or, ↓reduceIte]
    exact ⟨ha, trivial, fun _ h => h⟩
  · simp only [Bool.not_eq_true] at hf
    simp only [hf, Bool.false_or, List.contains_nil, Bool.false_eq_true, ↓reduceIte,
      State.flat_translateOut h hk _ hx.2.2]
    refine ⟨⟨rfl, rfl, ha.first, ha.sleeps, ?_⟩, by simp, ?_⟩
    · intro p o ho
      by_cases hp : p = x.va / 4096
      · subst hp
        simp only [smFind_put_same, Option.some.injEq] at ho
        omega
      · rw [smFind_put_other (fun q => hp (pageKey_inj q))] at ho
        exact ha.pages p o ho
    · intro p hp
      by_cases hq : p = x.va / 4096
      · subst hq; simp
      · rw [smFind_put_other (fun q => hq (pageKey_inj q))]; exact hp

theorem PageAcc.flat_foldl {s : State} {c : Ctx} (h : s.flatFor c) {kind : AccKind} (hk : kind = 0 ∨ kind = 1) :
    ∀ (l : List Elem) (a : PageAcc), a.Flat s → (∀ x ∈ l, x.small) →
      (l.foldl (PageAcc.addElem c kind) a).Flat s ∧
        (∀ p, (smFind (pageKey 0 p) a.pages).isSome = true →
          (smFind (pageKey 0 p) (l.foldl (PageAcc.addElem c kind) a).pages).isSome = true) ∧
        ∀ x ∈ l, (smFind (pageKey 0 (x.va / 4096)) (l.foldl (PageAcc.addElem c kind) a).pages).isSome = true
  | [], a, ha, _ => ⟨ha, fun _ h => h, fun _ h => by cases h⟩
  | x :: l, a, ha, hl => by
    have hx := PageAcc.flat_addElem h hk ha (hl x List.mem_cons_self)
    have ht := PageAcc.flat_foldl h hk l _ hx.1 fun y hy => hl y (List.mem_cons_of_mem _ hy)
    refine ⟨ht.1, fun p hp => ht.2.1 p (hx.2.2 p hp), fun y hy => ?_⟩
    rcases List.mem_cons.1 hy with rfl | hy
    · exact ht.2.1 _ hx.2.1
    · exact ht.2.2 y hy

theorem PageAcc.flat_locs {s : State} {c : Ctx} (h : s.flatFor c) {a : PageAcc} (ha : a.Flat s) {x : Elem} (hx : x.small)
    (hp : (smFind (pageKey 0 (x.va / 4096)) a.pages).isSome = true) :
    a.locs c x = (flatLocs x).map fun b => (b, b.key) := by
  have hg : c.granBytes = 4096 := by simp [Ctx.granBytes, h.1, flatFormat]
  obtain ⟨o, ho⟩ := Option.isSome_iff_exists.1 hp
  have ho' := ha.pages _ _ ho
  unfold PageAcc.locs flatLocs
  rw [List.map_map]
  refine List.map_congr_left fun i hi => ?_
  have hi := List.mem_range.1 hi
  obtain ⟨h1, h2, h3⟩ := hx
  have e1 : x.byteVa i = x.va + i := by unfold Elem.byteVa; omega
  have e2 : (x.va + i) / 4096 = x.va / 4096 := by omega
  have e3 : smGet 0 a.pages (pageKey x.cl ((x.va + i) / 4096)) + (x.va + i) % 4096 = x.va + i := by
    rw [h1, e2, smGet, ho, Option.getD_some, ho']; omega
  have e4 : a.s.ctxPa c (x.va + i) = x.va + i := by simp [State.ctxPa, h.1, State.outPa, flatFormat]
  have e5 : a.s.cell (x.va + i) = x.va + i := State.cell_small _ (by omega)
  simp only [hg, e1, e3, e4, e5, Function.comp]

theorem State.not_remote {s : State} {a : Nat} (h : a < 2 ^ 40) : s.remotePa a = false := by
  simp [State.remotePa, regionOf_small h]

theorem flatLocs_small {x : Elem} (hx : x.small) : ∀ b ∈ flatLocs x, b.key < 2 ^ 40 := by
  intro b hb
  obtain ⟨i, hi, rfl⟩ := List.mem_map.1 hb
  have := List.mem_range.1 hi
  obtain ⟨-, h2, h3⟩ := hx
  show x.va + i < 2 ^ 40
  omega

/-- Bytes of this endpoint make no remote access. -/
theorem State.remoteParts_none {s : State} {l : List Nat} (h : ∀ a ∈ l, s.remotePa a = false) (request : Bool) (e va : Nat) :
    s.remoteParts request e va l = [] := by
  have : l.filter s.remotePa = [] := List.filter_eq_nil_iff.2 fun a ha => by simp [h a ha]
  simp [State.remoteParts, this, packetsOf]

theorem State.flat_near (s : State) {x : Elem} (hx : x.small) :
    ∀ a ∈ ((flatLocs x).map fun b => (b, b.key)).map Prod.snd, s.remotePa a = false := by
  intro a ha
  simp only [List.map_map, List.mem_map] at ha
  obtain ⟨q, hq, rfl⟩ := ha
  exact State.not_remote (flatLocs_small hx q hq)

theorem PageAcc.flat_start (s : State) : ({ s := s } : PageAcc).Flat s := ⟨rfl, rfl, rfl, rfl, fun _ _ h => by cases h⟩

/-- The elements of an access all reach their bytes. -/
theorem State.flat_resolve {s : State} {c : Ctx} (h : s.flatFor c) (hs : s.ctl.hbmsr = 0) {kind : AccKind}
    (hk : kind = 0 ∨ kind = 1) (hot cls : Nat) {els : List Elem} (hl : ∀ x ∈ els, x.small) :
    ∃ f, s.resolve c kind false hot cls els els = .ok (f, none) (s.hotCount c hot els) ∧ ∀ x ∈ els, f x = flatLocs x := by
  have hf := PageAcc.flat_foldl h hk els { s := s } (PageAcc.flat_start s) hl
  have hlocs : ∀ x ∈ els, (els.foldl (PageAcc.addElem c kind) { s := s }).locs c x = (flatLocs x).map fun b => (b, b.key) :=
    fun x hx => PageAcc.flat_locs h hf.1 (hl x hx) (hf.2.2 x hx)
  have hrem : (els.flatMap fun x => s.remoteParts (decide (hot ≠ 0)) x.e x.va
      (((els.foldl (PageAcc.addElem c kind) { s := s }).locs c x).map Prod.snd)) = [] := by
    refine List.flatMap_eq_nil_iff.2 fun x hx => ?_
    rw [hlocs x hx]
    exact State.remoteParts_none (s.flat_near (hl x hx)) _ _ _
  refine ⟨fun x => ((els.foldl (PageAcc.addElem c kind) { s := s }).locs c x).map Prod.fst, ?_, fun x hx => ?_⟩
  · unfold State.resolve
    simp only [Bool.false_eq_true, ↓reduceIte, hf.1.first, hf.1.sleeps, hf.1.st, hs]
    rw [hrem]
    rfl
  · simp [hlocs x hx, List.map_map, Function.comp_def]

theorem State.hotCount_eq (s : State) (c : Ctx) (kind : Nat) (els : List Elem) :
    s.hotCount c kind els = { s with hot := (s.hotCount c kind els).hot } := by
  unfold State.hotCount
  generalize (els.flatMap fun x => (x.pageVas (2 ^ 16)).map fun a => (x.die, a / 2 ^ 16)).eraseDups = l
  suffices ∀ (l : List (Nat × Nat)) (g : State → Nat × Nat → State), (∀ s k, g s k = { s with hot := (g s k).hot }) → ∀ s,
      l.foldl g s = { s with hot := (l.foldl g s).hot } from this l _ (fun _ _ => rfl) s
  intro l g hg
  induction l with
  | nil => intro s; rfl
  | cons k l ih => intro s; rw [List.foldl_cons, ih, hg]

theorem State.locPoison_clean {s : State} (h : s.memPoison = []) {b : Loc} (hb : b.scratch = false) : s.locPoison b = false := by
  simp [State.locPoison, hb, h]

theorem State.not_asleep {s : State} (h : s.ctl.hbmsr = 0) (a n : Nat) : s.asleepRange a n = false := by
  simp [State.asleepRange, h]

/-- A restore reads the bytes of its image (R354). -/
theorem State.flat_imgRead {s : State} {c : Ctx} (h : s.flatFor c) (hs : s.ctl.hbmsr = 0) (a : Word)
    (hl : ∀ x ∈ imgElems a ((List.range ((c.imgSize + 4095) / 4096)).map fun k => (4096 * k, min 4096 (c.imgSize - 4096 * k))),
      x.small) :
    s.imgRead c a = .ok ((imgElems a ((List.range ((c.imgSize + 4095) / 4096)).map fun k =>
        (4096 * k, min 4096 (c.imgSize - 4096 * k)))).flatMap fun x => (List.range x.bytes).map fun i =>
          (smGet 0 s.mem (x.va + i), s.locPoison { scratch := false, key := x.va + i, va := x.va + i }))
      (s.hotCount c 0 (imgElems a ((List.range ((c.imgSize + 4095) / 4096)).map fun k =>
        (4096 * k, min 4096 (c.imgSize - 4096 * k))))) := by
  obtain ⟨f, hf, he⟩ := State.flat_resolve h hs (Or.inl rfl) 0 15 hl
  unfold State.imgRead State.imgResolve
  simp only [hf, Res.andThen]
  rw [State.hotCount_eq]
  congr 1
  rw [List.map_congr_left he, ← List.flatMap_def, List.map_flatMap]
  refine List.flatMap_congr fun x _ => ?_
  rw [flatLocs, List.map_map]
  exact List.map_congr_left fun i _ => by simp [State.locByte, State.locPoison]

/-- The parts of a piece lie in one page each, within the piece. -/
theorem splitPages_small : ∀ (n off : Nat) (l : List PByte), ∀ q ∈ splitPages n off l,
    q.1 % 4096 + q.2.length ≤ 4096 ∧ q.1 ≤ off + l.length
  | 0, _, _, _, h => by cases h
  | n + 1, off, l, q, h => by
    unfold splitPages at h
    split at h
    · cases h
    · rcases List.mem_cons.1 h with rfl | h
      · simp only [List.length_take]
        omega
      · have := splitPages_small n _ _ q h
        simp only [List.length_drop] at this
        refine ⟨this.1, ?_⟩
        by_cases hk : 4096 - off % 4096 ≤ l.length
        · omega
        · rw [List.drop_eq_nil_of_le (by omega)] at h
          cases n <;> simp [splitPages] at h

/-- A save at a page below 2^38, of pieces below 2^38, reaches the bytes of its image (R353). -/
theorem State.flat_imgWrite {s : State} {c : Ctx} (h : s.flatFor c) (hs : s.ctl.hbmsr = 0) {a : Word} (pc : Word) (rd : Option XReg)
    (ha : a.toNat % 4096 = 0 ∧ a.toNat < 2 ^ 38) (hl : ∀ p ∈ s.imgPieces c pc rd, p.1 + p.2.length < 2 ^ 38) :
    ∃ t, s.imgWrite c a pc rd = .ok () t := by
  have hx : ∀ x ∈ imgElems a (((s.imgPieces c pc rd).flatMap fun p => splitPages (p.2.length / 4096 + 2) p.1 p.2).map fun p =>
      (p.1, p.2.length)), x.small := by
    intro x hx
    obtain ⟨r, hr, rfl⟩ := List.mem_map.1 hx
    obtain ⟨q, hq, rfl⟩ := List.mem_map.1 hr
    obtain ⟨p, hp, hq⟩ := List.mem_flatMap.1 hq
    have h1 := splitPages_small _ _ _ q hq
    have h2 := hl p hp
    refine ⟨rfl, ?_, ?_⟩
    · simp only [Elem.bytes]
      omega
    · show (a.toNat + q.1) % 2 ^ 64 < 2 ^ 39
      omega
  obtain ⟨f, hf, -⟩ := State.flat_resolve h hs (Or.inr rfl) 0 15 hx
  exact ⟨_, by unfold State.imgWrite State.imgResolve; simp only [hf, Res.andThen]; rfl⟩

/-- A unit's access reaches its bytes. -/
theorem State.flat_unitLocs {s : State} {c : Ctx} (h : s.flatFor c) (hs : s.ctl.hbmsr = 0) {kind : AccKind}
    (hk : kind = 0 ∨ kind = 1) {a n : Nat} (hx : ({ e := 0, cl := 0, va := a, bit := 0, bits := 8 * n } : Elem).small) :
    s.unitLocs c kind false 0 a n = .ok (flatLocs { e := 0, cl := 0, va := a, bit := 0, bits := 8 * n }) s := by
  have hf := PageAcc.flat_addElem h hk (PageAcc.flat_start s) hx
  have hl := PageAcc.flat_locs h hf.1 hx hf.2.1
  unfold State.unitLocs
  simp only [Bool.false_eq_true, ↓reduceIte, hf.1.first, hf.1.sleeps, hf.1.st, hl]
  have ha : ∀ b, s.asleep b = false := fun b => by simp [State.asleep, hs]
  rw [State.remoteParts_none (s.flat_near hx)]
  simp [ha, lowestFault, List.map_map, Function.comp_def]

/-- A range of a unit below 2^39 within one page. -/
def smallRange (p : Nat × Nat) : Prop := p.1 % 4096 + p.2 ≤ 4096 ∧ p.1 < 2 ^ 39

theorem smallRange.elem {a n : Nat} (h : smallRange (a, n)) :
    ({ e := 0, cl := 0, va := a, bit := 0, bits := 8 * n } : Elem).small := by
  refine ⟨rfl, ?_, h.2⟩
  have := h.1
  simp only [Elem.bytes]
  omega

theorem State.flat_unitRead {s : State} {c : Ctx} (h : s.flatFor c) (hs : s.ctl.hbmsr = 0) (hp : s.memPoison = [])
    (hw : s.writes = []) {p : Nat × Nat} (hx : smallRange p) :
    s.unitRead c false 0 p.1 p.2 = .ok ((List.range p.2).map fun i => (smGet 0 s.mem (p.1 + i), false)) s := by
  have hn : ({ e := 0, cl := 0, va := p.1, bit := 0, bits := 8 * p.2 } : Elem).bytes = p.2 := by simp only [Elem.bytes]; omega
  have hc : (flatLocs { e := 0, cl := 0, va := p.1, bit := 0, bits := 8 * p.2 }).find? s.locPoison = none := by
    rw [List.find?_eq_none]
    intro b hb
    obtain ⟨i, -, rfl⟩ := List.mem_map.1 hb
    rw [State.locPoison_clean hp rfl]
    exact Bool.false_ne_true
  unfold State.unitRead
  simp only [State.flat_unitLocs h hs (Or.inl rfl) hx.elem, Res.andThen, hc, State.observeLocs, State.observe_none hw]
  congr 1
  rw [flatLocs, hn, List.map_map]
  refine List.map_congr_left fun i _ => ?_
  simp [State.locByte, State.locPoison, hp]

theorem State.flat_unitReads {s : State} {c : Ctx} (h : s.flatFor c) (hs : s.ctl.hbmsr = 0) (hp : s.memPoison = [])
    (hw : s.writes = []) :
    ∀ l : List (Nat × Nat), (∀ p ∈ l, smallRange p) →
      s.unitReads c false 0 l = .ok (l.map fun p => (List.range p.2).map fun i => (smGet 0 s.mem (p.1 + i), false)) s
  | [], _ => rfl
  | p :: l, hl => by
    have e := State.flat_unitRead h hs hp hw (hl p List.mem_cons_self)
    have t := State.flat_unitReads h hs hp hw l fun q hq => hl q (List.mem_cons_of_mem _ hq)
    unfold State.unitReads
    simp only [e, t, Res.andThen, List.map_cons]

/-- A resume reads the bytes of its image (R354, R355). -/
theorem State.flat_readImage {s : State} {c : Ctx} (h : s.flatFor c) (hs : s.ctl.hbmsr = 0) (hp : s.memPoison = [])
    (hw : s.writes = []) (hc : c.firstCl = 0) (hl : ∀ p ∈ (List.range ((c.imgSize + 4095) / 4096)).map fun k =>
      ((c.image.toNat + 4096 * k) % 2 ^ 64, min 4096 (c.imgSize - 4096 * k)), smallRange p) :
    s.readImage c = .ok (((List.range ((c.imgSize + 4095) / 4096)).map fun k =>
      ((c.image.toNat + 4096 * k) % 2 ^ 64, min 4096 (c.imgSize - 4096 * k))).flatMap fun p =>
        (List.range p.2).map fun i => (smGet 0 s.mem (p.1 + i), false)) s := by
  unfold State.readImage
  simp only [hc, State.flat_unitReads h hs hp hw _ hl, Res.andThen, List.flatMap_def]

theorem foldl_keeps {α β : Type} (f : State → α → State) (g : State → β) (h : ∀ s a, g (f s a) = g s) :
    ∀ (l : List α) (s : State), g (l.foldl f s) = g s
  | [], _ => rfl
  | a :: l, s => by rw [List.foldl_cons, foldl_keeps f g h l, h]

/-- What an access looks at beside memory: the translation, the control registers, the contexts, and whether some write or
some access lags. -/
def State.beside (s : State) : SMap (List TlbEntry) × Control × SMap Ctx × Bool × List Nat :=
  (s.tlbs, s.ctl, s.ctxs, s.writes.isEmpty, s.lags)

/-- Bytes put into memory leave all that. -/
theorem State.putPBytes_beside (s : State) (l : List (Loc × PByte)) : (s.putPBytes l).beside = s.beside := by
  have hloc : ∀ (s : State) (p : Loc × Byte), (s.setLoc p.1 p.2).beside = s.beside := fun s p => by
    unfold State.setLoc
    split <;> simp [State.beside, forget]
  unfold State.putPBytes State.setLocs
  rw [foldl_keeps _ State.beside]
  · exact foldl_keeps _ State.beside hloc _ _
  · intro s p; split <;> [rfl; (split <;> rfl)]

/-- The pieces of an image are written (R431), and no context changes. -/
theorem State.flat_writePieces {c : Ctx} (hc : c.firstCl = 0) (a : Word) :
    ∀ (l : List (Nat × List PByte)) (s : State), s.flatFor c → s.ctl.hbmsr = 0 → s.writes = [] → s.lags = [] →
      (∀ p ∈ l, smallRange ((a.toNat + p.1) % 2 ^ 64, p.2.length)) →
      ∃ t, State.writePieces c a l s = .ok () t ∧ t.ctxs = s.ctxs
  | [], s, _, _, _, _, _ => ⟨s, rfl, rfl⟩
  | p :: l, s, h, hs, hw, hg, hl => by
    have e := State.flat_unitLocs h hs (Or.inr rfl) (hl p List.mem_cons_self).elem
    let u := s.putPBytes ((flatLocs { e := 0, cl := 0, va := (a.toNat + p.1) % 2 ^ 64, bit := 0, bits := 8 * p.2.length }).zip p.2)
    have hk : u.beside = s.beside := State.putPBytes_beside _ _
    simp only [State.beside, Prod.mk.injEq, hw, hg, List.isEmpty_nil, List.isEmpty_iff] at hk
    obtain ⟨h1, h2, h3, h4, h5⟩ := hk
    obtain ⟨t, ht, hx⟩ := State.flat_writePieces hc a l u ⟨h.1, h1 ▸ h.2⟩ (h2 ▸ hs) h4 h5
      fun q hq => hl q (List.mem_cons_of_mem _ hq)
    refine ⟨t, ?_, hx.trans h3⟩
    unfold State.writePieces State.unitWrite
    rw [hc, e]
    simp only [Res.andThen, State.noteUnit, State.noteWrites_none hw hg]
    exact ht

/-- An image at a page below 2^38, of pieces below 2^38, is written in parts of one page each (R431). -/
theorem State.flat_writeImage {s : State} {c : Ctx} (h : s.flatFor c) (hs : s.ctl.hbmsr = 0) (hw : s.writes = [])
    (hg : s.lags = []) (hc : c.firstCl = 0) {a : Word}
    (ha : a.toNat % 4096 = 0 ∧ a.toNat < 2 ^ 38) {l : List (Nat × List PByte)} (hl : ∀ p ∈ l, p.1 + p.2.length < 2 ^ 38) :
    ∃ t, State.writePieces c a (l.flatMap fun p => splitPages (p.2.length / 4096 + 2) p.1 p.2) s = .ok () t ∧ t.ctxs = s.ctxs := by
  refine State.flat_writePieces hc a _ s h hs hw hg fun q hq => ?_
  obtain ⟨p, hp, hq⟩ := List.mem_flatMap.1 hq
  have h1 := splitPages_small _ _ _ q hq
  have h2 := hl p hp
  exact ⟨by show (a.toNat + q.1) % 2 ^ 64 % 4096 + q.2.length ≤ 4096; omega, by show (a.toNat + q.1) % 2 ^ 64 < 2 ^ 39; omega⟩

/-! ## The bytes of an image in a row -/

/-- Pages of values in a row are a row of values. -/
theorem pages_row {α : Type} (h : Nat → α) : ∀ n,
    ((List.range n).flatMap fun k => (List.range 4096).map fun i => h (4096 * k + i)) = (List.range (4096 * n)).map h
  | 0 => rfl
  | n + 1 => by
    rw [List.range_succ (n := n), List.flatMap_append, pages_row h n, Nat.mul_succ, List.range_add, List.map_append, List.map_map]
    simp [Function.comp_def]

/-- A row of bytes without poison. -/
def cleanRow (g : Nat → Byte) (n : Nat) : List PByte := (List.range n).map fun i => (g i, false)

@[simp] theorem cleanRow_fst (g : Nat → Byte) (n : Nat) : (cleanRow g n).map Prod.fst = (List.range n).map g := by
  simp [cleanRow, Function.comp_def]

theorem Ctx.cleanRow_bad (c : Ctx) (g : Nat → Byte) (n : Nat) : c.imgBad (cleanRow g n) = none := by
  unfold Ctx.imgBad
  rw [Option.map_eq_none_iff, List.find?_eq_none]
  rintro ⟨x, i⟩ hx
  obtain ⟨j, -, e⟩ := List.mem_map.1 (List.fst_mem_of_mem_zipIdx hx)
  have e : x.2 = false := (congrArg Prod.snd e).symm
  simp [e]

theorem take_row (g : Nat → Byte) {k n : Nat} (h : k ≤ n) : ((List.range n).map g).take k = (List.range k).map g := by
  rw [← List.map_take, List.take_range, Nat.min_eq_left h]

theorem part_row (g : Nat → Byte) {i k n : Nat} (h : i + k ≤ n) :
    (((List.range n).map g).drop i).take k = (List.range k).map fun j => g (i + j) := by
  refine List.ext_getElem (by simp; omega) fun j h1 h2 => ?_
  simp

theorem fieldAt_row (g : Nat → Byte) {i k n : Nat} (h : i + k ≤ n) :
    fieldAt ((List.range n).map g) i k = leNat ((List.range k).map fun j => g (i + j)) := by
  rw [fieldAt, part_row g h]

theorem byteAt_row (g : Nat → Byte) {i n : Nat} (h : i < n) : byteAt ((List.range n).map g) i = (g i).toNat := by
  simp [byteAt, h]

/-- An image that holds 0 behind its header holds no fabric state. -/
theorem Ctx.row_fabric (c : Ctx) {g : Nat → Byte} {n : Nat} (hn : 0x1000 + 4096 * c.clusters.length ≤ n)
    (hz : ∀ i, 64 ≤ i → g i = 0) : c.imgFabric ((List.range n).map g) = false := by
  unfold Ctx.imgFabric
  simp only [Bool.or_eq_false_iff, List.any_eq_false, List.mem_range]
  refine ⟨⟨fun k hk => ?_, fun k hk => ?_⟩, fun k hk => ?_⟩
  · rw [byteAt_row g (by omega), hz _ (by omega)]; decide
  · rw [byteAt_row g (by omega), hz _ (by omega)]; decide
  · rw [part_row g (by omega), Bool.not_eq_true, List.any_eq_false]
    intro b hb
    obtain ⟨j, -, rfl⟩ := List.mem_map.1 hb
    rw [hz _ (by omega)]; decide

/-- Memory that lists nothing at or above an address holds 0 there. -/
theorem smGet_above {α : Type} (d : α) {m : SMap α} {a b : Nat} (h : (m.all fun e => decide (e.1 < a)) = true) (hb : a ≤ b) :
    smGet d m b = d := by
  induction m with
  | nil => rfl
  | cons e m ih =>
    rw [List.all_cons, Bool.and_eq_true, decide_eq_true_eq] at h
    have : e.1 ≠ b := by omega
    simpa [smGet, smFind, this] using ih h.2

end Sys2Proof.Machine
end

