-- ==== Sys2Proof/Laws/State.lean ====
section
/-! SUPPORT. What the plain updates of the state and of a context leave in each field: one lemma per field and update, true
by rfl, so that no proof unfolds a record update. -/

namespace Sys2Proof.Machine

/-! ## setCtx -/

@[simp] theorem State.setCtx_agenda (s : State) (n : Nat) (c : Ctx) : (s.setCtx n c).agenda = s.agenda := rfl
@[simp] theorem State.setCtx_cur (s : State) (n : Nat) (c : Ctx) : (s.setCtx n c).cur = s.cur := rfl
@[simp] theorem State.setCtx_issued (s : State) (n : Nat) (c : Ctx) : (s.setCtx n c).issued = s.issued := rfl
@[simp] theorem State.setCtx_lastCtx (s : State) (n : Nat) (c : Ctx) : (s.setCtx n c).lastCtx = s.lastCtx := rfl
@[simp] theorem State.setCtx_free (s : State) (n : Nat) (c : Ctx) : (s.setCtx n c).free = s.free := rfl
@[simp] theorem State.setCtx_cycle (s : State) (n : Nat) (c : Ctx) : (s.setCtx n c).cycle = s.cycle := rfl
@[simp] theorem State.setCtx_ticks (s : State) (n : Nat) (c : Ctx) : (s.setCtx n c).ticks = s.ticks := rfl
@[simp] theorem State.setCtx_mem (s : State) (n : Nat) (c : Ctx) : (s.setCtx n c).mem = s.mem := rfl
@[simp] theorem State.setCtx_memPoison (s : State) (n : Nat) (c : Ctx) : (s.setCtx n c).memPoison = s.memPoison := rfl
@[simp] theorem State.setCtx_sp (s : State) (n : Nat) (c : Ctx) : (s.setCtx n c).sp = s.sp := rfl
@[simp] theorem State.setCtx_spPoison (s : State) (n : Nat) (c : Ctx) : (s.setCtx n c).spPoison = s.spPoison := rfl
@[simp] theorem State.setCtx_twl (s : State) (n : Nat) (c : Ctx) : (s.setCtx n c).twl = s.twl := rfl
@[simp] theorem State.setCtx_home (s : State) (n : Nat) (c : Ctx) : (s.setCtx n c).home = s.home := rfl
@[simp] theorem State.setCtx_writes (s : State) (n : Nat) (c : Ctx) : (s.setCtx n c).writes = s.writes := rfl
@[simp] theorem State.setCtx_moment (s : State) (n : Nat) (c : Ctx) : (s.setCtx n c).moment = s.moment := rfl
@[simp] theorem State.setCtx_lags (s : State) (n : Nat) (c : Ctx) : (s.setCtx n c).lags = s.lags := rfl
@[simp] theorem State.setCtx_twlPoison (s : State) (n : Nat) (c : Ctx) : (s.setCtx n c).twlPoison = s.twlPoison := rfl
@[simp] theorem State.setCtx_slices (s : State) (n : Nat) (c : Ctx) : (s.setCtx n c).slices = s.slices := rfl
@[simp] theorem State.setCtx_slicePoison (s : State) (n : Nat) (c : Ctx) : (s.setCtx n c).slicePoison = s.slicePoison := rfl
@[simp] theorem State.setCtx_preds (s : State) (n : Nat) (c : Ctx) : (s.setCtx n c).preds = s.preds := rfl
@[simp] theorem State.setCtx_tiles (s : State) (n : Nat) (c : Ctx) : (s.setCtx n c).tiles = s.tiles := rfl
@[simp] theorem State.setCtx_idxs (s : State) (n : Nat) (c : Ctx) : (s.setCtx n c).idxs = s.idxs := rfl
@[simp] theorem State.setCtx_accs (s : State) (n : Nat) (c : Ctx) : (s.setCtx n c).accs = s.accs := rfl
@[simp] theorem State.setCtx_tilePoison (s : State) (n : Nat) (c : Ctx) : (s.setCtx n c).tilePoison = s.tilePoison := rfl
@[simp] theorem State.setCtx_parked (s : State) (n : Nat) (c : Ctx) : (s.setCtx n c).parked = s.parked := rfl
@[simp] theorem State.setCtx_ended (s : State) (n : Nat) (c : Ctx) : (s.setCtx n c).ended = s.ended := rfl
@[simp] theorem State.setCtx_clusters (s : State) (n : Nat) (c : Ctx) : (s.setCtx n c).clusters = s.clusters := rfl
@[simp] theorem State.setCtx_pms (s : State) (n : Nat) (c : Ctx) : (s.setCtx n c).pms = s.pms := rfl
@[simp] theorem State.setCtx_queues (s : State) (n : Nat) (c : Ctx) : (s.setCtx n c).queues = s.queues := rfl
@[simp] theorem State.setCtx_slots (s : State) (n : Nat) (c : Ctx) : (s.setCtx n c).slots = s.slots := rfl
@[simp] theorem State.setCtx_boundary (s : State) (n : Nat) (c : Ctx) : (s.setCtx n c).boundary = s.boundary := rfl
@[simp] theorem State.setCtx_gangs (s : State) (n : Nat) (c : Ctx) : (s.setCtx n c).gangs = s.gangs := rfl
@[simp] theorem State.setCtx_recs (s : State) (n : Nat) (c : Ctx) : (s.setCtx n c).recs = s.recs := rfl
@[simp] theorem State.setCtx_nextId (s : State) (n : Nat) (c : Ctx) : (s.setCtx n c).nextId = s.nextId := rfl
@[simp] theorem State.setCtx_tlbs (s : State) (n : Nat) (c : Ctx) : (s.setCtx n c).tlbs = s.tlbs := rfl
@[simp] theorem State.setCtx_walks (s : State) (n : Nat) (c : Ctx) : (s.setCtx n c).walks = s.walks := rfl
@[simp] theorem State.setCtx_requests (s : State) (n : Nat) (c : Ctx) : (s.setCtx n c).requests = s.requests := rfl
@[simp] theorem State.setCtx_unitAsks (s : State) (n : Nat) (c : Ctx) : (s.setCtx n c).unitAsks = s.unitAsks := rfl
@[simp] theorem State.setCtx_invals (s : State) (n : Nat) (c : Ctx) : (s.setCtx n c).invals = s.invals := rfl
@[simp] theorem State.setCtx_hot (s : State) (n : Nat) (c : Ctx) : (s.setCtx n c).hot = s.hot := rfl
@[simp] theorem State.setCtx_hdm (s : State) (n : Nat) (c : Ctx) : (s.setCtx n c).hdm = s.hdm := rfl
@[simp] theorem State.setCtx_interleave (s : State) (n : Nat) (c : Ctx) : (s.setCtx n c).interleave = s.interleave := rfl
@[simp] theorem State.setCtx_waiting (s : State) (n : Nat) (c : Ctx) : (s.setCtx n c).waiting = s.waiting := rfl
@[simp] theorem State.setCtx_xsets (s : State) (n : Nat) (c : Ctx) : (s.setCtx n c).xsets = s.xsets := rfl
@[simp] theorem State.setCtx_glox (s : State) (n : Nat) (c : Ctx) : (s.setCtx n c).glox = s.glox := rfl
@[simp] theorem State.setCtx_perf (s : State) (n : Nat) (c : Ctx) : (s.setCtx n c).perf = s.perf := rfl
@[simp] theorem State.setCtx_ras (s : State) (n : Nat) (c : Ctx) : (s.setCtx n c).ras = s.ras := rfl
@[simp] theorem State.setCtx_snap (s : State) (n : Nat) (c : Ctx) : (s.setCtx n c).snap = s.snap := rfl
@[simp] theorem State.setCtx_seq (s : State) (n : Nat) (c : Ctx) : (s.setCtx n c).seq = s.seq := rfl
@[simp] theorem State.setCtx_ctl (s : State) (n : Nat) (c : Ctx) : (s.setCtx n c).ctl = s.ctl := rfl
@[simp] theorem State.setCtx_fq (s : State) (n : Nat) (c : Ctx) : (s.setCtx n c).fq = s.fq := rfl
@[simp] theorem State.setCtx_nalo (s : State) (n : Nat) (c : Ctx) : (s.setCtx n c).nalo = s.nalo := rfl
@[simp] theorem State.setCtx_repair (s : State) (n : Nat) (c : Ctx) : (s.setCtx n c).repair = s.repair := rfl
@[simp] theorem State.setCtx_ctxs (s : State) (n : Nat) (c : Ctx) : (s.setCtx n c).ctxs = smPut n c s.ctxs := rfl

/-! ## setMe -/

@[simp] theorem State.setMe_agenda (s : State) (c : Ctx) : (s.setMe c).agenda = s.agenda := rfl
@[simp] theorem State.setMe_cur (s : State) (c : Ctx) : (s.setMe c).cur = s.cur := rfl
@[simp] theorem State.setMe_issued (s : State) (c : Ctx) : (s.setMe c).issued = s.issued := rfl
@[simp] theorem State.setMe_lastCtx (s : State) (c : Ctx) : (s.setMe c).lastCtx = s.lastCtx := rfl
@[simp] theorem State.setMe_free (s : State) (c : Ctx) : (s.setMe c).free = s.free := rfl
@[simp] theorem State.setMe_cycle (s : State) (c : Ctx) : (s.setMe c).cycle = s.cycle := rfl
@[simp] theorem State.setMe_ticks (s : State) (c : Ctx) : (s.setMe c).ticks = s.ticks := rfl
@[simp] theorem State.setMe_mem (s : State) (c : Ctx) : (s.setMe c).mem = s.mem := rfl
@[simp] theorem State.setMe_memPoison (s : State) (c : Ctx) : (s.setMe c).memPoison = s.memPoison := rfl
@[simp] theorem State.setMe_sp (s : State) (c : Ctx) : (s.setMe c).sp = s.sp := rfl
@[simp] theorem State.setMe_spPoison (s : State) (c : Ctx) : (s.setMe c).spPoison = s.spPoison := rfl
@[simp] theorem State.setMe_twl (s : State) (c : Ctx) : (s.setMe c).twl = s.twl := rfl
@[simp] theorem State.setMe_home (s : State) (c : Ctx) : (s.setMe c).home = s.home := rfl
@[simp] theorem State.setMe_writes (s : State) (c : Ctx) : (s.setMe c).writes = s.writes := rfl
@[simp] theorem State.setMe_moment (s : State) (c : Ctx) : (s.setMe c).moment = s.moment := rfl
@[simp] theorem State.setMe_lags (s : State) (c : Ctx) : (s.setMe c).lags = s.lags := rfl
@[simp] theorem State.setMe_twlPoison (s : State) (c : Ctx) : (s.setMe c).twlPoison = s.twlPoison := rfl
@[simp] theorem State.setMe_slices (s : State) (c : Ctx) : (s.setMe c).slices = s.slices := rfl
@[simp] theorem State.setMe_slicePoison (s : State) (c : Ctx) : (s.setMe c).slicePoison = s.slicePoison := rfl
@[simp] theorem State.setMe_preds (s : State) (c : Ctx) : (s.setMe c).preds = s.preds := rfl
@[simp] theorem State.setMe_tiles (s : State) (c : Ctx) : (s.setMe c).tiles = s.tiles := rfl
@[simp] theorem State.setMe_idxs (s : State) (c : Ctx) : (s.setMe c).idxs = s.idxs := rfl
@[simp] theorem State.setMe_accs (s : State) (c : Ctx) : (s.setMe c).accs = s.accs := rfl
@[simp] theorem State.setMe_tilePoison (s : State) (c : Ctx) : (s.setMe c).tilePoison = s.tilePoison := rfl
@[simp] theorem State.setMe_parked (s : State) (c : Ctx) : (s.setMe c).parked = s.parked := rfl
@[simp] theorem State.setMe_ended (s : State) (c : Ctx) : (s.setMe c).ended = s.ended := rfl
@[simp] theorem State.setMe_clusters (s : State) (c : Ctx) : (s.setMe c).clusters = s.clusters := rfl
@[simp] theorem State.setMe_pms (s : State) (c : Ctx) : (s.setMe c).pms = s.pms := rfl
@[simp] theorem State.setMe_queues (s : State) (c : Ctx) : (s.setMe c).queues = s.queues := rfl
@[simp] theorem State.setMe_slots (s : State) (c : Ctx) : (s.setMe c).slots = s.slots := rfl
@[simp] theorem State.setMe_boundary (s : State) (c : Ctx) : (s.setMe c).boundary = s.boundary := rfl
@[simp] theorem State.setMe_gangs (s : State) (c : Ctx) : (s.setMe c).gangs = s.gangs := rfl
@[simp] theorem State.setMe_recs (s : State) (c : Ctx) : (s.setMe c).recs = s.recs := rfl
@[simp] theorem State.setMe_nextId (s : State) (c : Ctx) : (s.setMe c).nextId = s.nextId := rfl
@[simp] theorem State.setMe_tlbs (s : State) (c : Ctx) : (s.setMe c).tlbs = s.tlbs := rfl
@[simp] theorem State.setMe_walks (s : State) (c : Ctx) : (s.setMe c).walks = s.walks := rfl
@[simp] theorem State.setMe_requests (s : State) (c : Ctx) : (s.setMe c).requests = s.requests := rfl
@[simp] theorem State.setMe_unitAsks (s : State) (c : Ctx) : (s.setMe c).unitAsks = s.unitAsks := rfl
@[simp] theorem State.setMe_invals (s : State) (c : Ctx) : (s.setMe c).invals = s.invals := rfl
@[simp] theorem State.setMe_hot (s : State) (c : Ctx) : (s.setMe c).hot = s.hot := rfl
@[simp] theorem State.setMe_hdm (s : State) (c : Ctx) : (s.setMe c).hdm = s.hdm := rfl
@[simp] theorem State.setMe_interleave (s : State) (c : Ctx) : (s.setMe c).interleave = s.interleave := rfl
@[simp] theorem State.setMe_waiting (s : State) (c : Ctx) : (s.setMe c).waiting = s.waiting := rfl
@[simp] theorem State.setMe_xsets (s : State) (c : Ctx) : (s.setMe c).xsets = s.xsets := rfl
@[simp] theorem State.setMe_glox (s : State) (c : Ctx) : (s.setMe c).glox = s.glox := rfl
@[simp] theorem State.setMe_perf (s : State) (c : Ctx) : (s.setMe c).perf = s.perf := rfl
@[simp] theorem State.setMe_ras (s : State) (c : Ctx) : (s.setMe c).ras = s.ras := rfl
@[simp] theorem State.setMe_snap (s : State) (c : Ctx) : (s.setMe c).snap = s.snap := rfl
@[simp] theorem State.setMe_seq (s : State) (c : Ctx) : (s.setMe c).seq = s.seq := rfl
@[simp] theorem State.setMe_ctl (s : State) (c : Ctx) : (s.setMe c).ctl = s.ctl := rfl
@[simp] theorem State.setMe_fq (s : State) (c : Ctx) : (s.setMe c).fq = s.fq := rfl
@[simp] theorem State.setMe_nalo (s : State) (c : Ctx) : (s.setMe c).nalo = s.nalo := rfl
@[simp] theorem State.setMe_repair (s : State) (c : Ctx) : (s.setMe c).repair = s.repair := rfl
@[simp] theorem State.setMe_ctxs (s : State) (c : Ctx) : (s.setMe c).ctxs = smPut s.cur c s.ctxs := rfl

/-! ## setCl -/

@[simp] theorem State.setCl_agenda (s : State) (n : Nat) (c : Cluster) : (s.setCl n c).agenda = s.agenda := rfl
@[simp] theorem State.setCl_cur (s : State) (n : Nat) (c : Cluster) : (s.setCl n c).cur = s.cur := rfl
@[simp] theorem State.setCl_issued (s : State) (n : Nat) (c : Cluster) : (s.setCl n c).issued = s.issued := rfl
@[simp] theorem State.setCl_lastCtx (s : State) (n : Nat) (c : Cluster) : (s.setCl n c).lastCtx = s.lastCtx := rfl
@[simp] theorem State.setCl_free (s : State) (n : Nat) (c : Cluster) : (s.setCl n c).free = s.free := rfl
@[simp] theorem State.setCl_cycle (s : State) (n : Nat) (c : Cluster) : (s.setCl n c).cycle = s.cycle := rfl
@[simp] theorem State.setCl_ticks (s : State) (n : Nat) (c : Cluster) : (s.setCl n c).ticks = s.ticks := rfl
@[simp] theorem State.setCl_mem (s : State) (n : Nat) (c : Cluster) : (s.setCl n c).mem = s.mem := rfl
@[simp] theorem State.setCl_memPoison (s : State) (n : Nat) (c : Cluster) : (s.setCl n c).memPoison = s.memPoison := rfl
@[simp] theorem State.setCl_sp (s : State) (n : Nat) (c : Cluster) : (s.setCl n c).sp = s.sp := rfl
@[simp] theorem State.setCl_spPoison (s : State) (n : Nat) (c : Cluster) : (s.setCl n c).spPoison = s.spPoison := rfl
@[simp] theorem State.setCl_twl (s : State) (n : Nat) (c : Cluster) : (s.setCl n c).twl = s.twl := rfl
@[simp] theorem State.setCl_home (s : State) (n : Nat) (c : Cluster) : (s.setCl n c).home = s.home := rfl
@[simp] theorem State.setCl_writes (s : State) (n : Nat) (c : Cluster) : (s.setCl n c).writes = s.writes := rfl
@[simp] theorem State.setCl_moment (s : State) (n : Nat) (c : Cluster) : (s.setCl n c).moment = s.moment := rfl
@[simp] theorem State.setCl_lags (s : State) (n : Nat) (c : Cluster) : (s.setCl n c).lags = s.lags := rfl
@[simp] theorem State.setCl_twlPoison (s : State) (n : Nat) (c : Cluster) : (s.setCl n c).twlPoison = s.twlPoison := rfl
@[simp] theorem State.setCl_slices (s : State) (n : Nat) (c : Cluster) : (s.setCl n c).slices = s.slices := rfl
@[simp] theorem State.setCl_slicePoison (s : State) (n : Nat) (c : Cluster) : (s.setCl n c).slicePoison = s.slicePoison := rfl
@[simp] theorem State.setCl_preds (s : State) (n : Nat) (c : Cluster) : (s.setCl n c).preds = s.preds := rfl
@[simp] theorem State.setCl_tiles (s : State) (n : Nat) (c : Cluster) : (s.setCl n c).tiles = s.tiles := rfl
@[simp] theorem State.setCl_idxs (s : State) (n : Nat) (c : Cluster) : (s.setCl n c).idxs = s.idxs := rfl
@[simp] theorem State.setCl_accs (s : State) (n : Nat) (c : Cluster) : (s.setCl n c).accs = s.accs := rfl
@[simp] theorem State.setCl_tilePoison (s : State) (n : Nat) (c : Cluster) : (s.setCl n c).tilePoison = s.tilePoison := rfl
@[simp] theorem State.setCl_ctxs (s : State) (n : Nat) (c : Cluster) : (s.setCl n c).ctxs = s.ctxs := rfl
@[simp] theorem State.setCl_parked (s : State) (n : Nat) (c : Cluster) : (s.setCl n c).parked = s.parked := rfl
@[simp] theorem State.setCl_ended (s : State) (n : Nat) (c : Cluster) : (s.setCl n c).ended = s.ended := rfl
@[simp] theorem State.setCl_pms (s : State) (n : Nat) (c : Cluster) : (s.setCl n c).pms = s.pms := rfl
@[simp] theorem State.setCl_queues (s : State) (n : Nat) (c : Cluster) : (s.setCl n c).queues = s.queues := rfl
@[simp] theorem State.setCl_slots (s : State) (n : Nat) (c : Cluster) : (s.setCl n c).slots = s.slots := rfl
@[simp] theorem State.setCl_boundary (s : State) (n : Nat) (c : Cluster) : (s.setCl n c).boundary = s.boundary := rfl
@[simp] theorem State.setCl_gangs (s : State) (n : Nat) (c : Cluster) : (s.setCl n c).gangs = s.gangs := rfl
@[simp] theorem State.setCl_recs (s : State) (n : Nat) (c : Cluster) : (s.setCl n c).recs = s.recs := rfl
@[simp] theorem State.setCl_nextId (s : State) (n : Nat) (c : Cluster) : (s.setCl n c).nextId = s.nextId := rfl
@[simp] theorem State.setCl_tlbs (s : State) (n : Nat) (c : Cluster) : (s.setCl n c).tlbs = s.tlbs := rfl
@[simp] theorem State.setCl_walks (s : State) (n : Nat) (c : Cluster) : (s.setCl n c).walks = s.walks := rfl
@[simp] theorem State.setCl_requests (s : State) (n : Nat) (c : Cluster) : (s.setCl n c).requests = s.requests := rfl
@[simp] theorem State.setCl_unitAsks (s : State) (n : Nat) (c : Cluster) : (s.setCl n c).unitAsks = s.unitAsks := rfl
@[simp] theorem State.setCl_invals (s : State) (n : Nat) (c : Cluster) : (s.setCl n c).invals = s.invals := rfl
@[simp] theorem State.setCl_hot (s : State) (n : Nat) (c : Cluster) : (s.setCl n c).hot = s.hot := rfl
@[simp] theorem State.setCl_hdm (s : State) (n : Nat) (c : Cluster) : (s.setCl n c).hdm = s.hdm := rfl
@[simp] theorem State.setCl_interleave (s : State) (n : Nat) (c : Cluster) : (s.setCl n c).interleave = s.interleave := rfl
@[simp] theorem State.setCl_waiting (s : State) (n : Nat) (c : Cluster) : (s.setCl n c).waiting = s.waiting := rfl
@[simp] theorem State.setCl_xsets (s : State) (n : Nat) (c : Cluster) : (s.setCl n c).xsets = s.xsets := rfl
@[simp] theorem State.setCl_glox (s : State) (n : Nat) (c : Cluster) : (s.setCl n c).glox = s.glox := rfl
@[simp] theorem State.setCl_perf (s : State) (n : Nat) (c : Cluster) : (s.setCl n c).perf = s.perf := rfl
@[simp] theorem State.setCl_ras (s : State) (n : Nat) (c : Cluster) : (s.setCl n c).ras = s.ras := rfl
@[simp] theorem State.setCl_snap (s : State) (n : Nat) (c : Cluster) : (s.setCl n c).snap = s.snap := rfl
@[simp] theorem State.setCl_seq (s : State) (n : Nat) (c : Cluster) : (s.setCl n c).seq = s.seq := rfl
@[simp] theorem State.setCl_ctl (s : State) (n : Nat) (c : Cluster) : (s.setCl n c).ctl = s.ctl := rfl
@[simp] theorem State.setCl_fq (s : State) (n : Nat) (c : Cluster) : (s.setCl n c).fq = s.fq := rfl
@[simp] theorem State.setCl_nalo (s : State) (n : Nat) (c : Cluster) : (s.setCl n c).nalo = s.nalo := rfl
@[simp] theorem State.setCl_repair (s : State) (n : Nat) (c : Cluster) : (s.setCl n c).repair = s.repair := rfl
@[simp] theorem State.setCl_clusters (s : State) (n : Nat) (c : Cluster) : (s.setCl n c).clusters = smPut n c s.clusters := rfl

/-! ## setXSet -/

@[simp] theorem State.setXSet_agenda (s : State) (n : Nat) (x : XSet) : (s.setXSet n x).agenda = s.agenda := rfl
@[simp] theorem State.setXSet_cur (s : State) (n : Nat) (x : XSet) : (s.setXSet n x).cur = s.cur := rfl
@[simp] theorem State.setXSet_issued (s : State) (n : Nat) (x : XSet) : (s.setXSet n x).issued = s.issued := rfl
@[simp] theorem State.setXSet_lastCtx (s : State) (n : Nat) (x : XSet) : (s.setXSet n x).lastCtx = s.lastCtx := rfl
@[simp] theorem State.setXSet_free (s : State) (n : Nat) (x : XSet) : (s.setXSet n x).free = s.free := rfl
@[simp] theorem State.setXSet_cycle (s : State) (n : Nat) (x : XSet) : (s.setXSet n x).cycle = s.cycle := rfl
@[simp] theorem State.setXSet_ticks (s : State) (n : Nat) (x : XSet) : (s.setXSet n x).ticks = s.ticks := rfl
@[simp] theorem State.setXSet_mem (s : State) (n : Nat) (x : XSet) : (s.setXSet n x).mem = s.mem := rfl
@[simp] theorem State.setXSet_memPoison (s : State) (n : Nat) (x : XSet) : (s.setXSet n x).memPoison = s.memPoison := rfl
@[simp] theorem State.setXSet_sp (s : State) (n : Nat) (x : XSet) : (s.setXSet n x).sp = s.sp := rfl
@[simp] theorem State.setXSet_spPoison (s : State) (n : Nat) (x : XSet) : (s.setXSet n x).spPoison = s.spPoison := rfl
@[simp] theorem State.setXSet_twl (s : State) (n : Nat) (x : XSet) : (s.setXSet n x).twl = s.twl := rfl
@[simp] theorem State.setXSet_home (s : State) (n : Nat) (x : XSet) : (s.setXSet n x).home = s.home := rfl
@[simp] theorem State.setXSet_writes (s : State) (n : Nat) (x : XSet) : (s.setXSet n x).writes = s.writes := rfl
@[simp] theorem State.setXSet_moment (s : State) (n : Nat) (x : XSet) : (s.setXSet n x).moment = s.moment := rfl
@[simp] theorem State.setXSet_lags (s : State) (n : Nat) (x : XSet) : (s.setXSet n x).lags = s.lags := rfl
@[simp] theorem State.setXSet_twlPoison (s : State) (n : Nat) (x : XSet) : (s.setXSet n x).twlPoison = s.twlPoison := rfl
@[simp] theorem State.setXSet_slices (s : State) (n : Nat) (x : XSet) : (s.setXSet n x).slices = s.slices := rfl
@[simp] theorem State.setXSet_slicePoison (s : State) (n : Nat) (x : XSet) : (s.setXSet n x).slicePoison = s.slicePoison := rfl
@[simp] theorem State.setXSet_preds (s : State) (n : Nat) (x : XSet) : (s.setXSet n x).preds = s.preds := rfl
@[simp] theorem State.setXSet_tiles (s : State) (n : Nat) (x : XSet) : (s.setXSet n x).tiles = s.tiles := rfl
@[simp] theorem State.setXSet_idxs (s : State) (n : Nat) (x : XSet) : (s.setXSet n x).idxs = s.idxs := rfl
@[simp] theorem State.setXSet_accs (s : State) (n : Nat) (x : XSet) : (s.setXSet n x).accs = s.accs := rfl
@[simp] theorem State.setXSet_tilePoison (s : State) (n : Nat) (x : XSet) : (s.setXSet n x).tilePoison = s.tilePoison := rfl
@[simp] theorem State.setXSet_ctxs (s : State) (n : Nat) (x : XSet) : (s.setXSet n x).ctxs = s.ctxs := rfl
@[simp] theorem State.setXSet_parked (s : State) (n : Nat) (x : XSet) : (s.setXSet n x).parked = s.parked := rfl
@[simp] theorem State.setXSet_ended (s : State) (n : Nat) (x : XSet) : (s.setXSet n x).ended = s.ended := rfl
@[simp] theorem State.setXSet_clusters (s : State) (n : Nat) (x : XSet) : (s.setXSet n x).clusters = s.clusters := rfl
@[simp] theorem State.setXSet_pms (s : State) (n : Nat) (x : XSet) : (s.setXSet n x).pms = s.pms := rfl
@[simp] theorem State.setXSet_queues (s : State) (n : Nat) (x : XSet) : (s.setXSet n x).queues = s.queues := rfl
@[simp] theorem State.setXSet_slots (s : State) (n : Nat) (x : XSet) : (s.setXSet n x).slots = s.slots := rfl
@[simp] theorem State.setXSet_boundary (s : State) (n : Nat) (x : XSet) : (s.setXSet n x).boundary = s.boundary := rfl
@[simp] theorem State.setXSet_gangs (s : State) (n : Nat) (x : XSet) : (s.setXSet n x).gangs = s.gangs := rfl
@[simp] theorem State.setXSet_recs (s : State) (n : Nat) (x : XSet) : (s.setXSet n x).recs = s.recs := rfl
@[simp] theorem State.setXSet_nextId (s : State) (n : Nat) (x : XSet) : (s.setXSet n x).nextId = s.nextId := rfl
@[simp] theorem State.setXSet_tlbs (s : State) (n : Nat) (x : XSet) : (s.setXSet n x).tlbs = s.tlbs := rfl
@[simp] theorem State.setXSet_walks (s : State) (n : Nat) (x : XSet) : (s.setXSet n x).walks = s.walks := rfl
@[simp] theorem State.setXSet_requests (s : State) (n : Nat) (x : XSet) : (s.setXSet n x).requests = s.requests := rfl
@[simp] theorem State.setXSet_unitAsks (s : State) (n : Nat) (x : XSet) : (s.setXSet n x).unitAsks = s.unitAsks := rfl
@[simp] theorem State.setXSet_invals (s : State) (n : Nat) (x : XSet) : (s.setXSet n x).invals = s.invals := rfl
@[simp] theorem State.setXSet_hot (s : State) (n : Nat) (x : XSet) : (s.setXSet n x).hot = s.hot := rfl
@[simp] theorem State.setXSet_hdm (s : State) (n : Nat) (x : XSet) : (s.setXSet n x).hdm = s.hdm := rfl
@[simp] theorem State.setXSet_interleave (s : State) (n : Nat) (x : XSet) : (s.setXSet n x).interleave = s.interleave := rfl
@[simp] theorem State.setXSet_waiting (s : State) (n : Nat) (x : XSet) : (s.setXSet n x).waiting = s.waiting := rfl
@[simp] theorem State.setXSet_glox (s : State) (n : Nat) (x : XSet) : (s.setXSet n x).glox = s.glox := rfl
@[simp] theorem State.setXSet_perf (s : State) (n : Nat) (x : XSet) : (s.setXSet n x).perf = s.perf := rfl
@[simp] theorem State.setXSet_ras (s : State) (n : Nat) (x : XSet) : (s.setXSet n x).ras = s.ras := rfl
@[simp] theorem State.setXSet_snap (s : State) (n : Nat) (x : XSet) : (s.setXSet n x).snap = s.snap := rfl
@[simp] theorem State.setXSet_seq (s : State) (n : Nat) (x : XSet) : (s.setXSet n x).seq = s.seq := rfl
@[simp] theorem State.setXSet_ctl (s : State) (n : Nat) (x : XSet) : (s.setXSet n x).ctl = s.ctl := rfl
@[simp] theorem State.setXSet_fq (s : State) (n : Nat) (x : XSet) : (s.setXSet n x).fq = s.fq := rfl
@[simp] theorem State.setXSet_nalo (s : State) (n : Nat) (x : XSet) : (s.setXSet n x).nalo = s.nalo := rfl
@[simp] theorem State.setXSet_repair (s : State) (n : Nat) (x : XSet) : (s.setXSet n x).repair = s.repair := rfl
@[simp] theorem State.setXSet_xsets (s : State) (n : Nat) (x : XSet) : (s.setXSet n x).xsets = smPut n x s.xsets := rfl

/-! ## setQueue -/

@[simp] theorem State.setQueue_agenda (s : State) (n : Nat) (q : Queue) : (s.setQueue n q).agenda = s.agenda := rfl
@[simp] theorem State.setQueue_cur (s : State) (n : Nat) (q : Queue) : (s.setQueue n q).cur = s.cur := rfl
@[simp] theorem State.setQueue_issued (s : State) (n : Nat) (q : Queue) : (s.setQueue n q).issued = s.issued := rfl
@[simp] theorem State.setQueue_lastCtx (s : State) (n : Nat) (q : Queue) : (s.setQueue n q).lastCtx = s.lastCtx := rfl
@[simp] theorem State.setQueue_free (s : State) (n : Nat) (q : Queue) : (s.setQueue n q).free = s.free := rfl
@[simp] theorem State.setQueue_cycle (s : State) (n : Nat) (q : Queue) : (s.setQueue n q).cycle = s.cycle := rfl
@[simp] theorem State.setQueue_ticks (s : State) (n : Nat) (q : Queue) : (s.setQueue n q).ticks = s.ticks := rfl
@[simp] theorem State.setQueue_mem (s : State) (n : Nat) (q : Queue) : (s.setQueue n q).mem = s.mem := rfl
@[simp] theorem State.setQueue_memPoison (s : State) (n : Nat) (q : Queue) : (s.setQueue n q).memPoison = s.memPoison := rfl
@[simp] theorem State.setQueue_sp (s : State) (n : Nat) (q : Queue) : (s.setQueue n q).sp = s.sp := rfl
@[simp] theorem State.setQueue_spPoison (s : State) (n : Nat) (q : Queue) : (s.setQueue n q).spPoison = s.spPoison := rfl
@[simp] theorem State.setQueue_twl (s : State) (n : Nat) (q : Queue) : (s.setQueue n q).twl = s.twl := rfl
@[simp] theorem State.setQueue_home (s : State) (n : Nat) (q : Queue) : (s.setQueue n q).home = s.home := rfl
@[simp] theorem State.setQueue_writes (s : State) (n : Nat) (q : Queue) : (s.setQueue n q).writes = s.writes := rfl
@[simp] theorem State.setQueue_moment (s : State) (n : Nat) (q : Queue) : (s.setQueue n q).moment = s.moment := rfl
@[simp] theorem State.setQueue_lags (s : State) (n : Nat) (q : Queue) : (s.setQueue n q).lags = s.lags := rfl
@[simp] theorem State.setQueue_twlPoison (s : State) (n : Nat) (q : Queue) : (s.setQueue n q).twlPoison = s.twlPoison := rfl
@[simp] theorem State.setQueue_slices (s : State) (n : Nat) (q : Queue) : (s.setQueue n q).slices = s.slices := rfl
@[simp] theorem State.setQueue_slicePoison (s : State) (n : Nat) (q : Queue) : (s.setQueue n q).slicePoison = s.slicePoison := rfl
@[simp] theorem State.setQueue_preds (s : State) (n : Nat) (q : Queue) : (s.setQueue n q).preds = s.preds := rfl
@[simp] theorem State.setQueue_tiles (s : State) (n : Nat) (q : Queue) : (s.setQueue n q).tiles = s.tiles := rfl
@[simp] theorem State.setQueue_idxs (s : State) (n : Nat) (q : Queue) : (s.setQueue n q).idxs = s.idxs := rfl
@[simp] theorem State.setQueue_accs (s : State) (n : Nat) (q : Queue) : (s.setQueue n q).accs = s.accs := rfl
@[simp] theorem State.setQueue_tilePoison (s : State) (n : Nat) (q : Queue) : (s.setQueue n q).tilePoison = s.tilePoison := rfl
@[simp] theorem State.setQueue_ctxs (s : State) (n : Nat) (q : Queue) : (s.setQueue n q).ctxs = s.ctxs := rfl
@[simp] theorem State.setQueue_parked (s : State) (n : Nat) (q : Queue) : (s.setQueue n q).parked = s.parked := rfl
@[simp] theorem State.setQueue_ended (s : State) (n : Nat) (q : Queue) : (s.setQueue n q).ended = s.ended := rfl
@[simp] theorem State.setQueue_clusters (s : State) (n : Nat) (q : Queue) : (s.setQueue n q).clusters = s.clusters := rfl
@[simp] theorem State.setQueue_pms (s : State) (n : Nat) (q : Queue) : (s.setQueue n q).pms = s.pms := rfl
@[simp] theorem State.setQueue_slots (s : State) (n : Nat) (q : Queue) : (s.setQueue n q).slots = s.slots := rfl
@[simp] theorem State.setQueue_boundary (s : State) (n : Nat) (q : Queue) : (s.setQueue n q).boundary = s.boundary := rfl
@[simp] theorem State.setQueue_gangs (s : State) (n : Nat) (q : Queue) : (s.setQueue n q).gangs = s.gangs := rfl
@[simp] theorem State.setQueue_recs (s : State) (n : Nat) (q : Queue) : (s.setQueue n q).recs = s.recs := rfl
@[simp] theorem State.setQueue_nextId (s : State) (n : Nat) (q : Queue) : (s.setQueue n q).nextId = s.nextId := rfl
@[simp] theorem State.setQueue_tlbs (s : State) (n : Nat) (q : Queue) : (s.setQueue n q).tlbs = s.tlbs := rfl
@[simp] theorem State.setQueue_walks (s : State) (n : Nat) (q : Queue) : (s.setQueue n q).walks = s.walks := rfl
@[simp] theorem State.setQueue_requests (s : State) (n : Nat) (q : Queue) : (s.setQueue n q).requests = s.requests := rfl
@[simp] theorem State.setQueue_unitAsks (s : State) (n : Nat) (q : Queue) : (s.setQueue n q).unitAsks = s.unitAsks := rfl
@[simp] theorem State.setQueue_invals (s : State) (n : Nat) (q : Queue) : (s.setQueue n q).invals = s.invals := rfl
@[simp] theorem State.setQueue_hot (s : State) (n : Nat) (q : Queue) : (s.setQueue n q).hot = s.hot := rfl
@[simp] theorem State.setQueue_hdm (s : State) (n : Nat) (q : Queue) : (s.setQueue n q).hdm = s.hdm := rfl
@[simp] theorem State.setQueue_interleave (s : State) (n : Nat) (q : Queue) : (s.setQueue n q).interleave = s.interleave := rfl
@[simp] theorem State.setQueue_waiting (s : State) (n : Nat) (q : Queue) : (s.setQueue n q).waiting = s.waiting := rfl
@[simp] theorem State.setQueue_xsets (s : State) (n : Nat) (q : Queue) : (s.setQueue n q).xsets = s.xsets := rfl
@[simp] theorem State.setQueue_glox (s : State) (n : Nat) (q : Queue) : (s.setQueue n q).glox = s.glox := rfl
@[simp] theorem State.setQueue_perf (s : State) (n : Nat) (q : Queue) : (s.setQueue n q).perf = s.perf := rfl
@[simp] theorem State.setQueue_ras (s : State) (n : Nat) (q : Queue) : (s.setQueue n q).ras = s.ras := rfl
@[simp] theorem State.setQueue_snap (s : State) (n : Nat) (q : Queue) : (s.setQueue n q).snap = s.snap := rfl
@[simp] theorem State.setQueue_seq (s : State) (n : Nat) (q : Queue) : (s.setQueue n q).seq = s.seq := rfl
@[simp] theorem State.setQueue_ctl (s : State) (n : Nat) (q : Queue) : (s.setQueue n q).ctl = s.ctl := rfl
@[simp] theorem State.setQueue_fq (s : State) (n : Nat) (q : Queue) : (s.setQueue n q).fq = s.fq := rfl
@[simp] theorem State.setQueue_nalo (s : State) (n : Nat) (q : Queue) : (s.setQueue n q).nalo = s.nalo := rfl
@[simp] theorem State.setQueue_repair (s : State) (n : Nat) (q : Queue) : (s.setQueue n q).repair = s.repair := rfl
@[simp] theorem State.setQueue_queues (s : State) (n : Nat) (q : Queue) : (s.setQueue n q).queues = smPut n q s.queues := rfl

/-! ## writeByte -/

@[simp] theorem State.writeByte_agenda (s : State) (pa : Nat) (b : Byte) : (s.writeByte pa b).agenda = s.agenda := rfl
@[simp] theorem State.writeByte_cur (s : State) (pa : Nat) (b : Byte) : (s.writeByte pa b).cur = s.cur := rfl
@[simp] theorem State.writeByte_issued (s : State) (pa : Nat) (b : Byte) : (s.writeByte pa b).issued = s.issued := rfl
@[simp] theorem State.writeByte_lastCtx (s : State) (pa : Nat) (b : Byte) : (s.writeByte pa b).lastCtx = s.lastCtx := rfl
@[simp] theorem State.writeByte_free (s : State) (pa : Nat) (b : Byte) : (s.writeByte pa b).free = s.free := rfl
@[simp] theorem State.writeByte_cycle (s : State) (pa : Nat) (b : Byte) : (s.writeByte pa b).cycle = s.cycle := rfl
@[simp] theorem State.writeByte_ticks (s : State) (pa : Nat) (b : Byte) : (s.writeByte pa b).ticks = s.ticks := rfl
@[simp] theorem State.writeByte_memPoison (s : State) (pa : Nat) (b : Byte) : (s.writeByte pa b).memPoison = s.memPoison := rfl
@[simp] theorem State.writeByte_sp (s : State) (pa : Nat) (b : Byte) : (s.writeByte pa b).sp = s.sp := rfl
@[simp] theorem State.writeByte_spPoison (s : State) (pa : Nat) (b : Byte) : (s.writeByte pa b).spPoison = s.spPoison := rfl
@[simp] theorem State.writeByte_twl (s : State) (pa : Nat) (b : Byte) : (s.writeByte pa b).twl = s.twl := rfl
@[simp] theorem State.writeByte_moment (s : State) (pa : Nat) (b : Byte) : (s.writeByte pa b).moment = s.moment := rfl
@[simp] theorem State.writeByte_lags (s : State) (pa : Nat) (b : Byte) : (s.writeByte pa b).lags = s.lags := rfl
@[simp] theorem State.writeByte_twlPoison (s : State) (pa : Nat) (b : Byte) : (s.writeByte pa b).twlPoison = s.twlPoison := rfl
@[simp] theorem State.writeByte_slices (s : State) (pa : Nat) (b : Byte) : (s.writeByte pa b).slices = s.slices := rfl
@[simp] theorem State.writeByte_slicePoison (s : State) (pa : Nat) (b : Byte) : (s.writeByte pa b).slicePoison = s.slicePoison := rfl
@[simp] theorem State.writeByte_preds (s : State) (pa : Nat) (b : Byte) : (s.writeByte pa b).preds = s.preds := rfl
@[simp] theorem State.writeByte_tiles (s : State) (pa : Nat) (b : Byte) : (s.writeByte pa b).tiles = s.tiles := rfl
@[simp] theorem State.writeByte_idxs (s : State) (pa : Nat) (b : Byte) : (s.writeByte pa b).idxs = s.idxs := rfl
@[simp] theorem State.writeByte_accs (s : State) (pa : Nat) (b : Byte) : (s.writeByte pa b).accs = s.accs := rfl
@[simp] theorem State.writeByte_tilePoison (s : State) (pa : Nat) (b : Byte) : (s.writeByte pa b).tilePoison = s.tilePoison := rfl
@[simp] theorem State.writeByte_ctxs (s : State) (pa : Nat) (b : Byte) : (s.writeByte pa b).ctxs = s.ctxs := rfl
@[simp] theorem State.writeByte_parked (s : State) (pa : Nat) (b : Byte) : (s.writeByte pa b).parked = s.parked := rfl
@[simp] theorem State.writeByte_ended (s : State) (pa : Nat) (b : Byte) : (s.writeByte pa b).ended = s.ended := rfl
@[simp] theorem State.writeByte_clusters (s : State) (pa : Nat) (b : Byte) : (s.writeByte pa b).clusters = s.clusters := rfl
@[simp] theorem State.writeByte_pms (s : State) (pa : Nat) (b : Byte) : (s.writeByte pa b).pms = s.pms := rfl
@[simp] theorem State.writeByte_queues (s : State) (pa : Nat) (b : Byte) : (s.writeByte pa b).queues = s.queues := rfl
@[simp] theorem State.writeByte_slots (s : State) (pa : Nat) (b : Byte) : (s.writeByte pa b).slots = s.slots := rfl
@[simp] theorem State.writeByte_boundary (s : State) (pa : Nat) (b : Byte) : (s.writeByte pa b).boundary = s.boundary := rfl
@[simp] theorem State.writeByte_gangs (s : State) (pa : Nat) (b : Byte) : (s.writeByte pa b).gangs = s.gangs := rfl
@[simp] theorem State.writeByte_recs (s : State) (pa : Nat) (b : Byte) : (s.writeByte pa b).recs = s.recs := rfl
@[simp] theorem State.writeByte_nextId (s : State) (pa : Nat) (b : Byte) : (s.writeByte pa b).nextId = s.nextId := rfl
@[simp] theorem State.writeByte_tlbs (s : State) (pa : Nat) (b : Byte) : (s.writeByte pa b).tlbs = s.tlbs := rfl
@[simp] theorem State.writeByte_walks (s : State) (pa : Nat) (b : Byte) : (s.writeByte pa b).walks = s.walks := rfl
@[simp] theorem State.writeByte_requests (s : State) (pa : Nat) (b : Byte) : (s.writeByte pa b).requests = s.requests := rfl
@[simp] theorem State.writeByte_unitAsks (s : State) (pa : Nat) (b : Byte) : (s.writeByte pa b).unitAsks = s.unitAsks := rfl
@[simp] theorem State.writeByte_invals (s : State) (pa : Nat) (b : Byte) : (s.writeByte pa b).invals = s.invals := rfl
@[simp] theorem State.writeByte_hot (s : State) (pa : Nat) (b : Byte) : (s.writeByte pa b).hot = s.hot := rfl
@[simp] theorem State.writeByte_hdm (s : State) (pa : Nat) (b : Byte) : (s.writeByte pa b).hdm = s.hdm := rfl
@[simp] theorem State.writeByte_interleave (s : State) (pa : Nat) (b : Byte) : (s.writeByte pa b).interleave = s.interleave := rfl
@[simp] theorem State.writeByte_waiting (s : State) (pa : Nat) (b : Byte) : (s.writeByte pa b).waiting = s.waiting := rfl
@[simp] theorem State.writeByte_xsets (s : State) (pa : Nat) (b : Byte) : (s.writeByte pa b).xsets = s.xsets := rfl
@[simp] theorem State.writeByte_glox (s : State) (pa : Nat) (b : Byte) : (s.writeByte pa b).glox = s.glox := rfl
@[simp] theorem State.writeByte_perf (s : State) (pa : Nat) (b : Byte) : (s.writeByte pa b).perf = s.perf := rfl
@[simp] theorem State.writeByte_ras (s : State) (pa : Nat) (b : Byte) : (s.writeByte pa b).ras = s.ras := rfl
@[simp] theorem State.writeByte_snap (s : State) (pa : Nat) (b : Byte) : (s.writeByte pa b).snap = s.snap := rfl
@[simp] theorem State.writeByte_seq (s : State) (pa : Nat) (b : Byte) : (s.writeByte pa b).seq = s.seq := rfl
@[simp] theorem State.writeByte_ctl (s : State) (pa : Nat) (b : Byte) : (s.writeByte pa b).ctl = s.ctl := rfl
@[simp] theorem State.writeByte_fq (s : State) (pa : Nat) (b : Byte) : (s.writeByte pa b).fq = s.fq := rfl
@[simp] theorem State.writeByte_nalo (s : State) (pa : Nat) (b : Byte) : (s.writeByte pa b).nalo = s.nalo := rfl
@[simp] theorem State.writeByte_repair (s : State) (pa : Nat) (b : Byte) : (s.writeByte pa b).repair = s.repair := rfl
@[simp] theorem State.writeByte_mem (s : State) (pa : Nat) (b : Byte) : (s.writeByte pa b).mem = smSet 0 s.mem (s.cell pa) b := rfl
@[simp] theorem State.writeByte_home (s : State) (pa : Nat) (b : Byte) : (s.writeByte pa b).home = smDel (s.cell pa) s.home := rfl
@[simp] theorem State.writeByte_writes (s : State) (pa : Nat) (b : Byte) : (s.writeByte pa b).writes = forget false (fun k => decide (k = s.cell pa)) s.writes := rfl

/-! ## writeSp -/

@[simp] theorem State.writeSp_agenda (s : State) (cl a : Nat) (b : Byte) : (s.writeSp cl a b).agenda = s.agenda := rfl
@[simp] theorem State.writeSp_cur (s : State) (cl a : Nat) (b : Byte) : (s.writeSp cl a b).cur = s.cur := rfl
@[simp] theorem State.writeSp_issued (s : State) (cl a : Nat) (b : Byte) : (s.writeSp cl a b).issued = s.issued := rfl
@[simp] theorem State.writeSp_lastCtx (s : State) (cl a : Nat) (b : Byte) : (s.writeSp cl a b).lastCtx = s.lastCtx := rfl
@[simp] theorem State.writeSp_free (s : State) (cl a : Nat) (b : Byte) : (s.writeSp cl a b).free = s.free := rfl
@[simp] theorem State.writeSp_cycle (s : State) (cl a : Nat) (b : Byte) : (s.writeSp cl a b).cycle = s.cycle := rfl
@[simp] theorem State.writeSp_ticks (s : State) (cl a : Nat) (b : Byte) : (s.writeSp cl a b).ticks = s.ticks := rfl
@[simp] theorem State.writeSp_mem (s : State) (cl a : Nat) (b : Byte) : (s.writeSp cl a b).mem = s.mem := rfl
@[simp] theorem State.writeSp_memPoison (s : State) (cl a : Nat) (b : Byte) : (s.writeSp cl a b).memPoison = s.memPoison := rfl
@[simp] theorem State.writeSp_spPoison (s : State) (cl a : Nat) (b : Byte) : (s.writeSp cl a b).spPoison = s.spPoison := rfl
@[simp] theorem State.writeSp_twl (s : State) (cl a : Nat) (b : Byte) : (s.writeSp cl a b).twl = s.twl := rfl
@[simp] theorem State.writeSp_home (s : State) (cl a : Nat) (b : Byte) : (s.writeSp cl a b).home = s.home := rfl
@[simp] theorem State.writeSp_moment (s : State) (cl a : Nat) (b : Byte) : (s.writeSp cl a b).moment = s.moment := rfl
@[simp] theorem State.writeSp_lags (s : State) (cl a : Nat) (b : Byte) : (s.writeSp cl a b).lags = s.lags := rfl
@[simp] theorem State.writeSp_twlPoison (s : State) (cl a : Nat) (b : Byte) : (s.writeSp cl a b).twlPoison = s.twlPoison := rfl
@[simp] theorem State.writeSp_slices (s : State) (cl a : Nat) (b : Byte) : (s.writeSp cl a b).slices = s.slices := rfl
@[simp] theorem State.writeSp_slicePoison (s : State) (cl a : Nat) (b : Byte) : (s.writeSp cl a b).slicePoison = s.slicePoison := rfl
@[simp] theorem State.writeSp_preds (s : State) (cl a : Nat) (b : Byte) : (s.writeSp cl a b).preds = s.preds := rfl
@[simp] theorem State.writeSp_tiles (s : State) (cl a : Nat) (b : Byte) : (s.writeSp cl a b).tiles = s.tiles := rfl
@[simp] theorem State.writeSp_idxs (s : State) (cl a : Nat) (b : Byte) : (s.writeSp cl a b).idxs = s.idxs := rfl
@[simp] theorem State.writeSp_accs (s : State) (cl a : Nat) (b : Byte) : (s.writeSp cl a b).accs = s.accs := rfl
@[simp] theorem State.writeSp_tilePoison (s : State) (cl a : Nat) (b : Byte) : (s.writeSp cl a b).tilePoison = s.tilePoison := rfl
@[simp] theorem State.writeSp_ctxs (s : State) (cl a : Nat) (b : Byte) : (s.writeSp cl a b).ctxs = s.ctxs := rfl
@[simp] theorem State.writeSp_parked (s : State) (cl a : Nat) (b : Byte) : (s.writeSp cl a b).parked = s.parked := rfl
@[simp] theorem State.writeSp_ended (s : State) (cl a : Nat) (b : Byte) : (s.writeSp cl a b).ended = s.ended := rfl
@[simp] theorem State.writeSp_clusters (s : State) (cl a : Nat) (b : Byte) : (s.writeSp cl a b).clusters = s.clusters := rfl
@[simp] theorem State.writeSp_pms (s : State) (cl a : Nat) (b : Byte) : (s.writeSp cl a b).pms = s.pms := rfl
@[simp] theorem State.writeSp_queues (s : State) (cl a : Nat) (b : Byte) : (s.writeSp cl a b).queues = s.queues := rfl
@[simp] theorem State.writeSp_slots (s : State) (cl a : Nat) (b : Byte) : (s.writeSp cl a b).slots = s.slots := rfl
@[simp] theorem State.writeSp_boundary (s : State) (cl a : Nat) (b : Byte) : (s.writeSp cl a b).boundary = s.boundary := rfl
@[simp] theorem State.writeSp_gangs (s : State) (cl a : Nat) (b : Byte) : (s.writeSp cl a b).gangs = s.gangs := rfl
@[simp] theorem State.writeSp_recs (s : State) (cl a : Nat) (b : Byte) : (s.writeSp cl a b).recs = s.recs := rfl
@[simp] theorem State.writeSp_nextId (s : State) (cl a : Nat) (b : Byte) : (s.writeSp cl a b).nextId = s.nextId := rfl
@[simp] theorem State.writeSp_tlbs (s : State) (cl a : Nat) (b : Byte) : (s.writeSp cl a b).tlbs = s.tlbs := rfl
@[simp] theorem State.writeSp_walks (s : State) (cl a : Nat) (b : Byte) : (s.writeSp cl a b).walks = s.walks := rfl
@[simp] theorem State.writeSp_requests (s : State) (cl a : Nat) (b : Byte) : (s.writeSp cl a b).requests = s.requests := rfl
@[simp] theorem State.writeSp_unitAsks (s : State) (cl a : Nat) (b : Byte) : (s.writeSp cl a b).unitAsks = s.unitAsks := rfl
@[simp] theorem State.writeSp_invals (s : State) (cl a : Nat) (b : Byte) : (s.writeSp cl a b).invals = s.invals := rfl
@[simp] theorem State.writeSp_hot (s : State) (cl a : Nat) (b : Byte) : (s.writeSp cl a b).hot = s.hot := rfl
@[simp] theorem State.writeSp_hdm (s : State) (cl a : Nat) (b : Byte) : (s.writeSp cl a b).hdm = s.hdm := rfl
@[simp] theorem State.writeSp_interleave (s : State) (cl a : Nat) (b : Byte) : (s.writeSp cl a b).interleave = s.interleave := rfl
@[simp] theorem State.writeSp_waiting (s : State) (cl a : Nat) (b : Byte) : (s.writeSp cl a b).waiting = s.waiting := rfl
@[simp] theorem State.writeSp_xsets (s : State) (cl a : Nat) (b : Byte) : (s.writeSp cl a b).xsets = s.xsets := rfl
@[simp] theorem State.writeSp_glox (s : State) (cl a : Nat) (b : Byte) : (s.writeSp cl a b).glox = s.glox := rfl
@[simp] theorem State.writeSp_perf (s : State) (cl a : Nat) (b : Byte) : (s.writeSp cl a b).perf = s.perf := rfl
@[simp] theorem State.writeSp_ras (s : State) (cl a : Nat) (b : Byte) : (s.writeSp cl a b).ras = s.ras := rfl
@[simp] theorem State.writeSp_snap (s : State) (cl a : Nat) (b : Byte) : (s.writeSp cl a b).snap = s.snap := rfl
@[simp] theorem State.writeSp_seq (s : State) (cl a : Nat) (b : Byte) : (s.writeSp cl a b).seq = s.seq := rfl
@[simp] theorem State.writeSp_ctl (s : State) (cl a : Nat) (b : Byte) : (s.writeSp cl a b).ctl = s.ctl := rfl
@[simp] theorem State.writeSp_fq (s : State) (cl a : Nat) (b : Byte) : (s.writeSp cl a b).fq = s.fq := rfl
@[simp] theorem State.writeSp_nalo (s : State) (cl a : Nat) (b : Byte) : (s.writeSp cl a b).nalo = s.nalo := rfl
@[simp] theorem State.writeSp_repair (s : State) (cl a : Nat) (b : Byte) : (s.writeSp cl a b).repair = s.repair := rfl
@[simp] theorem State.writeSp_sp (s : State) (cl a : Nat) (b : Byte) : (s.writeSp cl a b).sp = smSet 0 s.sp (s.spCell cl a) b := rfl
@[simp] theorem State.writeSp_writes (s : State) (cl a : Nat) (b : Byte) : (s.writeSp cl a b).writes = forget true (fun k => decide (k = s.spCell cl a)) s.writes := rfl

/-! ## clearPoison -/

@[simp] theorem State.clearPoison_agenda (s : State) (pa n : Nat) : (s.clearPoison pa n).agenda = s.agenda := rfl
@[simp] theorem State.clearPoison_cur (s : State) (pa n : Nat) : (s.clearPoison pa n).cur = s.cur := rfl
@[simp] theorem State.clearPoison_issued (s : State) (pa n : Nat) : (s.clearPoison pa n).issued = s.issued := rfl
@[simp] theorem State.clearPoison_lastCtx (s : State) (pa n : Nat) : (s.clearPoison pa n).lastCtx = s.lastCtx := rfl
@[simp] theorem State.clearPoison_free (s : State) (pa n : Nat) : (s.clearPoison pa n).free = s.free := rfl
@[simp] theorem State.clearPoison_cycle (s : State) (pa n : Nat) : (s.clearPoison pa n).cycle = s.cycle := rfl
@[simp] theorem State.clearPoison_ticks (s : State) (pa n : Nat) : (s.clearPoison pa n).ticks = s.ticks := rfl
@[simp] theorem State.clearPoison_mem (s : State) (pa n : Nat) : (s.clearPoison pa n).mem = s.mem := rfl
@[simp] theorem State.clearPoison_sp (s : State) (pa n : Nat) : (s.clearPoison pa n).sp = s.sp := rfl
@[simp] theorem State.clearPoison_spPoison (s : State) (pa n : Nat) : (s.clearPoison pa n).spPoison = s.spPoison := rfl
@[simp] theorem State.clearPoison_twl (s : State) (pa n : Nat) : (s.clearPoison pa n).twl = s.twl := rfl
@[simp] theorem State.clearPoison_home (s : State) (pa n : Nat) : (s.clearPoison pa n).home = s.home := rfl
@[simp] theorem State.clearPoison_writes (s : State) (pa n : Nat) : (s.clearPoison pa n).writes = s.writes := rfl
@[simp] theorem State.clearPoison_moment (s : State) (pa n : Nat) : (s.clearPoison pa n).moment = s.moment := rfl
@[simp] theorem State.clearPoison_lags (s : State) (pa n : Nat) : (s.clearPoison pa n).lags = s.lags := rfl
@[simp] theorem State.clearPoison_twlPoison (s : State) (pa n : Nat) : (s.clearPoison pa n).twlPoison = s.twlPoison := rfl
@[simp] theorem State.clearPoison_slices (s : State) (pa n : Nat) : (s.clearPoison pa n).slices = s.slices := rfl
@[simp] theorem State.clearPoison_slicePoison (s : State) (pa n : Nat) : (s.clearPoison pa n).slicePoison = s.slicePoison := rfl
@[simp] theorem State.clearPoison_preds (s : State) (pa n : Nat) : (s.clearPoison pa n).preds = s.preds := rfl
@[simp] theorem State.clearPoison_tiles (s : State) (pa n : Nat) : (s.clearPoison pa n).tiles = s.tiles := rfl
@[simp] theorem State.clearPoison_idxs (s : State) (pa n : Nat) : (s.clearPoison pa n).idxs = s.idxs := rfl
@[simp] theorem State.clearPoison_accs (s : State) (pa n : Nat) : (s.clearPoison pa n).accs = s.accs := rfl
@[simp] theorem State.clearPoison_tilePoison (s : State) (pa n : Nat) : (s.clearPoison pa n).tilePoison = s.tilePoison := rfl
@[simp] theorem State.clearPoison_ctxs (s : State) (pa n : Nat) : (s.clearPoison pa n).ctxs = s.ctxs := rfl
@[simp] theorem State.clearPoison_parked (s : State) (pa n : Nat) : (s.clearPoison pa n).parked = s.parked := rfl
@[simp] theorem State.clearPoison_ended (s : State) (pa n : Nat) : (s.clearPoison pa n).ended = s.ended := rfl
@[simp] theorem State.clearPoison_clusters (s : State) (pa n : Nat) : (s.clearPoison pa n).clusters = s.clusters := rfl
@[simp] theorem State.clearPoison_pms (s : State) (pa n : Nat) : (s.clearPoison pa n).pms = s.pms := rfl
@[simp] theorem State.clearPoison_queues (s : State) (pa n : Nat) : (s.clearPoison pa n).queues = s.queues := rfl
@[simp] theorem State.clearPoison_slots (s : State) (pa n : Nat) : (s.clearPoison pa n).slots = s.slots := rfl
@[simp] theorem State.clearPoison_boundary (s : State) (pa n : Nat) : (s.clearPoison pa n).boundary = s.boundary := rfl
@[simp] theorem State.clearPoison_gangs (s : State) (pa n : Nat) : (s.clearPoison pa n).gangs = s.gangs := rfl
@[simp] theorem State.clearPoison_recs (s : State) (pa n : Nat) : (s.clearPoison pa n).recs = s.recs := rfl
@[simp] theorem State.clearPoison_nextId (s : State) (pa n : Nat) : (s.clearPoison pa n).nextId = s.nextId := rfl
@[simp] theorem State.clearPoison_tlbs (s : State) (pa n : Nat) : (s.clearPoison pa n).tlbs = s.tlbs := rfl
@[simp] theorem State.clearPoison_walks (s : State) (pa n : Nat) : (s.clearPoison pa n).walks = s.walks := rfl
@[simp] theorem State.clearPoison_requests (s : State) (pa n : Nat) : (s.clearPoison pa n).requests = s.requests := rfl
@[simp] theorem State.clearPoison_unitAsks (s : State) (pa n : Nat) : (s.clearPoison pa n).unitAsks = s.unitAsks := rfl
@[simp] theorem State.clearPoison_invals (s : State) (pa n : Nat) : (s.clearPoison pa n).invals = s.invals := rfl
@[simp] theorem State.clearPoison_hot (s : State) (pa n : Nat) : (s.clearPoison pa n).hot = s.hot := rfl
@[simp] theorem State.clearPoison_hdm (s : State) (pa n : Nat) : (s.clearPoison pa n).hdm = s.hdm := rfl
@[simp] theorem State.clearPoison_interleave (s : State) (pa n : Nat) : (s.clearPoison pa n).interleave = s.interleave := rfl
@[simp] theorem State.clearPoison_waiting (s : State) (pa n : Nat) : (s.clearPoison pa n).waiting = s.waiting := rfl
@[simp] theorem State.clearPoison_xsets (s : State) (pa n : Nat) : (s.clearPoison pa n).xsets = s.xsets := rfl
@[simp] theorem State.clearPoison_glox (s : State) (pa n : Nat) : (s.clearPoison pa n).glox = s.glox := rfl
@[simp] theorem State.clearPoison_perf (s : State) (pa n : Nat) : (s.clearPoison pa n).perf = s.perf := rfl
@[simp] theorem State.clearPoison_ras (s : State) (pa n : Nat) : (s.clearPoison pa n).ras = s.ras := rfl
@[simp] theorem State.clearPoison_snap (s : State) (pa n : Nat) : (s.clearPoison pa n).snap = s.snap := rfl
@[simp] theorem State.clearPoison_seq (s : State) (pa n : Nat) : (s.clearPoison pa n).seq = s.seq := rfl
@[simp] theorem State.clearPoison_ctl (s : State) (pa n : Nat) : (s.clearPoison pa n).ctl = s.ctl := rfl
@[simp] theorem State.clearPoison_fq (s : State) (pa n : Nat) : (s.clearPoison pa n).fq = s.fq := rfl
@[simp] theorem State.clearPoison_nalo (s : State) (pa n : Nat) : (s.clearPoison pa n).nalo = s.nalo := rfl
@[simp] theorem State.clearPoison_repair (s : State) (pa n : Nat) : (s.clearPoison pa n).repair = s.repair := rfl

/-! ## clearSpPoison -/

@[simp] theorem State.clearSpPoison_agenda (s : State) (cl a n : Nat) : (s.clearSpPoison cl a n).agenda = s.agenda := rfl
@[simp] theorem State.clearSpPoison_cur (s : State) (cl a n : Nat) : (s.clearSpPoison cl a n).cur = s.cur := rfl
@[simp] theorem State.clearSpPoison_issued (s : State) (cl a n : Nat) : (s.clearSpPoison cl a n).issued = s.issued := rfl
@[simp] theorem State.clearSpPoison_lastCtx (s : State) (cl a n : Nat) : (s.clearSpPoison cl a n).lastCtx = s.lastCtx := rfl
@[simp] theorem State.clearSpPoison_free (s : State) (cl a n : Nat) : (s.clearSpPoison cl a n).free = s.free := rfl
@[simp] theorem State.clearSpPoison_cycle (s : State) (cl a n : Nat) : (s.clearSpPoison cl a n).cycle = s.cycle := rfl
@[simp] theorem State.clearSpPoison_ticks (s : State) (cl a n : Nat) : (s.clearSpPoison cl a n).ticks = s.ticks := rfl
@[simp] theorem State.clearSpPoison_mem (s : State) (cl a n : Nat) : (s.clearSpPoison cl a n).mem = s.mem := rfl
@[simp] theorem State.clearSpPoison_memPoison (s : State) (cl a n : Nat) : (s.clearSpPoison cl a n).memPoison = s.memPoison := rfl
@[simp] theorem State.clearSpPoison_sp (s : State) (cl a n : Nat) : (s.clearSpPoison cl a n).sp = s.sp := rfl
@[simp] theorem State.clearSpPoison_twl (s : State) (cl a n : Nat) : (s.clearSpPoison cl a n).twl = s.twl := rfl
@[simp] theorem State.clearSpPoison_home (s : State) (cl a n : Nat) : (s.clearSpPoison cl a n).home = s.home := rfl
@[simp] theorem State.clearSpPoison_writes (s : State) (cl a n : Nat) : (s.clearSpPoison cl a n).writes = s.writes := rfl
@[simp] theorem State.clearSpPoison_moment (s : State) (cl a n : Nat) : (s.clearSpPoison cl a n).moment = s.moment := rfl
@[simp] theorem State.clearSpPoison_lags (s : State) (cl a n : Nat) : (s.clearSpPoison cl a n).lags = s.lags := rfl
@[simp] theorem State.clearSpPoison_twlPoison (s : State) (cl a n : Nat) : (s.clearSpPoison cl a n).twlPoison = s.twlPoison := rfl
@[simp] theorem State.clearSpPoison_slices (s : State) (cl a n : Nat) : (s.clearSpPoison cl a n).slices = s.slices := rfl
@[simp] theorem State.clearSpPoison_slicePoison (s : State) (cl a n : Nat) : (s.clearSpPoison cl a n).slicePoison = s.slicePoison := rfl
@[simp] theorem State.clearSpPoison_preds (s : State) (cl a n : Nat) : (s.clearSpPoison cl a n).preds = s.preds := rfl
@[simp] theorem State.clearSpPoison_tiles (s : State) (cl a n : Nat) : (s.clearSpPoison cl a n).tiles = s.tiles := rfl
@[simp] theorem State.clearSpPoison_idxs (s : State) (cl a n : Nat) : (s.clearSpPoison cl a n).idxs = s.idxs := rfl
@[simp] theorem State.clearSpPoison_accs (s : State) (cl a n : Nat) : (s.clearSpPoison cl a n).accs = s.accs := rfl
@[simp] theorem State.clearSpPoison_tilePoison (s : State) (cl a n : Nat) : (s.clearSpPoison cl a n).tilePoison = s.tilePoison := rfl
@[simp] theorem State.clearSpPoison_ctxs (s : State) (cl a n : Nat) : (s.clearSpPoison cl a n).ctxs = s.ctxs := rfl
@[simp] theorem State.clearSpPoison_parked (s : State) (cl a n : Nat) : (s.clearSpPoison cl a n).parked = s.parked := rfl
@[simp] theorem State.clearSpPoison_ended (s : State) (cl a n : Nat) : (s.clearSpPoison cl a n).ended = s.ended := rfl
@[simp] theorem State.clearSpPoison_clusters (s : State) (cl a n : Nat) : (s.clearSpPoison cl a n).clusters = s.clusters := rfl
@[simp] theorem State.clearSpPoison_pms (s : State) (cl a n : Nat) : (s.clearSpPoison cl a n).pms = s.pms := rfl
@[simp] theorem State.clearSpPoison_queues (s : State) (cl a n : Nat) : (s.clearSpPoison cl a n).queues = s.queues := rfl
@[simp] theorem State.clearSpPoison_slots (s : State) (cl a n : Nat) : (s.clearSpPoison cl a n).slots = s.slots := rfl
@[simp] theorem State.clearSpPoison_boundary (s : State) (cl a n : Nat) : (s.clearSpPoison cl a n).boundary = s.boundary := rfl
@[simp] theorem State.clearSpPoison_gangs (s : State) (cl a n : Nat) : (s.clearSpPoison cl a n).gangs = s.gangs := rfl
@[simp] theorem State.clearSpPoison_recs (s : State) (cl a n : Nat) : (s.clearSpPoison cl a n).recs = s.recs := rfl
@[simp] theorem State.clearSpPoison_nextId (s : State) (cl a n : Nat) : (s.clearSpPoison cl a n).nextId = s.nextId := rfl
@[simp] theorem State.clearSpPoison_tlbs (s : State) (cl a n : Nat) : (s.clearSpPoison cl a n).tlbs = s.tlbs := rfl
@[simp] theorem State.clearSpPoison_walks (s : State) (cl a n : Nat) : (s.clearSpPoison cl a n).walks = s.walks := rfl
@[simp] theorem State.clearSpPoison_requests (s : State) (cl a n : Nat) : (s.clearSpPoison cl a n).requests = s.requests := rfl
@[simp] theorem State.clearSpPoison_unitAsks (s : State) (cl a n : Nat) : (s.clearSpPoison cl a n).unitAsks = s.unitAsks := rfl
@[simp] theorem State.clearSpPoison_invals (s : State) (cl a n : Nat) : (s.clearSpPoison cl a n).invals = s.invals := rfl
@[simp] theorem State.clearSpPoison_hot (s : State) (cl a n : Nat) : (s.clearSpPoison cl a n).hot = s.hot := rfl
@[simp] theorem State.clearSpPoison_hdm (s : State) (cl a n : Nat) : (s.clearSpPoison cl a n).hdm = s.hdm := rfl
@[simp] theorem State.clearSpPoison_interleave (s : State) (cl a n : Nat) : (s.clearSpPoison cl a n).interleave = s.interleave := rfl
@[simp] theorem State.clearSpPoison_waiting (s : State) (cl a n : Nat) : (s.clearSpPoison cl a n).waiting = s.waiting := rfl
@[simp] theorem State.clearSpPoison_xsets (s : State) (cl a n : Nat) : (s.clearSpPoison cl a n).xsets = s.xsets := rfl
@[simp] theorem State.clearSpPoison_glox (s : State) (cl a n : Nat) : (s.clearSpPoison cl a n).glox = s.glox := rfl
@[simp] theorem State.clearSpPoison_perf (s : State) (cl a n : Nat) : (s.clearSpPoison cl a n).perf = s.perf := rfl
@[simp] theorem State.clearSpPoison_ras (s : State) (cl a n : Nat) : (s.clearSpPoison cl a n).ras = s.ras := rfl
@[simp] theorem State.clearSpPoison_snap (s : State) (cl a n : Nat) : (s.clearSpPoison cl a n).snap = s.snap := rfl
@[simp] theorem State.clearSpPoison_seq (s : State) (cl a n : Nat) : (s.clearSpPoison cl a n).seq = s.seq := rfl
@[simp] theorem State.clearSpPoison_ctl (s : State) (cl a n : Nat) : (s.clearSpPoison cl a n).ctl = s.ctl := rfl
@[simp] theorem State.clearSpPoison_fq (s : State) (cl a n : Nat) : (s.clearSpPoison cl a n).fq = s.fq := rfl
@[simp] theorem State.clearSpPoison_nalo (s : State) (cl a n : Nat) : (s.clearSpPoison cl a n).nalo = s.nalo := rfl
@[simp] theorem State.clearSpPoison_repair (s : State) (cl a n : Nat) : (s.clearSpPoison cl a n).repair = s.repair := rfl

/-! ## setRas -/

@[simp] theorem State.setRas_agenda (s : State) (b i j : Nat) (v : Word) : (s.setRas b i j v).agenda = s.agenda := rfl
@[simp] theorem State.setRas_cur (s : State) (b i j : Nat) (v : Word) : (s.setRas b i j v).cur = s.cur := rfl
@[simp] theorem State.setRas_issued (s : State) (b i j : Nat) (v : Word) : (s.setRas b i j v).issued = s.issued := rfl
@[simp] theorem State.setRas_lastCtx (s : State) (b i j : Nat) (v : Word) : (s.setRas b i j v).lastCtx = s.lastCtx := rfl
@[simp] theorem State.setRas_free (s : State) (b i j : Nat) (v : Word) : (s.setRas b i j v).free = s.free := rfl
@[simp] theorem State.setRas_cycle (s : State) (b i j : Nat) (v : Word) : (s.setRas b i j v).cycle = s.cycle := rfl
@[simp] theorem State.setRas_ticks (s : State) (b i j : Nat) (v : Word) : (s.setRas b i j v).ticks = s.ticks := rfl
@[simp] theorem State.setRas_mem (s : State) (b i j : Nat) (v : Word) : (s.setRas b i j v).mem = s.mem := rfl
@[simp] theorem State.setRas_memPoison (s : State) (b i j : Nat) (v : Word) : (s.setRas b i j v).memPoison = s.memPoison := rfl
@[simp] theorem State.setRas_sp (s : State) (b i j : Nat) (v : Word) : (s.setRas b i j v).sp = s.sp := rfl
@[simp] theorem State.setRas_spPoison (s : State) (b i j : Nat) (v : Word) : (s.setRas b i j v).spPoison = s.spPoison := rfl
@[simp] theorem State.setRas_twl (s : State) (b i j : Nat) (v : Word) : (s.setRas b i j v).twl = s.twl := rfl
@[simp] theorem State.setRas_home (s : State) (b i j : Nat) (v : Word) : (s.setRas b i j v).home = s.home := rfl
@[simp] theorem State.setRas_writes (s : State) (b i j : Nat) (v : Word) : (s.setRas b i j v).writes = s.writes := rfl
@[simp] theorem State.setRas_moment (s : State) (b i j : Nat) (v : Word) : (s.setRas b i j v).moment = s.moment := rfl
@[simp] theorem State.setRas_lags (s : State) (b i j : Nat) (v : Word) : (s.setRas b i j v).lags = s.lags := rfl
@[simp] theorem State.setRas_twlPoison (s : State) (b i j : Nat) (v : Word) : (s.setRas b i j v).twlPoison = s.twlPoison := rfl
@[simp] theorem State.setRas_slices (s : State) (b i j : Nat) (v : Word) : (s.setRas b i j v).slices = s.slices := rfl
@[simp] theorem State.setRas_slicePoison (s : State) (b i j : Nat) (v : Word) : (s.setRas b i j v).slicePoison = s.slicePoison := rfl
@[simp] theorem State.setRas_preds (s : State) (b i j : Nat) (v : Word) : (s.setRas b i j v).preds = s.preds := rfl
@[simp] theorem State.setRas_tiles (s : State) (b i j : Nat) (v : Word) : (s.setRas b i j v).tiles = s.tiles := rfl
@[simp] theorem State.setRas_idxs (s : State) (b i j : Nat) (v : Word) : (s.setRas b i j v).idxs = s.idxs := rfl
@[simp] theorem State.setRas_accs (s : State) (b i j : Nat) (v : Word) : (s.setRas b i j v).accs = s.accs := rfl
@[simp] theorem State.setRas_tilePoison (s : State) (b i j : Nat) (v : Word) : (s.setRas b i j v).tilePoison = s.tilePoison := rfl
@[simp] theorem State.setRas_ctxs (s : State) (b i j : Nat) (v : Word) : (s.setRas b i j v).ctxs = s.ctxs := rfl
@[simp] theorem State.setRas_parked (s : State) (b i j : Nat) (v : Word) : (s.setRas b i j v).parked = s.parked := rfl
@[simp] theorem State.setRas_ended (s : State) (b i j : Nat) (v : Word) : (s.setRas b i j v).ended = s.ended := rfl
@[simp] theorem State.setRas_clusters (s : State) (b i j : Nat) (v : Word) : (s.setRas b i j v).clusters = s.clusters := rfl
@[simp] theorem State.setRas_pms (s : State) (b i j : Nat) (v : Word) : (s.setRas b i j v).pms = s.pms := rfl
@[simp] theorem State.setRas_queues (s : State) (b i j : Nat) (v : Word) : (s.setRas b i j v).queues = s.queues := rfl
@[simp] theorem State.setRas_slots (s : State) (b i j : Nat) (v : Word) : (s.setRas b i j v).slots = s.slots := rfl
@[simp] theorem State.setRas_boundary (s : State) (b i j : Nat) (v : Word) : (s.setRas b i j v).boundary = s.boundary := rfl
@[simp] theorem State.setRas_gangs (s : State) (b i j : Nat) (v : Word) : (s.setRas b i j v).gangs = s.gangs := rfl
@[simp] theorem State.setRas_recs (s : State) (b i j : Nat) (v : Word) : (s.setRas b i j v).recs = s.recs := rfl
@[simp] theorem State.setRas_nextId (s : State) (b i j : Nat) (v : Word) : (s.setRas b i j v).nextId = s.nextId := rfl
@[simp] theorem State.setRas_tlbs (s : State) (b i j : Nat) (v : Word) : (s.setRas b i j v).tlbs = s.tlbs := rfl
@[simp] theorem State.setRas_walks (s : State) (b i j : Nat) (v : Word) : (s.setRas b i j v).walks = s.walks := rfl
@[simp] theorem State.setRas_requests (s : State) (b i j : Nat) (v : Word) : (s.setRas b i j v).requests = s.requests := rfl
@[simp] theorem State.setRas_unitAsks (s : State) (b i j : Nat) (v : Word) : (s.setRas b i j v).unitAsks = s.unitAsks := rfl
@[simp] theorem State.setRas_invals (s : State) (b i j : Nat) (v : Word) : (s.setRas b i j v).invals = s.invals := rfl
@[simp] theorem State.setRas_hot (s : State) (b i j : Nat) (v : Word) : (s.setRas b i j v).hot = s.hot := rfl
@[simp] theorem State.setRas_hdm (s : State) (b i j : Nat) (v : Word) : (s.setRas b i j v).hdm = s.hdm := rfl
@[simp] theorem State.setRas_interleave (s : State) (b i j : Nat) (v : Word) : (s.setRas b i j v).interleave = s.interleave := rfl
@[simp] theorem State.setRas_waiting (s : State) (b i j : Nat) (v : Word) : (s.setRas b i j v).waiting = s.waiting := rfl
@[simp] theorem State.setRas_xsets (s : State) (b i j : Nat) (v : Word) : (s.setRas b i j v).xsets = s.xsets := rfl
@[simp] theorem State.setRas_glox (s : State) (b i j : Nat) (v : Word) : (s.setRas b i j v).glox = s.glox := rfl
@[simp] theorem State.setRas_perf (s : State) (b i j : Nat) (v : Word) : (s.setRas b i j v).perf = s.perf := rfl
@[simp] theorem State.setRas_snap (s : State) (b i j : Nat) (v : Word) : (s.setRas b i j v).snap = s.snap := rfl
@[simp] theorem State.setRas_seq (s : State) (b i j : Nat) (v : Word) : (s.setRas b i j v).seq = s.seq := rfl
@[simp] theorem State.setRas_ctl (s : State) (b i j : Nat) (v : Word) : (s.setRas b i j v).ctl = s.ctl := rfl
@[simp] theorem State.setRas_fq (s : State) (b i j : Nat) (v : Word) : (s.setRas b i j v).fq = s.fq := rfl
@[simp] theorem State.setRas_nalo (s : State) (b i j : Nat) (v : Word) : (s.setRas b i j v).nalo = s.nalo := rfl
@[simp] theorem State.setRas_repair (s : State) (b i j : Nat) (v : Word) : (s.setRas b i j v).repair = s.repair := rfl
@[simp] theorem State.setRas_ras (s : State) (b i j : Nat) (v : Word) : (s.setRas b i j v).ras = smPut (b * 64 + 3 * i + j) v s.ras := rfl

/-! ## setLoc -/

@[simp] theorem State.setLoc_agenda (s : State) (l : Loc) (b : Byte) : (s.setLoc l b).agenda = s.agenda := by unfold State.setLoc; split <;> rfl
@[simp] theorem State.setLoc_cur (s : State) (l : Loc) (b : Byte) : (s.setLoc l b).cur = s.cur := by unfold State.setLoc; split <;> rfl
@[simp] theorem State.setLoc_issued (s : State) (l : Loc) (b : Byte) : (s.setLoc l b).issued = s.issued := by unfold State.setLoc; split <;> rfl
@[simp] theorem State.setLoc_lastCtx (s : State) (l : Loc) (b : Byte) : (s.setLoc l b).lastCtx = s.lastCtx := by unfold State.setLoc; split <;> rfl
@[simp] theorem State.setLoc_free (s : State) (l : Loc) (b : Byte) : (s.setLoc l b).free = s.free := by unfold State.setLoc; split <;> rfl
@[simp] theorem State.setLoc_cycle (s : State) (l : Loc) (b : Byte) : (s.setLoc l b).cycle = s.cycle := by unfold State.setLoc; split <;> rfl
@[simp] theorem State.setLoc_ticks (s : State) (l : Loc) (b : Byte) : (s.setLoc l b).ticks = s.ticks := by unfold State.setLoc; split <;> rfl
@[simp] theorem State.setLoc_memPoison (s : State) (l : Loc) (b : Byte) : (s.setLoc l b).memPoison = s.memPoison := by unfold State.setLoc; split <;> rfl
@[simp] theorem State.setLoc_spPoison (s : State) (l : Loc) (b : Byte) : (s.setLoc l b).spPoison = s.spPoison := by unfold State.setLoc; split <;> rfl
@[simp] theorem State.setLoc_twl (s : State) (l : Loc) (b : Byte) : (s.setLoc l b).twl = s.twl := by unfold State.setLoc; split <;> rfl
@[simp] theorem State.setLoc_moment (s : State) (l : Loc) (b : Byte) : (s.setLoc l b).moment = s.moment := by unfold State.setLoc; split <;> rfl
@[simp] theorem State.setLoc_lags (s : State) (l : Loc) (b : Byte) : (s.setLoc l b).lags = s.lags := by unfold State.setLoc; split <;> rfl
@[simp] theorem State.setLoc_twlPoison (s : State) (l : Loc) (b : Byte) : (s.setLoc l b).twlPoison = s.twlPoison := by unfold State.setLoc; split <;> rfl
@[simp] theorem State.setLoc_slices (s : State) (l : Loc) (b : Byte) : (s.setLoc l b).slices = s.slices := by unfold State.setLoc; split <;> rfl
@[simp] theorem State.setLoc_slicePoison (s : State) (l : Loc) (b : Byte) : (s.setLoc l b).slicePoison = s.slicePoison := by unfold State.setLoc; split <;> rfl
@[simp] theorem State.setLoc_preds (s : State) (l : Loc) (b : Byte) : (s.setLoc l b).preds = s.preds := by unfold State.setLoc; split <;> rfl
@[simp] theorem State.setLoc_tiles (s : State) (l : Loc) (b : Byte) : (s.setLoc l b).tiles = s.tiles := by unfold State.setLoc; split <;> rfl
@[simp] theorem State.setLoc_idxs (s : State) (l : Loc) (b : Byte) : (s.setLoc l b).idxs = s.idxs := by unfold State.setLoc; split <;> rfl
@[simp] theorem State.setLoc_accs (s : State) (l : Loc) (b : Byte) : (s.setLoc l b).accs = s.accs := by unfold State.setLoc; split <;> rfl
@[simp] theorem State.setLoc_tilePoison (s : State) (l : Loc) (b : Byte) : (s.setLoc l b).tilePoison = s.tilePoison := by unfold State.setLoc; split <;> rfl
@[simp] theorem State.setLoc_ctxs (s : State) (l : Loc) (b : Byte) : (s.setLoc l b).ctxs = s.ctxs := by unfold State.setLoc; split <;> rfl
@[simp] theorem State.setLoc_parked (s : State) (l : Loc) (b : Byte) : (s.setLoc l b).parked = s.parked := by unfold State.setLoc; split <;> rfl
@[simp] theorem State.setLoc_ended (s : State) (l : Loc) (b : Byte) : (s.setLoc l b).ended = s.ended := by unfold State.setLoc; split <;> rfl
@[simp] theorem State.setLoc_clusters (s : State) (l : Loc) (b : Byte) : (s.setLoc l b).clusters = s.clusters := by unfold State.setLoc; split <;> rfl
@[simp] theorem State.setLoc_pms (s : State) (l : Loc) (b : Byte) : (s.setLoc l b).pms = s.pms := by unfold State.setLoc; split <;> rfl
@[simp] theorem State.setLoc_queues (s : State) (l : Loc) (b : Byte) : (s.setLoc l b).queues = s.queues := by unfold State.setLoc; split <;> rfl
@[simp] theorem State.setLoc_slots (s : State) (l : Loc) (b : Byte) : (s.setLoc l b).slots = s.slots := by unfold State.setLoc; split <;> rfl
@[simp] theorem State.setLoc_boundary (s : State) (l : Loc) (b : Byte) : (s.setLoc l b).boundary = s.boundary := by unfold State.setLoc; split <;> rfl
@[simp] theorem State.setLoc_gangs (s : State) (l : Loc) (b : Byte) : (s.setLoc l b).gangs = s.gangs := by unfold State.setLoc; split <;> rfl
@[simp] theorem State.setLoc_recs (s : State) (l : Loc) (b : Byte) : (s.setLoc l b).recs = s.recs := by unfold State.setLoc; split <;> rfl
@[simp] theorem State.setLoc_nextId (s : State) (l : Loc) (b : Byte) : (s.setLoc l b).nextId = s.nextId := by unfold State.setLoc; split <;> rfl
@[simp] theorem State.setLoc_tlbs (s : State) (l : Loc) (b : Byte) : (s.setLoc l b).tlbs = s.tlbs := by unfold State.setLoc; split <;> rfl
@[simp] theorem State.setLoc_walks (s : State) (l : Loc) (b : Byte) : (s.setLoc l b).walks = s.walks := by unfold State.setLoc; split <;> rfl
@[simp] theorem State.setLoc_requests (s : State) (l : Loc) (b : Byte) : (s.setLoc l b).requests = s.requests := by unfold State.setLoc; split <;> rfl
@[simp] theorem State.setLoc_unitAsks (s : State) (l : Loc) (b : Byte) : (s.setLoc l b).unitAsks = s.unitAsks := by unfold State.setLoc; split <;> rfl
@[simp] theorem State.setLoc_invals (s : State) (l : Loc) (b : Byte) : (s.setLoc l b).invals = s.invals := by unfold State.setLoc; split <;> rfl
@[simp] theorem State.setLoc_hot (s : State) (l : Loc) (b : Byte) : (s.setLoc l b).hot = s.hot := by unfold State.setLoc; split <;> rfl
@[simp] theorem State.setLoc_hdm (s : State) (l : Loc) (b : Byte) : (s.setLoc l b).hdm = s.hdm := by unfold State.setLoc; split <;> rfl
@[simp] theorem State.setLoc_interleave (s : State) (l : Loc) (b : Byte) : (s.setLoc l b).interleave = s.interleave := by unfold State.setLoc; split <;> rfl
@[simp] theorem State.setLoc_waiting (s : State) (l : Loc) (b : Byte) : (s.setLoc l b).waiting = s.waiting := by unfold State.setLoc; split <;> rfl
@[simp] theorem State.setLoc_xsets (s : State) (l : Loc) (b : Byte) : (s.setLoc l b).xsets = s.xsets := by unfold State.setLoc; split <;> rfl
@[simp] theorem State.setLoc_glox (s : State) (l : Loc) (b : Byte) : (s.setLoc l b).glox = s.glox := by unfold State.setLoc; split <;> rfl
@[simp] theorem State.setLoc_perf (s : State) (l : Loc) (b : Byte) : (s.setLoc l b).perf = s.perf := by unfold State.setLoc; split <;> rfl
@[simp] theorem State.setLoc_ras (s : State) (l : Loc) (b : Byte) : (s.setLoc l b).ras = s.ras := by unfold State.setLoc; split <;> rfl
@[simp] theorem State.setLoc_snap (s : State) (l : Loc) (b : Byte) : (s.setLoc l b).snap = s.snap := by unfold State.setLoc; split <;> rfl
@[simp] theorem State.setLoc_seq (s : State) (l : Loc) (b : Byte) : (s.setLoc l b).seq = s.seq := by unfold State.setLoc; split <;> rfl
@[simp] theorem State.setLoc_ctl (s : State) (l : Loc) (b : Byte) : (s.setLoc l b).ctl = s.ctl := by unfold State.setLoc; split <;> rfl
@[simp] theorem State.setLoc_fq (s : State) (l : Loc) (b : Byte) : (s.setLoc l b).fq = s.fq := by unfold State.setLoc; split <;> rfl
@[simp] theorem State.setLoc_nalo (s : State) (l : Loc) (b : Byte) : (s.setLoc l b).nalo = s.nalo := by unfold State.setLoc; split <;> rfl
@[simp] theorem State.setLoc_repair (s : State) (l : Loc) (b : Byte) : (s.setLoc l b).repair = s.repair := by unfold State.setLoc; split <;> rfl
@[simp] theorem State.setLoc_writes (s : State) (l : Loc) (b : Byte) : (s.setLoc l b).writes = forget l.scratch (fun k => decide (k = l.key)) s.writes := by unfold State.setLoc; split <;> rfl

/-! ## cleanLine -/

@[simp] theorem State.cleanLine_agenda (s : State) (n : Nat) : (s.cleanLine n).agenda = s.agenda := rfl
@[simp] theorem State.cleanLine_cur (s : State) (n : Nat) : (s.cleanLine n).cur = s.cur := rfl
@[simp] theorem State.cleanLine_issued (s : State) (n : Nat) : (s.cleanLine n).issued = s.issued := rfl
@[simp] theorem State.cleanLine_lastCtx (s : State) (n : Nat) : (s.cleanLine n).lastCtx = s.lastCtx := rfl
@[simp] theorem State.cleanLine_free (s : State) (n : Nat) : (s.cleanLine n).free = s.free := rfl
@[simp] theorem State.cleanLine_cycle (s : State) (n : Nat) : (s.cleanLine n).cycle = s.cycle := rfl
@[simp] theorem State.cleanLine_ticks (s : State) (n : Nat) : (s.cleanLine n).ticks = s.ticks := rfl
@[simp] theorem State.cleanLine_mem (s : State) (n : Nat) : (s.cleanLine n).mem = s.mem := rfl
@[simp] theorem State.cleanLine_memPoison (s : State) (n : Nat) : (s.cleanLine n).memPoison = s.memPoison := rfl
@[simp] theorem State.cleanLine_sp (s : State) (n : Nat) : (s.cleanLine n).sp = s.sp := rfl
@[simp] theorem State.cleanLine_spPoison (s : State) (n : Nat) : (s.cleanLine n).spPoison = s.spPoison := rfl
@[simp] theorem State.cleanLine_twl (s : State) (n : Nat) : (s.cleanLine n).twl = s.twl := rfl
@[simp] theorem State.cleanLine_writes (s : State) (n : Nat) : (s.cleanLine n).writes = s.writes := rfl
@[simp] theorem State.cleanLine_moment (s : State) (n : Nat) : (s.cleanLine n).moment = s.moment := rfl
@[simp] theorem State.cleanLine_lags (s : State) (n : Nat) : (s.cleanLine n).lags = s.lags := rfl
@[simp] theorem State.cleanLine_twlPoison (s : State) (n : Nat) : (s.cleanLine n).twlPoison = s.twlPoison := rfl
@[simp] theorem State.cleanLine_slices (s : State) (n : Nat) : (s.cleanLine n).slices = s.slices := rfl
@[simp] theorem State.cleanLine_slicePoison (s : State) (n : Nat) : (s.cleanLine n).slicePoison = s.slicePoison := rfl
@[simp] theorem State.cleanLine_preds (s : State) (n : Nat) : (s.cleanLine n).preds = s.preds := rfl
@[simp] theorem State.cleanLine_tiles (s : State) (n : Nat) : (s.cleanLine n).tiles = s.tiles := rfl
@[simp] theorem State.cleanLine_idxs (s : State) (n : Nat) : (s.cleanLine n).idxs = s.idxs := rfl
@[simp] theorem State.cleanLine_accs (s : State) (n : Nat) : (s.cleanLine n).accs = s.accs := rfl
@[simp] theorem State.cleanLine_tilePoison (s : State) (n : Nat) : (s.cleanLine n).tilePoison = s.tilePoison := rfl
@[simp] theorem State.cleanLine_ctxs (s : State) (n : Nat) : (s.cleanLine n).ctxs = s.ctxs := rfl
@[simp] theorem State.cleanLine_parked (s : State) (n : Nat) : (s.cleanLine n).parked = s.parked := rfl
@[simp] theorem State.cleanLine_ended (s : State) (n : Nat) : (s.cleanLine n).ended = s.ended := rfl
@[simp] theorem State.cleanLine_clusters (s : State) (n : Nat) : (s.cleanLine n).clusters = s.clusters := rfl
@[simp] theorem State.cleanLine_pms (s : State) (n : Nat) : (s.cleanLine n).pms = s.pms := rfl
@[simp] theorem State.cleanLine_queues (s : State) (n : Nat) : (s.cleanLine n).queues = s.queues := rfl
@[simp] theorem State.cleanLine_slots (s : State) (n : Nat) : (s.cleanLine n).slots = s.slots := rfl
@[simp] theorem State.cleanLine_boundary (s : State) (n : Nat) : (s.cleanLine n).boundary = s.boundary := rfl
@[simp] theorem State.cleanLine_gangs (s : State) (n : Nat) : (s.cleanLine n).gangs = s.gangs := rfl
@[simp] theorem State.cleanLine_recs (s : State) (n : Nat) : (s.cleanLine n).recs = s.recs := rfl
@[simp] theorem State.cleanLine_nextId (s : State) (n : Nat) : (s.cleanLine n).nextId = s.nextId := rfl
@[simp] theorem State.cleanLine_tlbs (s : State) (n : Nat) : (s.cleanLine n).tlbs = s.tlbs := rfl
@[simp] theorem State.cleanLine_walks (s : State) (n : Nat) : (s.cleanLine n).walks = s.walks := rfl
@[simp] theorem State.cleanLine_requests (s : State) (n : Nat) : (s.cleanLine n).requests = s.requests := rfl
@[simp] theorem State.cleanLine_unitAsks (s : State) (n : Nat) : (s.cleanLine n).unitAsks = s.unitAsks := rfl
@[simp] theorem State.cleanLine_invals (s : State) (n : Nat) : (s.cleanLine n).invals = s.invals := rfl
@[simp] theorem State.cleanLine_hot (s : State) (n : Nat) : (s.cleanLine n).hot = s.hot := rfl
@[simp] theorem State.cleanLine_hdm (s : State) (n : Nat) : (s.cleanLine n).hdm = s.hdm := rfl
@[simp] theorem State.cleanLine_interleave (s : State) (n : Nat) : (s.cleanLine n).interleave = s.interleave := rfl
@[simp] theorem State.cleanLine_waiting (s : State) (n : Nat) : (s.cleanLine n).waiting = s.waiting := rfl
@[simp] theorem State.cleanLine_xsets (s : State) (n : Nat) : (s.cleanLine n).xsets = s.xsets := rfl
@[simp] theorem State.cleanLine_glox (s : State) (n : Nat) : (s.cleanLine n).glox = s.glox := rfl
@[simp] theorem State.cleanLine_perf (s : State) (n : Nat) : (s.cleanLine n).perf = s.perf := rfl
@[simp] theorem State.cleanLine_ras (s : State) (n : Nat) : (s.cleanLine n).ras = s.ras := rfl
@[simp] theorem State.cleanLine_snap (s : State) (n : Nat) : (s.cleanLine n).snap = s.snap := rfl
@[simp] theorem State.cleanLine_seq (s : State) (n : Nat) : (s.cleanLine n).seq = s.seq := rfl
@[simp] theorem State.cleanLine_ctl (s : State) (n : Nat) : (s.cleanLine n).ctl = s.ctl := rfl
@[simp] theorem State.cleanLine_fq (s : State) (n : Nat) : (s.cleanLine n).fq = s.fq := rfl
@[simp] theorem State.cleanLine_nalo (s : State) (n : Nat) : (s.cleanLine n).nalo = s.nalo := rfl
@[simp] theorem State.cleanLine_repair (s : State) (n : Nat) : (s.cleanLine n).repair = s.repair := rfl
@[simp] theorem State.cleanLine_home (s : State) (n : Nat) : (s.cleanLine n).home = s.home.filter fun e => decide (e.1 / 64 ≠ n) := rfl

/-! ## advance -/

@[simp] theorem Ctx.advance_mode (c : Ctx)  : (c.advance).mode = c.mode := rfl
@[simp] theorem Ctx.advance_wait (c : Ctx)  : (c.advance).wait = c.wait := rfl
@[simp] theorem Ctx.advance_x (c : Ctx)  : (c.advance).x = c.x := rfl
@[simp] theorem Ctx.advance_vl (c : Ctx)  : (c.advance).vl = c.vl := rfl
@[simp] theorem Ctx.advance_vstart (c : Ctx)  : (c.advance).vstart = c.vstart := rfl
@[simp] theorem Ctx.advance_vspan (c : Ctx)  : (c.advance).vspan = c.vspan := rfl
@[simp] theorem Ctx.advance_vlmax (c : Ctx)  : (c.advance).vlmax = c.vlmax := rfl
@[simp] theorem Ctx.advance_vdirty (c : Ctx)  : (c.advance).vdirty = c.vdirty := rfl
@[simp] theorem Ctx.advance_dirtySince (c : Ctx)  : (c.advance).dirtySince = c.dirtySince := rfl
@[simp] theorem Ctx.advance_efc (c : Ctx)  : (c.advance).efc = c.efc := rfl
@[simp] theorem Ctx.advance_modq (c : Ctx)  : (c.advance).modq = c.modq := rfl
@[simp] theorem Ctx.advance_fcsr (c : Ctx)  : (c.advance).fcsr = c.fcsr := rfl
@[simp] theorem Ctx.advance_tcfg (c : Ctx)  : (c.advance).tcfg = c.tcfg := rfl
@[simp] theorem Ctx.advance_ten (c : Ctx)  : (c.advance).ten = c.ten := rfl
@[simp] theorem Ctx.advance_accfmt (c : Ctx)  : (c.advance).accfmt = c.accfmt := rfl
@[simp] theorem Ctx.advance_mxm (c : Ctx)  : (c.advance).mxm = c.mxm := rfl
@[simp] theorem Ctx.advance_mxn (c : Ctx)  : (c.advance).mxn = c.mxn := rfl
@[simp] theorem Ctx.advance_mxk (c : Ctx)  : (c.advance).mxk = c.mxk := rfl
@[simp] theorem Ctx.advance_mxlat (c : Ctx)  : (c.advance).mxlat = c.mxlat := rfl
@[simp] theorem Ctx.advance_lidx (c : Ctx)  : (c.advance).lidx = c.lidx := rfl
@[simp] theorem Ctx.advance_status (c : Ctx)  : (c.advance).status = c.status := rfl
@[simp] theorem Ctx.advance_stvec (c : Ctx)  : (c.advance).stvec = c.stvec := rfl
@[simp] theorem Ctx.advance_cause (c : Ctx)  : (c.advance).cause = c.cause := rfl
@[simp] theorem Ctx.advance_epc (c : Ctx)  : (c.advance).epc = c.epc := rfl
@[simp] theorem Ctx.advance_eval (c : Ctx)  : (c.advance).eval = c.eval := rfl
@[simp] theorem Ctx.advance_esub (c : Ctx)  : (c.advance).esub = c.esub := rfl
@[simp] theorem Ctx.advance_eelem (c : Ctx)  : (c.advance).eelem = c.eelem := rfl
@[simp] theorem Ctx.advance_sscratch (c : Ctx)  : (c.advance).sscratch = c.sscratch := rfl
@[simp] theorem Ctx.advance_ptroot (c : Ctx)  : (c.advance).ptroot = c.ptroot := rfl
@[simp] theorem Ctx.advance_ptdesc (c : Ctx)  : (c.advance).ptdesc = c.ptdesc := rfl
@[simp] theorem Ctx.advance_pasid (c : Ctx)  : (c.advance).pasid = c.pasid := rfl
@[simp] theorem Ctx.advance_quantum (c : Ctx)  : (c.advance).quantum = c.quantum := rfl
@[simp] theorem Ctx.advance_wdog (c : Ctx)  : (c.advance).wdog = c.wdog := rfl
@[simp] theorem Ctx.advance_desc (c : Ctx)  : (c.advance).desc = c.desc := rfl
@[simp] theorem Ctx.advance_seen (c : Ctx)  : (c.advance).seen = c.seen := rfl
@[simp] theorem Ctx.advance_tseen (c : Ctx)  : (c.advance).tseen = c.tseen := rfl
@[simp] theorem Ctx.advance_chans (c : Ctx)  : (c.advance).chans = c.chans := rfl
@[simp] theorem Ctx.advance_pipes (c : Ctx)  : (c.advance).pipes = c.pipes := rfl
@[simp] theorem Ctx.advance_viq (c : Ctx)  : (c.advance).viq = c.viq := rfl
@[simp] theorem Ctx.advance_queued (c : Ctx)  : (c.advance).queued = c.queued := rfl
@[simp] theorem Ctx.advance_async (c : Ctx)  : (c.advance).async = c.async := rfl
@[simp] theorem Ctx.advance_preemptDue (c : Ctx)  : (c.advance).preemptDue = c.preemptDue := rfl
@[simp] theorem Ctx.advance_preemptEntry (c : Ctx)  : (c.advance).preemptEntry = c.preemptEntry := rfl
@[simp] theorem Ctx.advance_graceOver (c : Ctx)  : (c.advance).graceOver = c.graceOver := rfl
@[simp] theorem Ctx.advance_group (c : Ctx)  : (c.advance).group = c.group := rfl
@[simp] theorem Ctx.advance_remote (c : Ctx)  : (c.advance).remote = c.remote := rfl
@[simp] theorem Ctx.advance_answered (c : Ctx)  : (c.advance).answered = c.answered := rfl
@[simp] theorem Ctx.advance_order (c : Ctx)  : (c.advance).order = c.order := rfl
@[simp] theorem Ctx.advance_inval (c : Ctx)  : (c.advance).inval = c.inval := rfl
@[simp] theorem Ctx.advance_reply (c : Ctx)  : (c.advance).reply = c.reply := rfl
@[simp] theorem Ctx.advance_poisoned (c : Ctx)  : (c.advance).poisoned = c.poisoned := rfl
@[simp] theorem Ctx.advance_atWaypoint (c : Ctx)  : (c.advance).atWaypoint = c.atWaypoint := rfl
@[simp] theorem Ctx.advance_sid (c : Ctx)  : (c.advance).sid = c.sid := rfl
@[simp] theorem Ctx.advance_queue (c : Ctx)  : (c.advance).queue = c.queue := rfl
@[simp] theorem Ctx.advance_record (c : Ctx)  : (c.advance).record = c.record := rfl
@[simp] theorem Ctx.advance_recordId (c : Ctx)  : (c.advance).recordId = c.recordId := rfl
@[simp] theorem Ctx.advance_gangId (c : Ctx)  : (c.advance).gangId = c.gangId := rfl
@[simp] theorem Ctx.advance_member (c : Ctx)  : (c.advance).member = c.member := rfl
@[simp] theorem Ctx.advance_placedAt (c : Ctx)  : (c.advance).placedAt = c.placedAt := rfl
@[simp] theorem Ctx.advance_grants (c : Ctx)  : (c.advance).grants = c.grants := rfl
@[simp] theorem Ctx.advance_parent (c : Ctx)  : (c.advance).parent = c.parent := rfl
@[simp] theorem Ctx.advance_children (c : Ctx)  : (c.advance).children = c.children := rfl
@[simp] theorem Ctx.advance_vparts (c : Ctx)  : (c.advance).vparts = c.vparts := rfl
@[simp] theorem Ctx.advance_group8 (c : Ctx)  : (c.advance).group8 = c.group8 := rfl
@[simp] theorem Ctx.advance_part (c : Ctx)  : (c.advance).part = c.part := rfl
@[simp] theorem Ctx.advance_image (c : Ctx)  : (c.advance).image = c.image := rfl
@[simp] theorem Ctx.advance_frozenUnits (c : Ctx)  : (c.advance).frozenUnits = c.frozenUnits := rfl
@[simp] theorem Ctx.advance_pc (c : Ctx)  : (c.advance).pc = c.pc + 4 := rfl
@[simp] theorem Ctx.advance_retired (c : Ctx)  : (c.advance).retired = c.retired + 1 := rfl

/-! ## jump -/

@[simp] theorem Ctx.jump_mode (c : Ctx) (t : Word) : (c.jump t).mode = c.mode := rfl
@[simp] theorem Ctx.jump_wait (c : Ctx) (t : Word) : (c.jump t).wait = c.wait := rfl
@[simp] theorem Ctx.jump_x (c : Ctx) (t : Word) : (c.jump t).x = c.x := rfl
@[simp] theorem Ctx.jump_vl (c : Ctx) (t : Word) : (c.jump t).vl = c.vl := rfl
@[simp] theorem Ctx.jump_vstart (c : Ctx) (t : Word) : (c.jump t).vstart = c.vstart := rfl
@[simp] theorem Ctx.jump_vspan (c : Ctx) (t : Word) : (c.jump t).vspan = c.vspan := rfl
@[simp] theorem Ctx.jump_vlmax (c : Ctx) (t : Word) : (c.jump t).vlmax = c.vlmax := rfl
@[simp] theorem Ctx.jump_vdirty (c : Ctx) (t : Word) : (c.jump t).vdirty = c.vdirty := rfl
@[simp] theorem Ctx.jump_dirtySince (c : Ctx) (t : Word) : (c.jump t).dirtySince = c.dirtySince := rfl
@[simp] theorem Ctx.jump_efc (c : Ctx) (t : Word) : (c.jump t).efc = c.efc := rfl
@[simp] theorem Ctx.jump_modq (c : Ctx) (t : Word) : (c.jump t).modq = c.modq := rfl
@[simp] theorem Ctx.jump_fcsr (c : Ctx) (t : Word) : (c.jump t).fcsr = c.fcsr := rfl
@[simp] theorem Ctx.jump_tcfg (c : Ctx) (t : Word) : (c.jump t).tcfg = c.tcfg := rfl
@[simp] theorem Ctx.jump_ten (c : Ctx) (t : Word) : (c.jump t).ten = c.ten := rfl
@[simp] theorem Ctx.jump_accfmt (c : Ctx) (t : Word) : (c.jump t).accfmt = c.accfmt := rfl
@[simp] theorem Ctx.jump_mxm (c : Ctx) (t : Word) : (c.jump t).mxm = c.mxm := rfl
@[simp] theorem Ctx.jump_mxn (c : Ctx) (t : Word) : (c.jump t).mxn = c.mxn := rfl
@[simp] theorem Ctx.jump_mxk (c : Ctx) (t : Word) : (c.jump t).mxk = c.mxk := rfl
@[simp] theorem Ctx.jump_mxlat (c : Ctx) (t : Word) : (c.jump t).mxlat = c.mxlat := rfl
@[simp] theorem Ctx.jump_lidx (c : Ctx) (t : Word) : (c.jump t).lidx = c.lidx := rfl
@[simp] theorem Ctx.jump_status (c : Ctx) (t : Word) : (c.jump t).status = c.status := rfl
@[simp] theorem Ctx.jump_stvec (c : Ctx) (t : Word) : (c.jump t).stvec = c.stvec := rfl
@[simp] theorem Ctx.jump_cause (c : Ctx) (t : Word) : (c.jump t).cause = c.cause := rfl
@[simp] theorem Ctx.jump_epc (c : Ctx) (t : Word) : (c.jump t).epc = c.epc := rfl
@[simp] theorem Ctx.jump_eval (c : Ctx) (t : Word) : (c.jump t).eval = c.eval := rfl
@[simp] theorem Ctx.jump_esub (c : Ctx) (t : Word) : (c.jump t).esub = c.esub := rfl
@[simp] theorem Ctx.jump_eelem (c : Ctx) (t : Word) : (c.jump t).eelem = c.eelem := rfl
@[simp] theorem Ctx.jump_sscratch (c : Ctx) (t : Word) : (c.jump t).sscratch = c.sscratch := rfl
@[simp] theorem Ctx.jump_ptroot (c : Ctx) (t : Word) : (c.jump t).ptroot = c.ptroot := rfl
@[simp] theorem Ctx.jump_ptdesc (c : Ctx) (t : Word) : (c.jump t).ptdesc = c.ptdesc := rfl
@[simp] theorem Ctx.jump_pasid (c : Ctx) (t : Word) : (c.jump t).pasid = c.pasid := rfl
@[simp] theorem Ctx.jump_quantum (c : Ctx) (t : Word) : (c.jump t).quantum = c.quantum := rfl
@[simp] theorem Ctx.jump_wdog (c : Ctx) (t : Word) : (c.jump t).wdog = c.wdog := rfl
@[simp] theorem Ctx.jump_desc (c : Ctx) (t : Word) : (c.jump t).desc = c.desc := rfl
@[simp] theorem Ctx.jump_seen (c : Ctx) (t : Word) : (c.jump t).seen = c.seen := rfl
@[simp] theorem Ctx.jump_tseen (c : Ctx) (t : Word) : (c.jump t).tseen = c.tseen := rfl
@[simp] theorem Ctx.jump_chans (c : Ctx) (t : Word) : (c.jump t).chans = c.chans := rfl
@[simp] theorem Ctx.jump_pipes (c : Ctx) (t : Word) : (c.jump t).pipes = c.pipes := rfl
@[simp] theorem Ctx.jump_viq (c : Ctx) (t : Word) : (c.jump t).viq = c.viq := rfl
@[simp] theorem Ctx.jump_queued (c : Ctx) (t : Word) : (c.jump t).queued = c.queued := rfl
@[simp] theorem Ctx.jump_async (c : Ctx) (t : Word) : (c.jump t).async = c.async := rfl
@[simp] theorem Ctx.jump_preemptDue (c : Ctx) (t : Word) : (c.jump t).preemptDue = c.preemptDue := rfl
@[simp] theorem Ctx.jump_preemptEntry (c : Ctx) (t : Word) : (c.jump t).preemptEntry = c.preemptEntry := rfl
@[simp] theorem Ctx.jump_graceOver (c : Ctx) (t : Word) : (c.jump t).graceOver = c.graceOver := rfl
@[simp] theorem Ctx.jump_group (c : Ctx) (t : Word) : (c.jump t).group = c.group := rfl
@[simp] theorem Ctx.jump_remote (c : Ctx) (t : Word) : (c.jump t).remote = c.remote := rfl
@[simp] theorem Ctx.jump_answered (c : Ctx) (t : Word) : (c.jump t).answered = c.answered := rfl
@[simp] theorem Ctx.jump_order (c : Ctx) (t : Word) : (c.jump t).order = c.order := rfl
@[simp] theorem Ctx.jump_inval (c : Ctx) (t : Word) : (c.jump t).inval = c.inval := rfl
@[simp] theorem Ctx.jump_reply (c : Ctx) (t : Word) : (c.jump t).reply = c.reply := rfl
@[simp] theorem Ctx.jump_poisoned (c : Ctx) (t : Word) : (c.jump t).poisoned = c.poisoned := rfl
@[simp] theorem Ctx.jump_atWaypoint (c : Ctx) (t : Word) : (c.jump t).atWaypoint = c.atWaypoint := rfl
@[simp] theorem Ctx.jump_sid (c : Ctx) (t : Word) : (c.jump t).sid = c.sid := rfl
@[simp] theorem Ctx.jump_queue (c : Ctx) (t : Word) : (c.jump t).queue = c.queue := rfl
@[simp] theorem Ctx.jump_record (c : Ctx) (t : Word) : (c.jump t).record = c.record := rfl
@[simp] theorem Ctx.jump_recordId (c : Ctx) (t : Word) : (c.jump t).recordId = c.recordId := rfl
@[simp] theorem Ctx.jump_gangId (c : Ctx) (t : Word) : (c.jump t).gangId = c.gangId := rfl
@[simp] theorem Ctx.jump_member (c : Ctx) (t : Word) : (c.jump t).member = c.member := rfl
@[simp] theorem Ctx.jump_placedAt (c : Ctx) (t : Word) : (c.jump t).placedAt = c.placedAt := rfl
@[simp] theorem Ctx.jump_grants (c : Ctx) (t : Word) : (c.jump t).grants = c.grants := rfl
@[simp] theorem Ctx.jump_parent (c : Ctx) (t : Word) : (c.jump t).parent = c.parent := rfl
@[simp] theorem Ctx.jump_children (c : Ctx) (t : Word) : (c.jump t).children = c.children := rfl
@[simp] theorem Ctx.jump_vparts (c : Ctx) (t : Word) : (c.jump t).vparts = c.vparts := rfl
@[simp] theorem Ctx.jump_group8 (c : Ctx) (t : Word) : (c.jump t).group8 = c.group8 := rfl
@[simp] theorem Ctx.jump_part (c : Ctx) (t : Word) : (c.jump t).part = c.part := rfl
@[simp] theorem Ctx.jump_image (c : Ctx) (t : Word) : (c.jump t).image = c.image := rfl
@[simp] theorem Ctx.jump_frozenUnits (c : Ctx) (t : Word) : (c.jump t).frozenUnits = c.frozenUnits := rfl
@[simp] theorem Ctx.jump_pc (c : Ctx) (t : Word) : (c.jump t).pc = t := rfl
@[simp] theorem Ctx.jump_retired (c : Ctx) (t : Word) : (c.jump t).retired = c.retired + 1 := rfl

/-! ## merge -/

@[simp] theorem Ctx.merge_mode (c : Ctx) (f : FpFlags) : (c.merge f).mode = c.mode := rfl
@[simp] theorem Ctx.merge_wait (c : Ctx) (f : FpFlags) : (c.merge f).wait = c.wait := rfl
@[simp] theorem Ctx.merge_x (c : Ctx) (f : FpFlags) : (c.merge f).x = c.x := rfl
@[simp] theorem Ctx.merge_pc (c : Ctx) (f : FpFlags) : (c.merge f).pc = c.pc := rfl
@[simp] theorem Ctx.merge_vl (c : Ctx) (f : FpFlags) : (c.merge f).vl = c.vl := rfl
@[simp] theorem Ctx.merge_vstart (c : Ctx) (f : FpFlags) : (c.merge f).vstart = c.vstart := rfl
@[simp] theorem Ctx.merge_vspan (c : Ctx) (f : FpFlags) : (c.merge f).vspan = c.vspan := rfl
@[simp] theorem Ctx.merge_vlmax (c : Ctx) (f : FpFlags) : (c.merge f).vlmax = c.vlmax := rfl
@[simp] theorem Ctx.merge_vdirty (c : Ctx) (f : FpFlags) : (c.merge f).vdirty = c.vdirty := rfl
@[simp] theorem Ctx.merge_dirtySince (c : Ctx) (f : FpFlags) : (c.merge f).dirtySince = c.dirtySince := rfl
@[simp] theorem Ctx.merge_efc (c : Ctx) (f : FpFlags) : (c.merge f).efc = c.efc := rfl
@[simp] theorem Ctx.merge_modq (c : Ctx) (f : FpFlags) : (c.merge f).modq = c.modq := rfl
@[simp] theorem Ctx.merge_tcfg (c : Ctx) (f : FpFlags) : (c.merge f).tcfg = c.tcfg := rfl
@[simp] theorem Ctx.merge_ten (c : Ctx) (f : FpFlags) : (c.merge f).ten = c.ten := rfl
@[simp] theorem Ctx.merge_accfmt (c : Ctx) (f : FpFlags) : (c.merge f).accfmt = c.accfmt := rfl
@[simp] theorem Ctx.merge_mxm (c : Ctx) (f : FpFlags) : (c.merge f).mxm = c.mxm := rfl
@[simp] theorem Ctx.merge_mxn (c : Ctx) (f : FpFlags) : (c.merge f).mxn = c.mxn := rfl
@[simp] theorem Ctx.merge_mxk (c : Ctx) (f : FpFlags) : (c.merge f).mxk = c.mxk := rfl
@[simp] theorem Ctx.merge_mxlat (c : Ctx) (f : FpFlags) : (c.merge f).mxlat = c.mxlat := rfl
@[simp] theorem Ctx.merge_retired (c : Ctx) (f : FpFlags) : (c.merge f).retired = c.retired := rfl
@[simp] theorem Ctx.merge_lidx (c : Ctx) (f : FpFlags) : (c.merge f).lidx = c.lidx := rfl
@[simp] theorem Ctx.merge_status (c : Ctx) (f : FpFlags) : (c.merge f).status = c.status := rfl
@[simp] theorem Ctx.merge_stvec (c : Ctx) (f : FpFlags) : (c.merge f).stvec = c.stvec := rfl
@[simp] theorem Ctx.merge_cause (c : Ctx) (f : FpFlags) : (c.merge f).cause = c.cause := rfl
@[simp] theorem Ctx.merge_epc (c : Ctx) (f : FpFlags) : (c.merge f).epc = c.epc := rfl
@[simp] theorem Ctx.merge_eval (c : Ctx) (f : FpFlags) : (c.merge f).eval = c.eval := rfl
@[simp] theorem Ctx.merge_esub (c : Ctx) (f : FpFlags) : (c.merge f).esub = c.esub := rfl
@[simp] theorem Ctx.merge_eelem (c : Ctx) (f : FpFlags) : (c.merge f).eelem = c.eelem := rfl
@[simp] theorem Ctx.merge_sscratch (c : Ctx) (f : FpFlags) : (c.merge f).sscratch = c.sscratch := rfl
@[simp] theorem Ctx.merge_ptroot (c : Ctx) (f : FpFlags) : (c.merge f).ptroot = c.ptroot := rfl
@[simp] theorem Ctx.merge_ptdesc (c : Ctx) (f : FpFlags) : (c.merge f).ptdesc = c.ptdesc := rfl
@[simp] theorem Ctx.merge_pasid (c : Ctx) (f : FpFlags) : (c.merge f).pasid = c.pasid := rfl
@[simp] theorem Ctx.merge_quantum (c : Ctx) (f : FpFlags) : (c.merge f).quantum = c.quantum := rfl
@[simp] theorem Ctx.merge_wdog (c : Ctx) (f : FpFlags) : (c.merge f).wdog = c.wdog := rfl
@[simp] theorem Ctx.merge_desc (c : Ctx) (f : FpFlags) : (c.merge f).desc = c.desc := rfl
@[simp] theorem Ctx.merge_seen (c : Ctx) (f : FpFlags) : (c.merge f).seen = c.seen := rfl
@[simp] theorem Ctx.merge_tseen (c : Ctx) (f : FpFlags) : (c.merge f).tseen = c.tseen := rfl
@[simp] theorem Ctx.merge_chans (c : Ctx) (f : FpFlags) : (c.merge f).chans = c.chans := rfl
@[simp] theorem Ctx.merge_pipes (c : Ctx) (f : FpFlags) : (c.merge f).pipes = c.pipes := rfl
@[simp] theorem Ctx.merge_viq (c : Ctx) (f : FpFlags) : (c.merge f).viq = c.viq := rfl
@[simp] theorem Ctx.merge_queued (c : Ctx) (f : FpFlags) : (c.merge f).queued = c.queued := rfl
@[simp] theorem Ctx.merge_async (c : Ctx) (f : FpFlags) : (c.merge f).async = c.async := rfl
@[simp] theorem Ctx.merge_preemptDue (c : Ctx) (f : FpFlags) : (c.merge f).preemptDue = c.preemptDue := rfl
@[simp] theorem Ctx.merge_preemptEntry (c : Ctx) (f : FpFlags) : (c.merge f).preemptEntry = c.preemptEntry := rfl
@[simp] theorem Ctx.merge_graceOver (c : Ctx) (f : FpFlags) : (c.merge f).graceOver = c.graceOver := rfl
@[simp] theorem Ctx.merge_group (c : Ctx) (f : FpFlags) : (c.merge f).group = c.group := rfl
@[simp] theorem Ctx.merge_remote (c : Ctx) (f : FpFlags) : (c.merge f).remote = c.remote := rfl
@[simp] theorem Ctx.merge_answered (c : Ctx) (f : FpFlags) : (c.merge f).answered = c.answered := rfl
@[simp] theorem Ctx.merge_order (c : Ctx) (f : FpFlags) : (c.merge f).order = c.order := rfl
@[simp] theorem Ctx.merge_inval (c : Ctx) (f : FpFlags) : (c.merge f).inval = c.inval := rfl
@[simp] theorem Ctx.merge_reply (c : Ctx) (f : FpFlags) : (c.merge f).reply = c.reply := rfl
@[simp] theorem Ctx.merge_poisoned (c : Ctx) (f : FpFlags) : (c.merge f).poisoned = c.poisoned := rfl
@[simp] theorem Ctx.merge_atWaypoint (c : Ctx) (f : FpFlags) : (c.merge f).atWaypoint = c.atWaypoint := rfl
@[simp] theorem Ctx.merge_sid (c : Ctx) (f : FpFlags) : (c.merge f).sid = c.sid := rfl
@[simp] theorem Ctx.merge_queue (c : Ctx) (f : FpFlags) : (c.merge f).queue = c.queue := rfl
@[simp] theorem Ctx.merge_record (c : Ctx) (f : FpFlags) : (c.merge f).record = c.record := rfl
@[simp] theorem Ctx.merge_recordId (c : Ctx) (f : FpFlags) : (c.merge f).recordId = c.recordId := rfl
@[simp] theorem Ctx.merge_gangId (c : Ctx) (f : FpFlags) : (c.merge f).gangId = c.gangId := rfl
@[simp] theorem Ctx.merge_member (c : Ctx) (f : FpFlags) : (c.merge f).member = c.member := rfl
@[simp] theorem Ctx.merge_placedAt (c : Ctx) (f : FpFlags) : (c.merge f).placedAt = c.placedAt := rfl
@[simp] theorem Ctx.merge_grants (c : Ctx) (f : FpFlags) : (c.merge f).grants = c.grants := rfl
@[simp] theorem Ctx.merge_parent (c : Ctx) (f : FpFlags) : (c.merge f).parent = c.parent := rfl
@[simp] theorem Ctx.merge_children (c : Ctx) (f : FpFlags) : (c.merge f).children = c.children := rfl
@[simp] theorem Ctx.merge_vparts (c : Ctx) (f : FpFlags) : (c.merge f).vparts = c.vparts := rfl
@[simp] theorem Ctx.merge_group8 (c : Ctx) (f : FpFlags) : (c.merge f).group8 = c.group8 := rfl
@[simp] theorem Ctx.merge_part (c : Ctx) (f : FpFlags) : (c.merge f).part = c.part := rfl
@[simp] theorem Ctx.merge_image (c : Ctx) (f : FpFlags) : (c.merge f).image = c.image := rfl
@[simp] theorem Ctx.merge_frozenUnits (c : Ctx) (f : FpFlags) : (c.merge f).frozenUnits = c.frozenUnits := rfl
@[simp] theorem Ctx.merge_fcsr (c : Ctx) (f : FpFlags) : (c.merge f).fcsr = c.fcsr ||| f.setWidth 64 := rfl

/-! ## setReg -/

@[simp] theorem Ctx.setReg_mode (c : Ctx) (r : XReg) (v : Word) : (c.setReg r v).mode = c.mode := by unfold Ctx.setReg; split <;> rfl
@[simp] theorem Ctx.setReg_wait (c : Ctx) (r : XReg) (v : Word) : (c.setReg r v).wait = c.wait := by unfold Ctx.setReg; split <;> rfl
@[simp] theorem Ctx.setReg_pc (c : Ctx) (r : XReg) (v : Word) : (c.setReg r v).pc = c.pc := by unfold Ctx.setReg; split <;> rfl
@[simp] theorem Ctx.setReg_vl (c : Ctx) (r : XReg) (v : Word) : (c.setReg r v).vl = c.vl := by unfold Ctx.setReg; split <;> rfl
@[simp] theorem Ctx.setReg_vstart (c : Ctx) (r : XReg) (v : Word) : (c.setReg r v).vstart = c.vstart := by unfold Ctx.setReg; split <;> rfl
@[simp] theorem Ctx.setReg_vspan (c : Ctx) (r : XReg) (v : Word) : (c.setReg r v).vspan = c.vspan := by unfold Ctx.setReg; split <;> rfl
@[simp] theorem Ctx.setReg_vlmax (c : Ctx) (r : XReg) (v : Word) : (c.setReg r v).vlmax = c.vlmax := by unfold Ctx.setReg; split <;> rfl
@[simp] theorem Ctx.setReg_vdirty (c : Ctx) (r : XReg) (v : Word) : (c.setReg r v).vdirty = c.vdirty := by unfold Ctx.setReg; split <;> rfl
@[simp] theorem Ctx.setReg_dirtySince (c : Ctx) (r : XReg) (v : Word) : (c.setReg r v).dirtySince = c.dirtySince := by unfold Ctx.setReg; split <;> rfl
@[simp] theorem Ctx.setReg_efc (c : Ctx) (r : XReg) (v : Word) : (c.setReg r v).efc = c.efc := by unfold Ctx.setReg; split <;> rfl
@[simp] theorem Ctx.setReg_modq (c : Ctx) (r : XReg) (v : Word) : (c.setReg r v).modq = c.modq := by unfold Ctx.setReg; split <;> rfl
@[simp] theorem Ctx.setReg_fcsr (c : Ctx) (r : XReg) (v : Word) : (c.setReg r v).fcsr = c.fcsr := by unfold Ctx.setReg; split <;> rfl
@[simp] theorem Ctx.setReg_tcfg (c : Ctx) (r : XReg) (v : Word) : (c.setReg r v).tcfg = c.tcfg := by unfold Ctx.setReg; split <;> rfl
@[simp] theorem Ctx.setReg_ten (c : Ctx) (r : XReg) (v : Word) : (c.setReg r v).ten = c.ten := by unfold Ctx.setReg; split <;> rfl
@[simp] theorem Ctx.setReg_accfmt (c : Ctx) (r : XReg) (v : Word) : (c.setReg r v).accfmt = c.accfmt := by unfold Ctx.setReg; split <;> rfl
@[simp] theorem Ctx.setReg_mxm (c : Ctx) (r : XReg) (v : Word) : (c.setReg r v).mxm = c.mxm := by unfold Ctx.setReg; split <;> rfl
@[simp] theorem Ctx.setReg_mxn (c : Ctx) (r : XReg) (v : Word) : (c.setReg r v).mxn = c.mxn := by unfold Ctx.setReg; split <;> rfl
@[simp] theorem Ctx.setReg_mxk (c : Ctx) (r : XReg) (v : Word) : (c.setReg r v).mxk = c.mxk := by unfold Ctx.setReg; split <;> rfl
@[simp] theorem Ctx.setReg_mxlat (c : Ctx) (r : XReg) (v : Word) : (c.setReg r v).mxlat = c.mxlat := by unfold Ctx.setReg; split <;> rfl
@[simp] theorem Ctx.setReg_retired (c : Ctx) (r : XReg) (v : Word) : (c.setReg r v).retired = c.retired := by unfold Ctx.setReg; split <;> rfl
@[simp] theorem Ctx.setReg_lidx (c : Ctx) (r : XReg) (v : Word) : (c.setReg r v).lidx = c.lidx := by unfold Ctx.setReg; split <;> rfl
@[simp] theorem Ctx.setReg_status (c : Ctx) (r : XReg) (v : Word) : (c.setReg r v).status = c.status := by unfold Ctx.setReg; split <;> rfl
@[simp] theorem Ctx.setReg_stvec (c : Ctx) (r : XReg) (v : Word) : (c.setReg r v).stvec = c.stvec := by unfold Ctx.setReg; split <;> rfl
@[simp] theorem Ctx.setReg_cause (c : Ctx) (r : XReg) (v : Word) : (c.setReg r v).cause = c.cause := by unfold Ctx.setReg; split <;> rfl
@[simp] theorem Ctx.setReg_epc (c : Ctx) (r : XReg) (v : Word) : (c.setReg r v).epc = c.epc := by unfold Ctx.setReg; split <;> rfl
@[simp] theorem Ctx.setReg_eval (c : Ctx) (r : XReg) (v : Word) : (c.setReg r v).eval = c.eval := by unfold Ctx.setReg; split <;> rfl
@[simp] theorem Ctx.setReg_esub (c : Ctx) (r : XReg) (v : Word) : (c.setReg r v).esub = c.esub := by unfold Ctx.setReg; split <;> rfl
@[simp] theorem Ctx.setReg_eelem (c : Ctx) (r : XReg) (v : Word) : (c.setReg r v).eelem = c.eelem := by unfold Ctx.setReg; split <;> rfl
@[simp] theorem Ctx.setReg_sscratch (c : Ctx) (r : XReg) (v : Word) : (c.setReg r v).sscratch = c.sscratch := by unfold Ctx.setReg; split <;> rfl
@[simp] theorem Ctx.setReg_ptroot (c : Ctx) (r : XReg) (v : Word) : (c.setReg r v).ptroot = c.ptroot := by unfold Ctx.setReg; split <;> rfl
@[simp] theorem Ctx.setReg_ptdesc (c : Ctx) (r : XReg) (v : Word) : (c.setReg r v).ptdesc = c.ptdesc := by unfold Ctx.setReg; split <;> rfl
@[simp] theorem Ctx.setReg_pasid (c : Ctx) (r : XReg) (v : Word) : (c.setReg r v).pasid = c.pasid := by unfold Ctx.setReg; split <;> rfl
@[simp] theorem Ctx.setReg_quantum (c : Ctx) (r : XReg) (v : Word) : (c.setReg r v).quantum = c.quantum := by unfold Ctx.setReg; split <;> rfl
@[simp] theorem Ctx.setReg_wdog (c : Ctx) (r : XReg) (v : Word) : (c.setReg r v).wdog = c.wdog := by unfold Ctx.setReg; split <;> rfl
@[simp] theorem Ctx.setReg_desc (c : Ctx) (r : XReg) (v : Word) : (c.setReg r v).desc = c.desc := by unfold Ctx.setReg; split <;> rfl
@[simp] theorem Ctx.setReg_seen (c : Ctx) (r : XReg) (v : Word) : (c.setReg r v).seen = c.seen := by unfold Ctx.setReg; split <;> rfl
@[simp] theorem Ctx.setReg_tseen (c : Ctx) (r : XReg) (v : Word) : (c.setReg r v).tseen = c.tseen := by unfold Ctx.setReg; split <;> rfl
@[simp] theorem Ctx.setReg_chans (c : Ctx) (r : XReg) (v : Word) : (c.setReg r v).chans = c.chans := by unfold Ctx.setReg; split <;> rfl
@[simp] theorem Ctx.setReg_pipes (c : Ctx) (r : XReg) (v : Word) : (c.setReg r v).pipes = c.pipes := by unfold Ctx.setReg; split <;> rfl
@[simp] theorem Ctx.setReg_viq (c : Ctx) (r : XReg) (v : Word) : (c.setReg r v).viq = c.viq := by unfold Ctx.setReg; split <;> rfl
@[simp] theorem Ctx.setReg_queued (c : Ctx) (r : XReg) (v : Word) : (c.setReg r v).queued = c.queued := by unfold Ctx.setReg; split <;> rfl
@[simp] theorem Ctx.setReg_async (c : Ctx) (r : XReg) (v : Word) : (c.setReg r v).async = c.async := by unfold Ctx.setReg; split <;> rfl
@[simp] theorem Ctx.setReg_preemptDue (c : Ctx) (r : XReg) (v : Word) : (c.setReg r v).preemptDue = c.preemptDue := by unfold Ctx.setReg; split <;> rfl
@[simp] theorem Ctx.setReg_preemptEntry (c : Ctx) (r : XReg) (v : Word) : (c.setReg r v).preemptEntry = c.preemptEntry := by unfold Ctx.setReg; split <;> rfl
@[simp] theorem Ctx.setReg_graceOver (c : Ctx) (r : XReg) (v : Word) : (c.setReg r v).graceOver = c.graceOver := by unfold Ctx.setReg; split <;> rfl
@[simp] theorem Ctx.setReg_group (c : Ctx) (r : XReg) (v : Word) : (c.setReg r v).group = c.group := by unfold Ctx.setReg; split <;> rfl
@[simp] theorem Ctx.setReg_remote (c : Ctx) (r : XReg) (v : Word) : (c.setReg r v).remote = c.remote := by unfold Ctx.setReg; split <;> rfl
@[simp] theorem Ctx.setReg_answered (c : Ctx) (r : XReg) (v : Word) : (c.setReg r v).answered = c.answered := by unfold Ctx.setReg; split <;> rfl
@[simp] theorem Ctx.setReg_order (c : Ctx) (r : XReg) (v : Word) : (c.setReg r v).order = c.order := by unfold Ctx.setReg; split <;> rfl
@[simp] theorem Ctx.setReg_inval (c : Ctx) (r : XReg) (v : Word) : (c.setReg r v).inval = c.inval := by unfold Ctx.setReg; split <;> rfl
@[simp] theorem Ctx.setReg_reply (c : Ctx) (r : XReg) (v : Word) : (c.setReg r v).reply = c.reply := by unfold Ctx.setReg; split <;> rfl
@[simp] theorem Ctx.setReg_poisoned (c : Ctx) (r : XReg) (v : Word) : (c.setReg r v).poisoned = c.poisoned := by unfold Ctx.setReg; split <;> rfl
@[simp] theorem Ctx.setReg_atWaypoint (c : Ctx) (r : XReg) (v : Word) : (c.setReg r v).atWaypoint = c.atWaypoint := by unfold Ctx.setReg; split <;> rfl
@[simp] theorem Ctx.setReg_sid (c : Ctx) (r : XReg) (v : Word) : (c.setReg r v).sid = c.sid := by unfold Ctx.setReg; split <;> rfl
@[simp] theorem Ctx.setReg_queue (c : Ctx) (r : XReg) (v : Word) : (c.setReg r v).queue = c.queue := by unfold Ctx.setReg; split <;> rfl
@[simp] theorem Ctx.setReg_record (c : Ctx) (r : XReg) (v : Word) : (c.setReg r v).record = c.record := by unfold Ctx.setReg; split <;> rfl
@[simp] theorem Ctx.setReg_recordId (c : Ctx) (r : XReg) (v : Word) : (c.setReg r v).recordId = c.recordId := by unfold Ctx.setReg; split <;> rfl
@[simp] theorem Ctx.setReg_gangId (c : Ctx) (r : XReg) (v : Word) : (c.setReg r v).gangId = c.gangId := by unfold Ctx.setReg; split <;> rfl
@[simp] theorem Ctx.setReg_member (c : Ctx) (r : XReg) (v : Word) : (c.setReg r v).member = c.member := by unfold Ctx.setReg; split <;> rfl
@[simp] theorem Ctx.setReg_placedAt (c : Ctx) (r : XReg) (v : Word) : (c.setReg r v).placedAt = c.placedAt := by unfold Ctx.setReg; split <;> rfl
@[simp] theorem Ctx.setReg_grants (c : Ctx) (r : XReg) (v : Word) : (c.setReg r v).grants = c.grants := by unfold Ctx.setReg; split <;> rfl
@[simp] theorem Ctx.setReg_parent (c : Ctx) (r : XReg) (v : Word) : (c.setReg r v).parent = c.parent := by unfold Ctx.setReg; split <;> rfl
@[simp] theorem Ctx.setReg_children (c : Ctx) (r : XReg) (v : Word) : (c.setReg r v).children = c.children := by unfold Ctx.setReg; split <;> rfl
@[simp] theorem Ctx.setReg_vparts (c : Ctx) (r : XReg) (v : Word) : (c.setReg r v).vparts = c.vparts := by unfold Ctx.setReg; split <;> rfl
@[simp] theorem Ctx.setReg_group8 (c : Ctx) (r : XReg) (v : Word) : (c.setReg r v).group8 = c.group8 := by unfold Ctx.setReg; split <;> rfl
@[simp] theorem Ctx.setReg_part (c : Ctx) (r : XReg) (v : Word) : (c.setReg r v).part = c.part := by unfold Ctx.setReg; split <;> rfl
@[simp] theorem Ctx.setReg_image (c : Ctx) (r : XReg) (v : Word) : (c.setReg r v).image = c.image := by unfold Ctx.setReg; split <;> rfl
@[simp] theorem Ctx.setReg_frozenUnits (c : Ctx) (r : XReg) (v : Word) : (c.setReg r v).frozenUnits = c.frozenUnits := by unfold Ctx.setReg; split <;> rfl

/-! ## tret -/

@[simp] theorem Ctx.tret_mode (c : Ctx)  : (c.tret).mode = c.mode := rfl
@[simp] theorem Ctx.tret_wait (c : Ctx)  : (c.tret).wait = c.wait := rfl
@[simp] theorem Ctx.tret_x (c : Ctx)  : (c.tret).x = c.x := rfl
@[simp] theorem Ctx.tret_vl (c : Ctx)  : (c.tret).vl = c.vl := rfl
@[simp] theorem Ctx.tret_vstart (c : Ctx)  : (c.tret).vstart = c.vstart := rfl
@[simp] theorem Ctx.tret_vspan (c : Ctx)  : (c.tret).vspan = c.vspan := rfl
@[simp] theorem Ctx.tret_vlmax (c : Ctx)  : (c.tret).vlmax = c.vlmax := rfl
@[simp] theorem Ctx.tret_vdirty (c : Ctx)  : (c.tret).vdirty = c.vdirty := rfl
@[simp] theorem Ctx.tret_dirtySince (c : Ctx)  : (c.tret).dirtySince = c.dirtySince := rfl
@[simp] theorem Ctx.tret_efc (c : Ctx)  : (c.tret).efc = c.efc := rfl
@[simp] theorem Ctx.tret_modq (c : Ctx)  : (c.tret).modq = c.modq := rfl
@[simp] theorem Ctx.tret_fcsr (c : Ctx)  : (c.tret).fcsr = c.fcsr := rfl
@[simp] theorem Ctx.tret_tcfg (c : Ctx)  : (c.tret).tcfg = c.tcfg := rfl
@[simp] theorem Ctx.tret_ten (c : Ctx)  : (c.tret).ten = c.ten := rfl
@[simp] theorem Ctx.tret_accfmt (c : Ctx)  : (c.tret).accfmt = c.accfmt := rfl
@[simp] theorem Ctx.tret_mxm (c : Ctx)  : (c.tret).mxm = c.mxm := rfl
@[simp] theorem Ctx.tret_mxn (c : Ctx)  : (c.tret).mxn = c.mxn := rfl
@[simp] theorem Ctx.tret_mxk (c : Ctx)  : (c.tret).mxk = c.mxk := rfl
@[simp] theorem Ctx.tret_mxlat (c : Ctx)  : (c.tret).mxlat = c.mxlat := rfl
@[simp] theorem Ctx.tret_lidx (c : Ctx)  : (c.tret).lidx = c.lidx := rfl
@[simp] theorem Ctx.tret_stvec (c : Ctx)  : (c.tret).stvec = c.stvec := rfl
@[simp] theorem Ctx.tret_cause (c : Ctx)  : (c.tret).cause = c.cause := rfl
@[simp] theorem Ctx.tret_epc (c : Ctx)  : (c.tret).epc = c.epc := rfl
@[simp] theorem Ctx.tret_eval (c : Ctx)  : (c.tret).eval = c.eval := rfl
@[simp] theorem Ctx.tret_esub (c : Ctx)  : (c.tret).esub = c.esub := rfl
@[simp] theorem Ctx.tret_eelem (c : Ctx)  : (c.tret).eelem = c.eelem := rfl
@[simp] theorem Ctx.tret_sscratch (c : Ctx)  : (c.tret).sscratch = c.sscratch := rfl
@[simp] theorem Ctx.tret_ptroot (c : Ctx)  : (c.tret).ptroot = c.ptroot := rfl
@[simp] theorem Ctx.tret_ptdesc (c : Ctx)  : (c.tret).ptdesc = c.ptdesc := rfl
@[simp] theorem Ctx.tret_pasid (c : Ctx)  : (c.tret).pasid = c.pasid := rfl
@[simp] theorem Ctx.tret_quantum (c : Ctx)  : (c.tret).quantum = c.quantum := rfl
@[simp] theorem Ctx.tret_wdog (c : Ctx)  : (c.tret).wdog = c.wdog := rfl
@[simp] theorem Ctx.tret_desc (c : Ctx)  : (c.tret).desc = c.desc := rfl
@[simp] theorem Ctx.tret_seen (c : Ctx)  : (c.tret).seen = c.seen := rfl
@[simp] theorem Ctx.tret_tseen (c : Ctx)  : (c.tret).tseen = c.tseen := rfl
@[simp] theorem Ctx.tret_chans (c : Ctx)  : (c.tret).chans = c.chans := rfl
@[simp] theorem Ctx.tret_pipes (c : Ctx)  : (c.tret).pipes = c.pipes := rfl
@[simp] theorem Ctx.tret_viq (c : Ctx)  : (c.tret).viq = c.viq := rfl
@[simp] theorem Ctx.tret_queued (c : Ctx)  : (c.tret).queued = c.queued := rfl
@[simp] theorem Ctx.tret_async (c : Ctx)  : (c.tret).async = c.async := rfl
@[simp] theorem Ctx.tret_preemptDue (c : Ctx)  : (c.tret).preemptDue = c.preemptDue := rfl
@[simp] theorem Ctx.tret_preemptEntry (c : Ctx)  : (c.tret).preemptEntry = c.preemptEntry := rfl
@[simp] theorem Ctx.tret_graceOver (c : Ctx)  : (c.tret).graceOver = c.graceOver := rfl
@[simp] theorem Ctx.tret_group (c : Ctx)  : (c.tret).group = c.group := rfl
@[simp] theorem Ctx.tret_remote (c : Ctx)  : (c.tret).remote = c.remote := rfl
@[simp] theorem Ctx.tret_answered (c : Ctx)  : (c.tret).answered = c.answered := rfl
@[simp] theorem Ctx.tret_order (c : Ctx)  : (c.tret).order = c.order := rfl
@[simp] theorem Ctx.tret_inval (c : Ctx)  : (c.tret).inval = c.inval := rfl
@[simp] theorem Ctx.tret_reply (c : Ctx)  : (c.tret).reply = c.reply := rfl
@[simp] theorem Ctx.tret_poisoned (c : Ctx)  : (c.tret).poisoned = c.poisoned := rfl
@[simp] theorem Ctx.tret_atWaypoint (c : Ctx)  : (c.tret).atWaypoint = c.atWaypoint := rfl
@[simp] theorem Ctx.tret_sid (c : Ctx)  : (c.tret).sid = c.sid := rfl
@[simp] theorem Ctx.tret_queue (c : Ctx)  : (c.tret).queue = c.queue := rfl
@[simp] theorem Ctx.tret_record (c : Ctx)  : (c.tret).record = c.record := rfl
@[simp] theorem Ctx.tret_recordId (c : Ctx)  : (c.tret).recordId = c.recordId := rfl
@[simp] theorem Ctx.tret_gangId (c : Ctx)  : (c.tret).gangId = c.gangId := rfl
@[simp] theorem Ctx.tret_member (c : Ctx)  : (c.tret).member = c.member := rfl
@[simp] theorem Ctx.tret_placedAt (c : Ctx)  : (c.tret).placedAt = c.placedAt := rfl
@[simp] theorem Ctx.tret_grants (c : Ctx)  : (c.tret).grants = c.grants := rfl
@[simp] theorem Ctx.tret_parent (c : Ctx)  : (c.tret).parent = c.parent := rfl
@[simp] theorem Ctx.tret_children (c : Ctx)  : (c.tret).children = c.children := rfl
@[simp] theorem Ctx.tret_vparts (c : Ctx)  : (c.tret).vparts = c.vparts := rfl
@[simp] theorem Ctx.tret_group8 (c : Ctx)  : (c.tret).group8 = c.group8 := rfl
@[simp] theorem Ctx.tret_part (c : Ctx)  : (c.tret).part = c.part := rfl
@[simp] theorem Ctx.tret_image (c : Ctx)  : (c.tret).image = c.image := rfl
@[simp] theorem Ctx.tret_frozenUnits (c : Ctx)  : (c.tret).frozenUnits = c.frozenUnits := rfl
@[simp] theorem Ctx.tret_pc (c : Ctx)  : (c.tret).pc = c.epc := rfl
@[simp] theorem Ctx.tret_status (c : Ctx)  : (c.tret).status = statusOf false false c.psup := rfl
@[simp] theorem Ctx.tret_retired (c : Ctx)  : (c.tret).retired = c.retired + 1 := rfl

end Sys2Proof.Machine
end

