-- ==== Sys2Proof/Laws/Memory.lean ====
section
/-! SUPPORT. Memory: a read after a write to the same byte gives the value, a write leaves every other byte alone, and every
operation on a table of cells keeps its canonical form (R243). -/

namespace Sys2Proof.Machine

/-! ## One byte -/

theorem State.readByte_writeByte_same (s : State) (pa : Nat) (b : Byte) (h : Memory.wf s.mem = true) :
    (s.writeByte pa b).readByte pa = b :=
  smGet_set_same 0 b h

theorem State.readByte_writeByte_other (s : State) {pa a : Nat} (b : Byte) (h : s.cell a ≠ s.cell pa) :
    (s.writeByte pa b).readByte a = s.readByte a :=
  smGet_set_other 0 h b s.mem

theorem State.readSp_writeSp_same (s : State) (cl a : Nat) (b : Byte) (h : Memory.wf s.sp = true) :
    (s.writeSp cl a b).readSp cl a = b :=
  smGet_set_same 0 b h

/-! ## Bytes of a physical range -/

@[simp] theorem State.writeBytes_glox (l : List Byte) : ∀ (s : State) (pa : Nat), (s.writeBytes pa l).glox = s.glox := by
  induction l with
  | nil => intro s pa; rfl
  | cons b l ih => intro s pa; simp [State.writeBytes, ih]

theorem State.cell_congr {s t : State} (h : t.glox = s.glox) (a : Nat) : t.cell a = s.cell a := by
  simp [State.cell, h]

@[simp] theorem State.writeBytes_cell (s : State) (pa : Nat) (l : List Byte) (a : Nat) :
    (s.writeBytes pa l).cell a = s.cell a := State.cell_congr (by simp) a

/-- A store to a physical range leaves every byte outside its cells alone. -/
theorem State.readByte_writeBytes_other (l : List Byte) : ∀ (s : State) (pa a : Nat),
    (∀ i, i < l.length → s.cell a ≠ s.cell (pa + i)) → (s.writeBytes pa l).readByte a = s.readByte a := by
  induction l with
  | nil => intro s pa a _; rfl
  | cons b l ih =>
    intro s pa a h
    have h0 := h 0 (by simp)
    have hc : ∀ x, (s.writeByte pa b).cell x = s.cell x := fun x => rfl
    unfold State.writeBytes
    rw [ih _ _ _ (fun i hi => by
      rw [hc, hc, Nat.add_assoc, Nat.add_comm 1 i]
      exact h (i + 1) (by simpa using hi))]
    exact s.readByte_writeByte_other b h0

/-! ## The canonical form -/

theorem Memory.wf_set {m : List Host.Cell} (h : Memory.wf m = true) (k : Nat) (b : Byte) : Memory.wf (smSet 0 m k b) = true :=
  smWf_set 0 k b h

theorem State.writeByte_wf (s : State) (pa : Nat) (b : Byte) (h : Memory.wf s.mem = true) :
    Memory.wf (s.writeByte pa b).mem = true := Memory.wf_set h _ b

theorem State.writeSp_wf (s : State) (cl a : Nat) (b : Byte) (h : Memory.wf s.sp = true) :
    Memory.wf (s.writeSp cl a b).sp = true := Memory.wf_set h _ b

theorem State.writeBytes_wf (l : List Byte) : ∀ (s : State) (pa : Nat), Memory.wf s.mem = true →
    Memory.wf (s.writeBytes pa l).mem = true := by
  induction l with
  | nil => intro s pa h; exact h
  | cons b l ih => intro s pa h; exact ih _ _ (s.writeByte_wf pa b h)

theorem State.writePhys_wf (s : State) (pa : Nat) (l : List Byte) (h : Memory.wf s.mem = true) :
    Memory.wf (s.writePhys pa l).mem = true := s.writeBytes_wf l pa h

theorem State.writeSpList_wf (l : List Byte) : ∀ (s : State) (cl a : Nat), Memory.wf s.sp = true →
    Memory.wf (s.writeSpList cl a l).sp = true := by
  induction l with
  | nil => intro s cl a h; exact h
  | cons b l ih => intro s cl a h; exact ih _ _ _ (s.writeSp_wf cl a b h)

theorem State.writeSpBytes_wf (s : State) (cl a : Nat) (l : List Byte) (h : Memory.wf s.sp = true) :
    Memory.wf (s.writeSpBytes cl a l).sp = true := s.writeSpList_wf l cl a h

theorem State.setLoc_wf (s : State) (l : Loc) (b : Byte) (hm : Memory.wf s.mem = true) (hs : Memory.wf s.sp = true) :
    Memory.wf (s.setLoc l b).mem = true ∧ Memory.wf (s.setLoc l b).sp = true := by
  unfold State.setLoc
  split
  · exact ⟨hm, Memory.wf_set hs _ b⟩
  · exact ⟨Memory.wf_set hm _ b, hs⟩

/-- A fold of byte stores keeps both canonical forms. -/
theorem State.foldl_setLoc_wf {β : Type} (f : State → β → State)
    (hf : ∀ s b, ∃ l v, f s b = s.setLoc l v) (l : List β) : ∀ (s : State),
    Memory.wf s.mem = true → Memory.wf s.sp = true →
    Memory.wf (l.foldl f s).mem = true ∧ Memory.wf (l.foldl f s).sp = true := by
  induction l with
  | nil => intro s hm hs; exact ⟨hm, hs⟩
  | cons b l ih =>
    intro s hm hs
    obtain ⟨x, v, e⟩ := hf s b
    have := s.setLoc_wf x v hm hs
    rw [List.foldl_cons, e]
    exact ih _ this.1 this.2

theorem State.setLocs_wf (s : State) (l : List (Loc × Byte)) (hm : Memory.wf s.mem = true) (hs : Memory.wf s.sp = true) :
    Memory.wf (s.setLocs l).mem = true ∧ Memory.wf (s.setLocs l).sp = true :=
  State.foldl_setLoc_wf (fun s (p : Loc × Byte) => s.setLoc p.1 p.2) (fun _ p => ⟨p.1, p.2, rfl⟩) l s hm hs

theorem State.putMems_wf (s : State) (l : List MemWrite) (hm : Memory.wf s.mem = true) (hs : Memory.wf s.sp = true) :
    Memory.wf (s.putMems l).mem = true ∧ Memory.wf (s.putMems l).sp = true :=
  State.foldl_setLoc_wf _ (fun _ _ => ⟨_, _, rfl⟩) l s hm hs

theorem State.putAmo_wf (s : State) (a : AmoWrite) (hm : Memory.wf s.mem = true) (hs : Memory.wf s.sp = true) :
    Memory.wf (s.putAmo a).mem = true ∧ Memory.wf (s.putAmo a).sp = true :=
  State.foldl_setLoc_wf _ (fun _ _ => ⟨_, _, rfl⟩) _ s hm hs

theorem State.putSlices_wf (s : State) (l : List (Nat × Nib)) (h : smWf (0 : Nib) s.slices = true) :
    smWf (0 : Nib) (s.putSlices l).slices = true :=
  smWf_foldl 0 _ (fun _ p hm => smWf_set 0 p.1 p.2 hm) l h

theorem State.putPreds_wf (s : State) (l : List PredWrite) (h : smWf (0 : Word) s.preds = true) :
    smWf (0 : Word) (s.putPreds l).preds = true :=
  smWf_foldl 0 _ (fun _ w hm => smWf_set 0 w.key _ hm) l h

theorem State.applyTile_wf (s : State) (n : Nat) (w : TileWrite) (ht : Memory.wf s.tiles = true)
    (hi : smWf (0 : Nib) s.idxs = true) (ha : smWf (0 : BitVec 40) s.accs = true) :
    Memory.wf (s.applyTile n w).tiles = true ∧ smWf (0 : Nib) (s.applyTile n w).idxs = true ∧
      smWf (0 : BitVec 40) (s.applyTile n w).accs = true := by
  cases w with
  | byte k v m => exact ⟨Memory.wf_set ht _ _, hi, ha⟩
  | idx k v => exact ⟨ht, smWf_set 0 _ _ hi, ha⟩
  | acc k v => exact ⟨ht, hi, smWf_set 0 _ _ ha⟩
  | shape t r c => exact ⟨ht, hi, ha⟩
  | flags t a b => exact ⟨ht, hi, ha⟩
  | clear lo k => exact ⟨smWf_clear 0 _ _ ht, hi, ha⟩

/-- Reset lists nothing: the canonical form. -/
theorem reset_memory_wf : Memory.wf State.reset.mem = true := rfl

end Sys2Proof.Machine
end

