-- ==== Sys2Proof/Laws/Registers.lean ====
section
/-! SUPPORT. Registers and contexts: what is read after a write (R10, R136). -/

namespace Sys2Proof.Machine

/-! ## x registers -/

@[simp] theorem Ctx.reg_zero (c : Ctx) : c.reg 0 = 0 := rfl

@[simp] theorem Ctx.setReg_zero (c : Ctx) (v : Word) : c.setReg 0 v = c := rfl

theorem Ctx.reg_setReg_same (c : Ctx) {r : XReg} (h : r ≠ 0) (v : Word) : (c.setReg r v).reg r = v := by
  unfold Ctx.reg Ctx.setReg
  rw [if_neg h, if_neg h]
  exact Vector.getElem_set_self ..

theorem Ctx.reg_setReg_other (c : Ctx) {r q : XReg} (h : q ≠ r) (v : Word) : (c.setReg r v).reg q = c.reg q := by
  unfold Ctx.reg Ctx.setReg
  split
  · rfl
  · split
    · rfl
    · have : r.toNat ≠ q.toNat := fun e => h (BitVec.eq_of_toNat_eq e.symm)
      simp [this]

@[simp] theorem Ctx.reg_advance (c : Ctx) (r : XReg) : c.advance.reg r = c.reg r := rfl
@[simp] theorem Ctx.reg_jump (c : Ctx) (t : Word) (r : XReg) : (c.jump t).reg r = c.reg r := rfl

/-! ## Contexts -/

@[simp] theorem State.ctxAt_setCtx_same (s : State) (n : Nat) (c : Ctx) : (s.setCtx n c).ctxAt n = c := by
  simp [State.ctxAt]

theorem State.ctxAt_setCtx_other (s : State) {n m : Nat} (h : m ≠ n) (c : Ctx) : (s.setCtx n c).ctxAt m = s.ctxAt m := by
  simp [State.ctxAt, smGet_put_other _ h]

@[simp] theorem State.me_setMe (s : State) (c : Ctx) : (s.setMe c).me = c := by
  simp [State.me, State.setMe]

theorem State.ctxAt_setMe_other (s : State) {m : Nat} (h : m ≠ s.cur) (c : Ctx) : (s.setMe c).ctxAt m = s.ctxAt m :=
  s.ctxAt_setCtx_other h c

@[simp] theorem State.setMe_eq_setCtx (s : State) (c : Ctx) : s.setCtx s.cur c = s.setMe c := rfl

theorem smPut_put (k : Nat) {α : Type} (v w : α) : ∀ (m : SMap α), smPut k w (smPut k v m) = smPut k w m
  | [] => by simp [smPut]
  | (k', v') :: m => by
    by_cases h1 : k < k'
    · simp [smPut, h1]
    · by_cases h2 : k = k'
      · simp [smPut, h2]
      · simp [smPut, h1, h2, smPut_put k v w m]

@[simp] theorem State.setMe_setMe (s : State) (c d : Ctx) : (s.setMe c).setMe d = s.setMe d := by
  simp [State.setMe, State.setCtx, smPut_put]

/-! ## The shared endings of scalar instructions -/

@[simp] theorem State.done_me (s : State) (r : XReg) (v : Word) : (s.done r v).me = (s.me.setReg r v).advance := by
  simp [State.done]

@[simp] theorem State.pass_me (s : State) : s.pass.me = s.me.advance := by simp [State.pass]

/-- A register result leaves every byte, of memory and of the scratchpads, as it was. -/
@[simp] theorem State.done_readByte (s : State) (r : XReg) (v : Word) (a : Nat) : (s.done r v).readByte a = s.readByte a := rfl
@[simp] theorem State.done_readSp (s : State) (r : XReg) (v : Word) (cl a : Nat) : (s.done r v).readSp cl a = s.readSp cl a := rfl
@[simp] theorem State.setMe_readByte (s : State) (c : Ctx) (a : Nat) : (s.setMe c).readByte a = s.readByte a := rfl
@[simp] theorem State.setCtx_readByte (s : State) (n : Nat) (c : Ctx) (a : Nat) : (s.setCtx n c).readByte a = s.readByte a := rfl
@[simp] theorem State.setMe_readSp (s : State) (c : Ctx) (cl a : Nat) : (s.setMe c).readSp cl a = s.readSp cl a := rfl

/-! ## Clusters -/

@[simp] theorem State.clAt_setCl_same (s : State) (n : Nat) (c : Cluster) : (s.setCl n c).clAt n = c := by
  simp [State.clAt]

theorem State.clAt_setCl_other (s : State) {n m : Nat} (h : m ≠ n) (c : Cluster) : (s.setCl n c).clAt m = s.clAt m := by
  simp [State.clAt, smGet_put_other _ h]

end Sys2Proof.Machine
end

