-- ==== Sys2Proof/Tests/Slice0.lean ====
section
/-! SUPPORT. Tests on fixed values: what WellFormed refuses, words written out from the encoding tables, single
instructions with results taken from the spec's examples and rules, and a state and operands that meet the hypotheses
of each statement, clause by clause. -/

namespace Sys2Proof.Tests

set_option Elab.async false

open Sys2Proof.Machine Sys2Proof.Claims

/-! ## Small states -/

/-- A strand on cluster 0 that stands at address 0 under a flat translation, with these registers. -/
def strand (l : List (XReg × Word)) : Ctx := l.foldl (fun c p => c.setReg p.1 p.2) ({} : Ctx).placed

/-- The machine with this strand in context 0. -/
def on (c : Ctx) : State := { ctxs := [(0, c)], tlbs := [(0, [flatEntry c]), (72, [flatEntry c])] }

/-- The same with these bytes at a physical address. -/
def onBytes (c : Ctx) (at0 : Nat) (l : List Byte) : State := (on c).writePhys at0 l

/-- A supervisor. -/
def sup (c : Ctx) : Ctx := { c with status := 1 }

/-! ## From a computed outcome to one that exists -/

theorem some_of {α : Type} {o : Option α} (P : α → Prop) [∀ a, Decidable (P a)]
    (h : (match o with | some a => decide (P a) | none => false) = true) : ∃ a, o = some a ∧ P a := by
  cases o with
  | none => cases h
  | some a => exact ⟨a, rfl, of_decide_eq_true h⟩

theorem ok_of {α : Type} {x : Res α} (P : α → State → Prop) [∀ a s, Decidable (P a s)]
    (h : (match x with | .ok a s => decide (P a s) | _ => false) = true) : ∃ a s', x = .ok a s' ∧ P a s' := by
  cases x with
  | ok a s => exact ⟨a, s, rfl, of_decide_eq_true h⟩
  | trap t s => cases h
  | ask q s => cases h
  | wait s => cases h

theorem bytes_of {x : Res Place1} (P : List Loc → State → Prop) [∀ l s, Decidable (P l s)]
    (h : (match x with | .ok (.bytes l) s => decide (P l s) | _ => false) = true) :
    ∃ l s', x = .ok (.bytes l) s' ∧ P l s' := by
  cases x with
  | ok a s =>
    cases a with
    | bytes l => exact ⟨l, s, rfl, of_decide_eq_true h⟩
    | _ => cases h
  | trap t s => cases h
  | ask q s => cases h
  | wait s => cases h

/-- The state after these instructions, each of which completes. -/
def after (l : List Instr) (s : State) : State :=
  l.foldl (fun s i => match exec i s with
    | .next t => t
    | _ => s) s

/-- The state and the value that a computation leaves. -/
def resSt {α : Type} (x : Res α) : State := match x with
  | .ok _ s => s
  | .trap _ s => s
  | .ask _ s => s
  | .wait s => s

def resVal {α : Type} (d : α) (x : Res α) : α := match x with
  | .ok a _ => a
  | _ => d

def resOk {α : Type} (x : Res α) : Bool := match x with
  | .ok _ _ => true
  | _ => false

theorem res_eq {α : Type} (d : α) {x : Res α} (h : resOk x = true) : x = .ok (resVal d x) (resSt x) := by
  cases x with
  | ok a s => rfl
  | trap t s => cases h
  | ask q s => cases h
  | wait s => cases h

theorem opt_eq {α : Type} (d : α) {o : Option α} (h : o.isSome = true) : o = some (o.getD d) := by
  cases o with
  | none => cases h
  | some a => rfl


/-! ## What WellFormed refuses -/

/-- A vector instruction of full-width operands that keeps its rules. -/
def vrOk : VR :=
  { dest := ⟨256, 4⟩, src1 := ⟨128, 4⟩, src2 := ⟨192, 4⟩, pred := 12, pz := false, mode := 0, seg := 0, ext := false, sat := false, fn := 0 }

theorem test_wellFormed_accepts : wellFormed (.add 1 2 3) = true ∧ wellFormed (.vadd vrOk) = true := by decide

/-- A rounding code that is reserved (R84). -/
theorem test_wellFormed_rounding : wellFormed (.fadd 1 2 3 4) = false ∧ wellFormed (.fadd 1 2 3 5) = true := by decide

/-- Scope codes 6 and 7 (R98). -/
theorem test_wellFormed_scope : wellFormed (.fence 0 6 false) = false ∧ wellFormed (.amoAdd 1 2 3 7 false false) = false := by decide

/-- A CSR that is not assigned, and a write of one that is read only (R99). -/
theorem test_wellFormed_csr : wellFormed (.csrw 1 2 0x03F) = false ∧ wellFormed (.csrw 1 2 0x007) = false := by decide

/-- A cluster milestone above 63 (R406). -/
theorem test_wellFormed_milestone : wellFormed (.msArrive 64 false) = false ∧ wellFormed (.msArrive 64 true) = true := by decide

/-- seg outside mode 10, and a scalar operand with a width (R99). -/
theorem test_wellFormed_vector : wellFormed (.vadd { vrOk with seg := 1 }) = false ∧ wellFormed (.vadd { vrOk with mode := 3 }) = false := by
  decide

/-- A shift amount past bit 5, and a tile load with a field that it does not use (R177, R229). -/
theorem test_wellFormed_fields :
    wellFormed (.vslli {
      dest := ⟨0, 4⟩, src1 := ⟨4, 4⟩, imm := 64, pred := 12, pz := false, ext := false, sat := false, fn := 0 }) = false ∧
    wellFormed (.tld { td := 0, ta := 1, tb := 0, vec := ⟨0, 0⟩, xa := 25, xb := 9, pred := 12, fn := 0 }) = false := by decide

/-! ## Words of the encoding tables: the spec's examples -/

/-- `addi x10, x10, -3`, `bne x10, x0` five words back, `div x10, x11, x12`, `csrw x4, fcsr, x5` (the examples of chapters 3 and 5). -/
theorem test_decode_scalar :
    decodeTableWord 32 0xFFF54A01 = some (.addi 10 10 0x3FFD) ∧ decodeTableWord 32 0xFFEC0A85 = some (.bne 10 0 0x3FFB) ∧
    decodeTableWord 32 0x00316A38 = some (.div 10 11 12) ∧ decodeTableWord 32 0x0400A4A8 = some (.csrw 4 5 8) := by decide

/-- `ldw x13, 8(x14) ^k5`, `stl x5, 8(x6) ^k3, package`, `amo.add.rel x10, x12, (x11), package`,
`fence system, visible, x7` (the examples of chapters 9 and 10). -/
theorem test_decode_memory :
    decodeTableWord 32 0x5021CD51 = some (.ldw 13 14 8 5) ∧ decodeTableWord 32 0x3620C57D = some (.stl 5 6 8 3 3) ∧
    decodeTableWord 32 0x98316A80 = some (.amoAdd 10 11 12 3 false true) ∧
    decodeTableWord 32 0x0680E0A0 = some (.fence 7 5 true) := by decide

/-- The matrix parcels of chapter 8. -/
theorem test_decode_matrix :
    decodeTableWord 32 0x000402E8 = some (.mxMma 2 0 1) ∧ decodeTableWord 32 0x008C40E8 = some (.mxMms 0 2 3) ∧
    decodeTableWord 32 0x010003E8 = some (.mxZacc 3) ∧ decodeTableWord 32 0x018044E8 = some (.mxRnd 4 2 0) ∧
    decodeTableWord 32 0x02316AE8 = some (.mxSettl 10 11 12) := by decide

/-- The channel and fabric parcels of chapter 11. -/
theorem test_decode_fabric :
    decodeTableWord 32 0x018140C0 = some (.chBind 3 10) ∧ decodeTableWord 32 0x8180A0C4 = some (.chPush 3 5 true) ∧
    decodeTableWord 32 0x218006C8 = some (.chPop 6 3 1) ∧ decodeTableWord 32 0x0C8140E0 = some (.sfRoute 3 10) ∧
    decodeTableWord 32 0x008120E4 = some (.plStart 9) ∧ decodeTableWord 32 0x000160D8 = some (.bpRun 11) ∧
    decodeTableWord 32 0x003160DC = some (.bpTwl 11 12) ∧ decodeTableWord 32 0x008180D4 = some (.cpCopy true 12) := by decide

/-- The parcels of chapters 12 to 15 (R338, R353, R376, R390, R423 among them). -/
theorem test_decode_system :
    decodeTableWord 32 0x00016AF4 = some (.launch 10 11) ∧ decodeTableWord 32 0x00B16AF8 = some (.ctxSave 10 11 12) ∧
    decodeTableWord 32 0x002D40F8 = some (.tlbInvPage 10 11) ∧ decodeTableWord 32 0x02016AF8 = some (.rtUpdWrite 10 11) ∧
    decodeTableWord 32 0x023D6EEC = some (.xchStat 14 11 15) ∧ decodeTableWord 32 0x19FFEAF0 = some (.msRead 10 4095 true) ∧
    decodeTableWord 32 0x02816AF8 = some (.snapTrigger 10 11) := by decide

/-- `vcmpi.lt p1, v0:4, 100`, `vch.push c3, v16:4`, `tld t0, (x25), x9`, `vst v0:8, 0(x28) ^k1 ?p15`, each alone in its
convoy (the examples of chapters 6, 11 and 21). -/
theorem test_decode_convoys :
    decodeTableWord 96 0x480040004019300200000003 = some (.vcmpi {
      dest := ⟨1, 0⟩, src1 := ⟨0, 4⟩, imm := 100, pred := 12, pz := false, ext := false, sat := false, fn := 2 }) ∧
    decodeTableWord 96 0xE0000010400C300000000023 = some (.vchPush {
      dest := ⟨0, 0⟩, src1 := ⟨16, 4⟩, src2 := ⟨3, 0⟩, pred := 12, pz := false, mode := 0, seg := 0, ext := false, sat := false
      fn := 0 }) ∧
    decodeTableWord 96 0xA00000019480300000000033 = some (.tld {
      td := 0, ta := 0, tb := 0, vec := ⟨0, 0⟩, xa := 25, xb := 9, pred := 12, fn := 0 }) ∧
    decodeTableWord 96 0xC300238000007C0000000033 = some (.vst {
      data := ⟨0, 8⟩, base := 28, stride := 0, idx := 0, cls := 1, pred := 15, space := false, hint := 0, fn := 0 }) := by decide

/-- Words that the tables leave out: a reserved opcode of the scalar formats and a header with reserved bits (R86, R98). -/
theorem test_decode_refuses : decodeTableWord 32 0xFFFFFFFF = none ∧ decodeTableWord 32 0x000000FD = none := by decide

/-! ## Single instructions -/

/-- The register that an instruction leaves. -/
def regAfter (i : Instr) (s : State) (r : XReg) : Option Word := match exec i s with
  | .next t => some (t.me.reg r)
  | _ => none

/-- A sum wraps; x0 reads 0 although it is written (R136, R150). -/
theorem test_add : regAfter (.add 1 2 3) (on (strand [(2, 0xFFFFFFFFFFFFFFFF), (3, 2)])) 1 = some 1 ∧
    regAfter (.add 0 2 3) (on (strand [(2, 1), (3, 2)])) 0 = some 0 := by decide +kernel

/-- Chapter 5's example: -2^63 by -1 gives -2^63. -/
theorem test_div : regAfter (.div 10 11 12) (on (strand [(11, 0x8000000000000000), (12, 0xFFFFFFFFFFFFFFFF)])) 10 =
    some 0x8000000000000000 := by decide +kernel

/-- Chapter 9's example: `ldw x13, 8(x14)` with x14 = 0x1002 raises MISALIGN with EVAL 0x100A. -/
theorem test_ldw_misaligned : (match exec (.ldw 13 14 8 5) (on (strand [(14, 0x1002)])) with
    | .next t => decide (t.me.cause = causeMisalign.setWidth 64 ∧ t.me.eval = 0x100A)
    | _ => false) = true := by decide +kernel

/-- Bytes of a store come back, least significant first. -/
theorem test_store_load : (match exec (.sth 2 1 0 0) (on (strand [(1, 0x100), (2, 0xBEEF)])) with
    | .next t => decide (t.readByte 0x100 = 0xEF ∧ t.readByte 0x101 = 0xBE ∧ t.readByte 0x102 = 0)
    | _ => false) = true := by decide +kernel

/-- trap 5 saves the address and its code, and goes to the handler in handler mode (R161, R164). -/
theorem test_trap : (match exec (.trap 5) (on { strand [] with stvec := 0x800, pc := 0x40 }) with
    | .next t => decide (t.me.epc = 0x40 ∧ t.me.esub = 5 ∧ t.me.pc = 0x800 ∧ t.me.status.toNat % 8 / 4 = 1)
    | _ => false) = true := by decide +kernel
/-! ## Witnesses of the statements' hypotheses: scalar instructions -/

theorem witness_ControlTransfers :
    ((on (strand [])).me.reg 0 + (4 : BitVec 14).signExtend 64).toNat % 4 = 0 ∧
    ((on (strand [])).me.reg 0 + (2 : BitVec 14).signExtend 64).toNat % 4 ≠ 0 ∧ plainMode (on (strand [])).me := by
  unfold plainMode; decide +kernel

/-- 1.0 divided by 0 raises DZ: once masked, once enabled. -/
theorem witness_ScalarFloatResults :
    (∃ r, scalarFp (on (strand [(1, 0x3F800000)])).me (.fdiv 3 1 2 0) = some r ∧
      r.2.2 &&& (on (strand [(1, 0x3F800000)])).me.fcsr.extractLsb' 6 6 = 0) ∧
    (∃ r, scalarFp (on { strand [(1, 0x3F800000)] with fcsr := 0xFC0 }).me (.fdiv 3 1 2 0) = some r ∧
      r.2.2 &&& (on { strand [(1, 0x3F800000)] with fcsr := 0xFC0 }).me.fcsr.extractLsb' 6 6 ≠ 0) ∧
    plainMode (on { strand [(1, 0x3F800000)] with fcsr := 0xFC0 }).me := by
  exact ⟨some_of (fun (r : XReg × Nat × FpFlags) => r.2.2 &&& (on (strand [(1, 0x3F800000)])).me.fcsr.extractLsb' 6 6 = 0) (by decide +kernel),
    some_of (fun (r : XReg × Nat × FpFlags) => r.2.2 &&& (on { strand [(1, 0x3F800000)] with fcsr := 0xFC0 }).me.fcsr.extractLsb' 6 6 ≠ 0)
      (by decide +kernel), by unfold plainMode; decide +kernel⟩

/-- A strand of 16 lanes, which has no share of a matrix node. -/
def lanesOnly : Ctx := { strand [] with vspan := spanWord 0 false 0 0 16, vlmax := 1024 }

theorem witness_CsrInstructions :
    csrOpen (on (strand [])) 0x000 false none ∧
    ((0x100 ≤ (0x100 : BitVec 9).toNat) ∧ (on (strand [])).me.status.getLsbD 0 = false ∧ plainMode (on (strand [])).me) ∧
    (csrMask 0x006 = some 0x3FFFFFFF ∧ csrOpen (on (strand [(1, 5)])) 0x006 true (some (5 &&& 0xFF)) ∧
      csrAllows (on (strand [(1, 5)])).me 0x006 (5 &&& 0x3FFFFFFF)) ∧
    (csrMask 0x006 = some 0x3FFFFFFF ∧ csrOpen (on (strand [(1, 4)])) 0x006 true (some (4 &&& 0xFF)) ∧
      ¬ csrAllows (on (strand [(1, 4)])).me 0x006 (4 &&& 0x3FFFFFFF) ∧ plainMode (on (strand [(1, 4)])).me) ∧
    (csrMask 0x100 = some 7 ∧ csrOpen (on (sup (strand []))) 0x100 true (some (0 &&& 0xFF)) ∧
      (0 : Word).getLsbD 0 ≠ (on (sup (strand []))).me.status.getLsbD 0 ∧ plainMode (on (sup (strand []))).me) := by
  unfold csrOpen plainMode
  refine ⟨by decide +kernel, by decide +kernel, ⟨by decide, by decide +kernel, ?_⟩, ⟨by decide, by decide +kernel, ?_,
    by decide +kernel⟩, by decide +kernel⟩
  · exact (by decide : (5 &&& 0x3FFFFFFF : Word).toNat % 2 = 1 ∧ 3 ≤ (5 &&& 0x3FFFFFFF : Word).toNat)
  · exact (by decide : ¬ ((4 &&& 0x3FFFFFFF : Word).toNat % 2 = 1 ∧ 3 ≤ (4 &&& 0x3FFFFFFF : Word).toNat))

/-- A CSR of the matrix units by a strand without a share, of a disabled item, and behind a token under way; ACCFMT of a
disabled accumulator; PTDESC of no descriptor, of a poisoned one and of one in a sleeping stack. -/
theorem witness_CsrInstructions_refused :
    (csrOfTiles 0x010 ∧ csrOfTiles 0x01D ∧ (on lanesOnly).me.share = 0 ∧ plainMode (on lanesOnly).me) ∧
    (let s := on { strand [(1, 1)] with ten := 0 };
      s.me.share ≠ 0 ∧ s.me.ten.getLsbD 0 = false ∧ plainMode s.me ∧
      csrNext (.csrw 0 1 0x019) s.me.accfmt (s.me.reg 1) = some 1 ∧ s.me.ten.getLsbD (8 + 0) = false ∧
      (1 : Word).toNat / 4 ^ 0 % 4 ≠ s.me.accfmt.toNat / 4 ^ 0 % 4) ∧
    (let s := (on (strand [])).setCl 0 { nodes := [(3, { fifo := [(strand []).token 0 0 0 0 1 0 64 64 64] })] };
      tokensOut s ∧ s.me.share ≠ 0 ∧ s.me.ten.getLsbD 0 = true ∧ ((0x018 : BitVec 9) = 0x018)) ∧
    (let s := on (sup (strand [])); s.me.status.getLsbD 0 = true ∧ plainMode s.me ∧
      csrNext (.csrw 0 0 0x111) s.me.ptdesc (s.me.reg 0) = some 0 ∧ s.descAwake 0 = true ∧ s.captureDesc 0 = .invalid ∧
      ({ s with memPoison := [0] } : State).captureDesc 0 = .poison ∧
      ({ s with ctl := { ({} : Control) with hbmsr := 0xFFFF } } : State).descAwake 0 = false) := by
  unfold csrOfTiles tokensOut plainMode
  refine ⟨?_, ?_, ?_, ?_⟩ <;> decide +kernel

theorem witness_TrapEntry :
    plainMode (on (strand [])).me ∧
    (trapOf causeSwTrap 5 0).cause ≠ causeHwUe ∧
    ((on { strand [] with status := 5 }).ctxAt 0).status.getLsbD 2 = true ∧
    (on { strand [] with status := 5 }).ctl.fqen = false ∧ (on { strand [] with status := 5 }).fq.length < 256 := by
  unfold plainMode; decide +kernel

theorem witness_TretResult :
    (on (sup (strand []))).me.status.getLsbD 0 = true ∧
    (on (strand [])).me.status.getLsbD 0 = false ∧ plainMode (on (strand [])).me := by
  unfold plainMode; decide +kernel

theorem witness_ScalarStoreAndAtomicResults :
    (∃ a, storeOf (on (strand [(1, 7), (2, 64)])).me (.stw 1 2 4 0) = some (1, a, 4, 0) ∧ a.toNat % 4 = 0 ∧
      ∃ l s', (on (strand [(1, 7), (2, 64)])).place1 1 0 a.toNat 4 ((on (strand [(1, 7), (2, 64)])).mmioGate 1 a.toNat 4
          (parcelOf (.stw 1 2 4 0)) ((on (strand [(1, 7), (2, 64)])).me.reg 1)) = .ok (.bytes l) s' ∧
        l.length = 4 ∧ cellsApart l ∧ cellsOk s' ∧ ∀ b ∈ l, s'.locPoison b = false) ∧
    (∃ f, atomicOf (on (strand [(1, 7), (2, 64)])).me (.amoAdd 3 2 1 0 false false) = some (3, 2, 8, f)) ∧
    (∃ l s', (on (strand [(1, 7), (2, 64)])).place1 3 15 64 8 ((on (strand [(1, 7), (2, 64)])).me.noMmio 3 64) = .ok (.bytes l) s' ∧
        l.length = 8 ∧ cellsApart l ∧ cellsOk s' ∧ ∀ b ∈ l, s'.locPoison b = false) := by
  refine ⟨⟨_, rfl, by decide +kernel, ?_⟩, ⟨_, rfl⟩, ?_⟩
  · refine bytes_of (fun l s' => l.length = 4 ∧ (l.map fun b => (b.scratch, b.key)).Nodup ∧
      (Memory.wf s'.mem = true ∧ Memory.wf s'.sp = true) ∧ ∀ b ∈ l, s'.locPoison b = false) ?_; decide +kernel
  · refine bytes_of (fun l s' => l.length = 8 ∧ (l.map fun b => (b.scratch, b.key)).Nodup ∧
      (Memory.wf s'.mem = true ∧ Memory.wf s'.sp = true) ∧ ∀ b ∈ l, s'.locPoison b = false) ?_; decide +kernel

theorem witness_ScalarLoadResults :
    (∃ a ext, loadOf (on (strand [(2, 64)])).me (.ldh 1 2 6 0) = some (1, a, 2, 0, ext) ∧ a.toNat % 2 = 0 ∧
      ∃ l s', (on (strand [(2, 64)])).place1 0 0 a.toNat 2 ((on (strand [(2, 64)])).mmioGate 0 a.toNat 2 0 0) = .ok (.bytes l) s' ∧ s'.writes = [] ∧ ∀ b ∈ l, s'.locPoison b = false) ∧
    (plainMode (on (strand [(2, 65)])).me ∧ ((on (strand [(2, 65)])).me.reg 2 + (0 : BitVec 10).signExtend 64).toNat % 2 ≠ 0 ∧
      (∃ rd k ext, loadOf (on (strand [(2, 65)])).me (.ldh 1 2 0 0) =
        some (rd, (on (strand [(2, 65)])).me.reg 2 + (0 : BitVec 10).signExtend 64, 2, k, ext)) ∧
      (∃ rs k, storeOf (on (strand [(2, 65)])).me (.sth 1 2 0 0) =
        some (rs, (on (strand [(2, 65)])).me.reg 2 + (0 : BitVec 10).signExtend 64, 2, k))) ∧
    (∃ rd ra f, atomicOf (on (strand [(2, 65)])).me (.amocas 1 2 3 0 false false) = some (rd, ra, 8, f) ∧
      (on (strand [(2, 65)])).me.reg 2 = (on (strand [(2, 65)])).me.reg ra) := by
  refine ⟨⟨_, _, rfl, by decide +kernel, ?_⟩, ⟨by unfold plainMode; decide +kernel, by decide +kernel, ⟨_, _, _, rfl⟩,
    ⟨_, _, rfl⟩⟩, ⟨_, _, _, rfl, rfl⟩⟩
  refine bytes_of (fun l s' => s'.writes = [] ∧ ∀ b ∈ l, s'.locPoison b = false) ?_; decide +kernel

theorem witness_CacheMaintenanceAndTranslation :
    (inWindow ((on (strand [(2, 64)])).me.reg 2 + (0 : BitVec 10).signExtend 64).toNat = false ∧
      ∃ pa s', (on (strand [(2, 64)])).translate (on (strand [(2, 64)])).me 0 ((on (strand [(2, 64)])).me.noMmio 0
          ((on (strand [(2, 64)])).me.reg 2 + (0 : BitVec 10).signExtend 64).toNat)
        ((on (strand [(2, 64)])).me.reg 2 + (0 : BitVec 10).signExtend 64).toNat = .ok pa s' ∧ regionOf pa ≠ 3) ∧
    inWindow ((on (strand [])).me.reg 0 + (-4 : BitVec 10).signExtend 64).toNat = true ∧
    ((strand []).desc = some flatFormat ∧
      ((smGet [] (on (strand [])).tlbs 72).find? fun x => x.serves (strand []) flatFormat 64 && x.allows 0 (!(strand []).sup) false) =
        some (flatEntry (strand [])) ∧
      (on (strand [])).leafOk flatFormat ((flatEntry (strand [])).out + 64 % 2 ^ (flatEntry (strand [])).size) = true ∧
      regionOf ((on (strand [])).outPa flatFormat ((flatEntry (strand [])).out + 64 % 2 ^ (flatEntry (strand [])).size)) ≠ 3) := by
  refine ⟨⟨by decide +kernel, ?_⟩, by decide +kernel, by decide +kernel⟩
  exact ok_of (fun pa _ => regionOf pa ≠ 3) (by decide +kernel)

/-- A packet of a store that awaits its visible acknowledgement. -/
def sentStore : Packet :=
  { num := 0, ctx := 0, sid := 0, plane := 0, ver := false, elems := [(0, 0)], store := true, cls := 15, waits := false
    accepted := some 0, sentAt := 0 }

theorem witness_FenceResults :
    (on (strand [])).glox.packets = [] ∧
    ((({ on (strand []) with glox := { packets := [sentStore] } } : State).glox.packets.any fun p =>
        decide (p.sid = ({ on (strand []) with glox := { packets := [sentStore] } } : State).me.sid) && p.store) = true ∧
      ({ on (strand []) with glox := { packets := [sentStore] } } : State).me.reg 1 = 0 ∧
      ∀ p ∈ ({ on (strand []) with glox := { packets := [sentStore] } } : State).glox.packets, p.cls < 16) ∧
    ((({ on { strand [] with wait := some (.fence 1) } with glox := { packets := [sentStore] } } : State).ctxAt 0).wait =
        some (.fence 1) ∧
      ∀ p ∈ ({ on { strand [] with wait := some (.fence 1) } with glox := { packets := [sentStore] } } : State).glox.packets,
        (1 : BitVec 16).getLsbD p.cls = false) := by
  decide +kernel

/-- Cluster milestone 5 at a count of 7. -/
def withSeven (c : Ctx) : State := (on c).setMs 0 { num := 5 } { count := 7 }

theorem witness_MilestoneResults :
    msUsable (withSeven (strand [(1, 7)])) { num := 5 } ∧
    ((withSeven (strand [(1, 7)])).msAt 0 { num := 5 }).count.toNat + 1 < 2 ^ 32 ∧
    ((withSeven (strand [(1, 7)])).me.reg 1).toNat ≤ ((withSeven (strand [(1, 7)])).msAt 0 { num := 5 }).count.toNat ∧
    (msUsable (withSeven (strand [(1, 8)])) { num := 5 } ∧
      ((withSeven (strand [(1, 8)])).msAt 0 { num := 5 }).count.toNat < ((withSeven (strand [(1, 8)])).me.reg 1).toNat) ∧
    (msUsable (withSeven { strand [(1, 7)] with wait := some (.msWait { num := 5 } 7) }) { num := 5 } ∧
      ((withSeven { strand [(1, 7)] with wait := some (.msWait { num := 5 } 7) }).ctxAt 0).wait =
        some (.msWait { num := 5 } ((withSeven { strand [(1, 7)] with wait := some (.msWait { num := 5 } 7) }).me.reg 1).toNat)) := by
  unfold msUsable; decide +kernel

/-- The same strand where its lowest 2^39 addresses reach region 3. -/
def onMmio (c : Ctx) : State := { on c with tlbs := [(72, [{ flatEntry c with out := 3 * 2 ^ 56 }])] }

theorem mmio_of {x : Res Place1} (P : Nat → State → Prop) [∀ o s, Decidable (P o s)]
    (h : (match x with | .ok (.mmio o) s => decide (P o s) | _ => false) = true) :
    ∃ o s', x = .ok (.mmio o) s' ∧ P o s' := by
  cases x with
  | ok a s =>
    cases a with
    | mmio o => exact ⟨o, s, rfl, of_decide_eq_true h⟩
    | _ => cases h
  | trap t s => cases h
  | ask q s => cases h
  | wait s => cases h

/-- QCMD is written and TIME is read by accesses of 8 bytes. -/
theorem witness_scalar_mmio :
    (∃ a, storeOf (onMmio (strand [(1, 7), (2, 0x50)])).me (.std 1 2 0 0) = some (1, a, 8, 0) ∧ a.toNat % 8 = 0 ∧
      ∃ off s', (onMmio (strand [(1, 7), (2, 0x50)])).place1 1 0 a.toNat 8 ((onMmio (strand [(1, 7), (2, 0x50)])).mmioGate 1
          a.toNat 8 (parcelOf (.std 1 2 0 0)) ((onMmio (strand [(1, 7), (2, 0x50)])).me.reg 1)) = .ok (.mmio off) s' ∧ s'.writes = []) ∧
    (∃ a ext, loadOf (onMmio (strand [(2, 0x18)])).me (.ldd 1 2 0 0) = some (1, a, 8, 0, ext) ∧ a.toNat % 8 = 0 ∧
      ∃ off s', (onMmio (strand [(2, 0x18)])).place1 0 0 a.toNat 8 ((onMmio (strand [(2, 0x18)])).mmioGate 0 a.toNat 8 0 0) =
        .ok (.mmio off) s' ∧ s'.writes = []) := by
  refine ⟨⟨_, rfl, by decide +kernel, mmio_of (fun _ s => s.writes = []) (by decide +kernel)⟩,
    ⟨_, _, rfl, by decide +kernel, mmio_of (fun _ s => s.writes = []) (by decide +kernel)⟩⟩

/-- A milestone of another PASID, a broken one, one at its greatest count, and X[rd] too wide or enough to overflow. -/
theorem witness_milestone_traps :
    let n : MsName := { num := 5 }
    let foreign := (on (strand [])).setMs 0 n { owned := true, owner := 9 }
    let broken := (on (strand [])).setMs 0 n { broken := true }
    let full := (on (strand [(1, 5)])).setMs 0 n { count := 0xFFFFFFFF }
    ((foreign.msAt 0 n).owned = true ∧ (foreign.msAt 0 n).owner.setWidth 64 ≠ foreign.me.pasid ∧
      (foreign.me.reg 1).toNat < 2 ^ 32 ∧ plainMode foreign.me) ∧
    ((broken.msAt 0 n).owned = false ∧ (broken.msAt 0 n).broken = true ∧ plainMode broken.me) ∧
    ((full.msAt 0 n).broken = false ∧ 2 ^ 32 ≤ (full.msAt 0 n).count.toNat + 1 ∧
      2 ^ 32 ≤ (full.msAt 0 n).count.toNat + (full.me.reg 1).toNat ∧ (full.me.reg 1).toNat < 2 ^ 32 ∧ plainMode full.me) ∧
    2 ^ 32 ≤ ((on (strand [(1, 0x100000000)])).me.reg 1).toNat := by
  unfold plainMode; decide +kernel

/-! ## Witnesses: channels -/

/-- A channel descriptor of two 8-byte slots at an offset, with consumers, flags and actor consumers (R299). -/
def chanDesc (at0 : Byte) (slots cons flags acts : Byte) : List Byte :=
  [0, at0, 0, 0, slots, 0, 0, 0, 0, cons, flags, acts, 0, 0, 0, 0]

/-- A strand to which the units and rings of cluster 0 are granted. -/
def granted (c : Ctx) : Ctx :=
  { c with grants := [{ cluster := 0, ags := List.range 24, jns := List.range 16, rings := List.range 8 }] }

/-- Channel 3 bound to a ring of two slots at offset 1024 of the scratchpad, with two strand consumers; X5 is 77. -/
def chan (flags acts : Byte) : State :=
  after [.chBind 3 1] (onBytes (granted (strand [(1, 64), (5, 77)])) 64 (chanDesc 4 1 2 flags acts))

/-- The ring to which channel 3 is bound. -/
def ring3 (s : State) : Ring := (s.ringAt 0 0).getD {}

/-- Context 0 with another wait. -/
def waiting (s : State) (w : Wait) : State := s.setCtx 0 { s.ctxAt 0 with wait := some w }

theorem witness_ChannelPushAndPop :
    let s := chan 0 0
    let t := after [.chPush 3 5 false] s
    let u := after [.chPush 3 5 false] t
    (ringSound (ring3 s) ∧ cellsOk s ∧ s.chanCheck s.me 3 .push = .ok (0, 0, ring3 s) ∧ (ring3 s).room 1 = true) ∧
    (ringSound (ring3 u) ∧ cellsOk u ∧ u.chanCheck u.me 3 .push = .ok (0, 0, ring3 u) ∧ (ring3 u).room 1 = false) ∧
    ((waiting s (.chPush 3 5 false)).ctxAt 0).wait = some (.chPush 3 5 false) ∧
    (ringSound (ring3 t) ∧ t.chanCheck t.me 3 (.pop 1) = .ok (0, 0, ring3 t) ∧ 0 < (ring3 t).tokensOf 1 ∧
      t.poisonSp 0 ((ring3 t).slotAt ((ring3 t).readAt 1)) 8 = false) ∧
    (s.chanCheck s.me 3 (.pop 1) = .ok (0, 0, ring3 s) ∧ (ring3 s).tokensOf 1 = 0) ∧
    ((waiting t (.chPop 7 3 1)).ctxAt 0).wait = some (.chPop 7 3 1) ∧
    t.chanCheck t.me 3 (.detach 1) = .ok (0, 0, ring3 t) := by
  unfold ringSound cellsOk; decide +kernel

theorem witness_ChannelBinding :
    let s0 := onBytes (granted (strand [(1, 64)])) 64 (chanDesc 4 1 2 0 0)
    let s := after [.chBind 3 1] s0
    (smFind 3 s0.me.chans = none ∧ s0.me.reg 0 = 0) ∧
    (smRising none s.me.chans = true ∧ smRising none (s.clAt 0).rings = true ∧
      smFind 3 s.me.chans = some { cluster := 0, ring := 0, desc := chanDesc 4 1 2 0 0 } ∧ s.inPipeline s.me 0 0 = false ∧
      s.ringAt 0 0 = some (ring3 s) ∧ (ring3 s).holders = [(s.me.sid, 3)]) ∧
    (s0.me.reg 1 ≠ 0 ∧ ∃ s', s0.readVirt s0.me 15 64 16 = .ok (chanDesc 4 1 2 0 0) s' ∧
      chanDescOk s'.me.clusters.length (chanDesc 4 1 2 0 0) = true ∧ byteAt (chanDesc 4 1 2 0 0) 10 / 2 % 2 = 0 ∧
      s'.me.clusters[byteAt (chanDesc 4 1 2 0 0) 8]? = some 0 ∧ s'.freeRing s'.me 0 = some 0) := by
  refine ⟨by decide +kernel, by decide +kernel, by decide +kernel, _, res_eq [] (by decide +kernel), by decide +kernel⟩

/-- A gang of two: member 0 in context 1 holds a ring under number 4; member 1 binds number 3 to it with ATTACH. -/
def attachDesc : List Byte := [0, 4, 0, 0, 1, 0, 0, 0, 0, 2, 2, 0, 0, 4, 0, 0]
def bound4 : ChanBind := { cluster := 0, ring := 0, desc := chanDesc 4 1 2 0 0 }
def ganged : State :=
  let c := { granted (strand [(1, 64)]) with gangId := 5, member := 1, sid := 1 }
  let p := { granted (strand []) with gangId := 5, chans := [(4, bound4)] }
  let s : State := { ctxs := [(0, c), (1, p)], tlbs := [(72, [flatEntry c])] }
  (s.writePhys 64 attachDesc).setRing 0 0 (newRing (chanDesc 4 1 2 0 0) 0 4)

theorem witness_channel_attach :
    ganged.me.reg 1 ≠ 0 ∧ smFind 3 ganged.me.chans = none ∧
    ∃ s', ganged.readVirt ganged.me 15 (ganged.me.reg 1).toNat 16 = .ok attachDesc s' ∧
      chanDescOk s'.me.clusters.length attachDesc = true ∧ byteAt attachDesc 10 / 2 % 2 = 1 ∧
      s'.peerBind s'.me (byteAt attachDesc 12) (byteAt attachDesc 13) = some bound4 ∧
      chanDescEq attachDesc bound4.desc = true ∧ (s'.ringAt 0 0).isSome = true := by
  refine ⟨by decide +kernel, by decide +kernel, _, res_eq [] (by decide +kernel), ?_⟩
  decide +kernel

/-- The channel after an EOS, and with consumer 1 detached. -/
def chanEnded : State := (chan 0 0).setRing 0 0 { ring3 (chan 0 0) with eosp := true }
def chanLeft : State := after [.chDetach 3 1] (chan 0 0)

theorem witness_ChannelChecks :
    (plainMode (on (strand [])).me ∧ (on (strand [])).chanAt (on (strand [])).me 3 = none) ∧
    ((chan 1 0).chanAt (chan 1 0).me 3 = some (0, 0, ring3 (chan 1 0)) ∧ (ring3 (chan 1 0)).actorProducer = true) ∧
    (chanEnded.chanAt chanEnded.me 3 = some (0, 0, ring3 chanEnded) ∧ (ring3 chanEnded).actorProducer = false ∧
      (ring3 chanEnded).eosp = true) ∧
    (ring3 (chan 0 0)).cons ≤ 2 ∧ (1 < (ring3 (chan 0 2)).cons ∧ (ring3 (chan 0 2)).actorConsumer 1 = true) ∧
    ((chanLeft.chanAt chanLeft.me 3 = some (0, 0, ring3 chanLeft) ∧ 1 < (ring3 chanLeft).cons ∧
      (ring3 chanLeft).actorConsumer 1 = false ∧ 1 ∈ (ring3 chanLeft).detached)) := by
  unfold plainMode; decide +kernel

/-! ## Witnesses: the stream fabric -/

/-- A ring of two 8-byte slots with one consumer, at 256 n. -/
def duct (n flags acts : Byte) : Ring := newRing (chanDesc n 1 1 flags acts) 0 0

/-- The ring with one token in it. -/
def filled (r : Ring) : Ring := { r with tokens := [1], free := [1], widx := 1 }

/-- Channels 0, 1, … of a strand bound to these rings of cluster 0. -/
def wired (c : Ctx) (l : List Ring) : State :=
  let c := { granted c with chans := l.zipIdx.map fun r => (r.2, { cluster := 0, ring := r.2, desc := r.1.desc }) }
  (on c).setCl 0 { (on c).clAt 0 with rings := l.zipIdx.map fun r => (r.2, r.1) }

/-- A record of 64 bytes that begins with these. -/
def record (l : List Byte) : List Byte := l ++ List.replicate (64 - l.length) 0

/-- The record of an address-mode AG that produces into channel 0: BASE 4096, one loop of two steps of 8. -/
def agRcd : List Byte := record [0, 0, 0, 3, 0xFF, 1, 0, 0, 0, 16, 0, 0, 0, 0, 0, 0, 2, 0, 0, 0, 8, 0, 0, 0]

/-- A merge of channels 1 and 2 into channel 0 by an 8-byte key at offset 0. -/
def mergeRcd : List Byte := record [1, 2, 255, 255, 255, 255, 255, 255, 0, 255, 255, 255, 255, 255, 255, 255, 0, 3]

/-- A command channel fed by channel 1: every residue names the drop. -/
def cmdRcd : List Byte := record ([1, 255, 255, 255, 255, 255, 255, 255] ++ List.replicate 8 255 ++ List.replicate 12 0 ++ [255, 255, 255, 255])

/-- Three channels, one produced by an actor and two consumed by one, and a record at 64. -/
def sfState (l : List Byte) : State :=
  (wired (strand [(1, 64)]) [duct 4 1 0, duct 5 0 1, duct 6 0 1]).writePhys 64 l

theorem witness_UnitConfiguration :
    (∃ l s' g, reads (sfState agRcd) s' 1 64 l ∧ unitOpen (sfState agRcd) s' l 7 23 0 ∧
      s'.agRecord (sfState agRcd).me 0 23 l = some g) ∧
    (∃ l s' j, reads (sfState mergeRcd) s' 1 64 l ∧ unitOpen (sfState mergeRcd) s' l 19 (24 + 15) 0 ∧
      s'.jnRecord (sfState mergeRcd).me 0 15 .merge l = some j) ∧
    (∃ l s' s3, reads (sfState cmdRcd) s' 1 64 l ∧ unitOpen (sfState cmdRcd) s' l 19 (25 + 18) 0 ∧
      s'.cmdRecord (sfState cmdRcd).me 0 (25 + 18) l = some s3) := by
  refine ⟨⟨_, _, _, res_eq [] ?_, ?_, opt_eq {} ?_⟩, ⟨_, _, _, res_eq [] ?_, ?_, opt_eq {} ?_⟩,
    ⟨_, _, _, res_eq [] ?_, ?_, opt_eq {} ?_⟩⟩ <;> first | (unfold unitOpen; decide +kernel) | decide +kernel

/-- The descriptor of pipeline 7 with AG 0 as its member, and of pipeline 0 with AG 0 and junction 0. -/
def pipe7 : List Byte := [7, 0, 0, 0, 1, 0, 0, 0, 0, 0, 0, 0, 0, 0, 0, 0]

/-- AG 0 configured, and pipeline 7 in a state. -/
def plState (p : PipeState) : State :=
  let c := { strand [(1, 192)] with pipes := [(7, { state := p, desc := if p = .unbound then [] else pipe7, cluster := 0 })] }
  let s := (wired c [duct 4 1 0]).writePhys 192 pipe7
  s.setAg 0 0 (Ag.resetUnit { cfg := agRcd })

theorem witness_PipelineStates :
    (∃ d s' s2, reads (plState .unbound) s' 1 16 d ∧ byteAt d 0 = 7 ∧ ((plState .unbound).me.pipe 7).state = .unbound ∧
      s'.plCheck (plState .unbound).me 7 d = .ok 0 ∧ State.assignIdx 0 false (descMembers d) s' = some s2) ∧
    (∀ p ∈ [PipeState.running, .frozen, .bound, .done], ((plState p).me.pipe 7).state = p ∧ ((plState p).me.pipe 7).desc = pipe7 ∧
      descMembers pipe7 ≠ [] ∧ resOk ((plState p).readVirt (plState p).me 15 192 16) = true ∧
      resVal [] ((plState p).readVirt (plState p).me 15 192 16) = pipe7 ∧
      (State.assignIdx 0 true (descMembers pipe7) (resSt ((plState p).readVirt (plState p).me 15 192 16))).isSome = true ∧
      (smFind 0 ((plState p).clAt 0).ags).isSome = true) := by
  refine ⟨⟨_, _, _, res_eq [] ?_, ?_, ?_, ?_, opt_eq {} ?_⟩, ?_⟩ <;> decide +kernel

/-- Binding where it cannot be: a channel of a ring that a pipeline uses, one that is bound already, a descriptor that
breaks its table, an attachment to no peer, and a strand to which no ring is granted. -/
theorem witness_ChannelBinding_refused :
    (let s := plState .bound; ∃ b, smFind 0 s.me.chans = some b ∧ s.inPipeline s.me b.cluster b.ring = true ∧ s.me.reg 0 = 0 ∧
      s.me.reg 1 ≠ 0 ∧ plainMode s.me) ∧
    (∃ s', (onBytes (granted (strand [(1, 64)])) 64 (List.replicate 16 1)).readVirt (granted (strand [(1, 64)])) 15 64 16 =
        .ok (List.replicate 16 1) s' ∧ chanDescOk s'.me.clusters.length (List.replicate 16 1) = false) ∧
    (∃ s', (onBytes (granted (strand [(1, 64)])) 64 attachDesc).readVirt (granted (strand [(1, 64)])) 15 64 16 = .ok attachDesc s' ∧
      byteAt attachDesc 10 / 2 % 2 = 1 ∧ s'.peerBind s'.me (byteAt attachDesc 12) (byteAt attachDesc 13) = none) ∧
    (∃ s', (onBytes (strand [(1, 64)]) 64 (chanDesc 4 1 2 0 0)).readVirt (strand [(1, 64)]) 15 64 16 = .ok (chanDesc 4 1 2 0 0) s' ∧
      chanDescOk s'.me.clusters.length (chanDesc 4 1 2 0 0) = true ∧
      s'.freeRing s'.me (s'.me.clusters.getD (byteAt (chanDesc 4 1 2 0 0) 8) 0) = none) := by
  unfold plainMode
  refine ⟨some_of (P := fun b => _) ?_, ⟨_, res_eq [] ?_, ?_⟩, ⟨_, res_eq [] ?_, ?_⟩, ⟨_, res_eq [] ?_, ?_⟩⟩ <;> decide +kernel

/-- A pipeline without members, bound; and one of which the strand is outside a handler. -/
theorem witness_empty_pipeline :
    let d : List Byte := [7, 0, 0, 0, 0, 0, 0, 0, 0, 0, 0, 0, 0, 0, 0, 0]
    let s : State := onBytes { strand [(1, 192)] with pipes := [(7, { state := .bound, desc := d, cluster := 0 })] } 192 d
    (s.me.pipe 7).state = .bound ∧ (s.me.pipe 7).desc = d ∧ descMembers d = [] ∧ plainMode s.me ∧
      ∃ s', reads s s' 1 16 d ∧ plainMode s'.me := by
  refine ⟨by decide +kernel, by decide +kernel, by decide +kernel, by unfold plainMode; decide +kernel, _, res_eq [] ?_, ?_⟩
  · decide +kernel
  · unfold plainMode; decide +kernel

/-- Pipeline 0 runs every unit of cluster 0, with these units and rings. -/
def running (g : Ag) (j : Jn) (l : List Ring) : State :=
  let c := { strand [] with pipes := [(0, { state := .running, desc := [0, 0, 0, 0, 255, 255, 255, 0, 255, 255, 15], cluster := 0 })] }
  ((wired c l).setAg 0 23 g).setJn 0 15 j

/-- A junction of a kind on inputs, with its record; its output is ring 0. -/
def jn (k : JnKind) (ins : List Nat) (l : List Byte) : Jn :=
  { kind := k, cfg := record l, ins := ins, outs := [some 0], cidx := [0, 0] }

/-- The head of an input. -/
def headOf (s : State) (j : Jn) (i : Nat) : Tok × Ring × Nat := (s.jnHead 0 j i).getD ({ tag := 3, data := [] }, {}, 0)

/-- A route whose table sends residue 0 to output 0 or drops it, a merge, a reorder of window 1, a pack of 64 by 2 BF16
elements and an unpack that has given all of them. -/
def jRoute (e : Byte) : Jn := jn .route [1] (List.replicate 28 0 ++ [e])
def jMerge : Jn := jn .merge [1, 2] (List.replicate 17 0 ++ [3])
def jReorder : Jn := jn .reorder [1] (List.replicate 22 0 ++ [1])
def jPack : Jn := { jn .pack [1] (List.replicate 32 0 ++ [64, 0, 0, 0, 2]) with listAt := 24 }
def jUnpack : Jn := { jn .unpack [] (List.replicate 32 0 ++ [64, 0, 0, 0, 2]) with listAt := 24, count := 128 }

/-- Two inputs with a token each: zeros in ring 1, and a 7 in ring 2. -/
def twoHeads (j : Jn) : State :=
  (running {} j [duct 4 1 0, filled (duct 5 0 1), filled (duct 6 0 1)]).writeSpBytes 0 1536 [7]

/-- The same with the 7 in the left input. -/
def leftHead (j : Jn) : State :=
  (running {} j [duct 4 1 0, filled (duct 5 0 1), filled (duct 6 0 1)]).writeSpBytes 0 1280 [7]

theorem witness_UnitFirings :
    (let g : Ag := { (Ag.resetUnit { cfg := agRcd }) with started := true }
      let s := running g {} [duct 4 1 0]
      s.mayFire 0 23 = true ∧ s.runsIn 0 23 = some 0 ∧ smFind 23 (s.clAt 0).ags = some g ∧ g.mode = 0 ∧ g.ended = false ∧ g.frozen = false ∧
      s.unitAsked 0 23 = false ∧ g.owed = [] ∧ g.started = true ∧ g.slot = [] ∧ g.bad = [] ∧
      g.tuple.1.visited = false ∧ g.tuple.2 = false ∧ s.ringAt 0 g.ring = some (duct 4 1 0) ∧
      (duct 4 1 0).room 1 = true ∧ (duct 4 1 0).size = 8) ∧
    (∀ e ∈ [(0 : Byte), 15], let j := jRoute e; let s := twoHeads j
      jnReady s 0 15 0 j .route ∧ s.jnHead 0 j 0 = some (headOf s j 0) ∧ (headOf s j 0).1.tag = 0 ∧
      (headOf s j 0).1.bad = [] ∧ byteAt j.cfg 21 % 2 = 0 ∧
      fieldAt j.cfg 28 4 / 16 ^ ((j.key (headOf s j 0).1 / (2 ^ byteAt j.cfg 18 : Nat)) % 8).toNat % 16 = e.toNat ∧
      (e.toNat ≠ 15 → j.outs.getD e.toNat none = some 0 ∧ s.noRoom 0 [0] = [])) ∧
    (∀ s ∈ [twoHeads jMerge, leftHead jMerge], jnReady s 0 15 0 jMerge .merge ∧
      s.jnHead 0 jMerge 0 = some (headOf s jMerge 0) ∧ s.jnHead 0 jMerge 1 = some (headOf s jMerge 1) ∧
      (headOf s jMerge 0).1.tag = 0 ∧ (headOf s jMerge 1).1.tag = 0 ∧ (headOf s jMerge 0).1.bad = [] ∧
      (headOf s jMerge 1).1.bad = [] ∧ jMerge.named = [0] ∧ s.noRoom 0 [0] = []) ∧
    jMerge.key (headOf (twoHeads jMerge) jMerge 0).1 ≤ jMerge.key (headOf (twoHeads jMerge) jMerge 1).1 ∧
    jMerge.key (headOf (leftHead jMerge) jMerge 1).1 < jMerge.key (headOf (leftHead jMerge) jMerge 0).1 ∧
    (let j := jReorder; let s := twoHeads j
      jnReady s 0 15 0 j .reorder ∧ j.ins = [1] ∧ j.lastIn = 0 ∧ j.window = [] ∧ j.named = [0] ∧ 0 < fieldAt j.cfg 22 2 ∧
      s.jnHead 0 j 0 = some (headOf s j 0) ∧ (headOf s j 0).1.tag = 0 ∧ (headOf s j 0).1.bad = [] ∧
      s.ringAt 0 0 = some (duct 4 1 0)) ∧
    (let j := jPack; let s := twoHeads j
      jnReady s 0 15 0 j .pack ∧ s.jnHead 0 j 0 = some (headOf s j 0) ∧ (headOf s j 0).1.tag = 0 ∧ j.listAt ≠ 0 ∧
      (j.gather (headOf s j 0).1).count < min ((j.band + 1) * 64) j.rows * j.cols ∧
      (j.gather (headOf s j 0).1).count ≠ j.count) ∧
    (let j := jUnpack; let s := twoHeads j
      jnReady s 0 15 0 j .unpack ∧ j.listAt ≠ 0 ∧ j.rows * j.cols ≤ j.count ∧ j.named = [0] ∧ s.noRoom 0 [0] = []) ∧
    ((twoHeads {}).ringAt 0 0 = some (duct 4 1 0) ∧ ringSound (duct 4 1 0) ∧ (duct 4 1 0).room 1 = true) ∧
    ((twoHeads {}).ringAt 0 1 = some (filled (duct 5 0 1)) ∧ ringSound (filled (duct 5 0 1)) ∧
      0 ∈ (filled (duct 5 0 1)).attached ∧ 0 < (filled (duct 5 0 1)).tokensOf 0) := by
  unfold jnReady ringSound
  refine ⟨?_, ?_, ?_, ?_, ?_, ?_, ?_, ?_, ?_, ?_⟩ <;> decide +kernel

/-- An address generator of a mode and element size, that has begun, with a loop of so many steps of 4. -/
def agOf (mode esz bound ring : Nat) : Ag :=
  { (Ag.resetUnit { cfg := record [BitVec.ofNat 8 (mode + 4), 0, 0, BitVec.ofNat 8 esz, 0xFF, 1, 0, 0, 0, 16, 0, 0, 0, 0, 0, 0,
      BitVec.ofNat 8 bound, 0, 0, 0, 4, 0, 0, 0] }) with started := true, ring := ring }

/-- An input ring whose token has a tag. -/
def tagged (tag : BitVec 2) : Ring := { filled (duct 5 0 1) with tags := if tag = 0 then [] else [(0, tag)] }

/-- Owed EOS, the last tuple of a visit, elements read for a slot, and elements of a slot, control tokens and slots outside
a visit in write mode. -/
theorem witness_UnitFirings_generators :
    (let g := { agOf 0 3 2 0 with owed := [2] }; let s := running g {} [duct 4 1 0];
      agReady s 0 23 0 g ∧ g.mode < 2 ∧ g.owed = 2 :: [] ∧ s.noRoom 0 [g.ring] = []) ∧
    (let g := agOf 0 3 1 0; let s := running g {} [duct 4 1 0];
      agReady s 0 23 0 g ∧ g.tuple.1.visited = true ∧ g.start = 0xFF ∧ g.held = false ∧ (∀ e ∈ (s.clAt 0).ags, e.2.start ≠ 23)) ∧
    (let g := agOf 1 2 4 0; let s := running g {} [duct 4 1 0];
      let l := (List.range 2).map fun i => ((agAfter g i).addr, g.elem);
      agReady s 0 23 0 g ∧ g.mode = 1 ∧ (duct 4 1 0).size = 2 * g.elem ∧ agGoesOn g 2 ∧
      resOk (s.unitReads (s.ctxAt 0) g.scratch 0 l) = true ∧
      ∀ d ∈ resVal [] (s.unitReads (s.ctxAt 0) g.scratch 0 l), ∀ x ∈ d, x.2 = false) ∧
    (∀ tag ∈ [(0 : BitVec 2), 1, 2, 3], let g := agOf 2 2 4 1; let s := running g {} [duct 4 1 0, tagged tag];
      let t := (s.headTok 0 (tagged tag) 0).getD { tag := 0, data := [] };
      agReady s 0 23 0 g ∧ g.mode = 2 ∧ s.headTok 0 (tagged tag) g.cidx = some t ∧ t.tag = tag ∧
      (tag = 0 → t.bad = [] ∧ g.pos = 0 ∧ t.data.length = 2 * g.elem ∧ agGoesOn g 2 ∧
        resOk (s.unitWrites (s.ctxAt 0) g.scratch 0 ((List.range 2).map fun i =>
          ((agAfter g i).addr, (t.pbytes.drop (i * g.elem)).take g.elem))) = true)) ∧
    ({ agOf 2 2 4 1 with started := false }.start = 0xFF) := by
  unfold agReady agGoesOn
  refine ⟨?_, ?_, ?_, ?_, ?_⟩ <;> decide +kernel

/-- Two inputs whose tokens have tags. -/
def tags2 (j : Jn) (a b : BitVec 2) : State :=
  running {} j [duct 4 1 0, tagged a, { filled (duct 6 0 1) with tags := if b = 0 then [] else [(0, b)] }]

/-- A route with STAMP at byte 4, and one that has an output beside ring 0. -/
def jStamp (e : Byte) : Jn := jn .route [1] (List.replicate 20 0 ++ [4, 1] ++ List.replicate 6 0 ++ [e])

/-- A poisoned slot at the head of ring 1, whose stored bytes hold the key and the stamp. -/
def soured (j : Jn) : State := (twoHeads j).addSpPoison 0 1280

theorem witness_UnitFirings_junctions :
    (∀ e ∈ [(0 : Byte), 15], let j := jStamp e; let s := twoHeads j;
      jnReady s 0 15 0 j .route ∧ byteAt j.cfg 21 % 2 = 1 ∧ (headOf s j 0).1.tag = 0 ∧
      (headOf s j 0).1.interp (headOf s j 0).2.2 (byteAt j.cfg 16) j.keyBytes = none ∧
      (headOf s j 0).1.interp (headOf s j 0).2.2 (byteAt j.cfg 20) 4 = none ∧
      fieldAt j.cfg 28 4 / 16 ^ ((j.key (headOf s j 0).1 / (2 ^ byteAt j.cfg 18 : Nat)) % 8).toNat % 16 = e.toNat) ∧
    (let j := jRoute 0; let s := soured j;
      jnReady s 0 15 0 j .route ∧ ((headOf s j 0).1.interp (headOf s j 0).2.2 (byteAt j.cfg 16) j.keyBytes).isSome = true) ∧
    (∀ tag ∈ [(1 : BitVec 2), 2, 3], let j := jRoute 0; let s := tags2 j tag 0;
      jnReady s 0 15 0 j .route ∧ (headOf s j 0).1.tag = tag ∧ s.noRoom 0 (j.outs.filterMap id) = []) ∧
    (∀ a ∈ [(0 : BitVec 2), 1, 2, 3], ∀ b ∈ [(0 : BitVec 2), 1, 2, 3], let s := tags2 jMerge a b;
      jnReady s 0 15 0 jMerge .merge ∧ (headOf s jMerge 0).1.tag = a ∧ (headOf s jMerge 1).1.tag = b ∧
      (headOf s jMerge 0).1.bad = [] ∧ (headOf s jMerge 1).1.bad = [] ∧ jMerge.ins.getD 0 64 ≠ jMerge.ins.getD 1 64) ∧
    (((headOf (soured jMerge) jMerge 0).1.interp (headOf (soured jMerge) jMerge 0).2.2 (byteAt jMerge.cfg 16) jMerge.keyBytes).isSome =
      true) := by
  unfold jnReady
  refine ⟨?_, ?_, ?_, ?_, ?_⟩ <;> decide +kernel

/-- A reorder whose next tag is in its window, and the one with an empty window before a control token. -/
def jEmits : Jn := { jReorder with window := [(0, 0)] }

/-- A pack that has taken all its 128 elements, one of them not 0; an unpack of a set in the scratchpad that has lists of
no entries. -/
def jFull : Jn := { jPack with count := 128, entries := [(5, 7)] }
def jGives : Jn := { jn .unpack [] (List.replicate 32 0 ++ [64, 0, 0, 0, 2, 0, 0, 0, 0, 1]) with listAt := 24 }

theorem witness_UnitFirings_sets :
    (let s := twoHeads jEmits; jnReady s 0 15 0 jEmits .reorder ∧ (0, 0) ∈ jEmits.window ∧
      (∀ w ∈ jEmits.window, w ≠ ((0 : BitVec 32), 0) → 0 < w.1.toNat) ∧ jEmits.tag = 0 ∧ s.spPoison = [] ∧ s.noRoom 0 [0] = []) ∧
    (∀ tag ∈ [(1 : BitVec 2), 2, 3], let s := tags2 jReorder tag 0;
      jnReady s 0 15 0 jReorder .reorder ∧ (headOf s jReorder 0).1.tag = tag ∧ jReorder.window = [] ∧ s.noRoom 0 [0] = []) ∧
    (∀ tag ∈ [(0 : BitVec 2), 1, 2, 3], let j := { jFull with cfg := jGives.cfg }; let s := tags2 j tag 0;
      jnReady s 0 15 0 j .pack ∧ (headOf s j 0).1.tag = tag ∧ (headOf s j 0).1.bad = [] ∧
      resOk (s.unitWrites (s.ctxAt 0) j.setSpace 0 (j.packHead.1 ++ (Jn.packBands (j.bands + 1) j).1)) = true) ∧
    (jFull.band = 0 ∧ 0 < jFull.rows * jFull.cols ∧ jFull.rows ≤ 64 ∧ jFull.cols ≤ 64 ∧ jFull.count = jFull.rows * jFull.cols ∧
      jFull.badEntries = [] ∧ ∀ e ∈ jFull.entries, e.1 < jFull.count) ∧
    (let j := jGives; let s := running {} j [duct 4 1 0];
      let l := (j.setAt, 16) :: (List.range (j.bands * j.tileCols)).map fun i => (j.setAt + 16 + 8 * i, 8);
      let r := s.unitReads (s.ctxAt 0) j.setSpace 0 l;
      let v := fun i => s.setElem 0 j (s.ctxAt 0) (resVal [] r).tail.flatten (j.count + i);
      jnReady s 0 15 0 j .unpack ∧ resOk r = true ∧ resSt r = s ∧ (resVal [] r).length = 1 + j.bands * j.tileCols ∧
      j.count < j.rows * j.cols ∧ ∀ i < min (8 * 8 / setBits j.fmt) (j.rows * j.cols - j.count),
        resOk (v i) = true ∧ (resVal (0, true) (v i)).2 = false ∧ resSt (v i) = s) := by
  unfold jnReady
  refine ⟨?_, ?_, ?_, ?_, ?_⟩ <;> decide +kernel

/-! ## Witnesses: engines and matrix nodes -/

/-- A pass of one CF32 vector of two elements, one stage, from offset 0 to offset 4096, without channels (R322). -/
def passRcd : List Byte :=
  record [2, 1, 0, 0, 1, 0, 0, 0, 255, 255, 255, 255, 0, 0, 0, 0, 0, 0, 0, 0, 0, 0, 0, 0, 0, 16]

/-- A copy of eight bytes from offset 0 to offset 4096 of the scratchpad (R327). -/
def copyRcd : List Byte :=
  record ([3, 1] ++ List.replicate 23 0 ++ [16] ++ List.replicate 6 0 ++ [8, 0, 1, 0, 1, 0, 1, 0])

/-- A record at 64, and X2 as a length. -/
def engState (l : List Byte) (n : Word) : State := onBytes (granted (strand [(1, 64), (2, n)])) 64 l

/-- The entry of the pass in its FIFO, and a twiddle load of all of a full share. -/
def passJob0 : BpJob := .pass passRcd 64 0 0 0 0 none none none none 255 255 255 true true
def twlJob0 : BpJob := .twl 0 16384 true 0

/-- A share's pipe with a job, running or not. -/
def piped (share : Nat) (j : BpJob) (r : Option BpDone) : State :=
  (engState passRcd 4).setBp 0 share { fifo := [j], running := r }

/-- The copy command, queued or in progress. -/
def copyCmd0 : CopyCmd := { rcd := copyRcd, sid := 0, ctx := 0, src := 0, dst := 0 }
def copying (x : Copy) : State := (engState copyRcd 4).setCopy 0 1 x

theorem witness_EngineCommandsAndStarts :
    (∃ l s', reads (engState copyRcd 4) s' 1 64 l ∧ copyOk (engState copyRcd 4).me.clusters.length l = true ∧
      (s'.copyAt ((engState copyRcd 4).me.copyCmd s'.cur l).2 1).fifo.length < 16) ∧
    ((engState passRcd 4).me.share ≠ 0 ∧ ∃ l s' p, reads (engState passRcd 4) s' 1 64 l ∧
      s'.passJob (engState passRcd 4).me ((engState passRcd 4).me.reg 1) l = some p ∧
      (s'.bpAt p.2.1 (engState passRcd 4).me.shareNo).fifo.length < 8) ∧
    (let s := engState passRcd 16384;
      s.me.share = 3 ∧ s.me.clusters = [0] ∧ (s.bpAt 0 s.me.shareNo).fifo.length < 8 ∧ (s.me.reg 2).toNat ≠ 0 ∧
      (s.me.reg 2).toNat % 4 = 0 ∧ (s.me.reg 2).toNat ≤ 16384 ∧ (s.me.reg 1).toNat + (s.me.reg 2).toNat ≤ 2 ^ 22) ∧
    ((piped 0 passJob0 none).bpIdle 0 = true ∧ (piped 0 passJob0 none).pipeRuns 0 [none, none, none, none] = true ∧
      ((piped 0 passJob0 none).clAt 0).bpTurn = 0 ∧ ((piped 0 passJob0 none).bpAt 0 0).fifo = [passJob0]) ∧
    ((piped 0 twlJob0 none).bpIdle 0 = true ∧ ((piped 0 twlJob0 none).bpAt 0 0).fifo = [twlJob0] ∧
      Memory.wf (piped 0 twlJob0 none).twl = true ∧ (piped 0 twlJob0 none).spPoison = []) ∧
    (((copying { fifo := [copyCmd0] }).copyAt 0 1).active = none ∧ ((copying { fifo := [copyCmd0] }).copyAt 0 1).fifo = [copyCmd0] ∧
      ((copying { fifo := [copyCmd0] }).copyAt 0 1).frozen = false ∧
      smFind (42 + 1) ((copying { fifo := [copyCmd0] }).clAt 0).copyCmd = none ∧ msField copyCmd0.rcd 8 = none) := by
  refine ⟨⟨_, _, res_eq [] ?_, ?_⟩, ⟨?_, _, _, _, res_eq [] ?_, opt_eq (passJob0, 0, {}) ?_, ?_⟩, ?_, ?_, ?_, ?_⟩ <;> decide +kernel

/-- A command channel of copy engine 1 on ring 1 of 64-byte slots, whose head has a tag. -/
def commanded (tag : BitVec 2) : State :=
  let r : Ring := filled (newRing [0, 5, 0, 0, 1, 0, 7, 0, 0, 1, 0, 1, 0, 0, 0, 0] 0 1)
  let s := (running {} {} [duct 4 1 0, { r with tags := if tag = 0 then [] else [(0, tag)] }]).writeSpBytes 0 1280 copyRcd
  s.setCmd 0 43 { cfg := cmdRcd, ring := 1, cidx := 0, sid := 0 }

/-- The command channel, its head and the ring. -/
def cmd0 : CmdChan := { cfg := cmdRcd, ring := 1, cidx := 0, sid := 0 }
def cmdHead0 (tag : BitVec 2) : Tok × Ring := ((commanded tag).cmdHead 0 43 cmd0).getD ({ tag := 1, data := [] }, {})

/-- A strand that waits for room in a channel of which the watchdog has run out: 1 us is 39,000 ticks. -/
def stalled : State :=
  let c := { strand [] with wait := some (.chPush 0 5 false), wdog := 1 }
  { wired c [{ duct 4 0 0 with free := [0], tokens := [2], stall := .since 0 }] with ticks := 39000 }

/-- A pass whose groups are still to be done. -/
def passing : State := piped 1 passJob0 (some {})
def passGroups : BpDone × State := State.bpGroups 0 1 true passRcd 0 none none 255 255 (groupCount passRcd) {} passing
def passWritten : State × BpDone := passGroups.2.passWrite 0 passRcd passGroups.1

theorem witness_EngineEndsAndCommandChannels :
    (let s := copying { active := some copyCmd0 }
      let r := State.copyRun 0 s.me copyCmd0 [] (copyTotal copyRcd) 0 [] s
      (s.copyAt 0 1).active = some copyCmd0 ∧ (s.copyAt 0 1).frozen = false ∧ (s.copyAt 0 1).readyAt ≤ s.cycle ∧
      s.unitAsked 0 (42 + 1) = false ∧ s.strandCtx copyCmd0.sid = some s.me ∧ r.1 = copyTotal copyCmd0.rcd ∧ r.2.2.1 = none) ∧
    ((passing.bpAt 0 1).running = some {} ∧ passing.unitAsked 0 40 = false ∧ 0 ≤ passing.cycle ∧
      (passing.bpAt 0 1).fifo = [passJob0] ∧ passing.pipeRuns 0 [none, none, none, none] = true ∧
      groupCount passRcd ≤ passGroups.1.next ∧ passGroups.1.status = none ∧ passGroups.1.posted = 0 ∧
      passWritten.2.status.isSome = true ∧
      (passWritten.1.passStatusWrite 0 0 64 (passWritten.2.status.getD 0)).1 =
        some (passWritten.1.passStatusWrite 0 0 64 (passWritten.2.status.getD 0)).2) ∧
    (∀ tag ∈ [(0 : BitVec 2), 2], smFind 43 ((commanded tag).clAt 0).copyCmd = some cmd0 ∧
      (commanded tag).runsIn 0 43 = some 0 ∧ (commanded tag).mayFire 0 43 = true ∧ (commanded tag).cmdHead 0 43 cmd0 = some (cmdHead0 tag) ∧
      (commanded tag).cmdTurn 0 43 cmd0 ((commanded tag).ctxAt 0) = true ∧ (cmdHead0 tag).1.tag = tag) ∧
    ((cmdHead0 0).1.bad = [] ∧ 64 ≤ (cmdHead0 0).1.data.length ∧
      copyOk ((commanded 0).ctxAt 0).clusters.length (cmdHead0 0).1.data = true) ∧
    (stalled.stallDue 0 0 = some 39000 ∧ 39000 ≤ stalled.ticks ∧ (stalled.ringAt 0 0).isSome = true ∧
      (stalled.pending.find? fun q => decide (q.1 = 0) && decide (q.2.1 = 0)) = some (0, 0, 0, 0, 1)) := by
  refine ⟨?_, ?_, ?_, ?_, ?_⟩ <;> decide +kernel

/-- A command channel of the matrix node whose head is mx.zacc of accumulator 3 with M = N = K = 64. -/
def zaccSlot : List Byte := record (leBytes 4 (parcelOf (.mxZacc 3)) ++ [64, 64, 64, 0])
def nodeCmd0 : CmdChan := { cfg := cmdRcd, ring := 1, cidx := 0, sid := 0 }
def nodeFed : State :=
  let r : Ring := filled (newRing [0, 5, 0, 0, 1, 0, 7, 0, 0, 1, 0, 1, 0, 0, 0, 0] 0 1)
  ((running {} {} [duct 4 1 0, r]).writeSpBytes 0 1280 zaccSlot).setCmd 0 41 nodeCmd0

theorem witness_node_command :
    (nodeFed.clAt 0).nodeCmd = some nodeCmd0 ∧ nodeFed.runsIn 0 41 = some 0 ∧
    (let t := ((nodeFed.cmdHead 0 41 nodeCmd0).getD ({ tag := 1, data := [] }, {})).1;
      (nodeFed.cmdHead 0 41 nodeCmd0).isSome = true ∧ t.tag = 0 ∧ t.bad = [] ∧
      (nodeFed.slotToken (nodeFed.ctxAt 0) 0 t.data).isSome = true) ∧
    nodeFed.cmdTurn 0 41 nodeCmd0 (nodeFed.ctxAt 0) = true ∧ nodeFed.mayFire 0 41 = true := by
  refine ⟨?_, ?_, ?_, ?_, ?_⟩ <;> decide +kernel


/-- The pass before its end, whose groups run as their slots are there; and a node whose FIFO of 16 is full. -/
theorem witness_EngineEndsAndCommandChannels_groups :
    (let d : BpDone := { endAt := 100 }; let s := piped 1 passJob0 (some d);
      (s.bpAt 0 1).running = some d ∧ d.status = none ∧ s.cycle < d.endAt ∧ s.unitAsked 0 40 = false ∧
      (s.bpAt 0 1).fifo = [passJob0] ∧ s.pipeRuns 0 [none, none, none, none] = true ∧
      (State.bpGroups 0 1 true passRcd 0 none none 255 255 (groupCount passRcd) d s).1.status = none) ∧
    (let t := (strand []).token 0 2 0 0 0 0 64 64 64;
      let s := (on (strand [])).setCl 0 { nodes := [((strand []).shareNo, { fifo := List.replicate 16 t })] };
      s.me.share ≠ 0 ∧ s.me.clusters = [0] ∧ s.me.tokenCheck t = none ∧ 16 ≤ (nodeOf s 0 s.me.shareNo).fifo.length) := by
  refine ⟨?_, ?_⟩ <;> decide +kernel
/-! ## Witnesses: matrix nodes -/

/-- A strand with all lengths at 64 on a full share. -/
def mxStrand : Ctx := { strand [] with mxm := 64, mxn := 64, mxk := 64 }

/-- A token of full height at the head of a node, whose completion time has come. -/
def fullToken (op : BitVec 3) : Token :=
  { (mxStrand.token 0 op 3 6 7 0 128 128 128) with null := false, doneAt := 0, span := [0] }
def noded (t : Token) : State := (on mxStrand).setCl 0 { nodes := [(0, { fifo := [t] })] }

/-- The same where row 5 of tile 6 is poisoned, and a node whose FIFO is full. -/
def uncorrected : State := { noded (fullToken 0) with tilePoison := [tilePoisonKey 0 6 5] }
def crowded : State := (on mxStrand).setCl 0 { nodes := [(0, { fifo := List.replicate 16 (fullToken 2) })] }

theorem witness_MatrixTokens :
    (mxOf (.mxMma 3 6 7) = some (0, 3, 6, 7, 0) ∧ mxOf (.mxZacc 3) = some (2, 3, 0, 0, 0) ∧
      mxOf (.mxRnd 5 3 1) = some (3, 3, 5, 0, 1)) ∧
    ((on mxStrand).me.tokenCheck ((on mxStrand).me.token (on mxStrand).cur 2 3 0 0 0 (on mxStrand).me.mxm.toNat
        (on mxStrand).me.mxn.toNat (on mxStrand).me.mxk.toNat) = none ∧
      (on mxStrand).me.clusters = [0] ∧ (nodeOf (on mxStrand) 0 (on mxStrand).me.shareNo).fifo.length < 16 ∧
      ((on mxStrand).me.token (on mxStrand).cur 2 3 0 0 0 (on mxStrand).me.mxm.toNat (on mxStrand).me.mxn.toNat
        (on mxStrand).me.mxk.toNat).null = false) ∧
    (crowded.me.tokenCheck (crowded.me.token crowded.cur 2 3 0 0 0 crowded.me.mxm.toNat crowded.me.mxn.toNat
        crowded.me.mxk.toNat) = none ∧ 0 ∈ crowded.me.clusters ∧ 16 ≤ (nodeOf crowded 0 crowded.me.shareNo).fifo.length) ∧
    (let s := on (strand []);
      s.me.tokenCheck (s.me.token s.cur 0 3 6 7 0 s.me.mxm.toNat s.me.mxn.toNat s.me.mxk.toNat) = none ∧
      (s.me.token s.cur 0 3 6 7 0 s.me.mxm.toNat s.me.mxn.toNat s.me.mxk.toNat).null = true ∧ s.perf = [] ∧
      (s.clAt 0).nodeCmd = none) ∧
    (on (strand [(1, 200)])).me.share ≠ 0 ∧
    (∀ op ∈ [(0 : BitVec 3), 2, 3], (nodeOf (noded (fullToken op)) 0 0).fifo = [fullToken op] ∧
      (fullToken op).span = [0] ∧ (fullToken op).doneAt ≤ (noded (fullToken op)).cycle ∧
      (noded (fullToken op)).tilePoison = [] ∧ (noded (fullToken op)).perf = [] ∧
      ((noded (fullToken op)).clAt 0).nodeCmd = none ∧ smWf (0 : BitVec 40) (noded (fullToken op)).accs = true ∧
      Memory.wf (noded (fullToken op)).tiles = true ∧ (fullToken op).acc < 4 ∧ (fullToken op).ta < 8 ∧
      (fullToken op).lowRow + (fullToken op).m ≤ 128 ∧ (fullToken op).lowRow + (fullToken op).rows ≤ 128 ∧
      (fullToken op).n ≤ 128 ∧ (fullToken op).op = op) ∧
    ((uncorrected.tileUe ((fullToken 0).span.flatMap (fullToken 0).reads)).isSome = true ∧
      uncorrected.ctxOf (fullToken 0).sid = some 0) := by
  refine ⟨?_, ?_, ?_, ?_, ?_, ?_, ?_⟩ <;> decide +kernel

/-! ## Witnesses: vector slots -/

/-- A strand with these registers that has this convoy open. -/
def opened (l : List (XReg × Word)) (cv : Convoy) : State := on { strand l with viq := [cv] }

/-- A convoy over three elements, and one that a fault interrupted at element 2. -/
def cv3 : Convoy := { vl := 3 }
def cv32 : Convoy := { vl := 3, vstart := 2 }

/-- An operand of n slices at a start, and the VR fields over byte operands. -/
def op2 (n : BitVec 10) : Opnd := ⟨n, 2⟩
def vr0 : VR :=
  { dest := op2 4, src1 := op2 0, src2 := op2 2, pred := 12, pz := false, mode := 0, seg := 0, ext := false, sat := false, fn := 0 }
def vi0 : VI := { dest := op2 4, src1 := op2 0, imm := 5, pred := 12, pz := true, ext := false, sat := true, fn := 0 }

theorem witness_LaneSlots :
    (openSlot (opened [] cv3) cv3 ∧ openSlot (opened [] cv32) cv32) ∧
    (∃ r, integerRow (slotEnv (opened [] cv3) cv3) (.vmacc vr0) = some r) ∧
    (∃ r, integerRow (slotEnv (opened [] cv32) cv32) (.vcmpi vi0) = some r) ∧
    (∃ r, floatRow (slotEnv (opened [] cv3) cv3) (.vfmacc vr0) = some r) ∧
    (∃ r, otherRow (slotEnv (opened [] cv3) cv3) (.vmmul vr0) = some r) ∧
    (∃ r, otherRow (slotEnv (opened [] cv32) cv32) (.vcvt { vr0 with dest := ⟨4, 3⟩, src1 := ⟨0, 4⟩ }) = some r) := by
  unfold openSlot
  exact ⟨by decide +kernel, ⟨_, rfl⟩, ⟨_, rfl⟩, ⟨_, rfl⟩, ⟨_, rfl⟩, ⟨_, rfl⟩⟩

theorem witness_PermuteCompressAndPushSlots :
    openSlot (opened [] cv32) cv32 ∧ (∃ F, permuted (slotEnv (opened [] cv32) cv32) (.vslideUp vr0) = some (vr0, F)) ∧
    (∃ F, permuted (slotEnv (opened [] cv32) cv32) (.vslideDown { vr0 with fn := 2 }) = some ({ vr0 with fn := 2 }, F)) ∧
    (∃ F, permuted (slotEnv (opened [] cv32) cv32) (.vbcastFib vr0) = some (vr0, F)) := by
  unfold openSlot
  exact ⟨by decide +kernel, ⟨_, rfl⟩, ⟨_, rfl⟩, ⟨_, rfl⟩⟩

/-- A sum under MODQ: op 6. -/
def vrMod : VR := { vr0 with src2 := ⟨6, 1⟩ }

theorem witness_ReductionAndScanSlots :
    openSlot (opened [] cv3) cv3 ∧ vr0.redOp ≠ 6 ∧
    (let v := slotEnv (opened [] { cv3 with modq := 1 }) { cv3 with modq := 1 };
      vrMod.redOp = 6 ∧ ∀ e ∈ v.actives vrMod.pred, v.get vrMod.src1 e < 1) ∧
    (let s : State := { opened [] { cv3 with modq := 3 } with slices := [(1025, 1)] }
     let v := slotEnv s { cv3 with modq := 3 };
      1 ∈ v.actives vrMod.pred ∧ 3 ≤ v.get vrMod.src1 1 ∧ ∀ k ∈ v.actives vrMod.pred, k < 1 → v.get vrMod.src1 k < 3) ∧
    (opened [] cv3).me.fcsr.extractLsb' 6 6 = 0 := by
  unfold openSlot; refine ⟨?_, ?_, ?_, ?_, ?_⟩ <;> decide +kernel

/-- Predicate 12 as the source: every element is set; a predicate register that nothing has set is clear. -/
def vrOnes : VR := { vr0 with src1 := ⟨12, 1⟩ }
def vrNone : VR := { vr0 with src1 := ⟨3, 1⟩ }

theorem witness_PredicateAndScalarSlots :
    openSlot (opened [] cv32) cv32 ∧
    (let v := slotEnv (opened [] cv32) cv32;
      2 ∈ (v.actives vrOnes.pred).filter (v.pred vrOnes.src1.s) ∧
      (∀ k ∈ (v.actives vrOnes.pred).filter (v.pred vrOnes.src1.s), 2 ≤ k) ∧
      (v.actives vrNone.pred).filter (v.pred vrNone.src1.s) = []) ∧
    (let v := slotEnv (opened [(0, 2)] cv3) cv3;
      v.act vr0.pred (v.c.reg vr0.src1.reg).toNat = true ∧ v.act { vr0 with pred := 3 }.pred (v.c.reg vr0.src1.reg).toNat = false) := by
  unfold openSlot; refine ⟨?_, ?_, ?_⟩ <;> decide +kernel

/-- A conversion from FP32 to BF16 under error feedback. -/
def vrEfb : VR := { vr0 with dest := ⟨8, 4⟩, src1 := ⟨0, 8⟩, fn := 4 }

theorem witness_ErrorFeedbackAndBlockExponentSlots :
    openSlot (opened [] cv3) cv3 ∧ vrEfb.ext = false ∧ vrEfb.fn = 4 ∧ vrEfb.efbOk = true := by
  unfold openSlot; decide +kernel

/-- A convoy whose one slot wrote slice 5 of lane 1, predicate 2 of lane 1, X7, a flag, a carry, a filled word, a tile
byte and an accumulator entry, and stored a byte at 4096. -/
def cvDone : Convoy :=
  { vl := 3
    logs := [{ slices := [{ row := 0, elem := 1, key := 1029, val := 7 }], preds := [{ row := 0, elem := 1, key := 18, val := true }]
               scalar := some (7, 9), flags := [(1, 1)], efc := [(1, 5)], fill := [(2048, 3)]
               tiles := [.byte (tileKey 0 1 0 0) 9 255, .acc (accKey 0 2 0 0) 4, .flags 1 true true]
               mems := memWrites { e := 0, cl := 0, va := 4096, bit := 0, bits := 8 } [{ scratch := false, key := 4096, va := 4096 }] 7 }] }

/-- A convoy that has added to a doubleword of zeros at 64, for which it took this old value. -/
def cvAmo (old : Nat) : Convoy :=
  { vl := 3, logs := [{ amos := [{ elem := 0, scratch := false, keys := List.range' 64 8, op := 0, val := 5, old := old }] }] }

theorem witness_ConvoyCommit :
    (((opened [] cvDone).ctxAt 0).viq = [cvDone] ∧ cvDone.todo = [] ∧ cvDone.whole = none ∧ cvDone.fault = none ∧
      (((opened [] cvDone).beforeAmos ((opened [] cvDone).ctxAt 0) cvDone.logs).putAmos
        (cvDone.logs.flatMap SlotLog.amos)).isSome = true ∧
      (opened [] cvDone).chansHold ((opened [] cvDone).ctxAt 0) cvDone.logs = true ∧
      cvDone.logs.findSome? SlotLog.scalar = some (7, 9) ∧ (opened [] cvDone).perf = [] ∧ cellsOk (opened [] cvDone) ∧
      (∀ g ∈ cvDone.logs, g.push = none ∧ g.pop = none)) ∧
    (((opened [] (cvAmo 0)).ctxAt 0).viq = [cvAmo 0] ∧ (cvAmo 0).todo = [] ∧ (cvAmo 0).whole = none ∧ (cvAmo 0).fault = none ∧
      (((opened [] (cvAmo 0)).beforeAmos ((opened [] (cvAmo 0)).ctxAt 0) (cvAmo 0).logs).putAmos
        ((cvAmo 0).logs.flatMap SlotLog.amos)).isSome = true ∧
      (opened [] (cvAmo 0)).chansHold ((opened [] (cvAmo 0)).ctxAt 0) (cvAmo 0).logs = true ∧
      (cvAmo 0).logs.findSome? SlotLog.scalar = none) ∧
    (((opened [] (cvAmo 9)).ctxAt 0).viq = [cvAmo 9] ∧
      (((opened [] (cvAmo 9)).beforeAmos ((opened [] (cvAmo 9)).ctxAt 0) (cvAmo 9).logs).putAmos
        ((cvAmo 9).logs.flatMap SlotLog.amos)).isNone = true) ∧
    (let l := (List.range' 64 8).map fun k => Loc.mk false k 0;
      littleEndian (opened [] cv3) l = 0 ∧ cellsOk (opened [] cv3) ∧ cellsApart l) := by
  unfold cellsOk cellsApart; refine ⟨?_, ?_, ?_, ?_⟩ <;> decide +kernel

/-- The same with an element fault, one that commits all or nothing, and a fault of a whole instruction. -/
def faulty (a : Bool) : Convoy := { cvDone with fault := some (1, trapOf causeMemPoison 0 64), atomic := a }
def faultyWhole : Convoy := { cvDone with whole := some (trapOf causeTileOff 1 0) }
def faultyAmo (old : Nat) : Convoy := { cvAmo old with fault := some (1, trapOf causeMemPoison 0 64) }

theorem witness_ConvoyFaults :
    (∀ cv ∈ [faulty false, faulty true, faultyWhole, faultyAmo 0, faultyAmo 9], ((opened [] cv).ctxAt 0).viq = [cv] ∧
      cv.todo = [] ∧ plainMode ((opened [] cv).ctxAt 0) ∧ (opened [] cv).perf = [] ∧ (opened [] cv).writes = [] ∧
      (opened [] cv).lags = [] ∧ cellsOk (opened [] cv)) ∧
    (trapOf causeMemPoison 0 64).cause ≠ causeHwUe ∧ (trapOf causeTileOff 1 0).cause ≠ causeHwUe ∧
    ((faulty false).whole = none ∧ (faulty false).fault = some (1, trapOf causeMemPoison 0 64) ∧
      (faulty false).atomic = false ∧ (faulty false).logs.flatMap SlotLog.amos = []) ∧
    ((faulty true).whole = none ∧ (faulty true).fault = some (1, trapOf causeMemPoison 0 64) ∧ (faulty true).atomic = true) ∧
    faultyWhole.whole = some (trapOf causeTileOff 1 0) ∧
    ((faultyAmo 0).logs.flatMap SlotLog.mems = [] ∧
      ((opened [] (faultyAmo 0)).putAmos (((faultyAmo 0).logs.flatMap SlotLog.amos).filter fun a => decide (a.elem < 1))).isSome = true ∧
      ((opened [] (faultyAmo 9)).putAmos (((faultyAmo 9).logs.flatMap SlotLog.amos).filter fun a => decide (a.elem < 1))).isNone = true) := by
  unfold plainMode cellsOk; refine ⟨?_, ?_, ?_, ?_, ?_, ?_, ?_⟩ <;> decide +kernel

/-! ## Witnesses: vector memory and channels -/

/-- No slice, and no byte of an access, is poisoned, and the vector state is as it was. -/
def placesGood (s s' : State) (els : List Elem) (r : Elem → List Loc) : Bool :=
  s'.slicePoison.isEmpty && (s'.slices == s.slices) && (s'.preds == s.preds) &&
    els.all fun e => (r e).all fun b => !s'.locPoison b

theorem placesOf_resolved {s : State} {kind : AccKind} {sp : Bool} {form cls : Nat} {els : List Elem}
    (h : (match s.resolve s.me kind sp form cls els els with
      | .ok (r, none) s' => placesGood s s' els r
      | _ => false) = true) : ∃ s' r, placesOf s s' kind sp form cls els r := by
  revert h
  unfold placesOf
  generalize s.resolve s.me kind sp form cls els els = x
  intro h
  cases x with
  | ok p s' =>
    obtain ⟨r, o⟩ := p
    cases o with
    | none =>
      have h' : placesGood s s' els r = true := h
      simp only [placesGood, Bool.and_eq_true, List.isEmpty_iff, beq_iff_eq, List.all_eq_true, Bool.not_eq_true'] at h'
      exact ⟨s', r, rfl, h'.1.1.1, h'.1.1.2, h'.1.2, h'.2⟩
    | some _ => cases h
  | trap t s => cases h
  | ask q s => cases h
  | wait s => cases h

/-- The VM fields over byte operands at X1, with an index operand at slices 8 and 9. -/
def vm0 (space : Bool) (fn : BitVec 5) : VM :=
  { data := op2 0, base := 1, stride := 2, idx := 0x82, cls := 15, pred := 12, space := space, hint := 0, fn := fn }

/-- A strand of two lanes with a convoy open; X1 is 4096 and X2 is 8. -/
def vmState (cv : Convoy) : State :=
  on { strand [(1, 4096), (2, 8)] with viq := [cv], vspan := spanWord 0 false 0 0 2 }

/-- The elements of an access, and the ranges of a spill. -/
def vmEls (f : VM) (form : Nat) : List Elem :=
  ((slotEnv (vmState cv3) cv3).actives f.pred).map (elemOf (slotEnv (vmState cv3) cv3) f form)
def vmLanes (f : VM) : List Elem :=
  let s := vmState cv3
  let bytes := (f.idx.toNat % 1024 + 1 + 1) / 2
  (List.range s.me.lanes).map fun k =>
    Elem.mk k (s.me.laneAt k).1 (s.me.reg f.base + BitVec.ofNat 64 (bytes * k)).toNat 0 (8 * bytes)

/-- What the elements resolve to. -/
def vmRes (kind : AccKind) (f : VM) (form : Nat) (els : List Elem) : Res ((Elem → List Loc) × Option (Nat × TrapInfo)) :=
  (vmState cv3).resolve (vmState cv3).me kind f.space form f.cls.toNat els els

/-- A convoy that has logged the store of one byte. -/
def cvStore : Convoy :=
  { vl := 1, logs := [{ mems := memWrites { e := 0, cl := 0, va := 4096, bit := 0, bits := 8 } [{ scratch := false, key := 4096, va := 4096 }] 7 }] }

theorem witness_VectorStores :
    openSlot (vmState cv3) cv3 ∧
    (storeForm (.vst (vm0 false 0)) = some (vm0 false 0, 0) ∧ ∃ s' r, placesOf (vmState cv3) s' 1 false 0 15 (vmEls (vm0 false 0) 0) r) ∧
    (storeForm (.vstx (vm0 true 0)) = some (vm0 true 0, 2) ∧ ∃ s' r, placesOf (vmState cv3) s' 1 true 2 15 (vmEls (vm0 true 0) 2) r) ∧
    (∃ s' r, placesOf (vmState cv3) s' 1 false 0 15 (vmLanes (vm0 false 0)) r) ∧
    (∃ s' r, placesOf (vmState cv3) s' 0 false 0 15 (vmLanes (vm0 false 0)) r) ∧
    (((opened [] cvStore).ctxAt 0).viq = [cvStore] ∧ cvStore.todo = [] ∧ cvStore.whole = none ∧ cvStore.fault = none ∧
      (∀ g ∈ cvStore.logs, g.amos = [] ∧ g.push = none ∧ g.pop = none) ∧ (opened [] cvStore).perf = [] ∧
      cellsOk (opened [] cvStore)) := by
  unfold openSlot cellsOk
  refine ⟨?_, ⟨?_, placesOf_resolved ?_⟩, ⟨?_, placesOf_resolved ?_⟩, placesOf_resolved ?_,
    placesOf_resolved ?_, ?_⟩ <;> decide +kernel

/-- The elements of a load, and those of a vamo, among which an index may be read behind a result. -/
def vlEls (f : VM) (form : Nat) : List Elem :=
  let v := slotEnv (vmState cv3) cv3
  v.accessElems f form 0 true (v.loadElem f form [] none)
def vaEls (f : VM) : List Elem :=
  let v := slotEnv (vmState cv3) cv3
  v.accessElems f 2 3 (decide (16 ≤ f.fn.toNat)) (v.amoElem f [] none)

theorem witness_VectorLoadAndAtomicSlots :
    openSlot (vmState cv3) cv3 ∧
    (loadForm (.vlds (vm0 false 0)) = some (vm0 false 0, 1) ∧ ∃ s' r, placesOf (vmState cv3) s' 0 false 1 15 (vlEls (vm0 false 0) 1) r) ∧
    (loadForm (.vldx (vm0 true 1)) = some (vm0 true 1, 2) ∧ ∃ s' r, placesOf (vmState cv3) s' 0 true 2 15 (vlEls (vm0 true 1) 2) r) ∧
    (∃ s' r, placesOf (vmState cv3) s' 3 false 2 15 (vaEls (vm0 false 16)) r) ∧
    crossRows (vm0 false 16).data (vm0 false 16).index (rowCount (vmState cv3).me.lanes cv3.vl) = false := by
  unfold openSlot
  refine ⟨?_, ⟨?_, placesOf_resolved ?_⟩, ⟨?_, placesOf_resolved ?_⟩, placesOf_resolved ?_, ?_⟩ <;> decide +kernel

/-- A convoy that has logged a scratchpad configuration. -/
def cvCfg : Convoy := { vl := 3, logs := [{ spcfg := some 8 }] }

theorem witness_PrefetchAndScratchpadConfiguration :
    openSlot (opened [] cv3) cv3 ∧ (opened [] cv3).engineWork (opened [] cv3).me.sid = false ∧
    (opened [] cv3).childConvoys (opened [] cv3).me = false ∧
    (((opened [] cvCfg).ctxAt 0).viq = [cvCfg] ∧ cvCfg.todo = [] ∧ cvCfg.whole = none ∧ cvCfg.fault = none ∧
      cvCfg.logs = [{ spcfg := some 8 }] ∧ plainLog { ({ spcfg := some 8 } : SlotLog) with spcfg := none } ∧
      (opened [] cvCfg).perf = []) ∧
    (let s := (opened [] cv3).setCopy 0 0 { fifo := [{ rcd := [], sid := 0, ctx := 0, src := 0, dst := 0 }] };
      openSlot s cv3 ∧ s.engineWork s.me.sid = true) := by
  unfold openSlot plainLog; decide +kernel

/-- Channel 3, with this convoy open, and the VR fields of a vector channel instruction on it. -/
def chanOpen (s : State) (cv : Convoy) : State := s.setMe { s.me with viq := [cv] }
def vrChan : VR := { vr0 with src2 := ⟨3, 1⟩, fn := 0 }

/-- A convoy that has logged a push of one slot; one that waits at a pop. -/
def cvPush : Convoy := { vl := 3, logs := [{ push := some (3, [(0, List.replicate 8 7)]) }] }
def cvWait : Convoy := { vl := 3, todo := [.vchPop vrChan] }

theorem witness_VectorChannelSlots :
    (let s := chanOpen (chan 0 0) cv3;
      openSlot s cv3 ∧ s.chanCheck s.me (vrChan.src2.s % 64) .push = .ok (0, 0, ring3 s) ∧ pushNeed 3 vrChan (ring3 s) ≤ (ring3 s).slots ∧
        (ring3 s).room (pushNeed 3 vrChan (ring3 s)) = true) ∧
    (let s := chanOpen (after [.chPush 3 5 false] (chan 0 0)) cv3;
      openSlot s cv3 ∧ s.chanCheck s.me (vrChan.src2.s % 64) (.pop 0) = .ok (0, 0, ring3 s) ∧
        dataToks 3 vrChan.dest.w (ring3 s).size = 1 ∧ 1 ≤ (ring3 s).slots ∧ 1 ≤ (ring3 s).tokensOf 0 ∧
        (s.slotTok 0 (ring3 s) ((ring3 s).readAt 0)).tag = 0 ∧ (s.slotTok 0 (ring3 s) ((ring3 s).readAt 0)).bad = []) ∧
    (let s := chanOpen (chan 0 0) cvPush;
      (s.ctxAt 0).viq = [cvPush] ∧ cvPush.todo = [] ∧ cvPush.whole = none ∧ cvPush.fault = none ∧ s.perf = [] ∧
      ringSound (ring3 s) ∧ s.ringAt 0 0 = some (ring3 s) ∧ cvPush.logs = [{ push := some (3, [(0, List.replicate 8 7)]) }] ∧
      s.chanCheck (s.ctxAt 0) 3 .push = .ok (0, 0, ring3 s) ∧ (ring3 s).room 1 = true) ∧
    (let s := waiting (chanOpen (after [.chPush 3 5 false] (chan 0 0)) cvWait) .vch;
      (s.ctxAt 0).wait = some .vch ∧ s.vchReady (s.ctxAt 0) = true) := by
  unfold openSlot ringSound; refine ⟨?_, ?_, ?_, ?_⟩ <;> decide +kernel

/-- A channel of slots of 1 byte: an access of more elements than its ring has slots; a full ring; a control token. -/
theorem witness_vector_channel_waits_and_faults :
    (let s := chanOpen (on (granted (strand []))) cv3;
      openSlot s cv3 ∧ s.chanCheck s.me 3 .push = .error (causeChMisuse, 1) ∧
        s.chanCheck s.me 3 (.pop 0) = .error (causeChMisuse, 1)) ∧
    (let s := chanOpen (chan 0 0) { cv3 with vl := 30 };
      s.chanCheck s.me 3 .push = .ok (0, 0, ring3 s) ∧ (ring3 s).slots < pushNeed 30 vrChan (ring3 s) ∧
        s.chanCheck s.me 3 (.pop 0) = .ok (0, 0, ring3 s) ∧ (ring3 s).slots < dataToks 30 vrChan.dest.w (ring3 s).size) ∧
    (let s := chanOpen (after [.chPush 3 5 false, .chPush 3 5 false] (chan 0 0)) cv3;
      s.chanCheck s.me 3 .push = .ok (0, 0, ring3 s) ∧ pushNeed 3 vrChan (ring3 s) ≤ (ring3 s).slots ∧
        (ring3 s).room (pushNeed 3 vrChan (ring3 s)) = false) ∧
    (let s := chanOpen (chan 0 0) cv3;
      s.chanCheck s.me 3 (.pop 0) = .ok (0, 0, ring3 s) ∧ (ring3 s).tokensOf 0 < dataToks 3 vrChan.dest.w (ring3 s).size) ∧
    (let s := chanOpen (after [.chPush 3 5 false] (chan 0 0)) cv3;
      let u := s.setRing 0 0 { ring3 s with tags := [(0, 2)] };
      u.chanCheck u.me 3 (.pop 0) = .ok (0, 0, ring3 u) ∧ (u.slotTok 0 (ring3 u) ((ring3 u).readAt 0)).tag ≠ 0) ∧
    (let cv : Convoy := { vl := 3, logs := [{ pop := some (3, 0, 1) }] };
      let s := chanOpen (after [.chPush 3 5 false] (chan 0 0)) cv;
      (s.ctxAt 0).viq = [cv] ∧ ringSound (ring3 s) ∧ s.chanCheck (s.ctxAt 0) 3 (.pop 0) = .ok (0, 0, ring3 s) ∧
        1 ≤ (ring3 s).tokensOf 0 ∧ plainLog { ({ pop := some (3, 0, 1) } : SlotLog) with pop := none }) := by
  unfold openSlot ringSound plainLog; refine ⟨?_, ?_, ?_, ?_, ?_, ?_⟩ <;> decide +kernel

/-! ## Witnesses: tiles -/

/-- The places that a resolved access gives. -/
def resR (x : Res ((Elem → List Loc) × Option (Nat × TrapInfo))) : Elem → List Loc := match x with
  | .ok p _ => p.1
  | _ => fun _ => []

theorem resolve_eq {x : Res ((Elem → List Loc) × Option (Nat × TrapInfo))}
    (h : (match x with | .ok p _ => p.2.isNone | _ => false) = true) : x = .ok (resR x, none) (resSt x) := by
  cases x with
  | ok p s =>
    obtain ⟨r, o⟩ := p
    cases o with
    | none => rfl
    | some _ => cases h
  | trap t s => cases h
  | ask q s => cases h
  | wait s => cases h

/-- A strand with a convoy open, X1 = 4096, X2 = 256, tile 1 with this TCFG and tile 2 with that one. -/
def tiled (w w2 : Word) (cv : Convoy) : State :=
  on { strand [(1, 4096), (2, 256)] with viq := [cv], tcfg := ((strand []).tcfg.set 1 w).set 2 w2 }

/-- A dense tile of 2 by 2 and a packed one of 2 by 4 at 2:4, of BF16. -/
def dense22 : Word := tcWord false false 1 1 2 2 0
def packed24 : Word := tcWord false false 4 2 4 2 0

/-- The VT fields for tile 1 of tile 2, from X1 and X2. -/
def vt0 (fn : BitVec 3) : VT := { td := 1, ta := 2, tb := 0, vec := ⟨0, 4⟩, xa := 1, xb := 2, pred := 12, fn := fn }

/-- The elements of a dense and of a signposted load of tile 1. -/
def denseEls (s : State) (trans : Bool) : List Elem :=
  (cells 2 2).map fun p => tileElemAt (slotEnv s cv3) (vt0 0) 1 16 0 trans p
def signEls : List Elem := signedElems (signLayout packed24) 4096 (cells 2 2) true [0]
/-- The signpost of tile 1 at 4096, with indices 0 and 1 in each group behind values of 0. -/
def signState : State := ((tiled packed24 dense22 cv3).writePhys 4096 (signBytes packed24)).writePhys 4128 [0x44]

/-- The checks of R75 on what a signposted load reads. -/
def signFails (s : State) : Option Nat :=
  let x := s.resolve s.me 0 false 1 15 signEls signEls
  let v' : VEnv := { slotEnv s cv3 with s := (resSt x).beforeLoad s.me 15 signEls }
  let bits := fun (e : Elem) => v'.loadBits 15 e (resR x e)
  (signCheck packed24 (leBytes 16 (bits (signElem 4096 0)))).or
    (idxCheck (tcM packed24) (tcN packed24) (tcRows packed24 * (tcCols packed24 / tcM packed24))
      ((cells 2 2).map fun p => bits (idxElem (signLayout packed24) 4096 0 p.1 p.2)))

theorem witness_TileLoadSlots :
    (openSlot (tiled dense22 dense22 cv3) cv3 ∧ vtItems (.tld (vt0 0)) = some [1] ∧ itemsOpen (tiled dense22 dense22 cv3) [1] ∧
      tcM ((tiled dense22 dense22 cv3).me.tc 1) ≤ 1 ∧ 1 < tcM ((tiled packed24 dense22 cv3).me.tc 1) ∧ (vt0 0).fn.getLsbD 0 = false) ∧
    ((({ tiled dense22 dense22 cv3 with ctxs := [(0, { (tiled dense22 dense22 cv3).me with ten := 0 })] } : State).me.tileOff [1]).isSome = true) ∧
    (let s := (tiled dense22 dense22 cv3).setCl 0 { nodes := [(0, { fifo := [{ fullToken 0 with ta := 1 }] })] };
      s.me.tileOff [1] = none ∧ s.tokensName s.me [1] = true) ∧
    (∃ s' r, tilePlaces (tiled dense22 dense22 cv3) s' false (denseEls (tiled dense22 dense22 cv3) false)
      (denseEls (tiled dense22 dense22 cv3) false) r) ∧
    (∃ s' r, tilePlaces (tiled dense22 dense22 cv3) s' false (denseEls (tiled dense22 dense22 cv3) true)
      (denseEls (tiled dense22 dense22 cv3) true) r) ∧
    (itemsOpen signState [1] ∧ openSlot signState cv3 ∧ (∃ s' r, tilePlaces signState s' false signEls signEls r) ∧
      signFails signState = none) ∧
    ((∃ s' r, tilePlaces (tiled packed24 dense22 cv3) s' false signEls signEls r) ∧
      signFails (tiled packed24 dense22 cv3) = some 6) := by
  unfold openSlot itemsOpen tilePlaces
  refine ⟨?_, ?_, ?_, ⟨_, _, resolve_eq ?_, ?_⟩, ⟨_, _, resolve_eq ?_, ?_⟩, ⟨?_, ?_, ⟨_, _, resolve_eq ?_, ?_⟩, ?_⟩,
    ⟨_, _, resolve_eq ?_, ?_⟩, ?_⟩ <;> decide +kernel

/-- The elements of a tst: plain, and packed with its signpost and indices. -/
def tstEls (p : Bool) : List Elem :=
  let w := if p then packed24 else dense22
  let y := signLayout w
  let v := slotEnv (tiled dense22 w cv3) cv3
  (if p then [signElem 4096 0] else []) ++ (cells 2 2).flatMap fun q =>
    (if p then valElem y 4096 0 q.1 q.2 else tileElemAt v (vt0 0) 2 16 0 false q) ::
      if p then [idxElem y 4096 0 q.1 q.2] else []

/-- A move within row 0 of tile 2, whose X1 is its row. -/
def moving : State := on { (tiled dense22 dense22 cv3).me with x := (strand []).x }

theorem witness_TileStoreClearAndMoveSlots :
    (itemsOpen (tiled dense22 dense22 cv3) [2] ∧
      ∃ s' r, placesOf (tiled dense22 dense22 cv3) s' 1 ((vt0 0).fn.getLsbD 1) 1 15 (tstEls false) r) ∧
    (itemsOpen (tiled dense22 packed24 cv3) [2] ∧
      ∃ s' r, placesOf (tiled dense22 packed24 cv3) s' 1 ((vt0 1).fn.getLsbD 1) 1 15 (tstEls true) r) ∧
    (openSlot moving cv3 ∧ itemsOpen moving [2] ∧ itemsOpen moving [8 + 2] ∧ moving.me.fcsr.extractLsb' 6 6 = 0 ∧
      movedElems (slotEnv moving cv3) (vt0 0) 2 false ≠ [] ∧ movedElems (slotEnv moving cv3) (vt0 0) 1 true ≠ [] ∧
      movedElems (slotEnv moving cv3) (vt0 1) 2 false ≠ []) := by
  unfold itemsOpen openSlot
  refine ⟨⟨?_, placesOf_resolved ?_⟩, ⟨?_, placesOf_resolved ?_⟩, ?_⟩ <;> decide +kernel

/-- Tiles of 4 by 4: dense, packed 2:4, and packed 2:4 with the transposable pattern. -/
def dense44 : Word := tcWord false false 1 1 4 4 0
def packed44 : Word := tcWord false false 4 2 4 4 0
def turned44 : Word := tcWord false true 4 2 4 4 0
def tall : Word := tcWord false false 1 1 4 6 0

theorem witness_TilePruneAndPackSlots :
    (openSlot (tiled packed44 dense44 cv3) cv3 ∧ itemsOpen (tiled packed44 dense44 cv3) [1, 2]) ∧
    (tcM packed44 ≠ 1 ∧ tcM dense44 = 1 ∧ 1 < tcM packed44 ∧ tcRows dense44 = tcRows packed44 ∧ tcCols dense44 = tcCols packed44 ∧
      tcFmt dense44 = tcFmt packed44 ∧ tcCols dense44 % tcM packed44 = 0 ∧ tcRows dense44 % tcM packed44 = 0) ∧
    (tcM dense22 = 1 ∧ ¬ (1 < tcM dense22)) ∧
    (let w := tcWord false false 4 2 4 6 0; tcM tall = 1 ∧ 1 < tcM w ∧ tcRows tall = tcRows w ∧ tcCols tall = tcCols w ∧
      tcFmt tall = tcFmt w ∧ tcCols tall % tcM w = 0 ∧ tcRows tall % tcM w ≠ 0) ∧
    (tcTR packed44 = false ∧ tcTR turned44 = true ∧ (tcRows packed44 = tcCols turned44 ∧ tcCols packed44 = tcRows turned44 ∧
      tcN packed44 = tcN turned44 ∧ tcM packed44 = tcM turned44 ∧ tcFmt packed44 = tcFmt turned44) ∧
      tcRows turned44 % tcM turned44 = 0 ∧ tcRows dense22 ≠ tcCols turned44) ∧
    (let w := tcWord false true 4 2 4 6 0; let d := tcWord false false 4 2 6 4 0;
      tcTR w = true ∧ (tcRows d = tcCols w ∧ tcCols d = tcRows w ∧ tcN d = tcN w ∧ tcM d = tcM w ∧ tcFmt d = tcFmt w) ∧
      tcRows w % tcM w ≠ 0) := by
  unfold itemsOpen openSlot; refine ⟨?_, ?_, ?_, ?_, ?_, ?_⟩ <;> decide +kernel

/-! ## Witnesses: exchange sets -/

/-- A node's set of two members, which sit on clusters 0 and 1. -/
def pair : XSet :=
  { domain := false, n := 2, table := [(0, 0), (0, 1)], rate := 1, guard := 0, lead := 0, primary := 0, standby := none }

/-- A record of 32 bytes that begins with these. -/
def record32 (l : List Byte) : List Byte := l ++ List.replicate (32 - l.length) 0

/-- A supervisor that holds a handle in X1 and a record's address, 64, in X2. -/
def holder (h : Word) (l : List Byte) (xs : SMap XSet) : State :=
  { onBytes (sup (strand [(1, h), (2, 64)])) 64 (record32 l) with xsets := xs }

/-- The set with member 0 of instance 0 as given. -/
def withMem (m : XMem) : SMap XSet := [(0, { pair with insts := [(0, { members := [(0, m)] })] })]

/-- A demand, with its counts at 1024; a registration, with its table at 1024; a deregistration. -/
def demandRcd : List Byte := [0, 0, 0, 0, 0, 0, 0, 0, 0, 4]
def registerRcd : List Byte := [1, 3, 1, 0, 0, 0, 0, 0, 0, 4, 0, 0, 0, 0, 0, 0, 1]
def tableBytes : List Byte := leBytes 8 0 ++ leBytes 8 (2 ^ 13)

/-- What the record and the counts read as. -/
def posts (s : State) (l : List Byte) (d : List Byte) : Prop :=
  ∃ s' s'', xRecord s s' 1 2 (record32 l) ∧ s'.readVirt s'.me 15 1024 16 = .ok d s'' ∧ s''.glox.endpoint = 0 ∧
    s''.xsets = s.xsets ∧ s'.xsets = s.xsets

theorem posts_of {s : State} {l d : List Byte}
    (h : s.handleOk (s.me.reg 1) = true ∧ (s.me.reg 2).toNat % 8 = 0)
    (h1 : let x := s.readVirt s.me 15 (s.me.reg 2).toNat 32
      resOk x = true ∧ resVal [] x = record32 l ∧ (resSt x).xsets = s.xsets)
    (h2 : let x := s.readVirt s.me 15 (s.me.reg 2).toNat 32
      let y := (resSt x).readVirt (resSt x).me 15 1024 16
      resOk y = true ∧ resVal [] y = d ∧ (resSt y).glox.endpoint = 0 ∧ (resSt y).xsets = s.xsets) : posts s l d := by
  obtain ⟨a, b, e⟩ := h1
  obtain ⟨f, g, h3, h4⟩ := h2
  refine ⟨_, _, ⟨h.1, h.2, ?_⟩, ?_, h3, h4, e⟩
  · unfold reads; rw [← b]; exact res_eq [] a
  · rw [← g]; exact res_eq [] f

theorem witness_ExchangePosts :
    (posts (holder 0 demandRcd (withMem { state := .bound })) demandRcd (List.replicate 16 0) ∧
      zeroAt (record32 demandRcd) 1 7 = true ∧ zeroAt (record32 demandRcd) 30 2 = true ∧ msFieldOk (record32 demandRcd) 24 = true ∧
      fieldAt (record32 demandRcd) 8 8 = 1024 ∧ hInst 0 = smGet 0 pair.posts (hMember 0) % 2 ^ 16) ∧
    (posts (holder 0 registerRcd []) registerRcd (List.replicate 16 0) ∧
      fieldAt (record32 registerRcd) 2 2 % 4096 + 1 = 2 ∧
      (((holder 0 registerRcd []).xchRegister 0 (record32 registerRcd) tableBytes).map Prod.fst) = some 0 ∧
      (((holder 0 registerRcd (withMem {})).xchRegister 0 (record32 registerRcd) tableBytes).map Prod.fst) = some 1) ∧
    (posts ((holder 0 registerRcd []).writePhys 1024 tableBytes) registerRcd tableBytes ∧
      posts ((holder 0 registerRcd (withMem {})).writePhys 1024 tableBytes) registerRcd tableBytes) ∧
    (posts (holder 0 [2] (withMem {})) [2] (List.replicate 16 0) ∧ zeroAt (record32 [2]) 1 31 = true ∧
      ((pair.inst 0).busy = false)) ∧
    (posts ((holder 0 demandRcd (withMem {})).writePhys 1024 [1]) demandRcd (1 :: List.replicate 15 0) ∧
      posts (holder (2 ^ 16) demandRcd (withMem {})) demandRcd (List.replicate 16 0) ∧ hInst (2 ^ 16) = 1 ∧
      posts (holder (2 ^ 48) demandRcd (withMem {})) demandRcd (List.replicate 16 0) ∧
      pair.table[hMember (2 ^ 48)]? = some (0, 1)) ∧
    (posts (holder 0 demandRcd []) demandRcd (List.replicate 16 0) ∧ posts (holder 0 [2] []) [2] (List.replicate 16 0)) ∧
    (posts (holder 0 [2] (withMem { state := .posted })) [2] (List.replicate 16 0) ∧
      ({ members := [(0, { state := .posted })] } : XInst).busy = true) := by
  refine ⟨⟨posts_of ?_ ?_ ?_, ?_⟩, ⟨posts_of ?_ ?_ ?_, ?_⟩, ⟨posts_of ?_ ?_ ?_, posts_of ?_ ?_ ?_⟩, ⟨posts_of ?_ ?_ ?_, ?_⟩,
    ⟨posts_of ?_ ?_ ?_, posts_of ?_ ?_ ?_, ?_, posts_of ?_ ?_ ?_, ?_⟩, ⟨posts_of ?_ ?_ ?_, posts_of ?_ ?_ ?_⟩,
    posts_of ?_ ?_ ?_, ?_⟩ <;> decide +kernel

/-! A send of 4,096 bytes to member 1, and a member that has posted that demand. -/
def sendRcd : List Byte := [0, 16, 0, 0, 0, 0, 0, 0, 0, 16, 0, 0, 0, 0, 0, 0, 1]
def recvRcd : List Byte := [0, 16, 0, 0, 0, 0, 0, 0, 0, 4]
def sender (e : Bool) (st : XState) (d : Nat) : XMem := { state := st, ended := e, demand := [0, d] }

theorem record_of {s : State} {l : List Byte} (P : State → Prop) [∀ s, Decidable (P s)]
    (h : s.handleOk (s.me.reg 1) = true ∧ (s.me.reg 2).toNat % 8 = 0)
    (h1 : let x := s.readVirt s.me 15 (s.me.reg 2).toNat 32
      resOk x = true ∧ resVal [] x = record32 l ∧ P (resSt x)) : ∃ s', xRecord s s' 1 2 (record32 l) ∧ P s' := by
  obtain ⟨a, b, e⟩ := h1
  refine ⟨_, ⟨h.1, h.2, ?_⟩, e⟩
  unfold reads; rw [← b]; exact res_eq [] a

/-- A full queue of 64 streams of strand 0. -/
def fullQueue : XMem :=
  { sender false .granted 4096 with
    sends := List.replicate 64 { src := 0, len := 1, dest := 0, scratch := false, ms := none, sid := 0, pos := 0 } }

/-- What a send needs beside its record: the member as the instance has it, and the strand's queue. -/
def sends (s : State) (e : Bool) (st : XState) (d n : Nat) : Prop :=
  ∃ s', xRecord s s' 1 2 (record32 sendRcd) ∧ ((s'.instAt 0 0).mem 0).ended = e ∧ ((s'.instAt 0 0).mem 0).state = st ∧
    ((s'.instAt 0 0).mem 0).demand = [0, d] ∧ s'.sendsOf s'.me.sid = n ∧ (s'.ctxAt s.cur).status.getLsbD 2 = false

theorem witness_ExchangeStreams :
    ((pair.inst 0).gen ≠ hGen (2 ^ 32) ∧ (holder (2 ^ 32) [] (withMem {})).handleOk (2 ^ 32) = true ∧
      plainMode (holder (2 ^ 32) [] (withMem {})).me) ∧
    (1 ≤ fieldAt (record32 sendRcd) 8 8 ∧ fieldAt (record32 sendRcd) 8 8 ≤ 2 ^ 40 ∧ fieldAt (record32 sendRcd) 16 2 = 1 ∧
      byteAt (record32 sendRcd) 18 < 2 ∧ byteAt (record32 sendRcd) 19 = 0 ∧ msFieldOk (record32 sendRcd) 20 = true ∧
      zeroAt (record32 sendRcd) 24 8 = true) ∧
    sends (holder 0 sendRcd (withMem (sender true .ending 4096))) true .ending 4096 0 ∧
    sends (holder 0 sendRcd (withMem (sender false .granted 4096))) false .granted 4096 0 ∧
    sends (holder 0 sendRcd (withMem (sender false .granted 0))) false .granted 0 0 ∧
    sends (holder 0 sendRcd (withMem fullQueue)) false .granted 4096 64 ∧
    sends (holder 0 sendRcd (withMem (sender false .posted 4096))) false .posted 4096 0 ∧
    ((∃ s', xRecord (holder 0 recvRcd (withMem {})) s' 1 2 (record32 recvRcd) ∧
        resOk (s'.readVirt s'.me 15 1024 32) = true ∧ s'.xsets = withMem {}) ∧ byteAt (record32 recvRcd) 20 < 2 ∧
      zeroAt (record32 recvRcd) 21 11 = true ∧ msFieldOk (record32 recvRcd) 16 = true ∧ pair.n = 2) ∧
    ((sender false .granted 0).unsent = false ∧ (sender false .granted 0).sendFrozen = false) ∧
    ((((holder 0 [] (withMem (sender false .granted 0))).setCtx 5
        { strand [(1, 0), (2, 64)] with wait := some (.xchSend 1 2) }).ctxAt 5).wait = some (.xchSend 1 2)) := by
  unfold plainMode sends
  refine ⟨?_, ?_, record_of _ ?_ ?_, record_of _ ?_ ?_, record_of _ ?_ ?_, record_of _ ?_ ?_, record_of _ ?_ ?_,
    ⟨record_of _ ?_ ?_, ?_⟩, ?_, ?_⟩
  all_goals decide +kernel

/-- A stream of 8 bytes of the scratchpad to member 1, in a granted instance of one phase that ends at a time. -/
def stream0 : XSend := { src := 0, len := 8, dest := 1, scratch := true, ms := none, sid := 0, pos := 0 }
def phase0 : Phase := { start := 0, len := 1, grants := [(0, 1, 1)] }
def flowing (tend : Nat) : XSet :=
  { pair with insts := [(0, { members := [(0, { state := .granted, demand := [0, 4096], sends := [stream0], queued := [(1, 8)] })]
                              phases := [phase0], tend := tend, calendar := true })] }
def flowingState (tend : Nat) : State := { on (strand []) with xsets := [(0, flowing tend)] }

/-- A packet of 8 bytes of member 1 on its way to member 0, which expects them in the scratchpad; and an end marker. -/
def arriving : XSet :=
  { pair with insts := [(0, { members := [(0, { state := .bound, recv := record32 (List.replicate 20 0 ++ [1]), offs := [(0, 0), (0, 8)] })]
                              flight := [{ src := 1, dst := 0, pos := 0, data := List.replicate 8 (7, false) }]
                              markers := [(0, 1)] })] }
def arrivingState : State := { on (strand []) with xsets := [(0, arriving)] }

/-- A domain set whose primary has been silent for 10 us, and one of which two members have not heard of a new generation. -/
def silent : State := { on (strand []) with xsets := [(0, { pair with domain := true, standby := some 1 })], ticks := 390000 }
def newsless : XSet :=
  { pair with insts := [(0, { gen := 1, members := [(0, { state := .granted, announced := false }), (1, { announced := false })] })] }

theorem witness_ExchangeEvents :
    ((∃ s' b, sendable (flowingState 100) s' (flowing 100) 0 0 0 stream0 b none) ∧ ((flowing 100).inst 0).phases = [phase0] ∧
      phase0.start ≤ (flowingState 100).time ∧ (flowingState 100).time < 100 ∧ 0 + 8 ≤ 1 * 4096 ∧
      ((flowing 100).inst 0).spent = []) ∧
    ((∃ s' b, sendable (flowingState 0) s' (flowing 0) 0 0 0 stream0 b none) ∧ ((flowing 0).inst 0).calendar = true ∧
      ((flowing 0).inst 0).tend ≤ (flowingState 0).time ∧ ((flowing 0).inst 0).members.length = 1 ∧
      (((flowing 0).inst 0).mem 0).queued = [(1, 0 + 8)]) ∧
    (smFind 0 arrivingState.xsets = some arriving ∧ ((arriving.inst 0).flight.head?).isSome = true ∧
      arrivingState.takesPackets 0 0 0 = true ∧ ((arriving.inst 0).mem 0).discards = false ∧
      0 + 8 ≤ (((arriving.inst 0).mem 0).offs.getD 1 (0, 0)).2 ∧ arrivingState.strandCtx 0 = some arrivingState.me ∧
      ∃ s', arrivingState.unitWrite arrivingState.me (byteAt ((arriving.inst 0).mem 0).recv 20 % 2 == 1) (arriving.clusterOf 0)
          ((fieldAt ((arriving.inst 0).mem 0).recv 0 8 + (((arriving.inst 0).mem 0).offs.getD 1 (0, 0)).1 + 0) % 2 ^ 64)
          (List.replicate 8 (7, false)) = .ok () s' ∧ s'.xsets = arrivingState.xsets ∧ s'.ctl.fqen = false) ∧
    ((0, 1) ∈ (arriving.inst 0).markers ∧ ∀ w ∈ (arriving.inst 0).flight, w.src ≠ 0 ∨ w.dst ≠ 1) ∧
    ((({ pair with domain := true, standby := some 1 } : XSet).standby = some 1) ∧ 0 + 10000 ≤ silent.time ∧
      silent.ctl.fqen = false ∧ silent.fq.length < 256) ∧
    (((newsless.inst 0).mem 0).announced = false ∧ smFind 0 (newsless.inst 0).members = some ((newsless.inst 0).mem 0) ∧
      (∃ e ∈ (newsless.inst 0).members, e.1 ≠ 0 ∧ e.2.announced = false)) := by
  refine ⟨⟨?_, ?_⟩, ⟨?_, ?_⟩, ⟨?_, ?_, ?_, ?_, ?_, ?_, ?_⟩, ?_, ?_, ?_, ?_, ?_⟩
  case refine_1 | refine_3 =>
    refine ⟨_, _, by decide +kernel, by decide +kernel, by decide +kernel, by decide +kernel, by decide +kernel,
      by decide +kernel, by decide +kernel, by decide +kernel, by decide +kernel, ?_, by decide +kernel, _, rfl, res_eq [] ?_⟩ <;> decide +kernel
  case refine_11 =>
    refine ⟨_, res_eq () ?_, ?_⟩ <;> decide +kernel
  all_goals decide +kernel

theorem witness_ExchangeSchedule :
    (∀ e ∈ [(0, 1, 3), (1, 0, 2), (2, 1, 1)], e.1 < 3 ∧ e.2.1 < 3 ∧ e.1 ≠ e.2.1) ∧
    ([(0, 1, 3), (1, 0, 2), (2, 1, 1)].map fun e : Nat × Nat × Nat => (e.1, e.2.1)).Nodup ∧
    (schedule 3 [(0, 1, 3), (1, 0, 2), (2, 1, 1)]).length ≠ 0 := by
  refine ⟨?_, ?_, ?_⟩ <;> decide +kernel


/-- The records that break the table of their KIND, a user's registration, and a set that must be turned away: a scope of
5, and an entry that names another endpoint. -/
theorem witness_ExchangePosts_refused :
    ((holder (2 ^ 63) [] []).handleOk (2 ^ 63) = false ∧ plainMode (holder (2 ^ 63) [] []).me ∧
      (holder 0 [] []).handleOk 0 = true ∧ (66 : Nat) % 8 ≠ 0) ∧
    (posts (holder 0 [3] []) [3] (List.replicate 16 0) ∧ posts (holder 0 [0, 1] []) [0, 1] (List.replicate 16 0) ∧
      zeroAt (record32 [0, 1]) 1 7 = false ∧ posts (holder 0 [2, 1] []) [2, 1] (List.replicate 16 0) ∧
      zeroAt (record32 [2, 1]) 1 31 = false) ∧
    (posts { holder 0 registerRcd [] with ctxs := (onBytes (strand [(1, 0), (2, 64)]) 64 (record32 registerRcd)).ctxs }
        registerRcd (List.replicate 16 0) ∧
      (onBytes (strand [(1, 0), (2, 64)]) 64 (record32 registerRcd)).me.status.getLsbD 0 = false) ∧
    (badSet (holder 0 [] []) (record32 [1, 5]) [] ∧
      badSet (holder 0 [] []) (record32 registerRcd) (leBytes 8 1 ++ leBytes 8 0) ∧
      posts ((holder 0 registerRcd []).writePhys 1024 (leBytes 8 1 ++ leBytes 8 0)) registerRcd (leBytes 8 1 ++ leBytes 8 0)) := by
  refine ⟨?_, ⟨posts_of ?_ ?_ ?_, posts_of ?_ ?_ ?_, ?_, posts_of ?_ ?_ ?_, ?_⟩, ⟨posts_of ?_ ?_ ?_, ?_⟩,
    .inl ?_, .inr (.inr (.inr (.inr (.inr (.inr (.inl ⟨0, ?_⟩)))))), posts_of ?_ ?_ ?_⟩
  all_goals first | decide +kernel | (unfold plainMode; decide +kernel)

/-- A send of no bytes, a receive with a reserved byte, a handle of no set, an ending member with a queued stream, one
that has sent all, and a source beyond the set. -/
theorem witness_ExchangeStreams_refused :
    ((∃ s', xRecord (holder 0 [] (withMem {})) s' 1 2 (record32 []) ∧ s'.xsets = withMem {}) ∧
      fieldAt (record32 []) 8 8 = 0) ∧
    ((∃ s', xRecord (holder 0 (List.replicate 21 0 ++ [1]) (withMem {})) s' 1 2 (record32 (List.replicate 21 0 ++ [1])) ∧
      s'.xsets = withMem {}) ∧ zeroAt (record32 (List.replicate 21 0 ++ [1])) 21 11 = false) ∧
    (smFind (hSet 0) (holder 0 [] []).xsets = none ∧ smFind (hSet 0) (holder 0 [] (withMem {})).xsets ≠ none) ∧
    (({ sender true .ending 4096 with sends := [stream0], queued := [(1, 8)] } : XMem).unsent = true) ∧
    ((sender true .sent 0).ended = true ∧ (sender true .sent 0).state = .sent) ∧
    (pair.n ≤ ((holder 0 [] []).me.reg 2).toNat) := by
  refine ⟨⟨record_of _ ?_ ?_, ?_⟩, ⟨record_of _ ?_ ?_, ?_⟩, ?_, ?_, ?_, ?_⟩
  all_goals decide +kernel

/-- A member at another endpoint of this pod, which every plane's leaf switch routes to: its packet takes a stamp. -/
def pairAway : State :=
  { flowingState 100 with
    xsets := [(0, { flowing 100 with table := [(0, 0), (3, 1)] })]
    glox := { routes := (List.range 16).map fun p => (routeKey p false 0 false 3, 0x8003#16) } }

theorem witness_ExchangeEvents_stamp : ∃ st, pairAway.streamPlane 0 1 = .go (some st) := by
  have h : ∀ p : Fin 16, pairAway.heldFrom p.val = false ∧
      pairAway.routed (pairAway.livePlane p.val) (pairAway.verOf (pairAway.livePlane p.val)) 3 = true := by decide +kernel
  obtain ⟨h1, h2⟩ := h ⟨(Config.freeWord pairAway.free).toNat % 16, Nat.mod_lt _ (by decide)⟩
  refine ⟨(pairAway.livePlane ((Config.freeWord pairAway.free).toNat % 16),
    pairAway.verOf (pairAway.livePlane ((Config.freeWord pairAway.free).toNat % 16))), ?_⟩
  have e : (smFind 0 pairAway.xsets).bind (fun x => x.table[1]?) = some (3, 1) := by decide +kernel
  unfold State.streamPlane
  rw [e]
  simp only [h1, h2, if_true, Bool.false_eq_true, if_false]
  rw [if_neg (by decide +kernel)]
/-! ## Witnesses: launch, placement, pre-emption and images -/

/-- A record of one strand of 16 lanes with entry 0x1000 and argument 7, for queue 0. -/
def launchRcd : List Byte :=
  record [0, 16, 0, 0, 0, 0, 0, 0, 7, 0, 0, 0, 0, 0, 0, 0, 16, 0, 16, 0, 0, 0, 0, 0, 1]

/-- Queue 0, with a ring of 16 records at 0x2000 and so many between head and tail. -/
def queue0 (n : Nat) : Queue := { enable := true, base := 0x2000, log2n := 4, tail := n }
def launching (n : Nat) : State :=
  { onBytes (strand [(1, 64)]) 64 launchRcd with queues := [(0, queue0 n)], slots := if n = 0 then [] else [(0, { queue := 0 })] }

theorem witness_LaunchRecords :
    (queue0 3).recStatus (some 0) launchRcd = 0 ∧
    (∀ n ∈ [3, 16], (let x := (launching n).readVirt (launching n).me 15 ((launching n).me.reg 1).toNat 64
        resOk x = true ∧ resVal [] x = launchRcd ∧ ((resSt x).queueAt 0).head ≤ ((resSt x).queueAt 0).tail ∧
        ((resSt x).queueAt 0).recStatus (some (launching n).me.pasid) launchRcd = if n = 3 then 0 else 1) ∧
      ((launching n).me.reg 1).toNat % 64 = 0 ∧ fieldAt launchRcd 50 2 = 0 ∧ launchRcd.length = 64 ∧
      ((launching n).queueAt 0).recStatus none launchRcd = (if n = 3 then 0 else 1) ∧ (launching n).ctl.fqen = false ∧
      (launching n).fq.length < 256) ∧
    (let s : State := { launching 3 with ctl := { (launching 3).ctl with vfs := [(4, (0, 16))] } };
      smGet (0, 0) s.ctl.vfs (5 - 1) = (0, 16)) := by
  refine ⟨?_, ?_, ?_⟩ <;> decide +kernel

/-- The record at the head of queue 0, which holds slot 0, and no strand. -/
def headed : State :=
  { (({} : State).writePhys 0x2000 launchRcd) with queues := [(0, queue0 1)], slots := [(0, { queue := 0 })] }

theorem plan_of {s : State} {slot : Nat} {P : List (Rep × Place × List Grant × Nat) → Prop} [∀ l, Decidable (P l)]
    (h : (match s.planNow slot with | some (.fresh l) => decide (P l) | _ => false) = true) :
    ∃ l, s.planNow slot = some (.fresh l) ∧ P l := by
  revert h
  cases s.planNow slot with
  | none => intro h; cases h
  | some p =>
    cases p with
    | fresh l => intro h; exact ⟨l, rfl, of_decide_eq_true h⟩
    | resume l => intro h; cases h

theorem witness_placement_fresh :
    smFind 0 headed.slots = some { queue := 0 } ∧
    (∃ l, headed.planNow 0 = some (.fresh l) ∧ (l.map fun m => m.2.2.2).Nodup ∧ l.length = 1) ∧
    (headed.slotOrder.takeWhile fun k => decide (k ≠ 0)) = [] ∧
    ({ headed with ticks := 390000000 } : State).boundary < ({ headed with ticks := 390000000 } : State).boundaries ∧ smRising none headed.slots = true ∧
    smRising none headed.queues = true ∧ (∀ e ∈ headed.slots, e.1 < 64) ∧
    (headed.slots.map fun e => e.2.queue).Nodup := by
  refine ⟨?_, plan_of ?_, ?_, ?_, ?_, ?_, ?_, ?_⟩ <;> decide +kernel

/-! ## Images of strands -/

/-- A strand of 16 lanes, whose image lies at 0x4000. -/
def lanes16 : Ctx := { strand [(1, 0x4000)] with vspan := spanWord 0 false 0 0 16, vlmax := 1024, image := 0x4000, sid := 9 }

/-- Memory that holds 0 but for the header of an image, as R352 lays it out: SPAN 16 lanes, SIZE 20,480, TENS and TSEEN
all, PC 0x1000, PASID 0, CHECK 0x328. -/
def imaged (c : Ctx) : State :=
  { on c with mem := [(0x4000, 0x43), (0x4001, 0x58), (0x4002, 1), (0x4004, 16), (0x4009, 0x50), (0x4010, 0xFF), (0x4011, 0x0F),
      (0x4012, 0xFF), (0x4013, 0x0F), (0x4019, 0x10), (0x403C, 0x28), (0x403D, 3)] }

/-- A supervisor strand about to save to, or to restore from, 0x4000. -/
def saving (f : Word) : Ctx := sup { lanes16 with x := ((strand []).x.set 1 0x4000).set 2 f }
def saver (f : Word) : State := on (saving f)
def restorer (f : Word) : State := imaged (saving f)

/-- The bytes from 0x4000 on of a memory. -/
def bytesAt (s : State) (i : Nat) : Byte := smGet 0 s.mem (0x4000 + i)

/-- The pages of a row of bytes are the row. -/
theorem paged (g : Nat → Byte) :
    ((List.range 5).flatMap fun k => (List.range 4096).map fun i => ((g (4096 * k + i), false) : PByte)) = cleanRow g 20480 :=
  pages_row (fun i => (g i, false)) 5

/-- What makes a context's image of 16 lanes at 0x4000 one row of bytes. -/
def plainImage (s : State) (c : Ctx) : Prop :=
  c.desc = some flatFormat ∧ smGet [] s.tlbs 0 = [flatEntry c] ∧ s.ctl.hbmsr = 0 ∧ c.imgSize = 20480 ∧ c.firstCl = 0

theorem image_read {s : State} {c : Ctx} (h : plainImage s c) :
    ∃ t, s.imgRead c 0x4000 = .ok ((List.range 20480).map fun i => (bytesAt s i,
      s.locPoison { scratch := false, key := 0x4000 + i, va := 0x4000 + i })) t ∧ t.ctl = s.ctl ∧ ∀ n, t.ctxAt n = s.ctxAt n := by
  obtain ⟨h0, h1, h2, h4, -⟩ := h
  have e : imgElems 0x4000 ((List.range ((20480 + 4095) / 4096)).map fun k => (4096 * k, min 4096 (20480 - 4096 * k))) =
      (List.range 5).map fun k => { e := 0, cl := 0, va := 0x4000 + 4096 * k, bit := 0, bits := 32768 } := by decide +kernel
  have hl : ∀ x ∈ (List.range 5).map fun k => ({ e := 0, cl := 0, va := 0x4000 + 4096 * k, bit := 0, bits := 32768 } : Elem), x.small := by
    intro x hx
    obtain ⟨k, hk, rfl⟩ := List.mem_map.1 hx
    have := List.mem_range.1 hk
    exact ⟨rfl, by simp only [Elem.bytes]; omega, by show 0x4000 + 4096 * k < _; omega⟩
  have hr := State.flat_imgRead ⟨h0, h1⟩ h2 0x4000 (by rw [h4, e]; exact hl)
  rw [h4, e, List.flatMap_map] at hr
  have hb := pages_row (fun i => ((bytesAt s i, s.locPoison { scratch := false, key := 0x4000 + i, va := 0x4000 + i }) : PByte)) 5
  rw [← hb]
  simp only [Elem.bytes, bytesAt, Nat.add_assoc] at hr ⊢
  exact ⟨_, hr, by rw [State.hotCount_eq], fun n => by rw [State.hotCount_eq]; rfl⟩

theorem clean_row {s : State} (h : s.memPoison = []) :
    ((List.range 20480).map fun i => ((bytesAt s i, s.locPoison { scratch := false, key := 0x4000 + i, va := 0x4000 + i }) : PByte)) =
      cleanRow (bytesAt s) 20480 :=
  List.map_congr_left fun i _ => by simp [State.locPoison, h]

/-- The bytes of an image pass the checks of a restore. -/
def goodImage (c : Ctx) (b : List PByte) : Prop :=
  c.imgBad b = none ∧ imgHeaderOk (b.map Prod.fst) = true ∧ c.imgFits (b.map Prod.fst) = true ∧ c.imgFabric (b.map Prod.fst) = false

/-- The header of a row of bytes that passes them. -/
def goodHeader (c : Ctx) (g : Nat → Byte) : Bool :=
  let part := fun i k => leNat ((List.range k).map fun j => g (i + j))
  let sp := part 4 4
  part 0 2 == 0x5843 && (g 2).toNat == 1 &&
    part 60 4 == (((List.range 60).map g).map BitVec.toNat).foldl (· + ·) 0 % 2 ^ 32 &&
    (decide (sp % 2 ^ 16 = c.lanes) && decide (sp / 2 ^ 29 % 2 = 1) == c.clusterSpan &&
      decide (shareKind (sp / 2 ^ 30) = shareKind c.share) && decide (part 32 4 = c.pasid.toNat))

theorem good_row {c : Ctx} {g : Nat → Byte} (hc : c.clusters.length ≤ 4) (hz : ∀ i, 64 ≤ i → g i = 0) (hh : goodHeader c g = true) :
    goodImage c (cleanRow g 20480) := by
  simp only [goodHeader, Bool.and_eq_true] at hh
  obtain ⟨⟨⟨h1, h2⟩, h3⟩, h4⟩ := hh
  refine ⟨c.cleanRow_bad g _, ?_, ?_, ?_⟩
  · rw [cleanRow_fst]
    unfold imgHeaderOk
    rw [fieldAt_row g (by norm_num), fieldAt_row g (by norm_num), byteAt_row g (by norm_num), take_row g (by norm_num)]
    simp only [Bool.and_eq_true]
    exact ⟨⟨h1, h2⟩, h3⟩
  · rw [cleanRow_fst]
    unfold Ctx.imgFits
    simp only [fieldAt_row g (show 4 + 4 ≤ 20480 by norm_num), fieldAt_row g (show 32 + 4 ≤ 20480 by norm_num), Bool.and_eq_true]
    exact h4
  · rw [cleanRow_fst]
    exact c.row_fabric (by omega) hz

theorem mem_row {s : State} {c : Ctx} (hm : (s.mem.all fun e => decide (e.1 < 0x4040)) = true) (hc : c.clusters.length ≤ 4)
    (hh : goodHeader c (bytesAt s) = true) : goodImage c (cleanRow (bytesAt s) 20480) :=
  good_row hc (fun i hi => smGet_above 0 hm (by omega)) hh

theorem awake (s : State) (h : s.ctl.hbmsr = 0) (l : List PByte) : s.imgAwake l = true := by
  simp [State.imgAwake, State.descAwake, State.not_asleep h]

theorem witness_ContextImages_save :
    ((saver 0).me.status.getLsbD 0 = true ∧ ((saver 0).me.reg 1).toNat % 4096 = 0 ∧ ((saver 0).me.reg 2).toNat = 0 ∧
      ((saver 1).me.reg 2).toNat = 1 ∧ (saver 0).me.pipeRuns = false ∧ (saver 0).quiet (saver 0).me = true ∧
      (saver 0).unaccepted (saver 0).me.sid = false ∧ (saver 0).childrenIn (saver 0).cur = [] ∧ (saver 1).childrenIn (saver 1).cur = []) ∧
    (∃ s', (saver 0).imgWrite (saver 0).me ((saver 0).me.reg 1) ((saver 0).me.pc + 4) (some 3) = .ok () s') ∧
    (∃ s', (saver 1).imgWrite (saver 1).me ((saver 1).me.reg 1) ((saver 1).me.pc + 4) (some 3) = .ok () s') := by
  refine ⟨by decide +kernel, State.flat_imgWrite ⟨?_, ?_⟩ rfl _ _ ?_ ?_, State.flat_imgWrite ⟨?_, ?_⟩ rfl _ _ ?_ ?_⟩ <;> decide +kernel

theorem witness_ContextImages_restore :
    ((restorer 0).me.status.getLsbD 0 = true ∧ (restorer 0).me.reg 1 = 0x4000 ∧ ((restorer 0).me.reg 2).toNat = 0 ∧
      (restorer 0).me.pipeRuns = false ∧ (restorer 0).quiet (restorer 0).me = true) ∧
    ∃ l s', (restorer 0).imgRead (restorer 0).me 0x4000 = .ok l s' ∧ goodImage (restorer 0).me l ∧ s'.imgAwake l = true := by
  obtain ⟨t, h, hc, -⟩ := image_read (s := restorer 0) (c := (restorer 0).me) (by unfold plainImage; decide +kernel)
  rw [clean_row (by decide +kernel)] at h
  refine ⟨by decide +kernel, _, t, h, mem_row (by decide +kernel) (by decide +kernel) (by decide +kernel), awake _ ?_ _⟩
  rw [hc]
  decide +kernel

/-- An image without its header. -/
theorem witness_ContextImages_noHeader : ∃ l s', (saver 0).imgRead (saver 0).me 0x4000 = .ok l s' ∧
    plainMode (s'.ctxAt (saver 0).cur) ∧ (saver 0).me.imgBad l = none ∧ imgHeaderOk (l.map Prod.fst) = false := by
  obtain ⟨t, h, -, ht⟩ := image_read (s := saver 0) (c := (saver 0).me) (by unfold plainImage; decide +kernel)
  rw [clean_row (by decide +kernel)] at h
  refine ⟨_, t, h, by rw [ht]; unfold plainMode; decide +kernel, Ctx.cleanRow_bad _ _ _, ?_⟩
  rw [cleanRow_fst, imgHeaderOk, fieldAt_row _ (by norm_num)]
  decide +kernel

/-- An image of another PASID. -/
def otherPasid : State :=
  { restorer 0 with ctxs := (on { saving 0 with pasid := 1 }).ctxs, tlbs := (on { saving 0 with pasid := 1 }).tlbs }

theorem witness_ContextImages_otherPasid : otherPasid.quiet otherPasid.me = true ∧ otherPasid.me.reg 1 = 0x4000 ∧
    ∃ l s', otherPasid.imgRead otherPasid.me 0x4000 = .ok l s' ∧ plainMode (s'.ctxAt otherPasid.cur) ∧
      otherPasid.me.imgBad l = none ∧ imgHeaderOk (l.map Prod.fst) = true ∧ otherPasid.me.imgFits (l.map Prod.fst) = false := by
  obtain ⟨t, h, -, ht⟩ := image_read (s := otherPasid) (c := otherPasid.me) (by unfold plainImage; decide +kernel)
  rw [clean_row (by decide +kernel)] at h
  have g := mem_row (s := otherPasid) (c := (restorer 0).me) (by decide +kernel) (by decide +kernel) (by decide +kernel)
  refine ⟨by decide +kernel, by decide +kernel, _, t, h, by rw [ht]; unfold plainMode; decide +kernel,
    Ctx.cleanRow_bad _ _ _, g.2.1, ?_⟩
  rw [cleanRow_fst, Ctx.imgFits]
  simp only [fieldAt_row _ (show 4 + 4 ≤ 20480 by norm_num), fieldAt_row _ (show 32 + 4 ≤ 20480 by norm_num)]
  decide +kernel

/-- An image whose first word is poisoned. -/
def poisonedImage : State := { restorer 0 with memPoison := [0x800] }

theorem witness_ContextImages_poisoned : poisonedImage.quiet poisonedImage.me = true ∧ poisonedImage.me.reg 1 = 0x4000 ∧
    ∃ l s', poisonedImage.imgRead poisonedImage.me 0x4000 = .ok l s' ∧ plainMode (s'.ctxAt poisonedImage.cur) ∧
      poisonedImage.me.imgBad l = some 0 ∧ (s'.ctxAt poisonedImage.cur).record.gang ≤ 1 := by
  obtain ⟨t, h, -, ht⟩ := image_read (s := poisonedImage) (c := poisonedImage.me) (by unfold plainImage; decide +kernel)
  refine ⟨by decide +kernel, by decide +kernel, _, t, h, by rw [ht]; unfold plainMode; decide +kernel, ?_, by rw [ht]; decide +kernel⟩
  rw [show List.range 20480 = 0 :: (List.range 20479).map Nat.succ from List.range_succ_eq_map, List.map_cons, Ctx.imgBad,
    List.zipIdx_cons, List.find?_cons_of_pos (by decide +kernel)]
  rfl

/-- In user mode, misaligned, with a bit that is reserved, with a running pipeline, with work left, or a child there. -/
theorem witness_ContextImages_traps :
    ((on lanes16).me.status.getLsbD 0 = false ∧ plainMode (on lanes16).me) ∧
    (let s := on { saving 0 with x := (saving 0).x.set 1 0x4008 }; s.me.status.getLsbD 0 = true ∧ plainMode s.me ∧
      (s.me.reg 1).toNat % 4096 ≠ 0) ∧
    (plainMode (saver 4).me ∧ ¬ ((saver 4).me.reg 2).toNat < 4 ∧ ((saver 1).me.reg 2).toNat % 2 = 1) ∧
    ((on { saving 0 with pipes := [(0, { state := .running })] }).me.pipeRuns = true) ∧
    (let s := { saver 1 with ctxs := [(0, saving 1), (1, { lanes16 with sid := 10, parent := some 0 })] };
      s.childrenIn s.cur ≠ [] ∧ s.me.pipeRuns = false) := by
  unfold plainMode
  refine ⟨?_, ?_, ?_, ?_, ?_⟩ <;> decide +kernel

/-- The strand parked, first to resume in queue 0, and as it comes back. -/
def parkedCtx : Ctx := { lanes16 with mode := .parked }
def parkedState : State :=
  { imaged lanes16 with
    ctxs := [], parked := [parkedCtx], queues := [(0, { enable := true, base := 0x2000, log2n := 4, resume := [9] })]
    slots := [(0, { queue := 0 })] }
def backCtx : Ctx :=
  { parkedCtx with
    mode := .resident, vspan := spanWord 0 false 0 0 16, parent := none, placedAt := parkedState.nextId
    order := { all := parkedState.moment } }

theorem parked_read {c : Ctx} (h : plainImage parkedState c) (hi : c.image = 0x4000) :
    parkedState.readImage c = .ok (cleanRow (bytesAt parkedState) 20480) parkedState := by
  obtain ⟨h0, h1, h2, h3, h4⟩ := h
  have e : ((List.range ((20480 + 4095) / 4096)).map fun k => (((0x4000 : Word).toNat + 4096 * k) % 2 ^ 64, min 4096 (20480 - 4096 * k))) =
      (List.range 5).map fun k => (0x4000 + 4096 * k, 4096) := by decide +kernel
  have hl : ∀ q ∈ (List.range 5).map fun k => (0x4000 + 4096 * k, 4096), smallRange q := by
    intro q hq
    obtain ⟨k, hk, rfl⟩ := List.mem_map.1 hq
    have := List.mem_range.1 hk
    exact ⟨by show (0x4000 + 4096 * k) % 4096 + 4096 ≤ 4096; omega, by show 0x4000 + 4096 * k < _; omega⟩
  have hr := State.flat_readImage (s := parkedState) (c := c) ⟨h0, h1⟩ h2 rfl rfl h4 (by rw [h3, hi, e]; exact hl)
  have hb := pages_row (fun i => ((bytesAt parkedState i, false) : PByte)) 5
  rw [h3, hi, e, List.flatMap_map] at hr
  rw [cleanRow, ← hb]
  simp only [bytesAt, Nat.add_assoc] at hr ⊢
  exact hr

theorem resume_of {s : State} {slot : Nat} {P : Ctx → Place → Nat → Prop} [∀ c p n, Decidable (P c p n)]
    (h : (match s.planOf slot [] with | some (.resume [(c, p, n)]) => decide (P c p n) | _ => false) = true) :
    ∃ c p n, s.planOf slot [] = some (.resume [(c, p, n)]) ∧ P c p n := by
  revert h
  rcases s.planOf slot [] with _ | l | l
  · intro h; cases h
  · intro h; cases h
  · rcases l with _ | ⟨⟨c, p, n⟩, _ | ⟨_, _⟩⟩
    · intro h; cases h
    · intro h; exact ⟨c, p, n, rfl, of_decide_eq_true h⟩
    · intro h; cases h

theorem waits_not {s s' : State} {c : Ctx} {l : List PByte} (h : s.readImage c = .ok l s') (ha : s'.imgAwake l = true) :
    s.imageWaits c = false := by
  unfold State.imageWaits
  rw [h]
  show (!s'.imgAwake l) = false
  rw [ha]
  rfl

theorem plan_resumes {s : State} {slot n : Nat} {sl : Slot} {c : Ctx} {p : Place} (hs : smFind slot s.slots = some sl)
    (hv : s.victimsHold sl = false) (h : s.planOf slot [] = some (.resume [(c, p, n)])) (hw : s.imageWaits c = false) :
    s.planNow slot = some (.resume [(c, p, n)]) := by
  unfold State.planNow
  rw [hs]
  simp [hv, h, State.planReady, hw]

theorem parked_plan : ∃ p n, parkedState.planNow 0 = some (.resume [(parkedCtx, p, n)]) ∧ p.vspan = spanWord 0 false 0 0 16 := by
  obtain ⟨c, p, n, h, rfl, hp⟩ := resume_of (s := parkedState) (slot := 0) (P := fun c p _ =>
    c = parkedCtx ∧ p.vspan = spanWord 0 false 0 0 16) (by decide +kernel)
  exact ⟨p, n, plan_resumes (sl := { queue := 0 }) (by decide +kernel) (by decide +kernel) h
    (waits_not (parked_read (by unfold plainImage; decide +kernel) rfl) (awake _ rfl _)), hp⟩

theorem parked_back {p : Place} (hp : p.vspan = spanWord 0 false 0 0 16) : ({ parkedCtx with
    mode := .resident, vspan := p.vspan, parent := none, placedAt := parkedState.nextId
    order := { all := parkedState.moment } } : Ctx) = backCtx := by
  rw [hp]
  rfl

theorem witness_placement_resume :
    smFind 0 parkedState.slots = some { queue := 0 } ∧ (parkedState.slotOrder.takeWhile fun k => decide (k ≠ 0)) = [] ∧
    ∃ c p n, parkedState.planNow 0 = some (.resume [(c, p, n)]) ∧ c.parent = none ∧
      ∃ b s', parkedState.readImage { c with
        mode := .resident, vspan := p.vspan, parent := none, placedAt := parkedState.nextId, order := { all := parkedState.moment } } =
          .ok b s' ∧ goodImage { c with
        mode := .resident, vspan := p.vspan, parent := none, placedAt := parkedState.nextId, order := { all := parkedState.moment } } b := by
  obtain ⟨p, n, h, hp⟩ := parked_plan
  refine ⟨by decide +kernel, by decide +kernel, parkedCtx, p, n, h, by rfl, cleanRow (bytesAt parkedState) 20480, parkedState, ?_⟩
  rw [parked_back hp]
  exact ⟨parked_read (by unfold plainImage; decide +kernel) rfl,
    mem_row (by decide +kernel) (by decide +kernel) (by decide +kernel)⟩

/-! ## Witnesses: waits, parts and probes -/

/-- A strand of 16 lanes that holds the span which the parked strand at the head of queue 0 comes back to. -/
def contended (x1 : Word) (ex due : Bool) : State :=
  let g : List Grant := [{ cluster := 0, ags := [0], jns := [], rings := [] }]
  let c := { lanes16 with
    x := (strand []).x.set 1 x1, status := if ex then 4 else 0, sid := 3, preemptDue := if due then some 0 else none }
  { parkedState with ctxs := [(0, c)], parked := [{ parkedCtx with grants := g }] }

/-- A strand of which a pass is still in its FIFO. -/
def unquiet (c : Ctx) : State := (on c).setBp 0 c.shareNo { fifo := [passJob0] }

theorem witness_WaitingAndPreemption_waits :
    (((strand [(1, 0)]).reg 1).toNat ≤ (on (strand [(1, 0)])).time ∧ (on (strand [(1, 5)])).time < ((strand [(1, 5)]).reg 1).toNat) ∧
    (((on { strand [] with wait := some (.idle 0) }).ctxAt 0).wait = some (.idle 0)) ∧
    (let s := on (strand [(1, 0)]); s.me.reg 1 = 0 ∧ s.me.preemptDue = none ∧ s.wanted s.cur = false) ∧
    (let s := on { strand [(1, 0)] with preemptDue := some 0 }; s.me.preemptDue.isSome = true ∧ plainMode s.me) ∧
    (∀ ex ∈ [false, true], (contended 0 ex false).me.preemptDue = none ∧ (contended 0 ex false).wanted (contended 0 ex false).cur = true ∧
      (contended 0 ex false).me.ex = ex ∧
      (contended 0 ex false).cur ∈ (contended 0 ex false).ctxsOf ((contended 0 ex false).unitSids (contended 0 ex false).me.sid)) ∧
    ((contended 0 true true).me.ex = true ∧ (contended 0 true true).me.preemptDue.isSome = true) ∧
    plainMode (contended 0 false false).me := by
  unfold plainMode
  refine ⟨?_, ?_, ?_, ?_, ?_, ?_, ?_⟩ <;> decide +kernel

theorem witness_WaitingAndPreemption_ends :
    (let s := on (strand [(1, 1)]); s.me.reg 1 = 1 ∧ s.quiet s.me = true ∧ s.childrenIn s.cur = [] ∧ s.me.parent ≠ some s.cur) ∧
    ((unquiet (strand [(1, 1)])).quiet (unquiet (strand [(1, 1)])).me = false) ∧
    (let s := on (strand [(1, 2)]); 2 ≤ (s.me.reg 1).toNat ∧ plainMode s.me) ∧
    (let s := { on { strand [] with preemptDue := some 0 } with ticks := 4000000000 };
      ∃ t0, (s.ctxAt 0).graceEnd = some t0 ∧ t0 ≤ s.ticks ∧ (s.ctxAt 0).mode = .resident ∧ plainMode (s.ctxAt 0) ∧
        (s.ctxAt 0).between = true) ∧
    (let s := { on { strand [] with preemptEntry := some 0 } with ticks := 8000000000 };
      ∃ t0, (s.ctxAt 0).stopAt = some t0 ∧ t0 ≤ s.ticks ∧ (s.ctxAt 0).mode = .resident ∧ s.ctl.fqen = false ∧ s.fq.length < 256) := by
  unfold plainMode
  refine ⟨?_, ?_, ?_, some_of (P := fun t0 => _) ?_, some_of (P := fun t0 => _) ?_⟩ <;> decide +kernel

/-- Context 0 that a busy END command names; one whose grace is over and was reported; and work that is left. -/
theorem witness_WaitingAndPreemption_held :
    (let s := { on { strand [] with preemptDue := some 0 } with ticks := 4000000000 };
      let t := s.setQport 0 { ({} : QPort) with busy := true, qcmd := 1 };
      t.qHolds 0 = true ∧ s.qHolds 0 = false ∧ (∃ t0, (t.ctxAt 0).graceEnd = some t0 ∧ t0 ≤ t.ticks) ∧ (t.ctxAt 0).between = true) ∧
    (let s := { on { strand [] with preemptEntry := some 0, graceOver := true, mode := .stopped } with ticks := 8000000000 };
      (s.ctxAt 0).graceOver = true ∧ ∃ t0, (s.ctxAt 0).stopAt = some t0 ∧ t0 ≤ s.ticks) ∧
    (let s := unquiet (strand [(1, 1)]); s.spent s.cur = false ∧ s.me.reg 1 = 1) ∧
    (let s := on (strand [(1, 1)]); s.spent s.cur = true) := by
  refine ⟨⟨?_, ?_, some_of (P := fun t0 => _) ?_, ?_⟩, ⟨?_, some_of (P := fun t0 => _) ?_⟩, ?_, ?_⟩ <;> decide +kernel

/-! ### Parts -/

/-- vpart's descriptor: cluster 0, two groups of 16 and 32 lanes, entry 0x1000, argument 7. -/
def partRcd : List Byte :=
  [0, 2, 1, 2, 0, 0, 0, 0, 0, 0, 0, 0, 0, 0, 0, 0, 0, 16, 0, 0, 0, 0, 0, 0, 7, 0, 0, 0, 0, 0, 0, 0]

/-- The descriptor at 64 before a strand of a whole cluster. -/
def parting (l : List Byte) : State := onBytes (strand [(1, 64)]) 64 l

/-- All 256 contexts are taken. -/
def crowdedContexts : State :=
  { parting partRcd with ctxs := (0, strand [(1, 64)]) :: (List.range 255).map fun n => (n + 1, { ({} : Ctx) with mode := .parked }) }

theorem witness_PartitionsAndProbes_parts :
    (let s := parting partRcd; s.me.pc ∉ s.me.vparts ∧ s.me.clusterSpan = true ∧ (s.me.reg 1).toNat % 8 = 0 ∧
      vpartOk s.me.clusters.length partRcd = true ∧
      ∃ d s', s.readVirt s.me 15 (s.me.reg 1).toNat 32 = .ok d s' ∧ d = partRcd ∧ s'.me.mode = .resident ∧
        (freeContexts (byteAt d 1) (s'.usedContexts [])).isSome = true) ∧
    (let s := crowdedContexts; ∃ d s', s.readVirt s.me 15 (s.me.reg 1).toNat 32 = .ok d s' ∧ d = partRcd ∧ s'.me.mode = .resident ∧
        freeContexts (byteAt d 1) (s'.usedContexts []) = none) ∧
    (∀ l ∈ [[], [1]], let c := { strand [] with vparts := [0], children := l }; c.pc ∈ c.vparts ∧ c.children = l) ∧
    ((lanes16.pc ∉ lanes16.vparts ∧ lanes16.clusterSpan = false ∧ plainMode lanes16) ∧
      ((strand [(1, 65)]).reg 1).toNat % 8 ≠ 0 ∧ plainMode (strand [(1, 65)])) ∧
    (let s := parting []; ∃ d s', s.readVirt s.me 15 (s.me.reg 1).toNat 32 = .ok d s' ∧
      vpartOk s.me.clusters.length d = false ∧ plainMode (s'.ctxAt s.cur)) := by
  unfold plainMode
  refine ⟨?_, ok_of (fun d s' => _) ?_, ?_, ?_, ok_of (fun d s' => _) ?_⟩
  · refine ⟨?_, ?_, ?_, ?_, ok_of (fun d s' => _) ?_⟩ <;> decide +kernel
  all_goals decide +kernel

/-! ### Probes -/

/-- A format of two 9-bit levels over 4 KiB pages, with all seven flags in bits 0 to 6 and a leaf bit 7 (R364, R365). -/
def pairFormat (pri : Bool) : PteFormat :=
  { flatFormat with
    levels := 2, iw := [9, 9], leafok := 3, lfb := 7, lfp := true, pres := 0, read := 1, write := 2, user := 3, acc := 4
    dirty := 5, noex := 6, pri := pri }

/-- A strand whose root table at 0x8000 holds one entry. -/
def walked (pri : Bool) (pte : Nat) : State :=
  onBytes { strand [(1, 0x123), (2, 1)] with desc := some (pairFormat pri), ptroot := 0x8000 } 0x8000 (leBytes 8 pte)

/-- The walk of a load by a user to 0x123. -/
def walkOf (pri : Bool) (s : State) : WalkRes := s.siteWalk sDie s.me (pairFormat pri) 0 true true 0x123

theorem witness_PartitionsAndProbes_probes :
    (let s := on (strand [(1, 64)]); (s.probe s.me 0 true 64).isSome = true ∧ (s.me.reg 0).toNat < 8 ∧ s.me.desc = some flatFormat ∧
      (∃ e, s.hit sDie s.me flatFormat 0 true 64 = some e ∧ e.level < 8 ∧ e.size < 64 ∧ s.leafOk flatFormat (e.addr 64) = true)) ∧
    (let s := { on (strand []) with tlbs := [(72, [{ flatEntry (strand []) with out := 2 ^ 62 }])] };
      ∃ e, s.hit sDie s.me flatFormat 0 true 64 = some e ∧ e.level < 8 ∧ e.size < 64 ∧ s.leafOk flatFormat (e.addr 64) = false) ∧
    (8 ≤ ((strand [(2, 8)]).reg 2).toNat ∧ plainMode (strand [(2, 8)])) ∧
    (on { strand [] with desc := none }).me.desc = none ∧
    (let s := walked false 0x9F; s.hit sDie s.me (pairFormat false) 0 true 0x123 = none ∧
      (match walkOf false s with | .page i _ _ => decide (i.level < 8 ∧ i.size < 64) | _ => false) = true) ∧
    (∀ pri ∈ [false, true], walkOf pri (walked pri 0) = .absent 0 ∧ walkOf pri (walked pri 0x8D) = .denied 0) ∧
    walkOf false (walked false 0x87) = .prot 0 ∧
    walkOf false (walked false 0xFFFF0000000F) = .format 0 ∧
    walkOf false { walked false 0x8F with memPoison := [0x1000] } = .poison 0 ∧
    (let s := { walked false 0x8F with ctl := { ({} : Control) with hbmsr := 0xFFFF } };
      walkOf false s = .asleep ∧ s.probe s.me 0 true 0x123 = none) ∧
    (2 ^ 64 - 2 ^ 28 ≤ (2 ^ 64 - 1 : Nat)) := by
  unfold plainMode
  refine ⟨⟨?_, ?_, ?_, some_of (P := fun e => _) ?_⟩, some_of (P := fun e => _) ?_, ?_, ?_, ?_, ?_, ?_, ?_, ?_, ?_, ?_⟩ <;> decide +kernel

/-! ## Witnesses: commands, routes, packets and invalidations -/

/-- A context that stopped, poisoned or not. -/
def halted (p : Bool) : Ctx := { lanes16 with mode := .stopped, poisoned := p }

/-- The port with its argument register at an address. -/
def argued (s : State) (a : Word) : State := s.setQport 0 { s.qport 0 with qarg := a }

theorem witness_QueueCommands :
    (((on lanes16).setQport 0 { ({} : QPort) with busy := true }).qport 0).busy = true ∧
    (let s := on lanes16; (s.qport 0).busy = false ∧ (s.ctxAt 0).mode = .resident ∧ s.endable 0 = true ∧
      s.childrenIn 0 = [] ∧ (s.ctxAt 0).parent ≠ some 0 ∧ (∀ k ∈ s.ctxsOf (s.unitSids (s.ctxAt 0).sid), s.endable k = true) ∧
      s.canReplace 0 (fun _ => false) = false ∧ s.canReplace 1 (fun _ => false) = true) ∧
    (let s := unquiet (strand []); (s.ctxAt 0).mode = .resident ∧ s.endable 0 = false ∧
      0 ∈ s.ctxsOf (s.unitSids (s.ctxAt 0).sid)) ∧
    (({} : State).ctxAt 0).mode = .free ∧
    (∀ n ∈ [0x4000, 0x4008], let s := argued (on (halted false)) (BitVec.ofNat 64 n);
      (s.ctxAt 0).mode = .stopped ∧ (s.ctxAt 0).pipeRuns = false ∧ (s.qport 0).qarg.toNat = n ∧ (s.qport 0).busy = false) ∧
    (let s := on { halted false with pipes := [(0, { state := .running })] }; (s.ctxAt 0).pipeRuns = true) ∧
    (let s := unquiet { strand [] with mode := .stopped, poisoned := true }; s.endable 0 = false ∧ (s.ctxAt 0).pipeRuns = false ∧
      s.canReplace (s.ctxAt 0).firstCl (fun k => decide (k = 0)) = true ∧ s.quiet (s.ctxAt 0) = false) ∧
    ((on lanes16).ctxAt 0).ex = false ∧
    (let s := on (halted true); (s.ctxAt 0).mode = .stopped ∧ (s.ctxAt 0).poisoned = true ∧
      s.canReplace (s.ctxAt 0).firstCl (fun k => decide (k = 0)) = true ∧ s.quiet (s.ctxAt 0) = true) ∧
    (let s := { on (halted true) with repair := { ({} : Repair) with clusters := [(0, 5)] } };
      s.canReplace (s.ctxAt 0).firstCl (fun k => decide (k = 0)) = false) := by
  refine ⟨?_, ?_, ?_, ?_, ?_, ?_, ?_, ?_, ?_, ?_⟩ <;> decide +kernel

/-- A child that cannot end, beside a parent that can; and a descriptor of a queue that lies in a sleeping stack. -/
theorem witness_QueueCommands_waits :
    (let s := (unquiet (strand [])).setCtx 1 { lanes16 with sid := 10, vspan := spanWord 0 false 1 0 16 };
      let t := s.setCtx 0 { s.ctxAt 0 with parent := some 1, children := [] };
      (t.ctxAt 1).mode = .resident ∧ t.endable 1 = true ∧ ∃ k ∈ t.childrenIn 1, t.endable k = false) ∧
    (let s := { on (halted true) with ctl := { ({} : Control) with hbmsr := 0xFFFF } };
      (s.ctxAt 0).mode = .stopped ∧ (s.ctxAt 0).poisoned = true ∧
        s.canReplace (s.ctxAt 0).firstCl (fun k => decide (k = 0)) = true ∧
        s.descAwake (clearLow 5 (lowBits 60 (s.queueAt (s.ctxAt 0).queue).ptdesc)) = false) := by
  refine ⟨?_, ?_⟩ <;> decide +kernel

/-- The stopped strand, and the port with SAVE_RELEASE of it to 0x4000. -/
def saveState : State := argued (on (halted false)) 0x4000
def saveTaken : State := Sys2Proof.Claims.commanded saveState 2 0 0

theorem witness_QueueCommands_save : saveTaken.absorb 0 = saveTaken ∧ ∃ s', State.writePieces (saveTaken.ctxAt 0)
    (saveState.qport 0).qarg ((saveTaken.imgPieces (saveTaken.ctxAt 0) (saveState.ctxAt 0).pc none).flatMap fun p =>
      splitPages (p.2.length / 4096 + 2) p.1 p.2) saveTaken = .ok () s' ∧ s'.ctxs = saveTaken.ctxs := by
  refine ⟨rfl, ?_⟩
  have hf : saveTaken.flatFor (saveTaken.ctxAt 0) := ⟨by decide +kernel, by decide +kernel⟩
  have hs : saveTaken.ctl.hbmsr = 0 := by decide +kernel
  have hc : (saveTaken.ctxAt 0).firstCl = 0 := by decide +kernel
  have ha : (saveState.qport 0).qarg.toNat % 4096 = 0 ∧ (saveState.qport 0).qarg.toNat < 2 ^ 38 := by decide +kernel
  have hl : ∀ p ∈ saveTaken.imgPieces (saveTaken.ctxAt 0) (saveState.ctxAt 0).pc none, p.1 + p.2.length < 2 ^ 38 := by decide +kernel
  exact State.flat_writeImage hf hs rfl rfl hc ha hl

/-! ### Routes -/

/-- rt.upd's record for plane 0 and version 0 or 1: a WRITE names leaf 1, destination 5, one entry at 128. -/
def rtRcd (op ver : Byte) : List Byte :=
  if op = 0 then [0, 0, 1, 0, ver, 0, 0, 0, 5, 0, 1, 0, 0, 0, 0, 0, 128, 0, 0, 0, 0, 0, 0, 0, 0, 0, 0, 0, 0, 0, 0, 0]
  else [op, 0, 0, 0, ver] ++ List.replicate 27 0

/-- A supervisor with the record at 64. -/
def routing (l : List Byte) : State := onBytes (sup (strand [(1, 64)])) 64 l

/-- The supervisor's reads of the record and of the entries. -/
def routeReads (op ver : Byte) : State :=
  let s := routing (rtRcd op ver)
  let s' := resSt (s.readVirt s.me 15 64 32)
  if op = 0 then resSt (s'.readVirt s.me 15 128 2) else s'

theorem witness_RouteUpdates :
    ((on (strand [])).me.status.getLsbD 0 = false ∧ plainMode (strand [])) ∧
    (((sup (strand [(1, 65)])).reg 1).toNat % 8 ≠ 0 ∧ plainMode (sup (strand [(1, 65)]))) ∧
    (let s := routing [3]; ∃ l s', reads s s' 1 32 l ∧ rtRecordOk l = false ∧ plainMode (s'.ctxAt s.cur)) ∧
    (∀ o ∈ [0, 1, 2], ∀ v ∈ [0, 1], let op := BitVec.ofNat 8 o; let ver := BitVec.ofNat 8 v;
      let s := routing (rtRcd op ver);
      s.me.status.getLsbD 0 = true ∧ (s.me.reg 1).toNat % 8 = 0 ∧ resOk (s.readVirt s.me 15 (s.me.reg 1).toNat 32) = true ∧
      rtRecordOk (resVal [] (s.readVirt s.me 15 (s.me.reg 1).toNat 32)) = true ∧
      resOk ((resSt (s.readVirt s.me 15 64 32)).readVirt s.me 15 128 2) = true ∧
      smGet 0 (routeReads op ver).glox.manager 0 = (routeReads op ver).glox.endpoint ∧ 0 ∉ (routeReads op ver).glox.down ∧
      (routeReads op ver).planeVersion 0 = false ∧ (routeReads op ver).outSum 0 true = 0 ∧
      smWf (0 : BitVec 16) (routeReads op ver).glox.routes = true) ∧
    (let s := { on { strand [] with wait := some (.rtUpd 3), reply := some 256 } with glox := ({} : Gloxel) };
      (s.ctxAt 0).wait = some (.rtUpd 3) ∧ (s.ctxAt 0).reply = some 256 ∧ s.glox.flips = []) ∧
    (let s := { on (strand []) with glox := { ({} : Gloxel) with flips := [(0, [true])] } };
      s.verOf 0 ≠ true ∧ smWf false s.glox.version = true ∧ smRising none s.glox.flips = true ∧
      (smGet [] s.glox.flips 0).head? = some true) := by
  unfold plainMode
  refine ⟨?_, ?_, ⟨_, _, res_eq [] ?_, ?_⟩, ?_, ?_, ?_⟩ <;> decide +kernel

/-- The reads of a record of plane 0 by a supervisor of an endpoint whose routing is as given. -/
def routesAt (op ver : Byte) (x : Gloxel) : State := { routing (rtRcd op ver) with glox := x }

/-- Status 1: another endpoint manages the plane. Status 3: its port is down. Status 2: a WRITE of the current version,
and one of a version that carries packets. A FLIP behind one under way is back to the version first stamped. -/
theorem witness_RouteUpdates_statuses :
    (∀ x ∈ [({ manager := [(0, 5)] } : Gloxel), { down := [0] }, {}, { stamped := [(1, 1)] }, { flips := [(0, [true])] }],
      ∀ o ∈ [0, 1, 2], ∀ v ∈ [0, 1], let op := BitVec.ofNat 8 o; let s := routesAt op (BitVec.ofNat 8 v) x;
      let s' := resSt (s.readVirt s.me 15 64 32);
      s.me.status.getLsbD 0 = true ∧ (s.me.reg 1).toNat % 8 = 0 ∧ resOk (s.readVirt s.me 15 (s.me.reg 1).toNat 32) = true ∧
        rtRecordOk (resVal [] (s.readVirt s.me 15 64 32)) = true ∧ resOk (s'.readVirt s.me 15 128 2) = true ∧
        (resSt (s'.readVirt s.me 15 128 2)).glox = x) ∧
    (let s := routesAt 0 1 { manager := [(0, 5)] }; smGet 0 s.glox.manager 0 ≠ s.glox.endpoint) ∧
    (let s := routesAt 0 1 { down := [0] }; smGet 0 s.glox.manager 0 = s.glox.endpoint ∧ 0 ∈ s.glox.down) ∧
    (let s := routesAt 0 0 {}; false = s.planeVersion 0 ∧ smGet 0 s.glox.manager 0 = s.glox.endpoint ∧ 0 ∉ s.glox.down) ∧
    (let s := routesAt 0 1 { stamped := [(1, 1)] }; true ≠ s.planeVersion 0 ∧ s.outSum 0 true ≠ 0 ∧ 0 ∉ s.glox.down) ∧
    (let s := routesAt 1 0 { flips := [(0, [true])] }; false ≠ s.planeVersion 0 ∧ s.verOf 0 = false) := by
  refine ⟨?_, ?_, ?_, ?_, ?_, ?_⟩ <;> decide +kernel

/-! ### Packets -/

/-- A store's packet of context 0, sent at tick 0, and the machine with it. -/
def pkt (accepted : Option Nat) : Packet :=
  { num := 3, ctx := 0, sid := 9, plane := 0, ver := false, elems := [(0, 0x400000000000000), (2, 0x400000000001000)], store := true
    cls := 1, waits := accepted.isNone, accepted := accepted, sentAt := 0 }
def sentBy (c : Ctx) (p : Packet) : State :=
  { on { c with sid := 9 } with glox := { ({} : Gloxel) with packets := [p], nextPacket := 4, stamped := [(0, 1)] }, ticks := 390000000 }

theorem witness_RemoteAccesses :
    (let s := sentBy { strand [] with remote := .waiting none } (pkt none);
      outstanding s (pkt none) ∧ smWf (0 : BitVec 32) s.glox.stamped = true ∧ (pkt none).elems[1]? = some (2, 0x400000000001000) ∧
      (pkt none).sentAt + usTicks 200 ≤ s.ticks) ∧
    (let s := sentBy { strand [] with wait := some (.fence 2) } (pkt (some 7));
      s.packetAt 3 = some (pkt (some 7)) ∧ 7 + usTicks 200 ≤ s.ticks ∧ 0 ∈ s.fenceAwaits (pkt (some 7)) ∧
      (s.fenceAwaits (pkt (some 7))).Nodup ∧ s.ctxOf 9 = some 0 ∧ (s.ctxAt 0).wait = some (.fence 2) ∧
      (2 : BitVec 16).getLsbD (pkt (some 7)).cls = true ∧ smWf (0 : Nat) s.glox.manager = true) := by
  unfold outstanding
  refine ⟨?_, ?_⟩ <;> decide +kernel

/-! ### Invalidations -/

/-- A supervisor about to run tlb.inv of a kind, alone or with a convoy of context 1 under way. -/
def invalidating (kind : Nat) (open1 : Bool) : State :=
  let s := on (sup (strand [(1, 0x3000), (2, BitVec.ofNat 64 (kind * 2 ^ 20))]))
  if open1 then { s with ctxs := s.ctxs ++ [(1, { strand [] with viq := [({} : Convoy)] })] } else s

theorem witness_TranslationServices_local :
    (∀ k ∈ [0, 1, 2], (invalidating k false).me.status.getLsbD 0 = true ∧
      ((invalidating k false).me.reg 2).toNat / 2 ^ 20 = k ∧ (invalidating k false).me.inval = none ∧
      nothingLeft (invalidating k false) (nowUnderWay (invalidating k false))) ∧
    (¬ nothingLeft (invalidating 0 true) (nowUnderWay (invalidating 0 true))) ∧
    (3 ≤ ((invalidating 3 false).me.reg 2).toNat / 2 ^ 20 ∧ plainMode (invalidating 3 false).me) ∧
    ((on (strand [])).me.status.getLsbD 0 = false) ∧
    (let w := nowUnderWay (invalidating 0 true); ({ invalidating 0 true with invals := [w] } : State).invals = [w]) := by
  unfold nothingLeft plainMode
  refine ⟨?_, ?_, ?_, ?_, ?_⟩ <;> decide +kernel

/-- A packet under way; a write of the strand that no other die has seen; and a tlb.inv that waits, with and without it. -/
theorem witness_TranslationServices_underWay :
    (let s := { invalidating 0 false with glox := { ({} : Gloxel) with packets := [pkt none], nextPacket := 4 } };
      ¬ nothingLeft s (nowUnderWay s)) ∧
    (∀ b ∈ [false, true], let s := invalidating 0 b;
      let w := { nowUnderWay (invalidating 0 true) with moment := 0 };
      let t := s.setMe { s.me with inval := some w };
      t.me.inval = some w ∧ t.me.status.getLsbD 0 = true ∧ (t.me.reg 2).toNat / 2 ^ 20 < 3 ∧ (nothingLeft t w ↔ b = false)) := by
  unfold nothingLeft
  refine ⟨?_, ?_⟩ <;> decide +kernel

/-! ## Witnesses: the host, errors, power, snapshots and the step -/

/-- A page request of group 4 for which context 0 waits. -/
def asked : PageReq := { group := 4, pasid := 0, pages := [0x3000], write := false, exec := false, user := true, sub := 6 }
def asking : State :=
  { on { strand [] with mode := .descheduled, group := some 4 } with requests := [asked] }

theorem witness_TranslationServices_responses :
    asked ∈ asking.sent ∧ asked ∈ asking.requests ∧ asking.xsets = [] ∧ asking.perf = [] ∧ asking.unitAsks = [] ∧
    smRising none asking.ctxs = true ∧ (∀ q ∈ asking.requests, q.group = asked.group → q = asked) ∧
    (asking.ctxAt 0).mode = .descheduled ∧ (asking.ctxAt 0).group = some asked.group ∧ plainMode (asking.ctxAt 0) := by
  unfold plainMode
  refine ⟨?_, ?_, ?_, ?_, ?_, ?_, ?_, ?_, ?_, ?_⟩ <;> decide +kernel

/-- A held record. -/
def heldRec : FqRec := { seq := 1, time := 0, kind := 2 }

theorem witness_HostAccesses :
    (({} : State).ctl.boot ≠ 3 ∧ inHbm 0x1000 4 = true ∧ ∀ i, i < 4 → ({} : State).asleep (0x1000 + i) = false) ∧
    (let s := { ({} : State) with ctl := { ({} : Control) with hbmsr := 0xFFFF } };
      s.ctl.boot ≠ 3 ∧ inHbm 0x1000 4 = true ∧ s.asleep 0x1000 = true) ∧
    (let s := { ({} : State) with queues := [(5, { ({} : Queue) with enable := true })] }; (s.queueAt 5).enable = true) ∧
    ((({} : State).queueAt 5).cfgPut 2 0x4000).isSome = true ∧
    ((0x100010 % 8 = 0 ∧ msOffset 0x100010 = some (0, { num := 2, pkg := true })) ∧
      (0x108208 % 8 = 0 ∧ msOffset 0x108208 = some (1, { num := 1 }))) ∧
    (let s := { ({} : State) with hot := [(7, { pasid := 0, page := 3, unit := 1, strided := 2, indexed := 3 })] }; (smFind 7 s.hot).isSome = true ∧ 7 < 2 ^ 15) ∧
    (({} : State).fq = [] ∧ ({} : State).ctl.fqen = false) ∧
    (let s := { ({} : State) with fq := [heldRec] }; s.fq = [heldRec] ∧ s.ctl.fqen = false ∧ (0x306 : Word).getLsbD 8 = true ∧
      6 ≤ (0x306 : Word).toNat % 32 ∧ (s.ctl.fqtail.toNat + 1) % 2 ^ 6 ≠ s.ctl.fqhead.toNat % 2 ^ 6) ∧
    (let v : Word := 0x200010; v.toNat / 2 ^ 16 % 2 ^ 16 % 16 = 0 ∧ v.toNat / 2 ^ 16 % 2 ^ 16 ≤ 240 ∧
      v.toNat % 2 ^ 16 + v.toNat / 2 ^ 16 % 2 ^ 16 ≤ 4096) := by
  refine ⟨?_, ?_, ?_, ?_, ?_, ?_, ?_, ?_, ?_⟩ <;> decide +kernel

/-- A record that waits for its stack; a queue that is given to a virtual function, and one that is not. -/
theorem witness_HostAccesses_held :
    (let s := { ({} : State) with fq := [heldRec], ctl := { ({} : Control) with hbmsr := 0xFFFF, fqbase := 0x1000 }, hdm := (0, 2 ^ 30) };
      s.fq = [heldRec] ∧ s.ctl.fqen = false ∧ s.asleepRange (s.hostPa (s.ctl.fqbase.toNat + 64 * s.ctl.fqtail.toNat)) 64 = true ∧
      inSleepingHbm s 0x1000 1) ∧
    (let s := { ({} : State) with ctl := { ({} : Control) with vfs := [(4, (0, 16))] } };
      (∃ e ∈ s.ctl.vfs, e.2.1 ≤ 3 ∧ 3 < e.2.1 + e.2.2) ∧ ¬ ∃ e ∈ s.ctl.vfs, e.2.1 ≤ 16 ∧ 16 < e.2.1 + e.2.2) := by
  unfold inSleepingHbm
  refine ⟨⟨?_, ?_, ?_, ?_, 0, ?_⟩, ?_, ?_⟩ <;> decide +kernel

/-- One site of each kind of error. -/
def sites : List ErrSite :=
  [.slice 0 1 2, .tile 0 1 2, .scratchpad 0 8, .twiddle 0 8, .tlb 1 0x1000, .causeway 1 0x1000, .gloxel 3 0x1000, .lineCache 2 0x1000,
    .memory 0x1000]

theorem witness_ErrorsAndRepair :
    holdsRecords {} ∧ (∀ x ∈ sites, (siteOk {} x).isSome = true) ∧
    (let s := { ({} : State) with ras := [(65 * 64 + 17, 1)] };
      (siteOk s (.tlb 1 0x1000)).isSome = true ∧ (s.rasWord 65 5 2).toNat ≠ 0 ∧ (0 + 1) % (s.rasWord 65 5 2).toNat = 0) ∧
    ((on (strand [])).ctxAt 0).mode ≠ .free ∧
    (({} : State).clusterHeld 3 (fun _ => false) = false ∧ (({} : State).repair.lanes.filter fun p => decide (p.1 = 3)).length < 4) ∧
    (∀ ie ∈ [0x100, 0x300], let s := { ({} : State) with perf := [(72 * 64 + 2, BitVec.ofNat 64 (ie + 0x45))] };
      1 < blockCounters 72 ∧ (smGet (0 : Word) s.perf (72 * 64 + 2)).getLsbD 8 = true ∧ countedElsewhere 72 0x45 = true) ∧
    (let s := { ({} : State) with perf := [(65 * 64 + 4, (0x148 : Word))] };
      let ctl := smGet (0 : Word) s.perf (65 * 64 + 4);
      smWf (0 : Word) s.perf = true ∧ ctl.getLsbD 8 = true ∧ ctl.getLsbD 11 = false ∧ ctl.toNat % 256 = 0x48) := by
  unfold holdsRecords
  refine ⟨?_, ?_, ?_, ?_, ?_, ?_, ?_⟩ <;> decide +kernel

/-- A firmware image with a signature that an outside program made: the body is the one byte 1. -/
def signedImage : FwImage :=
  { header := [], body := [1], version := 1
    key := (0x525fa3bafa1a2306de220936a0dd9b3b8c3fbb687ad4ccfc466198eadaf4c94b3ec8b976cc731873ff45d06356e7031d,
      0x2929828c989c96a455fbbcf2b519e72fa7d17a0973eab6256864bc20552a662f5aa286798daac9f8f77b12c9bc93757c)
    sig := (0x7b63205bf00ddae73b17452b6a27ebf53df581348c6949f83ee1b6fcc7463bbe3c11ef6596a3b8897d7cc85b3035f11f,
      0x73c9fae3bcf2a79c199a862a22cbc31d4189167ade89375ef626035340f9d9cba26d74093e920ad1dae6ea8378dc73) }

theorem test_signature : ecdsaOk signedImage.key (imageDigest signedImage) signedImage.sig = true := by decide +kernel

/-- The controller in recovery, or elsewhere, with the image's key fused. -/
def recovering (boot : BitVec 8) : State :=
  { ({} : State) with
    ctl := { ({} : Control) with boot := boot.toNat }, nalo := { ({} : Nalo) with digests := [keyDigest signedImage.key] } }

theorem witness_PowerAndReset_recovery :
    (recovering 3).ctl.boot = 3 ∧ ecdsaOk signedImage.key (imageDigest signedImage) signedImage.sig = true ∧
    keyDigest signedImage.key ∈ (recovering 3).nalo.digests ∧ keyDigest signedImage.key ∉ (recovering 3).nalo.revoked ∧
    (recovering 3).nalo.rollback ≤ signedImage.version ∧ (recovering 2).ctl.boot ≠ 3 :=
  ⟨rfl, test_signature, List.mem_singleton.2 rfl, List.not_mem_nil, by decide, by decide⟩

theorem witness_PowerAndReset :
    ((1 : BitVec 2) ≠ 3 ∧ ({} : State).ctl.trip = false ∧ ({} : State).ctl.boot < 2 ∧ (recovering 2).ctl.boot = 2 ∧
      (recovering 1).ctl.boot = 1 ∧ holdsRecords {}) ∧
    ({ ({} : Control) with trip := true, reqP := 2 }.trip = true ∧
      { ({} : Control) with reqP := 2 }.pstate ≠ { ({} : Control) with reqP := 2 }.reqP) ∧
    (({ ({} : Control) with clgate := 1 } : Control).clgate.getLsbD 0 = true ∧ (0 : Word).getLsbD 0 = false ∧
      Memory.wf ({} : State).sp = true) ∧
    (recovering 2).canonical = true ∧ (recovering 2).keyed = true := by
  unfold holdsRecords
  refine ⟨?_, ?_, ?_, ?_, ?_⟩ <;> decide +kernel

theorem witness_SnapshotsAndAttestation :
    (∀ v ∈ [0x50000, 1, 2], let s := on (sup (strand [(1, BitVec.ofNat 64 v)]));
      s.me.status.getLsbD 0 = true ∧ (s.me.reg 1).toNat / 4 % 2 ^ 14 = 0 ∧ (s.me.reg 1).toNat < 2 ^ 32 ∧
        (s.me.reg 1).toNat % 4 = v % 4) ∧
    (let a := (strand [(1, 0x50004)]).reg 1; a.toNat / 8 % 2 ^ 13 = 0 ∧ a.toNat < 2 ^ 32 ∧ a.toNat % 8 = 4) ∧
    (plainMode (sup (strand [(1, 3)])) ∧ ((sup (strand [(1, 3)])).reg 1).toNat % 4 = 3) ∧
    ((strand []).status.getLsbD 0 = false ∧ plainMode (strand [])) ∧
    (∀ timed ∈ [false, true], let s := { ({} : State) with snap := { ({} : Snap) with pending := some (3, 5, 0, timed) } };
      s.snap.pending = some (3, 5, 0, timed) ∧ 0 ≤ s.time ∧ 0 ≤ s.cycle) ∧
    ({ ({} : Snap) with pinOut := some 0 }.pinOut = some 0 ∧ 0 ≤ ({} : State).ticks) := by
  unfold plainMode
  refine ⟨?_, ?_, ?_, ?_, ?_, ?_⟩ <;> decide +kernel

/-- The identity key of a machine, and its public point: the private key is 1. -/
theorem witness_SnapshotsAndAttestation_identity : ∃ q, ecMul ecBase 384 1 = some q :=
  ⟨(brainGx, brainGy), by decide +kernel⟩

theorem witness_TheMachineGoesOn : State.reset.contextsExist = true := by decide +kernel

/-- A driver's turn on a word at address 0. -/
def turn (w : Nat) (a : List Agendum) : State :=
  { onBytes (strand []) 0 (leBytes 12 w) with agenda := a, ctl := { ({} : Control) with boot := 2 } }

/-- The machine after its boot, with nothing to do. -/
def booted : State := { ({} : State) with ctl := { ({} : Control) with boot := 2 } }

theorem witness_StepRunsDecodedInstruction_issue :
    ((0 : Nat) ∉ (turn 0x028000B4 []).issued ∧ isNext (turn 0x028000B4 []) 0 0 ∧ (turn 0x028000B4 []).asyncNow 0 = none ∧
      (turn 0x028000B4 [.issue 0]).agenda = .issue 0 :: []) ∧
    (∃ l s', (issuedFrom (turn 0x028000B4 []) 0 0).fetchBytes (issuedFrom (turn 0x028000B4 []) 0 0).me = .ok l s' ∧
      decodeBytes l = .scalar (.trap 5)) ∧
    (∃ l s', (issuedFrom (turn 0x831010004080841500000023 []) 0 0).fetchBytes
        (issuedFrom (turn 0x831010004080841500000023 []) 0 0).me = .ok l s' ∧
      (match decodeBytes l with
        | .convoy cc => decide (s'.convoyCheck s'.me (cc.slots.map Prod.snd) = none ∧ s'.me.slotsOff (cc.slots.map Prod.snd) = none ∧
            (cc.slots.map Prod.snd).head?.isSome = true)
        | _ => false) = true) ∧
    ((on { strand [] with async := [trapOf causeHwUe 2 0] }).asyncNow 0).isSome = true := by
  unfold isNext
  refine ⟨?_, ok_of (P := fun l _ => decodeBytes l = .scalar (.trap 5)) ?_, ok_of (P := fun l s' => _) ?_, ?_⟩ <;> decide +kernel

/-- No context of driver 5 may issue. -/
theorem witness_StepRunsDecodedInstruction_idleDriver : ∀ k, k / 4 = 5 → mayIssue (turn 0x028000B4 []) k = false := by
  intro k hk
  obtain rfl | rfl | rfl | rfl : k = 20 ∨ k = 21 ∨ k = 22 ∨ k = 23 := by omega
  all_goals decide +kernel

theorem witness_StepRunsDecodedInstruction_agenda :
    (isEvent .thermalTrip = true ∧ actorOf .thermalTrip = none) ∧
      (isEvent (.agFiring 0 3) = true ∧ actorOf (.agFiring 0 3) = some (0, 3)) := by decide +kernel

/-- A latch that is due. -/
def latching : State := { booted with snap := { ({} : Snap) with pending := some (3, 5, 0, false) } }

theorem witness_StepRunsDecodedInstruction_event : latching.agenda = [] ∧ (latching.firstChange latching.events).isSome = true := by
  decide +kernel

theorem witness_StepRunsDecodedInstruction_nextDriver : noEvent (turn 0x028000B4 []) ∧
    (turn 0x028000B4 []).ctxs.find? (fun e => (turn 0x028000B4 []).slotReady e.1) = none ∧
    (turn 0x028000B4 []).firstChange ((turn 0x028000B4 []).retries exec) = none ∧ (turn 0x028000B4 []).nextDriver = some 0 := by
  unfold noEvent
  decide +kernel

theorem witness_StepRunsDecodedInstruction_tick : noEvent booted ∧ booted.ctxs.find? (fun e => booted.slotReady e.1) = none ∧
    booted.firstChange (booted.retries exec) = none ∧ booted.nextDriver = none := by
  unfold noEvent
  decide +kernel

/-- A strand with an open convoy of one slot still to run. -/
def slotCtx : Ctx :=
  { strand [] with viq := [(strand []).capture 12 false [.vpush { dest := ⟨64, 4⟩, src1 := ⟨0, 4⟩, src2 := ⟨32, 2⟩, pred := 12, pz := false, mode := 0, seg := 0, ext := true, sat := false, fn := 5 }]] }

def slotState : State := { on slotCtx with ctl := { ({} : Control) with boot := 2 } }

theorem witness_StepRunsDecodedInstruction_slot : noEvent slotState ∧
    slotState.ctxs.find? (fun e => slotState.slotReady e.1) = some (0, slotCtx) ∧ slotState.ctxAt 0 = slotCtx ∧
    slotCtx.viq.length = 1 ∧ (slotCtx.viq.head?.bind fun cv => cv.todo.head?).isSome = true := by
  unfold noEvent
  decide +kernel

theorem witness_EncodeDecodeRoundTrip : wellFormed (.div 10 11 12) = true ∧ encode (.div 10 11 12) = some (32, 0x00316A38) := by decide

theorem witness_StepKeepsTheTables : (turn 0x028000B4 [.issue 0]).canonical = true ∧ (turn 0x028000B4 [.issue 0]).keyed = true ∧
    (match step (turn 0x028000B4 [.issue 0]) with | .next _ => true | _ => false) = true := by
  refine ⟨?_, ?_, ?_⟩ <;> decide +kernel

/-! ### What a fetch and a decode refuse -/

/-- A parcel of a reserved opcode, one with a nonzero fn; a header with a reserved bit, with a unit beyond its count, and
with one unit twice; a slot of a reserved major opcode, of another unit, and with a field that must be 0. -/
theorem witness_StepRunsDecodedInstruction_refused :
    (∀ x ∈ [(0x88, 1, 1), (0x800000, 1, 2)], bytesRefused (leBytes 12 x.1) ⟨x.2.1, x.2.2, x.1⟩) ∧
    (∀ x ∈ [(0x4003, 1), (0xE3, 0x11), (0xA7, 0x12)], bytesRefused (leBytes 12 x.1) ⟨3, x.2, x.1⟩) ∧
    (∀ x ∈ [(0xFF, 1, 1), (0xC6, 3, 3), (0xA3, 1, 2)],
      bytesRefused (leBytes 12 (0x23 + x.1 * 2 ^ 88)) ⟨x.2.1, x.2.2, x.1 * 2 ^ 56⟩) ∧
    (let s := turn 0x88 [];
      resOk ((issuedFrom s 0 0).fetchBytes (issuedFrom s 0 0).me) = true ∧ plainMode (strand [])) := by
  refine ⟨?_, ?_, ?_, ?_⟩
  · intro x hx
    fin_cases hx
    · exact .inl ⟨1, 1, .inl (by decide), by decide⟩
    · exact .inl ⟨1, 2, .inr (.inr (.inr (.inl (by decide)))), by decide⟩
  · intro x hx
    fin_cases hx
    · exact .inr (.inl ⟨by decide, 1, .inl (by decide), by decide⟩)
    · exact .inr (.inl ⟨by decide, 0x11, .inr (.inl ⟨by decide, 1, by decide⟩), by decide⟩)
    · exact .inr (.inl ⟨by decide, 0x12, .inr (.inr ⟨by decide, by decide, 1, by decide, ⟨0, by decide⟩, by decide, rfl⟩), by decide⟩)
  · intro x hx
    refine .inr (.inr ⟨?_, ?_, 0, x.1 * 2 ^ 56, ?_⟩)
    · fin_cases hx <;> decide
    · unfold headerGood; fin_cases hx <;> decide
    · fin_cases hx
      · exact ⟨by decide, by decide, by simp, .inl ⟨by unfold reservedMajor; decide, by decide⟩⟩
      · exact ⟨by decide, by decide, by simp, .inr (.inl ⟨3, by decide⟩)⟩
      · exact ⟨by decide, by decide, by simp, .inr (.inr ⟨by decide, 1, 2, by decide⟩)⟩
  · unfold plainMode
    refine ⟨?_, ?_⟩ <;> decide +kernel

/-- What a convoy's bytes decode to and the state after their fetch. -/
def convoyAt (s : State) (P : ConvoyCode → State → Prop) : Prop :=
  ∃ l s' cc, (issuedFrom s 0 0).fetchBytes (issuedFrom s 0 0).me = .ok l s' ∧ decodeBytes l = .convoy cc ∧ P cc s'

theorem convoy_of {s : State} (P : ConvoyCode → State → Prop) [∀ c s, Decidable (P c s)]
    (h : (match (issuedFrom s 0 0).fetchBytes (issuedFrom s 0 0).me with
      | .ok l s' => (match decodeBytes l with | .convoy cc => decide (P cc s') | _ => false)
      | _ => false) = true) : convoyAt s P := by
  unfold convoyAt
  revert h
  cases (issuedFrom s 0 0).fetchBytes (issuedFrom s 0 0).me with
  | ok l s' =>
    intro h
    simp only at h
    cases e : decodeBytes l with
    | convoy cc => rw [e] at h; exact ⟨l, s', cc, rfl, e, of_decide_eq_true h⟩
    | _ => rw [e] at h; cases h
  | trap t s => intro h; cases h
  | ask q s => intro h; cases h
  | wait s => intro h; cases h

/-- Twenty bytes at address 0. -/
def turn20 (w : Nat) : State := { turn 0 [] with mem := (onBytes (strand []) 0 (leBytes 20 w)).mem }

/-- A strand whose tile 0 is disabled, before a tzero of it. -/
def tileOff : State :=
  let s := turn 0xA30000000000300000000023 []
  s.setCtx 0 { s.ctxAt 0 with ten := 0 }

/-- A vpush to a register that is not aligned to its group; a vamo beside a tzero; a tzero of a tile that is disabled. -/
theorem witness_StepRunsDecodedInstruction_convoys :
    (convoyAt (turn 0x8310DFFF4080841500000023 []) fun cc s' =>
      (s'.convoyCheck s'.me (cc.slots.map Prod.snd)).isSome = true ∧ s'.me.mode = .resident) ∧
    (convoyAt (turn20 (0xB7 + 0xC610102000003C00 * 2 ^ 32 + 0xA300000000003000 * 2 ^ 96)) fun cc s' =>
      s'.convoyCheck s'.me (cc.slots.map Prod.snd) = some (causeOperand, 8, 0) ∧
        ((cc.slots.map Prod.snd).map majorOf) = [0xC6, 0xA3]) ∧
    (convoyAt tileOff fun cc s' =>
      s'.convoyCheck s'.me (cc.slots.map Prod.snd) = none ∧ (s'.me.slotsOff (cc.slots.map Prod.snd)).isSome = true) :=
  ⟨convoy_of _ (by decide +kernel), convoy_of _ (by decide +kernel), convoy_of _ (by decide +kernel)⟩

/-- A page of the fabric die whose physical address is this one. -/
def outAt (n : Nat) : State := { on (strand []) with tlbs := [(72, [{ flatEntry (strand []) with out := n }])] }

/-- A fetch without a descriptor, of a page at no address or of region 3, of a page that is absent, or that the strand
may not execute or use, by an entry of another format or a poisoned one, and of a poisoned parcel. -/
theorem witness_StepRunsDecodedInstruction_fetchFaults :
    (let s := on { strand [] with desc := none }; fetchFaults s s s.me 0 causePteFmt 7 0) ∧
    (∀ x ∈ [(2 ^ 62, causePteFmt, 1), (3 * 2 ^ 56, causeProt, 6)],
      fetchFaults (outAt x.1) (outAt x.1) (outAt x.1).me 0 x.2.1 x.2.2 0) ∧
    (∀ x ∈ [(0, causeXlate, 6), (0xCF, causeProt, 6), (0x87, causeProt, 6), (0xFFFF0000000F, causePteFmt, 0)],
      let s := walked false x.1;
      fetchFaults s (s.countMiss sDie s.me) s.me 0x123 x.2.1 x.2.2 0x123) ∧
    (let s := { walked false 0x8F with memPoison := [0x1000] };
      fetchFaults s (s.countMiss sDie s.me) s.me 0x123 causeMemPoison 0 0x123) ∧
    (let s := { on (strand []) with memPoison := [0] }; ∃ s', fetchFaults s s' s.me 0 causeMemPoison 0 0) := by
  refine ⟨.inl ?_, ?_, ?_, ?_, ?_⟩
  · decide +kernel
  · intro x hx
    fin_cases hx
    · exact .inr (.inl ⟨flatFormat, { flatEntry (strand []) with out := 2 ^ 62 }, by decide +kernel⟩)
    · exact .inr (.inl ⟨flatFormat, { flatEntry (strand []) with out := 3 * 2 ^ 56 }, by decide +kernel⟩)
  · intro x hx
    fin_cases hx
    all_goals exact .inr (.inr (.inl ⟨pairFormat false, 0, by decide +kernel⟩))
  · exact .inr (.inr (.inl ⟨pairFormat false, 0, by decide +kernel⟩))
  · exact ⟨_, .inr (.inr (.inr ⟨0, res_eq 0 (by decide +kernel), by decide +kernel⟩))⟩

/-- A page that the host is asked for, and a table in a stack that sleeps. -/
theorem witness_StepRunsDecodedInstruction_held :
    (∃ q s', (walked true 0).fetchBytes (walked true 0).me = .ask q s') ∧
    (let s := { walked false 0x8F with ctl := { ({} : Control) with hbmsr := 0xFFFF } }; ∃ s', s.fetchBytes s.me = .wait s') := by
  have ask : ∀ x : Res (List Byte), (match x with | .ask _ _ => true | _ => false) = true → ∃ q s', x = .ask q s' := by
    intro x h
    cases x with
    | ask q s => exact ⟨q, s, rfl⟩
    | _ => cases h
  have wait : ∀ x : Res (List Byte), (match x with | .wait _ => true | _ => false) = true → ∃ s', x = .wait s' := by
    intro x h
    cases x with
    | wait s => exact ⟨s, rfl⟩
    | _ => cases h
  exact ⟨ask _ (by decide +kernel), wait _ (by decide +kernel)⟩

/-- A convoy under way and another behind it; and a queued convoy that is to begin. -/
def joining : State :=
  let s := turn20 (0x831010004080841500000023 * 2 ^ 32)
  let c := { s.ctxAt 0 with viq := [(strand []).capture 4 false [.vpush { dest := ⟨64, 4⟩, src1 := ⟨0, 4⟩, src2 := ⟨32, 2⟩, pred := 12, pz := false, mode := 0, seg := 0, ext := true, sat := false, fn := 5 }]] }
  { s.setCtx 0 c with agenda := [.issue 0] }

def promoting : State := { slotState with ctxs := [(0, { slotCtx with viq := [], queued := slotCtx.viq })] }

theorem witness_StepRunsDecodedInstruction_joins :
    (isNext { joining with agenda := [] } 0 0 ∧ ({ joining with agenda := [] } : State).asyncNow 0 = none ∧
      (((joining.ctxAt 0).viq ++ (joining.ctxAt 0).queued).getLast?).isSome = true ∧ (joining.queueNext 0).isSome = true) ∧
    (noEvent promoting ∧ (promoting.ctxs.find? fun e => promoting.slotReady e.1).isSome = true ∧
      (promoting.ctxAt 0).viq = [] ∧ (promoting.ctxAt 0).queued = slotCtx.viq) := by
  unfold isNext noEvent
  refine ⟨?_, ?_⟩ <;> decide +kernel

end Sys2Proof.Tests
end

section
/-! The shared endings of scalar instructions and the entry of a trap in the words of the statements, and what a
performance of held writes leaves alone. -/

namespace Sys2Proof.Machine

open Sys2Proof.Claims

/-! ## Endings -/

theorem putReg_eq_setReg (c : Ctx) (r : XReg) (v : Word) : putReg c r v = c.setReg r v := by
  unfold putReg Ctx.setReg
  split <;> rfl

theorem State.done_eq_wrote (s : State) (r : XReg) (v : Word) : s.done r v = wrote s r v := by
  rw [wrote, putReg_eq_setReg]
  rfl

theorem State.pass_eq_flowed (s : State) : s.pass = flowed s := rfl

theorem statusOf_entry (c : Ctx) : statusOf true c.sup true = if c.status.getLsbD 0 then 7 else 5 := by
  unfold statusOf Ctx.sup
  cases c.status.getLsbD 0 <;> rfl

/-- A trap outside a handler is the entry that R163 describes. -/
theorem State.enterPlain_eq_trappedIn {s : State} {n : Nat} (h : plainMode (s.ctxAt n)) (t : TrapInfo) (epc : Word) :
    s.enterPlain n t epc = trappedIn s n t epc := by
  have hex : (s.ctxAt n).ex = false := h
  have hne : ¬ (s.ctxAt n).ex = true := hex ▸ Bool.false_ne_true
  unfold State.enterPlain trappedIn entered
  dsimp only
  rw [← statusOf_entry]
  exact if_neg hne

theorem State.trap_eq_trapped {s : State} (h : plainMode s.me) {cause : BitVec 8} (hc : cause ≠ causeHwUe) (sub : Nat)
    (eval : Word) : s.trap cause sub eval = trapped s cause sub eval := by
  unfold State.trap State.enterTrap trapped
  rw [if_neg fun hue => hc hue.1]
  exact State.enterPlain_eq_trappedIn h _ _

@[simp] theorem Res.andThen_ok {α β : Type} (v : α) (s : State) (k : α → State → Res β) : (Res.ok v s).andThen k = k v s := rfl

@[simp] theorem State.finish_ok (s t : State) : s.finish (.ok () t) = t := rfl

/-! ## Bytes -/

/-- Two states agree on memory, the scratchpads and how addresses reach their cells. -/
structure State.SameCells (s t : State) : Prop where
  mem : t.mem = s.mem
  sp : t.sp = s.sp
  glox : t.glox = s.glox
  clusters : t.clusters = s.clusters

theorem State.SameCells.refl (s : State) : s.SameCells s := ⟨rfl, rfl, rfl, rfl⟩

theorem State.SameCells.trans {s t u : State} (h : s.SameCells t) (g : t.SameCells u) : s.SameCells u :=
  ⟨g.mem.trans h.mem, g.sp.trans h.sp, g.glox.trans h.glox, g.clusters.trans h.clusters⟩

theorem State.SameCells.setMe (s : State) (c : Ctx) : s.SameCells (s.setMe c) := ⟨rfl, rfl, rfl, rfl⟩

theorem State.SameCells.locByte {s t : State} (h : s.SameCells t) (b : Loc) : t.locByte b = s.locByte b := by
  simp only [State.locByte, h.mem, h.sp]

theorem State.SameCells.sameBytes {s t : State} (h : s.SameCells t) : sameBytes s t :=
  ⟨fun _ => by simp only [State.readByte, State.cell, h.mem, h.glox],
   fun _ _ => by simp only [State.readSp, State.spCell, State.clAt, h.sp, h.clusters]⟩

/-! ## Performances and the order of the current strand's reads -/

/-- A state differs from another at most in which writes are held, how the next accesses lag, and what orders the later
reads of the current strand. -/
structure State.OrderOnly (s t : State) : Prop where
  cells : s.SameCells t
  cur : t.cur = s.cur
  me : t.me = { s.me with order := t.me.order }
  memPoison : t.memPoison = s.memPoison
  spPoison : t.spPoison = s.spPoison

theorem State.OrderOnly.refl (s : State) : s.OrderOnly s := ⟨.refl s, rfl, rfl, rfl, rfl⟩

theorem State.OrderOnly.trans {s t u : State} (h : s.OrderOnly t) (g : t.OrderOnly u) : s.OrderOnly u where
  cells := h.cells.trans g.cells
  cur := g.cur.trans h.cur
  me := by rw [g.me, h.me]
  memPoison := g.memPoison.trans h.memPoison
  spPoison := g.spPoison.trans h.spPoison

theorem State.OrderOnly.locPoison {s t : State} (h : s.OrderOnly t) (b : Loc) : t.locPoison b = s.locPoison b := by
  simp only [State.locPoison, h.memPoison, h.spPoison]

/-- The held writes, the lags and the moment are no part of a context. -/
theorem State.OrderOnly.ofWrites (s : State) (w : List Write) (m : Nat) (l : List Nat) :
    s.OrderOnly { s with writes := w, moment := m, lags := l } := ⟨⟨rfl, rfl, rfl, rfl⟩, rfl, rfl, rfl, rfl⟩

/-- The current strand's order changes, and with it no other part of its context. -/
theorem State.OrderOnly.setOrder {s t : State} (h : s.OrderOnly t) (o : Order) :
    s.OrderOnly (t.setCtx s.cur { s.ctxAt s.cur with order := o }) where
  cells := h.cells.trans ⟨rfl, rfl, rfl, rfl⟩
  cur := h.cur
  me := by
    have hme : (t.setCtx s.cur { s.ctxAt s.cur with order := o }).me = { s.me with order := o } := by
      rw [← h.cur, State.setMe_eq_setCtx, State.me_setMe, h.cur]
      rfl
    rw [hme]
  memPoison := h.memPoison
  spPoison := h.spPoison

theorem State.sameBut.orderOnly {s t : State} (h : s.sameBut t) : s.OrderOnly t := by
  rw [h]
  exact .ofWrites s _ _ s.lags

theorem State.sameBut.ctxs {s t : State} (h : s.sameBut t) : t.ctxs = s.ctxs := by rw [h]

theorem State.OrderOnly.settleWrites {s t : State} (h : s.OrderOnly t) : s.OrderOnly t.settleWrites := by
  obtain e | e := t.settleWrites_cases
  · exact e.symm ▸ h
  · exact e.symm ▸ h.trans (.ofWrites t [] t.moment t.lags)

theorem State.OrderOnly.acquireAt (s : State) (m : Nat) : s.OrderOnly (s.acquireAt s.cur m) := by
  unfold State.acquireAt
  split
  · exact .refl s
  · exact .setOrder (.refl s) _

theorem State.OrderOnly.afterReads (s : State) (cls n m : Nat) : s.OrderOnly (s.afterReads s.cur cls n m) := by
  unfold State.afterReads
  split
  · exact .refl s
  · exact .setOrder (.settleWrites (.ofWrites s _ s.moment _)) _

end Sys2Proof.Machine
end

section
/-! Which byte a strand's read observes, and numbers as bytes: the facts behind the scalar loads, stores and atomics
(R2, R277 to R281). -/

namespace Sys2Proof.Machine

open Sys2Proof.Claims

/-! ## A performance changes only where a write has been seen -/

/-- A write without the moments at which it was performed. -/
def Write.bare (w : Write) : Write := { w with seen := [] }

theorem Write.eq_of_bare {v w : Write} (h : v.bare = w.bare) : v.sid = w.sid ∧ v.cls = w.cls ∧ v.bytes = w.bytes := by
  refine ⟨?_, ?_, ?_⟩
  · show v.bare.sid = w.bare.sid
    rw [h]
  · show v.bare.cls = w.bare.cls
    rw [h]
  · show v.bare.bytes = w.bare.bytes
    rw [h]

theorem performList_bare (m : Nat) (f g : Write → List Nat) :
    ∀ l : List Write, ((performList m f g l).map Prod.fst).map Write.bare = l.map Write.bare
  | [] => rfl
  | w :: l => by
    have ih := performList_bare m f g l
    simp only [performList, List.map_cons, ih]
    rfl

/-- The writes that a performance leaves held are the same but for where they have been seen, or none is held. -/
theorem State.performWith_bare (s : State) (f g : Write → List Nat) :
    (s.performWith f g).writes = [] ∨ (s.performWith f g).writes.map Write.bare = s.writes.map Write.bare := by
  unfold State.performWith
  split
  · exact .inr rfl
  · obtain h | h := State.settleWrites_cases { s with
      moment := s.moment + 1
      writes := (performList (s.moment + 1) f g s.writes).map Prod.fst }
    · rw [h]; exact .inr (performList_bare _ _ _ _)
    · rw [h]; exact .inl rfl

/-! ## The view of a byte -/

/-- A held write has a byte at a place. -/
def Write.at (b : Loc) (w : Write) : Bool := w.bytes.any fun p => p.1 == b.scratch && p.2.1 == b.key

theorem Write.at_bare (b : Loc) : Write.at b ∘ Write.bare = Write.at b := rfl

/-- A view holds the given newest byte, or what a held write left or replaced there. -/
theorem viewByte_cases (b : Loc) (sees : Write → Bool) : ∀ (l : List Write) (x : Byte),
    viewByte b.scratch b.key sees l x = x ∨ ∃ w ∈ l, ∃ p ∈ w.bytes, p.1 = b.scratch ∧ p.2.1 = b.key ∧
      (viewByte b.scratch b.key sees l x = p.2.2.1 ∨ viewByte b.scratch b.key sees l x = p.2.2.2)
  | [], _ => .inl rfl
  | w :: l, x => by
    unfold viewByte
    split
    · obtain h | ⟨v, hv, hp⟩ := viewByte_cases b sees l x
      · exact .inl h
      · exact .inr ⟨v, List.mem_cons_of_mem _ hv, hp⟩
    next p hp =>
      have hmem := List.mem_of_find?_eq_some hp
      have hat := List.find?_some hp
      simp only [Bool.and_eq_true, beq_iff_eq] at hat
      obtain ⟨hsp, hkey⟩ := hat
      split
      · exact .inr ⟨w, List.mem_cons_self, p, hmem, hsp, hkey, .inr rfl⟩
      · obtain h | ⟨v, hv, hq⟩ := viewByte_cases b sees l p.2.2.1
        · exact .inr ⟨w, List.mem_cons_self, p, hmem, hsp, hkey, .inl h⟩
        · exact .inr ⟨v, List.mem_cons_of_mem _ hv, hq⟩

/-- Where the newest write to a place is seen, the view holds what it left. -/
theorem viewByte_of_newest (b : Loc) (sees : Write → Bool) {x y : Byte} {w : Write} :
    ∀ {l : List Write}, l.find? (Write.at b) = some w → sees w = true →
      (∀ p ∈ w.bytes, p.1 = b.scratch → p.2.1 = b.key → p.2.2.2 = y) → viewByte b.scratch b.key sees l x = y
  | [], h, _, _ => by cases h
  | v :: l, h, hs, hy => by
    by_cases hv : v.at b = true
    · rw [List.find?_cons_of_pos hv, Option.some.injEq] at h
      subst h
      unfold viewByte
      split
      next hn =>
        obtain ⟨p, hp, hat⟩ := List.any_eq_true.1 hv
        exact absurd hat (List.find?_eq_none.1 hn p hp)
      next p hp =>
        have hat := List.find?_some hp
        simp only [Bool.and_eq_true, beq_iff_eq] at hat
        rw [if_pos hs]
        exact hy p (List.mem_of_find?_eq_some hp) hat.1 hat.2
    · rw [List.find?_cons_of_neg hv] at h
      unfold viewByte
      split
      · exact viewByte_of_newest b sees h hs hy
      next p hp =>
        exact absurd (List.any_eq_true.2 ⟨p, List.mem_of_find?_eq_some hp, List.find?_some hp⟩) hv

/-! ## What a read observes after the kept pairs before it -/

theorem State.seenByte_observable {s t : State} (hb : s.sameBut t)
    (hw : t.writes = [] ∨ t.writes.map Write.bare = s.writes.map Write.bare) (c : Ctx) (cls : Nat) (port : Option Nat)
    (die m : Nat) (b : Loc) : observable s b (t.seenByte c cls port die m b) := by
  have hloc : t.locByte b = s.locByte b := hb.orderOnly.cells.locByte b
  obtain hw | hw := hw
  · rw [State.seenByte_none hw, hloc]
    exact .inl rfl
  · unfold State.seenByte
    split
    · exact .inl hloc
    · rw [hloc]
      refine (viewByte_cases b _ _ _).imp id ?_
      rintro ⟨w, hwt, p, hp, h⟩
      have hbare : w.bare ∈ s.writes.map Write.bare := hw ▸ List.mem_map_of_mem (List.mem_reverse.1 hwt)
      obtain ⟨v, hv, hvw⟩ := List.mem_map.1 hbare
      obtain ⟨-, -, hbytes⟩ := Write.eq_of_bare hvw
      exact ⟨v, hv, p, hbytes ▸ hp, h⟩

/-- A strand's read sees its own earlier write of the place in a class that R280 keeps with the read's. -/
theorem Write.seenBy_own {w : Write} {c : Ctx} {cls : Nat} (hs : w.sid = c.sid) (hc : w.cls = cls ∨ w.cls = 15 ∨ cls = 15)
    (die m : Nat) : w.seenBy c cls none die m = true := by
  have hk : kept w.cls cls w.port none false true = true := by
    obtain h | h | h := hc <;> simp [kept, h]
  simp [Write.seenBy, hs, hk]

theorem State.seenByte_of_ownLast {s t : State} (hb : s.sameBut t)
    (hw : t.writes = [] ∨ t.writes.map Write.bare = s.writes.map Write.bare) {cls : Nat} {b : Loc} (h : ownLast s b cls)
    (die m : Nat) : t.seenByte t.me cls none die m b = s.locByte b := by
  have hloc : t.locByte b = s.locByte b := hb.orderOnly.cells.locByte b
  have hsid : t.me.sid = s.me.sid := by rw [hb.orderOnly.me]
  obtain hw | hw := hw
  · rw [State.seenByte_none hw, hloc]
  · obtain ⟨w, hfind, hws, hcls, hbyte⟩ := h
    have hfind' : s.writes.reverse.find? (Write.at b) = some w := hfind
    have hmap : (t.writes.reverse.find? (Write.at b)).map Write.bare = (s.writes.reverse.find? (Write.at b)).map Write.bare := by
      have := congrArg (fun l : List Write => l.reverse.find? (Write.at b)) hw
      simpa only [← List.map_reverse, List.find?_map, Write.at_bare] using this
    rw [hfind'] at hmap
    obtain ⟨v, hv, hvw⟩ := Option.map_eq_some_iff.1 hmap
    obtain ⟨hvsid, hvcls, hvbytes⟩ := Write.eq_of_bare hvw
    unfold State.seenByte
    split
    · exact hloc
    · exact viewByte_of_newest b _ hv (Write.seenBy_own (hvsid.trans (hws.trans hsid.symm)) (hvcls ▸ hcls) _ _) fun p hp => hbyte p (hvbytes ▸ hp)

/-! ## Numbers and their bytes -/

theorem littleEndian_eq (s : State) : ∀ l : List Loc, littleEndian s l = locsNat s.locByte l
  | [] => rfl
  | b :: l => by
    have ih := littleEndian_eq s l
    unfold littleEndian at ih ⊢
    rw [List.foldr_cons, ih, locsNat]

theorem locsNat_lt (f : Loc → Byte) : ∀ l : List Loc, locsNat f l < 256 ^ l.length
  | [] => Nat.one_pos
  | b :: l => by
    have ih := locsNat_lt f l
    have hb := (f b).isLt
    simp only [locsNat, List.length_cons, Nat.pow_succ]
    omega

theorem locsNat_byte (f : Loc → Byte) : ∀ (l : List Loc) (j : Nat) (b : Loc), l[j]? = some b →
    BitVec.ofNat 8 (locsNat f l / 256 ^ j) = f b
  | [], _, _, h => by cases h
  | x :: l, 0, b, h => by
    obtain rfl : x = b := by simpa using h
    apply BitVec.eq_of_toNat_eq
    have hx := (f x).isLt
    simp only [locsNat, pow_zero, Nat.div_one, BitVec.toNat_ofNat]
    omega
  | x :: l, j + 1, b, h => by
    have hx := (f x).isLt
    have hdiv : locsNat f (x :: l) / 256 ^ (j + 1) = locsNat f l / 256 ^ j := by
      rw [Nat.pow_succ', ← Nat.div_div_eq_div_mul, locsNat]
      congr 1
      omega
    rw [hdiv]
    exact locsNat_byte f l j b (by simpa using h)

theorem locsNat_congr {f g : Loc → Byte} (h : ∀ b, f b = g b) (l : List Loc) : locsNat f l = locsNat g l := by
  rw [funext h]

@[simp] theorem leBytes_length : ∀ n v : Nat, (leBytes n v).length = n
  | 0, _ => rfl
  | n + 1, v => by rw [leBytes, List.length_cons, leBytes_length n]

theorem leBytes_getElem : ∀ (n v i : Nat) (h : i < (leBytes n v).length), (leBytes n v)[i] = BitVec.ofNat 8 (v / 256 ^ i)
  | 0, _, _, h => by cases h
  | n + 1, v, 0, _ => by simp [leBytes]
  | n + 1, v, i + 1, h => by
    simp only [leBytes, List.getElem_cons_succ, leBytes_getElem n (v / 256) i, Nat.div_div_eq_div_mul, Nat.pow_succ']

/-! ## Located bytes -/

theorem State.setLoc_locByte_same {s : State} (hs : cellsOk s) (l : Loc) (b : Byte) : (s.setLoc l b).locByte l = b := by
  obtain ⟨hm, hp⟩ := hs
  unfold State.setLoc
  split
  next hl => simp only [State.locByte, hl, ↓reduceIte]; exact smGet_set_same 0 b hp
  next hl => simp only [State.locByte, hl, Bool.false_eq_true, ↓reduceIte]; exact smGet_set_same 0 b hm

theorem State.setLoc_locByte_other (s : State) {l k : Loc} (h : l.scratch ≠ k.scratch ∨ l.key ≠ k.key) (b : Byte) :
    (s.setLoc l b).locByte k = s.locByte k := by
  unfold State.setLoc State.locByte
  split
  next hl =>
    split
    next hk => exact smGet_set_other 0 (h.resolve_left (by simp [hl, hk])).symm b _
    next hk => rfl
  next hl =>
    split
    next hk => rfl
    next hk => exact smGet_set_other 0 (h.resolve_left (by simp [hl, hk])).symm b _

theorem State.setLoc_cellsOk {s : State} (h : cellsOk s) (l : Loc) (b : Byte) : cellsOk (s.setLoc l b) :=
  s.setLoc_wf l b h.1 h.2

/-- The bytes of a list of writes to located bytes, in their order. -/
def State.putLocs (s : State) (l : List (Loc × Byte)) : State := l.foldl (fun s p => s.setLoc p.1 p.2) s

theorem State.putLocs_locByte_other {k : Loc} : ∀ (l : List (Loc × Byte)) (s : State),
    (∀ p ∈ l, p.1.scratch ≠ k.scratch ∨ p.1.key ≠ k.key) → (s.putLocs l).locByte k = s.locByte k
  | [], _, _ => rfl
  | p :: l, s, h => by
    have ih := State.putLocs_locByte_other l (s.setLoc p.1 p.2) fun q hq => h q (List.mem_cons_of_mem _ hq)
    exact ih.trans (s.setLoc_locByte_other (h p List.mem_cons_self) p.2)

/-- Where no two bytes are one cell, each reads as written. -/
theorem State.putLocs_locByte_mem : ∀ (l : List (Loc × Byte)) (s : State), cellsOk s → cellsApart (l.map Prod.fst) →
    ∀ p ∈ l, (s.putLocs l).locByte p.1 = p.2
  | [], _, _, _, _, hp => by cases hp
  | q :: l, s, hs, ha, p, hp => by
    obtain ⟨hq, ha⟩ := List.nodup_cons.1 ha
    obtain rfl | hp := List.mem_cons.1 hp
    · refine (State.putLocs_locByte_other l _ fun r hr => ?_).trans (State.setLoc_locByte_same hs p.1 p.2)
      have hne : ((r.1.scratch, r.1.key) : Bool × Nat) ≠ (p.1.scratch, p.1.key) := fun e =>
        hq (List.mem_map.2 ⟨r.1, List.mem_map_of_mem hr, e⟩)
      simpa only [ne_eq, Prod.mk.injEq, not_and_or] using hne
    · exact State.putLocs_locByte_mem l _ (State.setLoc_cellsOk hs q.1 q.2) ha p hp

theorem State.setLocs_ctxs (s : State) (l : List (Loc × Byte)) : (s.setLocs l).ctxs = s.ctxs := by
  show (s.putLocs l).ctxs = s.ctxs
  exact foldl_keeps _ State.ctxs (fun s p => s.setLoc_ctxs p.1 p.2) l s

theorem State.setLocs_cur (s : State) (l : List (Loc × Byte)) : (s.setLocs l).cur = s.cur := by
  show (s.putLocs l).cur = s.cur
  exact foldl_keeps _ State.cur (fun s p => s.setLoc_cur p.1 p.2) l s

theorem State.setLocs_me (s : State) (l : List (Loc × Byte)) : (s.setLocs l).me = s.me := by
  unfold State.me State.ctxAt
  rw [State.setLocs_ctxs, State.setLocs_cur]

theorem State.putLocs_writes_nil : ∀ (l : List (Loc × Byte)) (s : State), s.writes = [] → (s.putLocs l).writes = []
  | [], _, h => h
  | p :: l, s, h => State.putLocs_writes_nil l (s.setLoc p.1 p.2) (by rw [State.setLoc_writes, h]; rfl)

/-- The bytes of a number at a place, and no other byte changed (R262). -/
theorem State.holdsBytes_setLocs {s : State} {l : List Loc} (hs : cellsOk s) (ha : cellsApart l) (v : Nat) :
    holdsBytes s (s.setLocs (l.zip (leBytes l.length v))) l v := by
  have hfst : (l.zip (leBytes l.length v)).map Prod.fst = l := List.map_fst_zip (by rw [leBytes_length])
  refine ⟨fun i hi => ?_, fun b hb => ?_⟩
  · have hz : i < (l.zip (leBytes l.length v)).length := by simpa using hi
    have hmem := List.getElem_mem hz
    rw [List.getElem_zip, leBytes_getElem] at hmem
    exact State.putLocs_locByte_mem _ s hs (hfst.symm ▸ ha) _ hmem
  · exact State.putLocs_locByte_other _ s fun p hp => hb p.1 (List.of_mem_zip hp).1

/-- The bytes at a place are those of the number they form. -/
theorem State.holdsBytes_self (s : State) (l : List Loc) : holdsBytes s s l (littleEndian s l) :=
  ⟨fun i h => by rw [littleEndian_eq, locsNat_byte _ l i l[i] (List.getElem?_eq_getElem h)], fun _ _ => rfl⟩

theorem State.holdsBytes_congr {s s' t t' : State} {l : List Loc} {v : Nat} (h : holdsBytes s t l v)
    (hs : ∀ b, s.locByte b = s'.locByte b) (ht : ∀ b, t'.locByte b = t.locByte b) : holdsBytes s' t' l v := by
  obtain ⟨h1, h2⟩ := h
  exact ⟨fun i hi => by rw [ht, h1 i hi], fun b hb => by rw [ht, h2 b hb, hs]⟩

theorem State.storeLocs_clean {s : State} {l : List Loc} (h : ∀ b ∈ l, s.locPoison b = false) (bs : List Byte) :
    s.storeLocs l bs = .ok () (s.setLocs (l.zip bs)) := by
  have hnone : (l.find? fun b => s.locPoison b && !(List.range 8).all fun i => l.any fun p =>
      p.scratch == b.scratch && p.key == b.key / 8 * 8 + i) = none :=
    List.find?_eq_none.2 fun b hb => by simp [h b hb]
  unfold State.storeLocs
  simp only [hnone]

theorem State.poisonIn_clean {s : State} {l : List Loc} (h : ∀ b ∈ l, s.locPoison b = false) : s.poisonIn l = none := by
  have hnone : l.find? s.locPoison = none := List.find?_eq_none.2 fun b hb => by simp [h b hb]
  simp [State.poisonIn, hnone]

/-- Writes that are noted as under way touch nothing but the list of held writes. -/
theorem State.noteWrites_eq (s t : State) (sid cls : Nat) (l : List WriteAt) :
    ∃ w m g, s.noteWrites t sid cls l = { t with writes := w, moment := m, lags := g } := by
  unfold State.noteWrites
  split
  · exact ⟨t.writes, t.moment, t.lags, rfl⟩
  · unfold State.noteWith
    rw [State.performFor_sameBut]
    exact ⟨_, _, _, rfl⟩

end Sys2Proof.Machine
end

section
/-! What the scalar loads, stores and atomics do at a place that an access has found (R260 to R265), and O10 and O11. -/

namespace Sys2Proof.Machine

open Sys2Proof.Claims

/-! ## Loads -/

/-- The number that a load of a class reads at a place without poison, as its strand observes it. -/
def State.loadValue (s : State) (cls : Nat) (l : List Loc) : Nat :=
  let u := s.beforeAccess s.me.sid cls [none]
  locsNat (u.seenByte u.me cls none u.me.die (u.readMoment u.me cls 0 none)) l

/-- The state in which such a load writes its register. -/
def State.afterScalarLoad (s : State) (cls : Nat) (acq : Bool) : State :=
  let u := s.beforeAccess s.me.sid cls [none]
  let w := u.afterReads u.cur cls 1 (u.readMoment u.me cls 0 none)
  if acq then w.acquireAt w.cur (smGet 0 w.me.order.reads cls) else w

theorem State.load_bytes {s s' : State} {rd : XReg} {a : Word} {cls n : Nat} {l : List Loc} (ha : a.toNat % n = 0)
    (hp : s.place1 0 cls a.toNat n (s.mmioGate 0 a.toNat n 0 0) = .ok (.bytes l) s') (hl : ∀ b ∈ l, s'.locPoison b = false)
    (ext : Nat → Word) (acq : Bool) :
    s.load rd a cls n ext acq = wrote (s'.afterScalarLoad cls acq) rd (ext (s'.loadValue cls l)) := by
  unfold State.load State.loadPlace
  simp only [ha, ne_eq, not_true_eq_false, ↓reduceIte, hp, Res.andThen_ok, State.poisonIn_clean hl, State.finish_ok,
    State.done_eq_wrote]
  rfl

theorem State.load_mmio {s s' : State} {rd : XReg} {a : Word} {cls n off : Nat} (ha : a.toNat % n = 0)
    (hp : s.place1 0 cls a.toNat n (s.mmioGate 0 a.toNat n 0 0) = .ok (.mmio off) s') (hw : (s'.mmioRead off).2.writes = [])
    (ext : Nat → Word) (acq : Bool) :
    s.load rd a cls n ext acq = wrote (s'.mmioRead off).2 rd (ext (s'.mmioRead off).1.toNat) := by
  unfold State.load State.loadPlace
  simp only [ha, ne_eq, not_true_eq_false, ↓reduceIte, hp, Res.andThen_ok, State.finish_ok, State.done_eq_wrote,
    State.acquireAt_none hw, ite_self]

theorem State.afterScalarLoad_orderOnly (s : State) (cls : Nat) (acq : Bool) : s.OrderOnly (s.afterScalarLoad cls acq) := by
  have hb := (s.beforeAccess_sameBut s.me.sid cls [none]).orderOnly
  have hr := fun m => hb.trans (.afterReads _ cls 1 m)
  unfold State.afterScalarLoad
  cases acq
  · exact hr _
  · exact (hr _).trans (.acquireAt _ _)

theorem State.afterScalarLoad_none {s : State} (h : s.writes = []) (cls : Nat) (acq : Bool) : s.afterScalarLoad cls acq = s := by
  simp only [State.afterScalarLoad, State.beforeAccess_none h, State.afterReads_none h, State.acquireAt_none h, ite_self]

theorem State.loadValue_none {s : State} (h : s.writes = []) (cls : Nat) (l : List Loc) :
    s.loadValue cls l = littleEndian s l := by
  simp only [State.loadValue, State.beforeAccess_none h, littleEndian_eq]
  exact locsNat_congr (fun b => State.seenByte_none h ..) l

theorem State.loadValue_lt (s : State) (cls : Nat) (l : List Loc) : s.loadValue cls l < 256 ^ l.length := locsNat_lt _ l

theorem State.loadValue_byte (s : State) (cls : Nat) {l : List Loc} {j : Nat} {b : Loc} (h : l[j]? = some b) :
    observable s b (BitVec.ofNat 8 (s.loadValue cls l / 256 ^ j)) ∧
      (ownLast s b cls → BitVec.ofNat 8 (s.loadValue cls l / 256 ^ j) = s.locByte b) := by
  have hsame := s.beforeAccess_sameBut s.me.sid cls [none]
  have hbare : _ ∨ _ := s.performWith_bare (fun w => if w.sid = s.me.sid ∧
    (([none] : List (Option Nat)).any fun p => kept w.cls cls w.port p false false) = true then [w.die] else []) fun _ => []
  unfold State.loadValue
  rw [locsNat_byte _ l j b h]
  exact ⟨State.seenByte_observable hsame hbare _ _ _ _ _ b, fun ho => State.seenByte_of_ownLast hsame hbare ho _ _⟩

/-- A scalar load is `State.load` with the operands of R260 and R262. -/
theorem exec_of_loadOf {s : State} {i : Instr} {rd : XReg} {a : Word} {n k : Nat} {ext : Nat → Word}
    (h : loadOf s.me i = some (rd, a, n, k, ext)) :
    ∃ acq, exec i s = .next (s.load rd a k n ext acq) ∧ (n = 8 → ext = BitVec.ofNat 64) := by
  unfold loadOf at h
  split at h <;> cases h
  case h_8 => exact ⟨true, rfl, fun _ => rfl⟩
  case h_7 => exact ⟨false, rfl, fun _ => rfl⟩
  all_goals exact ⟨false, rfl, fun h => by cases h⟩

/-! ## Reads of the MMIO space leave no write under way -/

theorem State.writeBytes_writes_nil : ∀ (l : List Byte) (s : State) (pa : Nat), s.writes = [] → (s.writeBytes pa l).writes = []
  | [], _, _, h => h
  | b :: l, s, pa, h => State.writeBytes_writes_nil l (s.writeByte pa b) (pa + 1) (by
      rw [State.writeByte_writes, h]; rfl)

theorem State.fqWrite_writes_nil {s : State} (h : s.writes = []) (r : FqRec) : (s.fqWrite r).writes = [] := by
  simp only [State.fqWrite, State.writePhys, State.clearPoison_writes, State.writeBytes_writes_nil _ _ _ h]

theorem State.post_writes_nil {s : State} (h : s.writes = []) (r : FqRec) : (s.post r).writes = [] := by
  unfold State.post
  dsimp only
  split
  · refine State.fqWrite_writes_nil ?_ _
    exact h
  · split <;> exact h

theorem State.perfAdd_writes_nil {s : State} (h : s.writes = []) (block i n : Nat) : (s.perfAdd block i n).writes = [] := by
  unfold State.perfAdd
  dsimp only
  split
  · exact h
  · split
    · refine State.post_writes_nil ?_ _
      exact h
    · exact h

theorem State.perfRead_writes_nil {s : State} (h : s.writes = []) (block i : Nat) : (s.perfRead block i).2.writes = [] := by
  unfold State.perfRead State.perfFree
  dsimp only
  split
  · refine State.perfAdd_writes_nil ?_ _ _ _
    exact h
  · exact h

theorem State.hotRead_writes (s : State) (off : Nat) : (s.hotRead off).2.writes = s.writes := by
  unfold State.hotRead
  dsimp only
  split
  · rfl
  · dsimp only
    split <;> rfl

theorem State.mmioRead_writes_nil {s : State} (h : s.writes = []) (off : Nat) : (s.mmioRead off).2.writes = [] := by
  unfold State.mmioRead
  split; · exact h
  split; · exact h
  split; · exact h
  split; · exact (s.hotRead_writes _).trans h
  split; · exact h
  split; · exact h
  split
  · split; · exact State.perfRead_writes_nil h _ _
    split <;> exact h
  · split <;> exact h

/-! ## Stores -/

/-- The state in which a store reaches its place: a release comes first (R282). -/
def State.beforeStore (s : State) (rel : Option Nat) : State :=
  match rel with
  | some scope => s.releaseTo s.cur 0xFFFF s.me.die scope
  | none => s

theorem State.beforeStore_sameBut (s : State) (rel : Option Nat) : s.sameBut (s.beforeStore rel) := by
  cases rel with
  | none => exact s.sameBut_refl
  | some scope => exact s.releaseTo_sameBut _ _ _ _

theorem State.beforeStore_none {s : State} (h : s.writes = []) (rel : Option Nat) : s.beforeStore rel = s := by
  cases rel with
  | none => rfl
  | some scope => exact State.releaseTo_none h _ _ _ _

theorem State.store_eq {s s' : State} {w : Nat} {rs : XReg} {a : Word} {cls n : Nat} {p : Place1} (ha : a.toNat % n = 0)
    (hp : s.place1 1 cls a.toNat n (s.mmioGate 1 a.toNat n w (s.me.reg rs)) = .ok p s') (rel : Option Nat) {t : State}
    (ht : (s'.beforeStore rel).storePlace p cls n (s.me.reg rs).toNat = .ok () t) :
    s.store w rs a cls n rel = flowed t := by
  have hb : s.store w rs a cls n rel = s.finish (((s'.beforeStore rel).storePlace p cls n (s.me.reg rs).toNat).andThen
      fun _ u => .ok () u.pass) := by
    unfold State.store
    rw [if_neg (not_not_intro ha), hp]
    cases rel <;> rfl
  rw [hb, ht, Res.andThen_ok, State.finish_ok, State.pass_eq_flowed]

theorem State.storePlace_bytes (s : State) (l : List Loc) (hl : ∀ b ∈ l, s.locPoison b = false) (hs : cellsOk s)
    (ha : cellsApart l) (cls v : Nat) :
    ∃ t, s.storePlace (.bytes l) cls l.length v = .ok () t ∧ holdsBytes s t l v ∧ t.ctxs = s.ctxs ∧ t.cur = s.cur := by
  have hput : s.storePlace (.bytes l) cls l.length v = .ok () (s.noteWrites (s.setLocs (l.zip (leBytes l.length v))) s.me.sid cls
      [{ elem := 0, port := none, die := s.me.die, locs := l }]) := by
    simp only [State.storePlace, State.storeLocs_clean hl, Res.andThen_ok]
  obtain ⟨w, m, g, e⟩ := s.noteWrites_eq (s.setLocs (l.zip (leBytes l.length v))) s.me.sid cls
    [{ elem := 0, port := none, die := s.me.die, locs := l }]
  refine ⟨_, hput, ?_⟩
  rw [e]
  exact ⟨State.holdsBytes_setLocs hs ha v, s.setLocs_ctxs _, s.setLocs_cur _⟩

/-- A scalar store is `State.store` with the operands of R260 and R262. -/
theorem exec_of_storeOf {s : State} {i : Instr} {rs : XReg} {a : Word} {n k : Nat} (h : storeOf s.me i = some (rs, a, n, k)) :
    ∃ rel, exec i s = .next (s.store (parcelOf i) rs a k n rel) := by
  unfold storeOf at h
  split at h <;> cases h
  case h_5 => exact ⟨some _, rfl⟩
  all_goals exact ⟨none, rfl⟩

/-! ## Atomics -/

/-- The number that an atomic stores replaces the bytes of its place; without one they stay. -/
def State.atomicPut (s : State) (l : List Loc) (n : Nat) : Option Nat → State
  | some v => s.setLocs (l.zip (leBytes n v))
  | none => s

theorem State.atomicPut_me (s : State) (l : List Loc) (n : Nat) (v : Option Nat) : (s.atomicPut l n v).me = s.me := by
  cases v with
  | none => rfl
  | some v => exact s.setLocs_me _

theorem State.atomicPut_ctxs (s : State) (l : List Loc) (n : Nat) (v : Option Nat) : (s.atomicPut l n v).ctxs = s.ctxs := by
  cases v with
  | none => rfl
  | some v => exact s.setLocs_ctxs _

theorem State.atomicPut_cur (s : State) (l : List Loc) (n : Nat) (v : Option Nat) : (s.atomicPut l n v).cur = s.cur := by
  cases v with
  | none => rfl
  | some v => exact s.setLocs_cur _

theorem State.atomicPut_writes_nil {s : State} (h : s.writes = []) (l : List Loc) (n : Nat) (v : Option Nat) :
    (s.atomicPut l n v).writes = [] := by
  cases v with
  | none => exact h
  | some v => exact State.putLocs_writes_nil _ s h

theorem State.holdsBytes_atomicPut (s : State) (l : List Loc) (hs : cellsOk s) (ha : cellsApart l) (v : Option Nat) :
    holdsBytes s (s.atomicPut l l.length v) l (v.getD (littleEndian s l)) := by
  cases v with
  | none => exact s.holdsBytes_self l
  | some v => exact State.holdsBytes_setLocs hs ha v

theorem State.sameBut.trans {s t u : State} (h : s.sameBut t) (g : t.sameBut u) : s.sameBut u := by
  unfold State.sameBut at *
  rw [g, h]

theorem State.beforeAtomic_sameBut (s : State) (scope : Nat) (rel : Bool) : s.sameBut (s.beforeAtomic scope rel) := by
  unfold State.beforeAtomic
  cases rel
  · exact s.beforeAccess_sameBut _ _ _
  · exact (s.releaseTo_sameBut _ _ _ _).trans (State.beforeAccess_sameBut _ _ _ _)

theorem State.beforeAtomic_none {s : State} (h : s.writes = []) (scope : Nat) (rel : Bool) : s.beforeAtomic scope rel = s := by
  simp only [State.beforeAtomic, State.releaseTo_none h, ite_self, State.beforeAccess_none h]

theorem State.afterAtomic_orderOnly (s : State) (acq : Bool) : s.OrderOnly (s.afterAtomic acq) := by
  unfold State.afterAtomic
  cases acq
  · exact .afterReads s 15 0 _
  · have ha := State.OrderOnly.acquireAt s s.moment
    have hr := ha.trans (.afterReads _ 15 0 s.moment)
    rw [ha.cur] at hr
    exact hr

theorem State.afterAtomic_none {s : State} (h : s.writes = []) (acq : Bool) : s.afterAtomic acq = s := by
  simp only [State.afterAtomic, State.acquire, State.acquireAt_none h, ite_self, State.afterReads_none h]

/-- The state in which an atomic has read its place. -/
def State.atomicRead (s : State) (scope : Nat) (rel : Bool) (l : List Loc) : State :=
  (s.beforeAtomic scope rel).observeLocs (s.beforeAtomic scope rel).me.die l

theorem State.atomicRead_sameBut (s : State) (scope : Nat) (rel : Bool) (l : List Loc) : s.sameBut (s.atomicRead scope rel l) :=
  (s.beforeAtomic_sameBut scope rel).trans (State.observe_sameBut _ _ _)

theorem State.atomicRead_none {s : State} (h : s.writes = []) (scope : Nat) (rel : Bool) (l : List Loc) :
    s.atomicRead scope rel l = s := by
  simp only [State.atomicRead, State.observeLocs, State.beforeAtomic_none h, State.observe_none h]

/-- An atomic at a place without poison (R263 to R265). -/
theorem State.atomic_bytes {s s' : State} {ra : XReg} {n : Nat} {l : List Loc} (ha : (s.me.reg ra).toNat % n = 0)
    (hp : s.place1 3 15 (s.me.reg ra).toNat n (s.me.noMmio 3 (s.me.reg ra).toNat) = .ok (.bytes l) s')
    (hl : ∀ b ∈ l, s'.locPoison b = false) (rd : XReg) (scope : BitVec 3) (acq rel : Bool) (f : Nat → Option Nat) :
    s.atomic rd ra scope acq rel n f =
      wrote (((s'.atomicRead scope.toNat rel l).atomicPut l n (f (littleEndian s' l))).afterAtomic acq) rd
        (BitVec.ofNat 64 (littleEndian s' l)) := by
  have hb := (s'.beforeAtomic_sameBut scope.toNat rel).orderOnly
  have hr := (s'.atomicRead_sameBut scope.toNat rel l).orderOnly
  have hread : (s'.beforeAtomic scope.toNat rel).readPlace (.bytes l) =
      .ok (littleEndian s' l) (s'.atomicRead scope.toNat rel l) := by
    have hpoison := State.poisonIn_clean fun b hbl => (hb.locPoison b).trans (hl b hbl)
    simp only [State.readPlace, hpoison, littleEndian_eq, locsNat_congr hb.cells.locByte]
    rfl
  unfold State.atomic
  simp only [ha, ne_eq, not_true_eq_false, ↓reduceIte, hp, Res.andThen_ok, hread]
  cases f (littleEndian s' l) with
  | none => exact State.done_eq_wrote _ _ _
  | some v =>
    simp only [State.writePlace, State.storeLocs_clean fun b hbl => (hr.locPoison b).trans (hl b hbl), Res.andThen_ok]
    exact State.done_eq_wrote _ _ _

/-! ## The operations of R263 -/

theorem intOf_true_toNat (b : Word) : intOf true 64 b.toNat = b.toInt := by
  have h := b.isLt
  rw [BitVec.toInt_eq_toNat_cond]
  simp only [intOf, Bool.true_and, decide_eq_true_eq, Nat.mod_eq_of_lt h]
  split <;> split <;> omega

/-- What each atomic stores of an old value is F of R263. -/
theorem exec_of_atomicOf {s : State} {i : Instr} {rd ra : XReg} {n : Nat} {f : Nat → Option Nat}
    (h : atomicOf s.me i = some (rd, ra, n, f)) :
    ∃ scope acq rel g, exec i s = .next (s.atomic rd ra scope acq rel n g) ∧ ∀ o, o < 256 ^ n → g o = f o := by
  have word : ∀ {g f : Nat → Option Nat}, (∀ w : Word, g w.toNat = f w.toNat) → ∀ o, o < 256 ^ 8 → g o = f o :=
    fun hw o ho => by
      have := hw (BitVec.ofNat 64 o)
      rwa [BitVec.toNat_ofNat, Nat.mod_eq_of_lt (by omega)] at this
  unfold atomicOf at h
  split at h <;> cases h
  case h_10 =>
    refine ⟨_, _, _, _, rfl, fun o ho => ?_⟩
    simp only [amoF, Nat.mod_mod, Nat.mod_eq_of_lt (show o < 2 ^ 32 by omega)]
  case h_11 => exact ⟨_, _, _, _, rfl, fun _ _ => rfl⟩
  all_goals
    refine ⟨_, _, _, _, rfl, word fun w => ?_⟩
    simp only [amoF, intOf_true_toNat, BitVec.ofNat_toNat, BitVec.setWidth_eq]
  case h_2 | h_3 | h_4 => rfl
  case h_7 | h_8 => exact congrArg some (by split <;> omega)

/-! ## Alignment (R261, R265) -/

theorem State.load_misaligned {s : State} {a : Word} {n : Nat} (h : a.toNat % n ≠ 0) (rd : XReg) (cls : Nat)
    (ext : Nat → Word) (acq : Bool) : s.load rd a cls n ext acq = s.trap causeMisalign 2 a := if_pos h

theorem State.store_misaligned {s : State} {a : Word} {n : Nat} (h : a.toNat % n ≠ 0) (w : Nat) (rs : XReg) (cls : Nat)
    (rel : Option Nat) : s.store w rs a cls n rel = s.trap causeMisalign 2 a := if_pos h

theorem State.atomic_misaligned {s : State} {ra : XReg} {n : Nat} (h : (s.me.reg ra).toNat % n ≠ 0) (rd : XReg)
    (scope : BitVec 3) (acq rel : Bool) (f : Nat → Option Nat) :
    s.atomic rd ra scope acq rel n f = s.trap causeMisalign 2 (s.me.reg ra) := if_pos h

end Sys2Proof.Machine

namespace Sys2Proof.Proofs

open Sys2Proof Sys2Proof.Machine Sys2Proof.Claims

/-! ## The obligations -/

/-- A load completes with what its strand observes at the place. -/
theorem load_completes {s s' : State} {i : Instr} {rd : XReg} {a : Word} {n k : Nat} {ext : Nat → Word} {l : List Loc}
    (hi : loadOf s.me i = some (rd, a, n, k, ext)) (ha : a.toNat % n = 0)
    (hp : s.place1 0 k a.toNat n (s.mmioGate 0 a.toNat n 0 0) = .ok (.bytes l) s') (hl : ∀ b ∈ l, s'.locPoison b = false) :
    ∃ acq, exec i s = .next (wrote (s'.afterScalarLoad k acq) rd (ext (s'.loadValue k l))) := by
  obtain ⟨acq, he, -⟩ := exec_of_loadOf hi
  exact ⟨acq, by rw [he, State.load_bytes ha hp hl]⟩

/-- A register result where at most the order of the strand's reads differs. -/
theorem wrote_me_of_order {s t : State} (h : t.me = { s.me with order := t.me.order }) (rd : XReg) (v : Word) :
    (wrote t rd v).me = { onward (putReg s.me rd v) with order := (wrote t rd v).me.order } := by
  have hme : (wrote t rd v).me = onward (putReg t.me rd v) := State.me_setMe t _
  rw [hme, h]
  rfl

/-- The contexts after an update of the current one, in states with the same contexts. -/
theorem setMe_ctxs_congr {s t : State} (hc : t.ctxs = s.ctxs) (hu : t.cur = s.cur) (f : Ctx → Ctx) :
    (t.setMe (f t.me)).ctxs = (s.setMe (f s.me)).ctxs := by
  simp only [State.setMe, State.setCtx, State.me, State.ctxAt, hc, hu]

/-- Settles O11: a load reads the place that its access has found, as its strand observes it, and an address that is no
multiple of the size traps first. -/
theorem scalarLoadResults : Obligations.ScalarLoadResults := by
  unfold Obligations.ScalarLoadResults
  refine ⟨fun s s' i rd a n k ext l hi ha hp hl => ?_, fun s s' i rd a k off ext hi ha hp hw => ?_,
    fun s i a n hm ha h => ?_⟩
  · obtain ⟨acq, he⟩ := load_completes hi ha hp hl
    have ho := s'.afterScalarLoad_orderOnly k acq
    refine ⟨fun hw => ?_, _, s'.loadValue k l, he, (ho.cells.trans (.setMe _ _)).sameBytes, wrote_me_of_order ho.me rd _,
      s'.loadValue_lt k l, fun j b hj => s'.loadValue_byte k hj⟩
    rw [he, State.afterScalarLoad_none hw, State.loadValue_none hw]
  · obtain ⟨acq, he, hext⟩ := exec_of_loadOf hi
    rw [he, State.load_mmio ha hp (State.mmioRead_writes_nil hw off), hext rfl, BitVec.ofNat_toNat, BitVec.setWidth_eq]
  · rw [← State.trap_eq_trapped hm (by decide)]
    obtain ⟨rd, k, ext, hi⟩ | ⟨rs, k, hi⟩ | ⟨rd, ra, f, hi, rfl⟩ := h
    · obtain ⟨acq, he, -⟩ := exec_of_loadOf hi
      rw [he, State.load_misaligned ha]
    · obtain ⟨rel, he⟩ := exec_of_storeOf hi
      rw [he, State.store_misaligned ha]
    · obtain ⟨scope, acq, rel, g, he, -⟩ := exec_of_atomicOf hi
      rw [he, State.atomic_misaligned ha]

/-- Settles O10: the bytes that a store or an atomic puts at the place that its access has found, and nothing else. -/
theorem scalarStoreAndAtomicResults : Obligations.ScalarStoreAndAtomicResults := by
  unfold Obligations.ScalarStoreAndAtomicResults
  refine ⟨fun s s' i rs a n k l hi ha hp hn hap hok hl => ?_, fun s s' i rd ra n f l hi ha hp hn hap hok hl => ?_,
    fun s s' i rs a k off hi ha hp hw => ?_⟩
  · obtain ⟨rel, he⟩ := exec_of_storeOf hi
    have hb := s'.beforeStore_sameBut rel
    have ho := hb.orderOnly
    subst hn
    obtain ⟨t, ht, hbytes, hctxs, hcur⟩ := State.storePlace_bytes (s'.beforeStore rel) l
      (fun b hbl => (ho.locPoison b).trans (hl b hbl)) ⟨ho.cells.mem ▸ hok.1, ho.cells.sp ▸ hok.2⟩ hap k (s.me.reg rs).toNat
    refine ⟨flowed t, by rw [he, State.store_eq ha hp rel ht],
      State.holdsBytes_congr hbytes ho.cells.locByte fun b => rfl, ?_⟩
    exact setMe_ctxs_congr (hctxs.trans hb.ctxs) (hcur.trans ho.cur) onward
  · obtain ⟨scope, acq, rel, g, he, hg⟩ := exec_of_atomicOf hi
    subst hn
    have hold : littleEndian s' l < 256 ^ l.length := littleEndian_eq s' l ▸ locsNat_lt _ l
    rw [State.atomic_bytes ha hp hl, hg _ hold] at he
    have hr := (s'.atomicRead_sameBut scope.toNat rel l).orderOnly
    have hread : littleEndian (s'.atomicRead scope.toNat rel l) l = littleEndian s' l := by
      rw [littleEndian_eq, littleEndian_eq, locsNat_congr hr.cells.locByte]
    have hput := State.holdsBytes_atomicPut (s'.atomicRead scope.toNat rel l) l
      ⟨hr.cells.mem ▸ hok.1, hr.cells.sp ▸ hok.2⟩ hap (f (littleEndian s' l))
    have ho := State.afterAtomic_orderOnly ((s'.atomicRead scope.toNat rel l).atomicPut l l.length (f (littleEndian s' l))) acq
    refine ⟨_, he, ?_, fun hw => ?_, wrote_me_of_order ?_ rd _⟩
    · exact State.holdsBytes_congr (hread ▸ hput) hr.cells.locByte ho.cells.locByte
    · rw [State.atomicRead_none hw, State.afterAtomic_none (State.atomicPut_writes_nil hw l _ _)]
      exact setMe_ctxs_congr (s'.atomicPut_ctxs l _ _) (s'.atomicPut_cur l _ _) fun c => onward (putReg c rd _)
    · rw [ho.me, State.atomicPut_me, hr.me]
  · obtain ⟨rel, he⟩ := exec_of_storeOf hi
    have ht : (s'.beforeStore rel).storePlace (.mmio off) k 8 (s.me.reg rs).toNat =
        .ok () (s'.mmioWrite false off (s.me.reg rs)) := by
      rw [State.beforeStore_none hw, State.storePlace, BitVec.ofNat_toNat, BitVec.setWidth_eq]
    rw [he, State.store_eq ha hp rel ht]

end Sys2Proof.Proofs
end

section
/-! Values without their Z fields: `lowBits` and `clearLow` are the masks of the field maps (R158). -/

namespace Sys2Proof.Machine

open Sys2Proof.Claims

@[simp] theorem getLsbD_lowBits (k : Nat) (v : Word) (i : Nat) : (lowBits k v).getLsbD i = (decide (i < k) && v.getLsbD i) := by
  simp only [lowBits, BitVec.getLsbD_ofNat, Nat.testBit_mod_two_pow, BitVec.testBit_toNat]
  by_cases h : i < 64
  · simp [h]
  · simp [h, BitVec.getLsbD_of_ge v i (by omega)]

@[simp] theorem getLsbD_clearLow (k : Nat) (v : Word) (i : Nat) : (clearLow k v).getLsbD i = (decide (k ≤ i) && v.getLsbD i) := by
  simp only [clearLow, BitVec.getLsbD_ofNat, Nat.testBit_mul_two_pow, Nat.testBit_div_two_pow, BitVec.testBit_toNat]
  by_cases h : i < 64
  · by_cases hk : k ≤ i
    · simp [h, hk]
    · simp [hk]
  · simp [h, BitVec.getLsbD_of_ge v i (by omega)]

theorem and_lowBits (k : Nat) (v w : Word) : v &&& lowBits k w = lowBits k (v &&& w) := by
  apply BitVec.eq_of_getLsbD_eq
  intro i hi
  simp only [BitVec.getLsbD_and, getLsbD_lowBits]
  exact Bool.and_left_comm ..

theorem and_clearLow (k : Nat) (v w : Word) : v &&& clearLow k w = clearLow k (v &&& w) := by
  apply BitVec.eq_of_getLsbD_eq
  intro i hi
  simp only [BitVec.getLsbD_and, getLsbD_clearLow]
  exact Bool.and_left_comm ..

/-- A mask of the low bits keeps them and drops the Z fields above. -/
theorem and_lowMask {m : Word} (k : Nat) (h : m = lowBits k (BitVec.allOnes 64)) (v : Word) : v &&& m = lowBits k v := by
  rw [h, and_lowBits, BitVec.and_allOnes]

theorem and_highMask {m : Word} (k : Nat) (h : m = clearLow k (BitVec.allOnes 64)) (v : Word) : v &&& m = clearLow k v := by
  rw [h, and_clearLow, BitVec.and_allOnes]

theorem and_midMask {m : Word} (k n : Nat) (h : m = clearLow k (lowBits n (BitVec.allOnes 64))) (v : Word) :
    v &&& m = clearLow k (lowBits n v) := by
  rw [h, and_clearLow, and_lowBits, BitVec.and_allOnes]

theorem lowBits_toNat {k : Nat} (h : k ≤ 64) (v : Word) : (lowBits k v).toNat = v.toNat % 2 ^ k := by
  have hk : v.toNat % 2 ^ k < 2 ^ 64 := lt_of_lt_of_le (Nat.mod_lt _ (by positivity)) (Nat.pow_le_pow_right (by omega) h)
  rw [lowBits, BitVec.toNat_ofNat, Nat.mod_eq_of_lt hk]

/-- The bits of TCFG (R215). -/
theorem and_tcfgMask (v : Word) :
    v &&& 0xFFFFFFE007 = BitVec.ofNat 64 (v.toNat % 2 ^ 40 / 2 ^ 13 * 2 ^ 13 + v.toNat % 8) := by
  have hm : (0xFFFFFFE007 : Word) = clearLow 13 (lowBits 40 (BitVec.allOnes 64)) ||| lowBits 3 (BitVec.allOnes 64) := by decide
  have hor : v.toNat % 2 ^ 40 / 2 ^ 13 * 2 ^ 13 + v.toNat % 8 = v.toNat % 2 ^ 40 / 2 ^ 13 * 2 ^ 13 ||| v.toNat % 8 := by
    rw [Nat.mul_comm, Nat.two_pow_add_eq_or_of_lt (by omega)]
  rw [hm, BitVec.and_or_distrib_left, and_clearLow, and_lowBits, and_lowBits, BitVec.and_allOnes, hor, BitVec.ofNat_or,
    clearLow, lowBits_toNat (by omega)]
  rfl

end Sys2Proof.Machine
end

section
/-! What a write leaves in each control and status register, and what each then reads (R141 to R149, R158, R215 to R220,
R362, R363). -/

namespace Sys2Proof.Machine

open Sys2Proof.Claims

/-! ## What a write leaves -/

/-- The context in which a writable CSR, by its number, holds a value. -/
def Ctx.putCsr (c : Ctx) (n : Nat) (w : Word) : Ctx :=
  if 0x010 ≤ n ∧ n ≤ 0x017 then c.setTc (n - 0x010) w
  else match n with
  | 0x000 => { c with vl := w }
  | 0x001 => { c with vstart := w }
  | 0x004 => { c with vdirty := w }
  | 0x005 => { c with efc := w }
  | 0x006 => { c with modq := w }
  | 0x008 => { c with fcsr := w }
  | 0x018 => { c with ten := w }
  | 0x019 => { c with accfmt := w }
  | 0x01A => { c with mxm := w }
  | 0x01B => { c with mxn := w }
  | 0x01C => { c with mxk := w }
  | 0x100 => { c with status := w }
  | 0x101 => { c with stvec := w }
  | 0x102 => { c with cause := w }
  | 0x103 => { c with epc := w }
  | 0x104 => { c with eval := w }
  | 0x105 => { c with esub := w }
  | 0x106 => { c with eelem := w }
  | 0x107 => { c with sscratch := w }
  | 0x110 => { c with ptroot := w }
  | 0x111 => { c with ptdesc := w }
  | 0x112 => { c with pasid := w }
  | 0x120 => { c with quantum := w }
  | 0x121 => { c with wdog := w }
  | _ => c

theorem csrIf_eq {b : Bool} {P : Prop} [Decidable P] (h : b = true ↔ P) (c : Ctx) :
    csrIf b c = if P then .ok c else .illegal := by
  unfold csrIf
  by_cases hp : P
  · rw [if_pos hp, if_pos (h.2 hp)]
  · rw [if_neg hp, if_neg fun hb => hp (h.1 hb)]

/-! The masks of the field maps. -/

theorem and_mask3 (v : Word) : v &&& 7 = lowBits 3 v := and_lowMask 3 (by decide) v
theorem and_mask8 (v : Word) : v &&& 0xFF = lowBits 8 v := and_lowMask 8 (by decide) v
theorem and_mask11 (v : Word) : v &&& 0x7FF = lowBits 11 v := and_lowMask 11 (by decide) v
theorem and_mask12 (v : Word) : v &&& 0xFFF = lowBits 12 v := and_lowMask 12 (by decide) v
theorem and_mask16 (v : Word) : v &&& 0xFFFF = lowBits 16 v := and_lowMask 16 (by decide) v
theorem and_mask20 (v : Word) : v &&& 0xFFFFF = lowBits 20 v := and_lowMask 20 (by decide) v
theorem and_mask30 (v : Word) : v &&& 0x3FFFFFFF = lowBits 30 v := and_lowMask 30 (by decide) v
theorem and_mask32 (v : Word) : v &&& 0xFFFFFFFF = lowBits 32 v := and_lowMask 32 (by decide) v
theorem and_maskPc (v : Word) : v &&& 0xFFFFFFFFFFFFFFFC = clearLow 2 v := and_highMask 2 (by decide) v
theorem and_maskAll (v : Word) : v &&& 0xFFFFFFFFFFFFFFFF = v := BitVec.and_allOnes
theorem and_maskRoot (v : Word) : v &&& 0x0FFFFFFFFFFFFFF8 = clearLow 3 (lowBits 60 v) := and_midMask 3 60 (by decide) v
theorem and_maskDesc (v : Word) : v &&& 0x0FFFFFFFFFFFFFE0 = clearLow 5 (lowBits 60 v) := and_midMask 5 60 (by decide) v

theorem csrAllows_tcfg (c : Ctx) {n : Nat} (h : 0x010 ≤ n ∧ n ≤ 0x017) (w : Word) :
    csrAllows c n w ↔ tcfgOk c.shareRows w = true := by
  unfold csrAllows
  split
  case h_10 => rw [if_pos h]
  all_goals omega

open Classical in
/-- A write of a CSR but STATUS and PTDESC: the Z fields are dropped, and the field map decides (R158). -/
theorem State.csrWrite_eq (s : State) (c : Ctx) {n : Nat} {m : Word} (v : Word) (hm : csrMask n = some m) (h1 : n ≠ 0x100)
    (h2 : n ≠ 0x111) :
    s.csrWrite c n v = if csrAllows c n (v &&& m) then .ok (c.putCsr n (v &&& m)) else .illegal := by
  unfold csrMask at hm
  split at hm
  next ht =>
    cases hm
    unfold State.csrWrite Ctx.putCsr
    rw [if_pos ht, if_pos ht, ← and_tcfgMask]
    exact csrIf_eq (csrAllows_tcfg c ht _).symm _
  next ht =>
    unfold State.csrWrite Ctx.putCsr
    rw [if_neg ht, if_neg ht]
    split at hm <;> cases hm
    case h_12 | h_21 => contradiction
    all_goals simp only [and_mask8, and_mask11, and_mask12, and_mask16, and_mask20, and_mask30, and_mask32, and_maskPc, and_maskAll, and_maskRoot]
    case h_1 | h_2 | h_5 | h_23 =>
      exact csrIf_eq (by simp only [csrAllows, lowBits_toNat, Nat.reduceLeDiff, Bool.and_eq_true, decide_eq_true_eq]) _
    case h_4 | h_6 | h_9 | h_10 | h_11 =>
      refine csrIf_eq ?_ _
      simp only [csrAllows, lowBits_toNat, Nat.reduceLeDiff, decide_eq_true_eq]
      omega
    all_goals exact (if_pos trivial).symm

/-- The CSR written reads as written; VDIRTY reads what the children wrote too. -/
theorem csrRead_putCsr_same (s : State) (c : Ctx) {n : Nat} {m : Word} (w : Word) (hm : csrMask n = some m) (h4 : n ≠ 4) :
    s.csrRead (c.putCsr n w) n = w := by
  unfold csrMask at hm
  split at hm
  next ht =>
    have hk : n - 16 < 8 := by omega
    simp only [State.csrRead, Ctx.putCsr, ht, and_self, ↓reduceIte, Ctx.tc, Ctx.setTc, hk, ↓reduceDIte, Vector.getElem_set_self]
  next ht =>
    split at hm <;> cases hm
    all_goals trivial

/-- A write leaves every other CSR alone, but MODMU with MODQ. -/
theorem csrRead_putCsr_other (s : State) (c : Ctx) {n k : Nat} {m : Word} (w : Word) (hm : csrMask n = some m) (hk : k ≠ n)
    (hmod : k = 7 → n ≠ 6) : s.csrRead (c.putCsr n w) k = s.csrRead c k := by
  unfold csrMask at hm
  generalize hc : c.putCsr n w = c'
  split at hm
  next ht =>
    have ht8 : n - 16 < 8 := by omega
    unfold Ctx.putCsr Ctx.setTc at hc
    rw [if_pos ht, dif_pos ht8] at hc
    unfold State.csrRead
    split
    next hkt =>
      have hne : n - 16 ≠ k - 16 := by omega
      simp only [← hc, Ctx.tc, Vector.getElem_set_ne _ _ hne]
    · split <;> subst hc <;> rfl
  next ht =>
    unfold Ctx.putCsr at hc
    rw [if_neg ht] at hc
    split at hm <;> cases hm
    case h_5 =>
      have h7 : k ≠ 7 := fun h => hmod h rfl
      unfold State.csrRead
      split
      · subst hc; rfl
      · split <;> subst hc <;> trivial
    all_goals
      unfold State.csrRead
      split
      · subst hc; rfl
      · split <;> subst hc <;> trivial

/-! STATUS and PTDESC have rules of their own (R147, R363). -/

theorem State.csrWrite_status (s : State) (c : Ctx) {v : Word} (h : v.getLsbD 0 = c.status.getLsbD 0) :
    s.csrWrite c 0x100 v = .ok (c.putCsr 0x100 (v &&& 7)) := by
  rw [and_mask3]
  exact if_pos h

theorem State.csrWrite_status_refused (s : State) (c : Ctx) {v : Word} (h : v.getLsbD 0 ≠ c.status.getLsbD 0) :
    s.csrWrite c 0x100 v = .readOnly := if_neg h

theorem State.csrWrite_ptdesc (s : State) (c : Ctx) {v : Word} {d : PteFormat}
    (h : s.captureDesc (v &&& 0x0FFFFFFFFFFFFFE0) = .ok d) :
    s.csrWrite c 0x111 v = .ok { c.putCsr 0x111 (v &&& 0x0FFFFFFFFFFFFFE0) with desc := some d } := by
  rw [and_maskDesc] at h ⊢
  simp only [State.csrWrite, h]
  rfl

theorem State.csrWrite_ptdesc_invalid (s : State) (c : Ctx) {v : Word}
    (h : s.captureDesc (v &&& 0x0FFFFFFFFFFFFFE0) = .invalid) : s.csrWrite c 0x111 v = .illegal := by
  rw [and_maskDesc] at h
  simp only [State.csrWrite, h]
  rfl

theorem State.csrWrite_ptdesc_poison (s : State) (c : Ctx) {v : Word}
    (h : s.captureDesc (v &&& 0x0FFFFFFFFFFFFFE0) = .poison) : s.csrWrite c 0x111 v = .poison := by
  rw [and_maskDesc] at h
  simp only [State.csrWrite, h]
  rfl

/-- A value that its field map allows is written without its Z fields, and with PTDESC a descriptor captured. -/
theorem State.csrWrite_allowed {s : State} {c : Ctx} {n : Nat} {m v : Word} (hm : csrMask n = some m)
    (ha : csrAllows c n (v &&& m)) (hs : n = 0x100 → v.getLsbD 0 = c.status.getLsbD 0)
    (hd : n = 0x111 → ∃ d, s.captureDesc (v &&& m) = .ok d) :
    ∃ d, s.csrWrite c n v = .ok { c.putCsr n (v &&& m) with desc := d } := by
  by_cases h1 : n = 0x100
  · subst h1
    cases hm
    exact ⟨_, s.csrWrite_status c (hs rfl)⟩
  by_cases h2 : n = 0x111
  · subst h2
    cases hm
    obtain ⟨d, hd⟩ := hd rfl
    exact ⟨_, s.csrWrite_ptdesc c hd⟩
  · exact ⟨_, (s.csrWrite_eq c v hm h1 h2).trans (if_pos ha)⟩

theorem State.csrWrite_forbidden {s : State} {c : Ctx} {n : Nat} {m v : Word} (hm : csrMask n = some m)
    (ha : ¬ csrAllows c n (v &&& m)) (h2 : n ≠ 0x111) : s.csrWrite c n v = .illegal := by
  have h1 : n ≠ 0x100 := by
    rintro rfl
    exact ha trivial
  exact (s.csrWrite_eq c v hm h1 h2).trans (if_neg ha)

/-! ## What a CSR reads in another state, and in a context that goes on -/

theorem State.csrRead_congr {s t : State} (hc : t.cycle = s.cycle) (ht : t.ticks = s.ticks) (c : Ctx) {k : Nat}
    (hd : k = 4 → t.childDirty c = s.childDirty c) : t.csrRead c k = s.csrRead c k := by
  by_cases h4 : k = 4
  · subst h4
    exact congrArg (c.vdirty ||| ·) (hd rfl)
  · unfold State.csrRead
    simp only [State.time, hc, ht]
    split
    · rfl
    · split <;> trivial

theorem State.csrRead_onward (s : State) (c : Ctx) (rd : XReg) (v : Word) {k : Nat} (hk : k ≠ 0x021) :
    s.csrRead (c.setReg rd v).advance k = s.csrRead c k := by
  generalize hc : (c.setReg rd v).advance = c'
  unfold Ctx.setReg at hc
  unfold State.csrRead
  split at hc
  all_goals
    split
    · subst hc; rfl
    · split <;> subst hc <;> trivial

/-! ## The blocks that a context's children have written (R129, R358) -/

theorem State.childDirty_congr (s : State) {c d : Ctx} (h : c.children = d.children) : s.childDirty c = s.childDirty d := by
  unfold State.childDirty
  rw [h]

theorem State.childDirty_of_clean {s : State} {c : Ctx}
    (h : ∀ k ∈ s.ctxs.map Prod.snd ++ s.parked, k.sid ∈ c.children → k.dirtySince = 0) : s.childDirty c = 0 := by
  refine List.foldlRecOn (motive := fun w => w = 0) _ _ rfl fun w hw k hk => ?_
  split
  next hc => rw [hw, h k hk hc]; rfl
  next => exact hw

/-- A value that a fold passes over may stand at any key of the table. -/
theorem foldl_smPut {α β : Type} (f : β → α → β) (k : Nat) (v : α) (hv : ∀ w, f w v = w) :
    ∀ (m : SMap α) (w : β), (∀ x, smFind k m = some x → ∀ w, f w x = w) →
      ((smPut k v m).map Prod.snd).foldl f w = (m.map Prod.snd).foldl f w
  | [], w, _ => hv w
  | (k', x) :: m, w, hx => by
    unfold smPut
    split
    · rw [List.map_cons, List.foldl_cons, hv]
    · split
      next h =>
        have hxk := hx x (by simp [smFind, h])
        simp only [List.map_cons, List.foldl_cons, hv, hxk]
      next h =>
        rw [List.map_cons, List.foldl_cons, foldl_smPut f k v hv m _ fun y hy => hx y (by simpa [smFind, Ne.symm h] using hy)]
        rfl

theorem State.childDirty_setMe {s : State} {c d : Ctx} (hs : s.me.sid ∉ c.children) (hd : d.sid = s.me.sid) :
    (s.setMe d).childDirty c = s.childDirty c := by
  have hme : ∀ x, smFind s.cur s.ctxs = some x → x = s.me := fun x hx => by
    simp only [State.me, State.ctxAt, smGet, hx, Option.getD_some]
  unfold State.childDirty
  rw [List.foldl_append, List.foldl_append]
  refine congrArg (fun w => List.foldl _ w s.parked) ?_
  refine foldl_smPut _ _ _ (fun w => if_neg (hd.symm ▸ hs)) _ _ fun x hx w => ?_
  rw [hme x hx, if_neg hs]

/-- After a write of VDIRTY the children's account starts afresh, whatever becomes of the context itself. -/
theorem State.childDirty_cleanChildren {s : State} {c d : Ctx} (hs : d.sid ∉ c.children) :
    ((s.cleanChildren c).setMe d).childDirty c = 0 := by
  unfold State.cleanChildren
  split
  next hc =>
    exact State.childDirty_of_clean fun k _ hk => by rw [List.isEmpty_iff.1 hc] at hk; cases hk
  next =>
    have clean : ∀ x : Ctx, (if x.sid ∈ c.children then { x with dirtySince := 0 } else x : Ctx).sid ∈ c.children →
        (if x.sid ∈ c.children then { x with dirtySince := 0 } else x : Ctx).dirtySince = 0 := fun x => by
      split
      · exact fun _ => rfl
      · exact fun hx => absurd hx ‹_›
    refine State.childDirty_of_clean fun k hk hkc => ?_
    obtain hk | hk := List.mem_append.1 hk
    · obtain ⟨e, he, rfl⟩ := List.mem_map.1 hk
      obtain rfl | he := mem_smPut he
      · exact absurd hkc hs
      · obtain ⟨x, -, rfl⟩ := List.mem_map.1 he
        exact clean x.2 hkc
    · obtain ⟨x, -, rfl⟩ := List.mem_map.1 hk
      exact clean x hkc

end Sys2Proof.Machine
end

section
/-! When a CSR instruction is stopped, waits or completes (R98, R158, R214, R219, R220), and O6. -/

namespace Sys2Proof.Machine

open Sys2Proof.Claims

/-- A completed write of CSR `n` leaves the context `c`, and the old value in its register. -/
def State.csrDone (s : State) (rd : XReg) (n : Nat) (c : Ctx) : State :=
  (if n = 4 then s.cleanChildren s.me else s).setMe ((c.setReg rd (s.csrRead s.me n)).advance)

/-- How a CSR write of `v` leaves its instruction (R158). -/
def State.csrEnd (s : State) (i : Instr) (rd : XReg) (n : Nat) (v : Word) : CsrWrite → State
  | .ok c => s.csrDone rd n c
  | .illegal => s.trap causeOperand 6 (BitVec.ofNat 64 (parcelOf i))
  | .readOnly => s.trap causeOp 5 (BitVec.ofNat 64 (parcelOf i))
  | .poison => s.trap causeMemPoison 0 (clearLow 5 (lowBits 60 v))

/-! ## Privilege -/

theorem State.csrReadOp_priv {s : State} {n : Nat} (hn : 0x100 ≤ n) (hs : s.me.status.getLsbD 0 = false) (i : Instr)
    (rd : XReg) : s.csrReadOp i rd n = s.trap causePriv 0 (BitVec.ofNat 64 (parcelOf i)) :=
  if_pos ⟨hn, by simp only [Ctx.sup, hs, Bool.not_false]⟩

theorem State.csrWriteOp_priv {s : State} {n : Nat} (hn : 0x100 ≤ n) (hs : s.me.status.getLsbD 0 = false) (i : Instr)
    (rd : XReg) (f : Word → Word) : s.csrWriteOp i rd n f = s.trap causePriv 0 (BitVec.ofNat 64 (parcelOf i)) :=
  if_pos ⟨hn, by simp only [Ctx.sup, hs, Bool.not_false]⟩

/-- The privilege lets an access through. -/
def State.csrMay (s : State) (n : Nat) : Prop := 0x100 ≤ n → s.me.status.getLsbD 0 = true

theorem State.csrMay.not_priv {s : State} {n : Nat} (h : s.csrMay n) : ¬ (0x100 ≤ n ∧ (!s.me.sup) = true) := by
  rintro ⟨hn, hs⟩
  simp only [Ctx.sup, h hn, Bool.not_true, Bool.false_eq_true] at hs

/-! ## Matrix units (R214, R219) -/

section
variable {s : State} {n : Nat} (hm : s.csrMay n)
include hm

theorem State.csrReadOp_tileOff {p : Nat × Nat} (h : s.me.csrTileOff n none = some p) (i : Instr) (rd : XReg) :
    s.csrReadOp i rd n = s.trap causeTileOff p.1 (BitVec.ofNat 64 p.2) := by
  unfold State.csrReadOp
  simp only [hm.not_priv, ↓reduceIte, h]

theorem State.csrWriteOp_tileOff {p : Nat × Nat} {f : Word → Word}
    (h : s.me.csrTileOff n (some (lowBits 8 (f (s.csrRead s.me n)))) = some p) (i : Instr) (rd : XReg) :
    s.csrWriteOp i rd n f = s.trap causeTileOff p.1 (BitVec.ofNat 64 p.2) := by
  unfold State.csrWriteOp
  simp only [hm.not_priv, ↓reduceIte, h]

/-! ## Waiting for tokens (R220) -/

theorem State.csrReadOp_tokens (h : s.me.csrTileOff n none = none) (hw : csrWaits n false = true)
    (ht : s.tokensLeft s.me = true) (i : Instr) (rd : XReg) : s.csrReadOp i rd n = s.block := by
  unfold State.csrReadOp
  simp only [hm.not_priv, ↓reduceIte, h, hw, ht, Bool.and_self]

theorem State.csrWriteOp_tokens {f : Word → Word} (h : s.me.csrTileOff n (some (lowBits 8 (f (s.csrRead s.me n)))) = none)
    (hw : csrWaits n true = true) (ht : s.tokensLeft s.me = true) (i : Instr) (rd : XReg) :
    s.csrWriteOp i rd n f = s.block := by
  unfold State.csrWriteOp
  simp only [hm.not_priv, ↓reduceIte, h, hw, ht, Bool.and_self]

end

/-! ## Accesses that are let through -/

theorem State.csrReadOp_open {s : State} {n : Nat} (h : csrOpen s n false none) (i : Instr) (rd : XReg) :
    s.csrReadOp i rd n = wrote s rd (s.csrRead s.me n) := by
  obtain ⟨hm, ht, hw⟩ := h
  have hp := State.csrMay.not_priv hm
  unfold State.csrReadOp
  simp only [hp, ↓reduceIte, ht, hw, Bool.false_eq_true, State.done_eq_wrote]

theorem State.csrWriteOp_open {s : State} {n : Nat} {f : Word → Word}
    (h : csrOpen s n true (some (f (s.csrRead s.me n) &&& 0xFF)))
    (hd : n = 0x111 → s.descAwake (f (s.csrRead s.me n) &&& 0x0FFFFFFFFFFFFFE0) = true) (i : Instr) (rd : XReg) :
    s.csrWriteOp i rd n f = s.csrEnd i rd n (f (s.csrRead s.me n)) (s.csrWrite s.me n (f (s.csrRead s.me n))) := by
  obtain ⟨hm, ht, hw⟩ := h
  have hp := State.csrMay.not_priv hm
  have hawake : (n == 0x111 && !s.descAwake (clearLow 5 (lowBits 60 (f (s.csrRead s.me n))))) = false := by
    rw [← and_maskDesc, Bool.and_eq_false_imp]
    intro hn
    rw [hd (by simpa using hn), Bool.not_true]
  rw [and_mask8] at ht
  unfold State.csrWriteOp
  simp only [hp, ↓reduceIte, ht, hw, hawake, Bool.false_eq_true]
  cases s.csrWrite s.me n (f (s.csrRead s.me n)) <;> rfl

theorem State.csrWriteOp_asleep {s : State} {f : Word → Word} (hs : s.me.status.getLsbD 0 = true)
    (hd : s.descAwake (f s.me.ptdesc &&& 0x0FFFFFFFFFFFFFE0) = false) (i : Instr) (rd : XReg) :
    s.csrWriteOp i rd 0x111 f = s.block := by
  have hp : ¬ (0x100 ≤ 0x111 ∧ (!s.me.sup) = true) := State.csrMay.not_priv fun _ => hs
  rw [and_maskDesc] at hd
  have hd : s.descAwake (clearLow 5 (lowBits 60 (f (s.csrRead s.me 0x111)))) = false := hd
  unfold State.csrWriteOp
  simp only [hp, ↓reduceIte, hd]
  rfl

/-! ## Which accesses are stopped -/

theorem csrOfTiles_lt {n : Nat} (h : csrOfTiles n) : n < 0x100 := by
  unfold csrOfTiles at h
  omega

theorem csrOfTiles_cond {n : Nat} (h : csrOfTiles n) : ((decide (0x010 ≤ n) && decide (n ≤ 0x019)) || n == 0x01D) = true := by
  simpa [csrOfTiles] using h

theorem Ctx.csrTileOff_noShare {c : Ctx} {n : Nat} (h : csrOfTiles n) (hs : c.share = 0) (new : Option Word) :
    c.csrTileOff n new = some (1, 0) := by
  unfold Ctx.csrTileOff
  rw [if_pos (csrOfTiles_cond h), if_pos hs]

theorem Ctx.csrTileOff_tcfg {c : Ctx} {n : Nat} (h : csrOfTiles n) (hs : c.share ≠ 0) (hk : n - 0x010 < 8) (new : Option Word) :
    c.csrTileOff n new = if c.ten.getLsbD (n - 0x010) then none else some (0, n - 0x010) := by
  unfold Ctx.csrTileOff
  rw [if_pos (csrOfTiles_cond h), if_neg hs, if_pos (by omega)]

theorem Ctx.csrTileOff_ten {c : Ctx} (hs : c.share ≠ 0) (new : Option Word) : c.csrTileOff 0x018 new = none := by
  unfold Ctx.csrTileOff
  simp [hs]

/-- ACCFMT changes an accumulator that is disabled (R219). -/
def Ctx.accChanges (c : Ctx) (v : Word) (k : Nat) : Prop :=
  c.ten.getLsbD (8 + k) = false ∧ v.toNat / 4 ^ k % 4 ≠ c.accfmt.toNat / 4 ^ k % 4

theorem Ctx.csrTileOff_accfmt {c : Ctx} (hs : c.share ≠ 0) (v : Word) : c.csrTileOff 0x019 (some (lowBits 8 v)) =
    ((List.range 4).find? fun a => !c.ten.getLsbD (8 + a) && decide ((lowBits 8 v).toNat / 4 ^ a % 4 ≠ c.accMode a)).map
      fun a => (0, 8 + a) := by
  unfold Ctx.csrTileOff
  simp only [hs, ↓reduceIte]
  rfl

theorem Ctx.accChanges_iff (c : Ctx) (v : Word) {k : Nat} (hk : k < 4) :
    (!c.ten.getLsbD (8 + k) && decide ((lowBits 8 v).toNat / 4 ^ k % 4 ≠ c.accMode k)) = true ↔ c.accChanges v k := by
  have hv : (lowBits 8 v).toNat / 4 ^ k % 4 = v.toNat / 4 ^ k % 4 := by
    rw [lowBits_toNat (by decide)]
    interval_cases k <;> omega
  simp only [hv, Ctx.accMode, Ctx.accChanges, Bool.and_eq_true, Bool.not_eq_true', decide_eq_true_eq]

theorem Ctx.csrTileOff_accfmt_some {c : Ctx} (hs : c.share ≠ 0) {v : Word} {a : Nat} (ha : a < 4) (h : c.accChanges v a)
    (hlt : ∀ k < a, ¬ c.accChanges v k) : c.csrTileOff 0x019 (some (lowBits 8 v)) = some (0, 8 + a) := by
  rw [c.csrTileOff_accfmt hs, Option.map_eq_some_iff]
  refine ⟨a, List.find?_eq_some_iff_getElem.2 ⟨(c.accChanges_iff v ha).2 h, a, by simpa using ha, by simp, fun k hk => ?_⟩, rfl⟩
  rw [List.getElem_range, Bool.not_eq_true', ← Bool.not_eq_true, c.accChanges_iff v (by omega)]
  exact hlt k hk

theorem Ctx.csrTileOff_accfmt_none {c : Ctx} (hs : c.share ≠ 0) {v : Word} (h : ∀ k < 4, ¬ c.accChanges v k) :
    c.csrTileOff 0x019 (some (lowBits 8 v)) = none := by
  rw [c.csrTileOff_accfmt hs, Option.map_eq_none_iff, List.find?_eq_none]
  intro k hk
  have hk := List.mem_range.1 hk
  rw [c.accChanges_iff v hk]
  exact h k hk

theorem State.tokensLeft_iff (s : State) : s.tokensLeft s.me = true ↔ tokensOut s := by
  simp only [State.tokensLeft, tokensOut, List.any_eq_true, decide_eq_true_eq]

/-! ## The instructions -/

/-- csrw, csrs and csrc are writes of the value that R158 gives. -/
theorem exec_of_csrNext {i : Instr} {rd ra : XReg} {csr : BitVec 9} (s : State)
    (h : i ∈ [Instr.csrw rd ra csr, .csrs rd ra csr, .csrc rd ra csr]) :
    ∃ f, exec i s = .next (s.csrWriteOp i rd csr.toNat f) ∧ ∀ old, csrNext i old (s.me.reg ra) = some (f old) := by
  simp only [List.mem_cons, List.not_mem_nil, or_false] at h
  obtain rfl | rfl | rfl := h
  · exact ⟨_, rfl, fun _ => rfl⟩
  · exact ⟨_, rfl, fun _ => rfl⟩
  · exact ⟨_, rfl, fun _ => rfl⟩

/-! ## The state that a completed write leaves -/

theorem Ctx.putCsr_keeps (c : Ctx) (n : Nat) (w : Word) : (c.putCsr n w).x = c.x ∧ (c.putCsr n w).pc = c.pc ∧
    (c.putCsr n w).sid = c.sid ∧ (c.putCsr n w).children = c.children := by
  unfold Ctx.putCsr Ctx.setTc
  split
  · split <;> exact ⟨rfl, rfl, rfl, rfl⟩
  · split <;> exact ⟨rfl, rfl, rfl, rfl⟩

theorem State.cleanChildren_keeps (s : State) (c : Ctx) : s.SameCells (s.cleanChildren c) ∧ (s.cleanChildren c).cur = s.cur ∧
    (s.cleanChildren c).cycle = s.cycle ∧ (s.cleanChildren c).ticks = s.ticks := by
  unfold State.cleanChildren
  split <;> exact ⟨⟨rfl, rfl, rfl, rfl⟩, rfl, rfl, rfl⟩

section
variable (s : State) (rd : XReg) (n : Nat) (c : Ctx)

theorem State.csrDone_me : (s.csrDone rd n c).me = (c.setReg rd (s.csrRead s.me n)).advance := State.me_setMe _ _

theorem State.csrDone_keeps : s.SameCells (s.csrDone rd n c) ∧ (s.csrDone rd n c).cycle = s.cycle ∧
    (s.csrDone rd n c).ticks = s.ticks := by
  obtain ⟨hcells, -, hcycle, hticks⟩ := s.cleanChildren_keeps s.me
  unfold State.csrDone
  split
  · exact ⟨hcells.trans (.setMe _ _), hcycle, hticks⟩
  · exact ⟨.setMe _ _, rfl, rfl⟩

variable (hsid : c.sid = s.me.sid) (hchildren : c.children = s.me.children) (hs : s.me.sid ∉ s.me.children)
include hsid hchildren hs

theorem State.csrDone_childDirty : (s.csrDone rd n c).childDirty (s.csrDone rd n c).me =
    if n = 4 then 0 else s.childDirty s.me := by
  have hme : (s.csrDone rd n c).me.children = s.me.children := by
    rw [State.csrDone_me, Ctx.advance_children, Ctx.setReg_children, hchildren]
  have hd : (c.setReg rd (s.csrRead s.me n)).advance.sid = s.me.sid := by
    rw [Ctx.advance_sid, Ctx.setReg_sid, hsid]
  rw [State.childDirty_congr _ hme]
  unfold State.csrDone
  split
  · exact State.childDirty_cleanChildren (hd ▸ hs)
  · exact State.childDirty_setMe hs hd

/-- Every CSR but RETIRED, and VDIRTY where it is what is written, reads as in the context that was put. -/
theorem State.csrDone_csrRead {k : Nat} (hk : k ≠ 0x021) (h4 : k = 4 → n ≠ 4) :
    (s.csrDone rd n c).csrRead (s.csrDone rd n c).me k = s.csrRead c k := by
  obtain ⟨-, hcycle, hticks⟩ := s.csrDone_keeps rd n c
  rw [State.csrRead_congr hcycle hticks, State.csrDone_me, State.csrRead_onward _ _ _ _ hk]
  intro hk4
  rw [s.csrDone_childDirty rd n c hsid hchildren hs, if_neg (h4 hk4)]
  refine s.childDirty_congr ?_
  rw [State.csrDone_me, Ctx.advance_children, Ctx.setReg_children, hchildren]

theorem State.csrDone_vdirty : (s.csrDone rd 4 c).csrRead (s.csrDone rd 4 c).me 4 = c.vdirty := by
  have hread : ∀ t : State, t.csrRead t.me 4 = t.me.vdirty ||| t.childDirty t.me := fun _ => rfl
  rw [hread, s.csrDone_childDirty rd 4 c hsid hchildren hs, if_pos rfl, State.csrDone_me, Ctx.advance_vdirty,
    Ctx.setReg_vdirty]
  exact BitVec.or_zero

end

end Sys2Proof.Machine
end

section
/-! O6: the clauses of the CSR instructions, and their assembly. -/

namespace Sys2Proof.Proofs

open Sys2Proof Sys2Proof.Machine Sys2Proof.Claims

theorem csrr_results (s : State) (rd : XReg) (csr : BitVec 9) :
    (csrOpen s csr.toNat false none → exec (.csrr rd csr) s = .next (wrote s rd (s.csrRead s.me csr.toNat))) ∧
    (s.csrRead s.me 0x007).toNat = 2 ^ 62 / (s.me.modq.toNat % 2 ^ 30) % 2 ^ 64 ∧
    (0x100 ≤ csr.toNat → s.me.status.getLsbD 0 = false → plainMode s.me →
      exec (.csrr rd csr) s = .next (trapped s causePriv 0 (BitVec.ofNat 64 (parcelOf (.csrr rd csr))))) := by
  refine ⟨fun h => ?_, rfl, fun hn hs hm => ?_⟩
  · exact congrArg _ (State.csrReadOp_open h _ rd)
  · rw [← State.trap_eq_trapped hm (by decide)]
    exact congrArg _ (State.csrReadOp_priv hn hs _ rd)

theorem csrWrites_priv {s : State} {i : Instr} {rd ra : XReg} {csr : BitVec 9}
    (hi : i ∈ [Instr.csrw rd ra csr, .csrs rd ra csr, .csrc rd ra csr]) (hm : plainMode s.me) (hn : 0x100 ≤ csr.toNat)
    (hs : s.me.status.getLsbD 0 = false) :
    exec i s = .next (trapped s causePriv 0 (BitVec.ofNat 64 (parcelOf i))) := by
  obtain ⟨f, he, -⟩ := exec_of_csrNext s hi
  rw [he, State.csrWriteOp_priv hn hs, State.trap_eq_trapped hm (by decide)]

/-- The CSR instructions: a read, or one of the three writes. -/
theorem csr_cases {i : Instr} {rd ra : XReg} {csr : BitVec 9}
    (h : i ∈ [Instr.csrr rd csr, .csrw rd ra csr, .csrs rd ra csr, .csrc rd ra csr]) :
    i = .csrr rd csr ∨ i ≠ .csrr rd csr ∧ i ∈ [Instr.csrw rd ra csr, .csrs rd ra csr, .csrc rd ra csr] := by
  obtain rfl | h := List.mem_cons.1 h
  · exact .inl rfl
  · refine .inr ⟨?_, h⟩
    rintro rfl
    simp at h

/-- A CSR instruction that the matrix units stop whatever it writes. -/
theorem exec_csr_tileOff {s : State} {i : Instr} {rd ra : XReg} {csr : BitVec 9}
    (hi : i ∈ [Instr.csrr rd csr, .csrw rd ra csr, .csrs rd ra csr, .csrc rd ra csr]) (hm : plainMode s.me)
    (hn : s.csrMay csr.toNat) (p : Nat × Nat) (h : ∀ new, s.me.csrTileOff csr.toNat new = some p) :
    exec i s = .next (trapped s causeTileOff p.1 (BitVec.ofNat 64 p.2)) := by
  rw [← State.trap_eq_trapped hm (by decide)]
  obtain rfl | ⟨-, hi⟩ := csr_cases hi
  · exact congrArg _ (State.csrReadOp_tileOff hn (h none) _ rd)
  · obtain ⟨f, he, -⟩ := exec_of_csrNext s hi
    rw [he, State.csrWriteOp_tileOff hn (h _)]

/-- A CSR instruction that waits for tokens whatever it writes. -/
theorem exec_csr_tokens {s : State} {i : Instr} {rd ra : XReg} {csr : BitVec 9}
    (hi : i ∈ [Instr.csrr rd csr, .csrw rd ra csr, .csrs rd ra csr, .csrc rd ra csr]) (hn : s.csrMay csr.toNat)
    (h : ∀ new, s.me.csrTileOff csr.toNat new = none) (hw : csrWaits csr.toNat true = true)
    (hr : i = .csrr rd csr → csrWaits csr.toNat false = true) (ht : tokensOut s) :
    exec i s = .next (s.setMe { s.me with wait := some .engine }) := by
  have ht := s.tokensLeft_iff.2 ht
  obtain rfl | ⟨-, hi⟩ := csr_cases hi
  · exact congrArg _ (State.csrReadOp_tokens hn (h none) (hr rfl) ht _ rd)
  · obtain ⟨f, he, -⟩ := exec_of_csrNext s hi
    rw [he, State.csrWriteOp_tokens hn (h _) hw ht]
    rfl

theorem csr_tiles {s : State} {i : Instr} {rd ra : XReg} {csr : BitVec 9}
    (hi : i ∈ [Instr.csrr rd csr, .csrw rd ra csr, .csrs rd ra csr, .csrc rd ra csr]) (hm : plainMode s.me)
    (hc : csrOfTiles csr.toNat) :
    let k := csr.toNat - 0x010
    (s.me.share = 0 → exec i s = .next (trapped s causeTileOff 1 0)) ∧
    (s.me.share ≠ 0 → k < 8 → s.me.ten.getLsbD k = false →
      exec i s = .next (trapped s causeTileOff 0 (BitVec.ofNat 64 k))) ∧
    (s.me.share ≠ 0 → tokensOut s →
      k < 8 ∧ s.me.ten.getLsbD k = true ∨ csr = 0x018 ∧ i ≠ .csrr rd csr →
      exec i s = .next (s.setMe { s.me with wait := some .engine })) := by
  have hn : s.csrMay csr.toNat := fun h => absurd (csrOfTiles_lt hc) (by omega)
  refine ⟨fun hs => ?_, fun hs hk hten => ?_, fun hs ht h => ?_⟩
  · exact exec_csr_tileOff hi hm hn (1, 0) fun new => Ctx.csrTileOff_noShare hc hs new
  · exact exec_csr_tileOff hi hm hn (0, csr.toNat - 0x010) fun new => by
      rw [Ctx.csrTileOff_tcfg hc hs hk, hten, if_neg Bool.false_ne_true]
  · obtain ⟨hk, hten⟩ | ⟨rfl, hne⟩ := h
    · have hw : ∀ write, csrWaits csr.toNat write = true := fun write => by
        have hlo : 0x010 ≤ csr.toNat ∧ csr.toNat ≤ 0x017 := by
          unfold csrOfTiles at hc
          omega
        simp [csrWaits, hlo]
      refine exec_csr_tokens hi hn (fun new => ?_) (hw true) (fun _ => hw false) ht
      rw [Ctx.csrTileOff_tcfg hc hs hk, hten, if_pos rfl]
    · exact exec_csr_tokens hi hn (fun new => Ctx.csrTileOff_ten hs new) rfl (fun h => absurd h hne) ht

theorem csr_accfmt {s : State} {i : Instr} {rd ra : XReg} {v : Word} {a : Nat}
    (hi : i ∈ [Instr.csrw rd ra 0x019, .csrs rd ra 0x019, .csrc rd ra 0x019]) (hm : plainMode s.me) (hs : s.me.share ≠ 0)
    (hv : csrNext i s.me.accfmt (s.me.reg ra) = some v) :
    (a < 4 → s.me.accChanges v a → (∀ k < a, ¬ s.me.accChanges v k) →
      exec i s = .next (trapped s causeTileOff 0 (BitVec.ofNat 64 (8 + a)))) ∧
    ((∀ k < 4, ¬ s.me.accChanges v k) → tokensOut s → exec i s = .next (s.setMe { s.me with wait := some .engine })) := by
  obtain ⟨f, he, hf⟩ := exec_of_csrNext s hi
  obtain rfl : f s.me.accfmt = v := Option.some.inj ((hf _).symm.trans hv)
  have hn : s.csrMay 0x019 := fun h => absurd h (by decide)
  refine ⟨fun ha h hlt => ?_, fun h ht => ?_⟩
  · rw [he, ← State.trap_eq_trapped hm (by decide)]
    exact congrArg _ (State.csrWriteOp_tileOff hn (Ctx.csrTileOff_accfmt_some hs ha h hlt) i rd)
  · rw [he]
    exact congrArg _ (State.csrWriteOp_tokens hn (Ctx.csrTileOff_accfmt_none hs h) rfl (s.tokensLeft_iff.2 ht) i rd)

theorem csr_ptdesc {s : State} {i : Instr} {rd ra : XReg} {v : Word}
    (hi : i ∈ [Instr.csrw rd ra 0x111, .csrs rd ra 0x111, .csrc rd ra 0x111]) (hm : plainMode s.me)
    (hs : s.me.status.getLsbD 0 = true) (hv : csrNext i s.me.ptdesc (s.me.reg ra) = some v) :
    let desc := v &&& 0x0FFFFFFFFFFFFFE0
    (s.descAwake desc = true → s.captureDesc desc = .invalid →
      exec i s = .next (trapped s causeOperand 6 (BitVec.ofNat 64 (parcelOf i)))) ∧
    (s.descAwake desc = true → s.captureDesc desc = .poison → exec i s = .next (trapped s causeMemPoison 0 desc)) ∧
    (s.descAwake desc = false → exec i s = .next (s.setMe { s.me with wait := some .engine })) := by
  obtain ⟨f, he, hf⟩ := exec_of_csrNext s hi
  obtain rfl : f s.me.ptdesc = v := Option.some.inj ((hf _).symm.trans hv)
  have hopen : csrOpen s 0x111 true (some (f (s.csrRead s.me 0x111) &&& 0xFF)) := ⟨fun _ => hs, rfl, rfl⟩
  refine ⟨fun hd hc => ?_, fun hd hc => ?_, fun hd => ?_⟩
  · have hw := State.csrWriteOp_open hopen (fun _ => hd) i rd
    rw [he, ← State.trap_eq_trapped hm (by decide)]
    exact congrArg _ (hw.trans (congrArg _ (s.csrWrite_ptdesc_invalid s.me hc)))
  · have hw := State.csrWriteOp_open hopen (fun _ => hd) i rd
    rw [he, ← State.trap_eq_trapped hm (by decide), and_maskDesc]
    exact congrArg _ (hw.trans (congrArg _ (s.csrWrite_ptdesc_poison s.me hc)))
  · rw [he]
    exact congrArg _ (State.csrWriteOp_asleep hs hd i rd)

theorem csrWrites_refused {s : State} {i : Instr} {rd ra : XReg} {csr : BitVec 9} {m v : Word}
    (hi : i ∈ [Instr.csrw rd ra csr, .csrs rd ra csr, .csrc rd ra csr]) (hmask : csrMask csr.toNat = some m)
    (hv : csrNext i (s.csrRead s.me csr.toNat) (s.me.reg ra) = some v)
    (hopen : csrOpen s csr.toNat true (some (v &&& 0xFF))) (hm : plainMode s.me) :
    (csr.toNat ≠ 0x111 → ¬ csrAllows s.me csr.toNat (v &&& m) →
      exec i s = .next (trapped s causeOperand 6 (BitVec.ofNat 64 (parcelOf i)))) ∧
    (csr = 0x100 → v.getLsbD 0 ≠ s.me.status.getLsbD 0 →
      exec i s = .next (trapped s causeOp 5 (BitVec.ofNat 64 (parcelOf i)))) := by
  obtain ⟨f, he, hf⟩ := exec_of_csrNext s hi
  obtain rfl : f (s.csrRead s.me csr.toNat) = v := Option.some.inj ((hf _).symm.trans hv)
  refine ⟨fun hn ha => ?_, fun hn hs => ?_⟩
  · rw [he, ← State.trap_eq_trapped hm (by decide), State.csrWriteOp_open hopen (fun h => absurd h hn),
      State.csrWrite_forbidden hmask ha hn]
    rfl
  · subst hn
    have hw := State.csrWriteOp_open hopen (fun h => absurd h (by decide)) i rd
    rw [he, ← State.trap_eq_trapped hm (by decide)]
    exact congrArg _ (hw.trans (congrArg _ (s.csrWrite_status_refused s.me hs)))

/-! ### A write that completes -/

/-- A write that nothing stops completes with the context that holds the value without its Z fields. -/
theorem csrWrites_complete {s : State} {i : Instr} {rd ra : XReg} {csr : BitVec 9} {m v : Word}
    (hi : i ∈ [Instr.csrw rd ra csr, .csrs rd ra csr, .csrc rd ra csr]) (hmask : csrMask csr.toNat = some m)
    (hv : csrNext i (s.csrRead s.me csr.toNat) (s.me.reg ra) = some v)
    (hopen : csrOpen s csr.toNat true (some (v &&& 0xFF))) (ha : csrAllows s.me csr.toNat (v &&& m))
    (hs : csr = 0x100 → v.getLsbD 0 = s.me.status.getLsbD 0)
    (hd : csr = 0x111 → s.descAwake (v &&& m) = true ∧ ∃ d, s.captureDesc (v &&& m) = .ok d) :
    ∃ d, exec i s = .next (s.csrDone rd csr.toNat { s.me.putCsr csr.toNat (v &&& m) with desc := d }) := by
  obtain ⟨f, he, hf⟩ := exec_of_csrNext s hi
  obtain rfl : f (s.csrRead s.me csr.toNat) = v := Option.some.inj ((hf _).symm.trans hv)
  have hnum : ∀ {k : BitVec 9}, csr.toNat = k.toNat → csr = k := BitVec.eq_of_toNat_eq
  obtain ⟨d, hw⟩ := State.csrWrite_allowed hmask ha (fun h => hs (hnum h)) (fun h => (hd (hnum h)).2)
  have hawake : csr.toNat = 0x111 → s.descAwake (f (s.csrRead s.me csr.toNat) &&& 0x0FFFFFFFFFFFFFE0) = true := fun h => by
    obtain rfl : m = 0x0FFFFFFFFFFFFFE0 := by
      rw [h] at hmask
      exact (Option.some.inj hmask).symm
    exact (hd (hnum h)).1
  refine ⟨d, ?_⟩
  rw [he, State.csrWriteOp_open hopen hawake, hw]
  rfl

theorem csrWrites_results {s : State} {csr : BitVec 9} {m : Word} (rd : XReg) (v : Word) (d : Option PteFormat)
    (hmask : csrMask csr.toNat = some m) (hs : s.me.sid ∉ s.me.children) :
    let t := s.csrDone rd csr.toNat { s.me.putCsr csr.toNat (v &&& m) with desc := d }
    t.csrRead t.me csr.toNat = v &&& m ∧
    (∀ n, n < 512 → n ≠ csr.toNat → n ≠ 0x021 → (n = 0x007 → csr ≠ 0x006) → t.csrRead t.me n = s.csrRead s.me n) ∧
    t.me.reg rd = (if rd = 0 then 0 else s.csrRead s.me csr.toNat) ∧ (∀ q, q ≠ rd → t.me.reg q = s.me.reg q) ∧
    t.me.pc = s.me.pc + 4 ∧ sameBytes s t := by
  obtain ⟨hx, hpc, hsid, hchildren⟩ := s.me.putCsr_keeps csr.toNat (v &&& m)
  have hdesc : ∀ k, s.csrRead { s.me.putCsr csr.toNat (v &&& m) with desc := d } k =
      s.csrRead (s.me.putCsr csr.toNat (v &&& m)) k := fun _ => rfl
  generalize hc : ({ s.me.putCsr csr.toNat (v &&& m) with desc := d } : Ctx) = c at hdesc
  have hcx : c.x = s.me.x := hc ▸ hx
  have hcpc : c.pc = s.me.pc := hc ▸ hpc
  have hcsid : c.sid = s.me.sid := hc ▸ hsid
  have hcchildren : c.children = s.me.children := hc ▸ hchildren
  have h21 : csr.toNat ≠ 0x021 := fun h => by rw [h] at hmask; cases hmask
  intro t
  have hme : t.me = (c.setReg rd (s.csrRead s.me csr.toNat)).advance := State.csrDone_me ..
  refine ⟨?_, fun n _ hn hn21 hmod => ?_, ?_, fun q hq => ?_, ?_, (s.csrDone_keeps rd csr.toNat c).1.sameBytes⟩
  · by_cases h4 : csr.toNat = 4
    · have hput : c.vdirty = v &&& m := by rw [← hc, h4]; rfl
      rw [← hput, ← s.csrDone_vdirty rd c hcsid hcchildren hs, ← h4]
    · rw [← csrRead_putCsr_same s s.me (v &&& m) hmask h4, ← hdesc]
      exact s.csrDone_csrRead rd csr.toNat c hcsid hcchildren hs h21 fun _ => h4
  · rw [← csrRead_putCsr_other s s.me (v &&& m) hmask hn fun h h6 => hmod h (BitVec.eq_of_toNat_eq h6), ← hdesc]
    exact s.csrDone_csrRead rd csr.toNat c hcsid hcchildren hs hn21 fun h h4 => hn (h.trans h4.symm)
  · rw [hme, Ctx.reg_advance]
    split
    next h => rw [h, Ctx.reg_zero]
    next h => rw [Ctx.reg_setReg_same _ h]
  · rw [hme, Ctx.reg_advance, Ctx.reg_setReg_other _ hq]
    simp only [Ctx.reg, hcx]
  · rw [hme, Ctx.advance_pc, Ctx.setReg_pc, hcpc]

/-- Settles O6, clause by clause: who may access a CSR, what stops or delays it, and what a completed write leaves. -/
theorem csrInstructions : Obligations.CsrInstructions := by
  unfold Obligations.CsrInstructions
  refine ⟨csrr_results, fun s i rd ra csr hi hm hn hs => csrWrites_priv hi hm hn hs,
    fun s i rd ra csr hi hm hc => csr_tiles hi hm hc, fun s i rd ra v a hi hm hs hv => csr_accfmt hi hm hs hv,
    fun s i rd ra v hi hm hs hv => csr_ptdesc hi hm hs hv,
    fun s i rd ra csr m v hi hmask hv hopen ha hs hd hsid => ?_,
    fun s i rd ra csr m v hi hmask hv hopen hm => csrWrites_refused hi hmask hv hopen hm⟩
  obtain ⟨d, he⟩ := csrWrites_complete hi hmask hv hopen ha hs hd
  exact ⟨_, he, csrWrites_results rd v d hmask hsid⟩

end Sys2Proof.Proofs
end

section
/-! Every instruction and every event ends in a next state, and with it every step of a machine whose contexts exist
(R1, R20), and O55. -/

namespace Sys2Proof.Machine

/-- An outcome is a next state: neither a fault nor a refusal. -/
def GoesOn (o : Host.Outcome State Fault Refusal) : Prop := ∃ t, o = .next t

theorem goesOn_next (t : State) : GoesOn (.next t) := ⟨t, rfl⟩

theorem goesOn_ite {p : Prop} [Decidable p] {a b : Host.Outcome State Fault Refusal} (ha : GoesOn a) (hb : GoesOn b) :
    GoesOn (if p then a else b) := by
  split
  · exact ha
  · exact hb

/-! ## The operations that instructions share -/

theorem State.onBehalf_goesOn (s : State) (n : Nat) {f : State → Host.Outcome State Fault Refusal}
    (h : ∀ t, GoesOn (f t)) : GoesOn (s.onBehalf n f) := by
  obtain ⟨t, ht⟩ := h { s with cur := n }
  unfold State.onBehalf
  rw [ht]
  exact goesOn_next _

theorem State.branch_goesOn (s : State) (ra rb : XReg) (imm : BitVec 14) (f : Word → Word → Bool) :
    GoesOn (s.branch ra rb imm f) := goesOn_ite (goesOn_next _) (goesOn_next _)

theorem State.msOp_goesOn (s : State) (word : Nat) (n : MsName) (v : Option Word) (add : Nat) (f : Milestone → State) :
    GoesOn (s.msOp word n v add f) := by
  unfold State.msOp
  split <;> exact goesOn_next _

theorem State.mxOp_goesOn (s : State) (op : BitVec 3) (acc ta tb : Nat) (rm : BitVec 3) : GoesOn (s.mxOp op acc ta tb rm) := by
  unfold State.mxOp
  dsimp only
  split
  · exact goesOn_next _
  · exact goesOn_ite (goesOn_next _) (goesOn_next _)

theorem State.rtUpd_goesOn (s : State) (word : Nat) (rd ra : XReg) : GoesOn (s.rtUpd word rd ra) :=
  goesOn_ite (goesOn_next _) (goesOn_ite (goesOn_next _) (goesOn_next _))

theorem State.sfOp_goesOn (s : State) (word a idx : Nat) (ra : XReg) (put : Ctx → Nat → List Byte → State → Option State) :
    GoesOn (s.sfOp word a idx ra put) := goesOn_next _

theorem State.sfJn_goesOn (s : State) (word : Nat) (u : BitVec 5) (ra : XReg) (k : JnKind) : GoesOn (s.sfJn word u ra k) :=
  goesOn_ite (goesOn_next _) (s.sfOp_goesOn _ _ _ _ _)

theorem State.fireEvent_goesOn (s : State) (cl a : Nat) (f : Fire) : GoesOn (s.fireEvent cl a f) := by
  refine goesOn_ite (goesOn_next _) ?_
  split <;> exact goesOn_next _

theorem State.jnEvent_goesOn (s : State) (cl u : Nat) (k : JnKind) : GoesOn (s.jnEvent cl u k) := by
  unfold State.jnEvent
  split
  · exact goesOn_ite (s.fireEvent_goesOn _ _ _) (goesOn_next _)
  · exact goesOn_next _

/-! ## Waits that end by performing the instruction that waits -/

theorem execChPush_goesOn (c : BitVec 6) (ra : XReg) (rel : Bool) (s : State) : GoesOn (execChPush c ra rel s) := by
  unfold execChPush
  split
  · exact goesOn_next _
  · exact goesOn_ite (goesOn_next _) (goesOn_next _)

theorem execChPop_goesOn (rd : XReg) (c : BitVec 6) (i : BitVec 3) (s : State) : GoesOn (execChPop rd c i s) := by
  unfold execChPop
  split
  · exact goesOn_next _
  · split
    · exact goesOn_next _
    · exact goesOn_ite (goesOn_next _) (goesOn_next _)

theorem execChPushResume_goesOn (n : Nat) (s : State) : GoesOn (execChPushResume n s) := by
  unfold execChPushResume
  dsimp only
  split
  · exact goesOn_ite (State.onBehalf_goesOn _ _ fun t => execChPush_goesOn _ _ _ t) (goesOn_next _)
  · exact goesOn_next _

theorem execChPopResume_goesOn (n : Nat) (s : State) : GoesOn (execChPopResume n s) := by
  unfold execChPopResume
  dsimp only
  split
  · exact goesOn_ite (State.onBehalf_goesOn _ _ fun t => execChPop_goesOn _ _ _ t) (goesOn_next _)
  · exact goesOn_next _

theorem execXchSendGrant_goesOn (n : Nat) (s : State) : GoesOn (execXchSendGrant n s) := by
  unfold execXchSendGrant
  dsimp only
  split
  · exact goesOn_ite (State.onBehalf_goesOn _ _ fun t => goesOn_next _) (goesOn_next _)
  · exact goesOn_next _

/-! ## Every instruction and every event -/

/-- An instruction goes on by its shared operation, at once, or on each of its branches. -/
theorem exec_goesOn (i : Instr) (s : State) : GoesOn (exec i s) := by
  cases i
  case beq | bne | blt | bge | bltn | bgen =>
    dsimp only [exec, execBeq, execBne, execBlt, execBge, execBltn, execBgen]
    exact s.branch_goesOn _ _ _ _
  case msArrive | msWait | msAdd | msSet | msRead =>
    dsimp only [exec, execMsArrive, execMsWait, execMsAdd, execMsSet, execMsRead]
    exact s.msOp_goesOn _ _ _ _ _
  case mxMma | mxMms | mxZacc | mxRnd => exact s.mxOp_goesOn _ _ _ _ _
  case rtUpdWrite | rtUpdFlip | rtUpdQuery => exact s.rtUpd_goesOn _ _ _
  case sfAg => exact goesOn_ite (goesOn_next _) (s.sfOp_goesOn _ _ _ _ _)
  case sfRoute => exact goesOn_ite (goesOn_next _) (goesOn_ite (s.sfOp_goesOn _ _ _ _ _) (s.sfJn_goesOn _ _ _ _))
  case sfMerge | sfReord | sfPack | sfUnpack => exact s.sfJn_goesOn _ _ _ _
  case agFiring => exact goesOn_ite (s.fireEvent_goesOn _ _ _) (goesOn_next _)
  case routeFiring | mergeFiring | reorderFiring | packFiring | unpackFiring => exact s.jnEvent_goesOn _ _ _
  case chPush => exact execChPush_goesOn _ _ _ s
  case chPop => exact execChPop_goesOn _ _ _ s
  case chPushResume => exact execChPushResume_goesOn _ s
  case chPopResume => exact execChPopResume_goesOn _ s
  case xchSendGrant => exact execXchSendGrant_goesOn _ s
  case chBind | chTpop | chDetach | vchResume | chStall | fence | fenceComplete | msWaitSatisfied =>
    dsimp only [exec, execChBind, execChTpop, execChDetach, execVchResume, execChStall, execFence, execFenceComplete,
      execMsWaitSatisfied]
    repeat' split
    all_goals exact goesOn_next _
  case tret | jr | idle | idleDeadline | pprobe | ctxSave | ctxRest | vpart | convoyRetire | rtUpdReply =>
    dsimp only [exec, execTret, execJr, execIdle, execIdleDeadline, execPprobe, execCtxSave, execCtxRest, execVpart,
      execConvoyRetire, execRtUpdReply]
    repeat' split
    all_goals exact goesOn_next _
  case bpRun | bpTwl | mxSettl | mxTokenComplete | commandChannelTake | bpPassStart | bpPassEnd | twiddleLoad |
      cpCommandStart | cpCommandComplete =>
    dsimp only [exec, execBpRun, execBpTwl, execMxSettl, execMxTokenComplete, execCommandChannelTake, execBpPassStart,
      execBpPassEnd, execTwiddleLoad, execCpCommandStart, execCpCommandComplete]
    repeat' split
    all_goals exact goesOn_next _
  case launch | launchWindowStore | rotationBoundary | placement | preemptGraceExpiry | preemptStop =>
    dsimp only [exec, execLaunch, execLaunchWindowStore, execRotationBoundary, execPlacement, execPreemptGraceExpiry,
      execPreemptStop]
    repeat' split
    all_goals exact goesOn_next _
  case responseSuccess | invalidRequest | invalidationCompletion | ackAccepted | ackVisible | remoteNack |
      remoteTimeout | visibleAckTimeout | flipReachesIngress =>
    dsimp only [exec, execResponseSuccess, execInvalidRequest, execInvalidationCompletion, execAckAccepted,
      execAckVisible, execRemoteNack, execRemoteTimeout, execVisibleAckTimeout, execFlipReachesIngress]
    repeat' split
    all_goals exact goesOn_next _
  case phaseStart | calendarEnd | exchangeArrival | endMarkerArrival | heartbeat | standbyTakeover |
      generationAnnouncement =>
    dsimp only [exec, execPhaseStart, execCalendarEnd, execExchangeArrival, execEndMarkerArrival, execHeartbeat,
      execStandbyTakeover, execGenerationAnnouncement]
    repeat' split
    all_goals exact goesOn_next _
  case mmioRegisterWrite | thermalTrip | recoveryImage | advanceRollbackCounter | snapshotLatch | snapOutEnd |
      uncorrectableError | correctedError | ready | laneRepair | counterWrap =>
    dsimp only [exec, execMmioRegisterWrite, execThermalTrip, execRecoveryImage, execAdvanceRollbackCounter,
      execSnapshotLatch, execSnapOutEnd, execUncorrectableError, execCorrectedError, execReady, execLaneRepair,
      execCounterWrap]
    repeat' split
    all_goals exact goesOn_next _
  all_goals exact goesOn_next _

/-! ## The step -/

/-- An act that names no missing driver goes on. -/
theorem step_goesOn_of_act {s : State} (h : s.act exec ≠ .noContext) : s.goesOn := by
  show GoesOn (step s)
  unfold step
  split
  case h_1 i t _ => exact exec_goesOn i t
  case h_2 => exact goesOn_next _
  case h_3 hnone => exact absurd hnone h

theorem State.executes_ne_noContext (s : State) (n : Nat) : s.executes n ≠ .noContext := by
  unfold State.executes
  split <;> exact Act.noConfusion

theorem State.issueFrom_ne_noContext (s : State) (d n : Nat) : s.issueFrom d n ≠ .noContext := by
  unfold State.issueFrom
  split
  · exact Act.noConfusion
  · dsimp only
    split
    · exact State.executes_ne_noContext _ n
    · exact Act.noConfusion

theorem State.issue_ne_noContext (s : State) {d : Nat} (h : d < 64) : s.issue d ≠ .noContext := by
  unfold State.issue
  rw [if_neg (Nat.not_le.2 h)]
  split
  · exact Act.noConfusion
  · split
    · exact s.issueFrom_ne_noContext d _
    · exact Act.noConfusion

/-- The driver that issues next has one of the contexts that the machine lists. -/
theorem State.nextDriver_lt {s : State} (h : (s.ctxs.all fun e => decide (e.1 < 256)) = true) {d : Nat}
    (hd : s.nextDriver = some d) : d < 64 := by
  obtain ⟨e, he, rfl⟩ := List.mem_map.1 (List.mem_of_find?_eq_some hd)
  have hlt : e.1 < 256 := by simpa using List.all_eq_true.1 h e (List.mem_of_mem_filter he)
  omega

theorem State.busy_ne_noContext {s : State} (h : (s.ctxs.all fun e => decide (e.1 < 256)) = true)
    (ex : Instr → State → Host.Outcome State Fault Refusal) : s.busy ex ≠ some .noContext := by
  unfold State.busy
  split
  · exact fun h => by cases h
  · split
    · exact fun h => s.executes_ne_noContext _ (Option.some.inj h)
    · split
      · exact fun h => by cases h
      · intro hissue
        obtain ⟨d, hd, hact⟩ := Option.map_eq_some_iff.1 hissue
        exact s.issue_ne_noContext (State.nextDriver_lt h hd) hact

theorem State.perform_ne_noContext (s : State) {a : Agendum} (h : ∀ d, a = .issue d → d < 64) : s.perform a ≠ .noContext := by
  cases a with
  | issue d => exact s.issue_ne_noContext (h d rfl)
  | event i =>
    unfold State.perform
    dsimp only
    repeat' split
    all_goals exact Act.noConfusion
  | outside | tick | evict | perform | lag | clean => exact Act.noConfusion

theorem State.busyOrTick_ne_noContext {s : State} (h : (s.ctxs.all fun e => decide (e.1 < 256)) = true)
    (ex : Instr → State → Host.Outcome State Fault Refusal) (t : State) : (s.busy ex).getD (.go t) ≠ .noContext := by
  cases hb : s.busy ex with
  | none => exact Act.noConfusion
  | some a => exact fun ha : a = .noContext => s.busy_ne_noContext h ex (ha ▸ hb)

theorem State.act_ne_noContext {s : State} (h : s.contextsExist = true) : s.act exec ≠ .noContext := by
  obtain ⟨hctxs, hagenda⟩ := Bool.and_eq_true_iff.1 h
  unfold State.act
  split
  case h_1 => exact s.busyOrTick_ne_noContext hctxs exec _
  case h_2 => exact Act.noConfusion
  case h_3 => exact s.busyOrTick_ne_noContext hctxs exec _
  case h_4 a l _ _ heq =>
    refine State.perform_ne_noContext _ fun d hd => ?_
    have ha := List.all_eq_true.1 hagenda a (heq ▸ List.mem_cons_self)
    rw [hd] at ha
    exact of_decide_eq_true ha

end Sys2Proof.Machine

namespace Sys2Proof.Proofs

open Sys2Proof Sys2Proof.Machine Sys2Proof.Claims

/-- Settles O55: each instruction goes on, on every branch of its meaning, and a step stops only for a driver that does
not exist, which neither the agenda nor a listed context names. -/
theorem theMachineGoesOn : Obligations.TheMachineGoesOn := by
  unfold Obligations.TheMachineGoesOn
  exact ⟨exec_goesOn, fun s h => step_goesOn_of_act (State.act_ne_noContext h)⟩

end Sys2Proof.Proofs
end

section
/-! O29 fails: a spcfg in the convoy switches which cell a scratchpad offset names (R255, R274), so that a convoy without
any memory effect still changes what an offset reads. -/

namespace Sys2Proof.Proofs

open Sys2Proof Sys2Proof.Machine Sys2Proof.Claims

/-- A convoy whose one slot, an spcfg, has run: at its retirement the cluster takes the linear mapping. -/
def linearConvoy : Convoy := { logs := [{ spcfg := some 1 }] }

/-- Context 0 before that retirement: cluster 0 has the skewed mapping, and row 1 of bank 0 holds a byte. -/
def linearState : State := { ctxs := [(0, { mode := .resident, viq := [linearConvoy] })], sp := smSet 0 [] 8 1 }

theorem linearState_retires : exec (.convoyRetire 0) linearState = .next (linearState.retireOk 0 linearConvoy) := rfl

/-- Offset 2048 lies in bank 1 under the skewed mapping, and in bank 0 under the linear one. -/
theorem linearState_readSp :
    linearState.readSp 0 2048 = 0 ∧ (linearState.retireOk 0 linearConvoy).readSp 0 2048 = 1 := by
  decide +kernel

/-- Refutes O29: the convoy pushes nothing, stores nothing and updates nothing, and no counter is enabled, yet after its
spcfg the scratchpad reads another byte at offset 2048, where the statement has every byte read as before. -/
theorem not_convoyCommit : ¬ Obligations.ConvoyCommit := by
  unfold Obligations.ConvoyCommit
  rintro ⟨hcommit, -, -⟩
  obtain ⟨t, ht, -, -, -, -, -, -, -, -, -, -, -, -, -, -, -, hunchanged⟩ :=
    hcommit linearState linearState 0 linearConvoy rfl rfl rfl rfl rfl rfl
  obtain ⟨-, hsame, -⟩ := hunchanged rfl
  obtain ⟨-, hscratch⟩ := hsame (by decide)
  cases linearState_retires.symm.trans ht
  have hbyte := hscratch 0 2048
  rw [linearState_readSp.1, linearState_readSp.2] at hbyte
  exact absurd hbyte (by decide)

end Sys2Proof.Proofs
end


section
/-! What the counters, the fault queue and the released memory of the package leave alone: the strands, their queues and
their slots (R418, R420, R432). -/

namespace Sys2Proof.Machine

/-- Two states agree on the contexts, the queues, the launch slots and the parked strands. -/
structure State.SameStrands (s t : State) : Prop where
  ctxs : t.ctxs = s.ctxs
  queues : t.queues = s.queues
  slots : t.slots = s.slots
  parked : t.parked = s.parked

theorem State.SameStrands.refl (s : State) : s.SameStrands s := ⟨rfl, rfl, rfl, rfl⟩

theorem State.SameStrands.trans {s t u : State} (h : s.SameStrands t) (g : t.SameStrands u) : s.SameStrands u :=
  ⟨g.ctxs.trans h.ctxs, g.queues.trans h.queues, g.slots.trans h.slots, g.parked.trans h.parked⟩

theorem State.SameStrands.ctxAt {s t : State} (h : s.SameStrands t) (n : Nat) : t.ctxAt n = s.ctxAt n := by
  simp only [State.ctxAt, h.ctxs]

theorem State.SameStrands.queueAt {s t : State} (h : s.SameStrands t) (n : Nat) : t.queueAt n = s.queueAt n := by
  simp only [State.queueAt, h.queues]

/-- Steps that each keep the strands keep them together. -/
theorem State.SameStrands.foldl {α : Type} {f : State → α → State} (hf : ∀ (s : State) (a : α), s.SameStrands (f s a)) :
    ∀ (l : List α) (s : State), s.SameStrands (l.foldl f s)
  | [], s => .refl s
  | a :: l, s => (hf s a).trans (State.SameStrands.foldl hf l (f s a))

/-! ## Counters and the fault queue -/

theorem State.writeBytes_sameStrands : ∀ (l : List Byte) (s : State) (pa : Nat), s.SameStrands (s.writeBytes pa l)
  | [], s, _ => .refl s
  | b :: l, s, pa =>
    have hbyte : s.SameStrands (s.writeByte pa b) := ⟨rfl, rfl, rfl, rfl⟩
    hbyte.trans (State.writeBytes_sameStrands l _ _)

theorem State.writePhys_sameStrands (s : State) (pa : Nat) (l : List Byte) : s.SameStrands (s.writePhys pa l) :=
  (State.writeBytes_sameStrands l s pa).trans ⟨rfl, rfl, rfl, rfl⟩

theorem State.fqWrite_sameStrands (s : State) (r : FqRec) : s.SameStrands (s.fqWrite r) := by
  have hwritten := s.writePhys_sameStrands s.fqPa (fqBytes r)
  unfold State.fqWrite
  generalize s.writePhys s.fqPa (fqBytes r) = t at hwritten
  exact hwritten.trans ⟨rfl, rfl, rfl, rfl⟩

theorem State.post_sameStrands (s : State) (r : FqRec) : s.SameStrands (s.post r) := by
  have hseq : s.SameStrands { s with seq := s.seq + 1 } := ⟨rfl, rfl, rfl, rfl⟩
  unfold State.post
  dsimp only
  split
  · exact hseq.trans (State.fqWrite_sameStrands _ _)
  · split
    · exact hseq.trans ⟨rfl, rfl, rfl, rfl⟩
    · exact hseq.trans ⟨rfl, rfl, rfl, rfl⟩

theorem State.perfAdd_sameStrands (s : State) (block i n : Nat) : s.SameStrands (s.perfAdd block i n) := by
  have hperf : ∀ (s : State) (m : SMap Word), s.SameStrands { s with perf := m } := fun s m => ⟨rfl, rfl, rfl, rfl⟩
  unfold State.perfAdd
  dsimp only
  split
  · exact hperf s _
  · split
    · exact ((hperf s _).trans (hperf _ _)).trans (State.post_sameStrands _ _)
    · exact (hperf s _).trans (hperf _ _)

theorem State.perf1_sameStrands (s : State) (block code : Nat) (pasids : List Word) (n i : Nat) :
    s.SameStrands (s.perf1 block code pasids n i) := by
  unfold State.perf1
  dsimp only
  split
  · exact s.perfAdd_sameStrands block i n
  · exact .refl s

theorem State.perfCount_sameStrands (s : State) (block code : Nat) (pasid : Option Word) (n : Nat) :
    s.SameStrands (s.perfCount block code pasid n) := by
  unfold State.perfCount State.perfCountOf
  split
  · exact .refl s
  · exact .foldl (fun s i => s.perf1_sameStrands _ _ _ _ i) _ s

end Sys2Proof.Machine
end


section
/-! How a parcel is refused before it runs: by its fetch, by the decoder, and by the checks of an opened convoy (R78, R98 to
R101, R366, R367, R370, R461). -/

namespace Sys2Proof.Machine

open Sys2Proof.Claims

/-- A trap outside a handler but for HW_UE, which R359 answers for a gang. -/
theorem State.enterTrap_eq_trappedIn {s : State} {n : Nat} (h : plainMode (s.ctxAt n)) {t : TrapInfo}
    (hc : t.cause ≠ causeHwUe) (epc : Word) : s.enterTrap n t epc = trappedIn s n t epc := by
  unfold State.enterTrap
  rw [if_neg fun hue => hc hue.1]
  exact State.enterPlain_eq_trappedIn h t epc

/-! ## The fetch of a parcel -/

theorem accSub_fetch (user : Bool) : accSub 2 user false = if user then 6 else 2 := by
  cases user <;> rfl

theorem State.fetchWord_of_translate_trap {s s' : State} {c : Ctx} {va : Nat} {t : TrapInfo}
    (h : s.translateOut sDie c 2 (c.noMmio 2 va) va = .trap t s') : s.fetchWord c va = .trap t s' := by
  unfold State.fetchWord State.translate
  rw [h]
  rfl

/-- A fetch that finds a cached translation which R366 or R461 forbids. -/
theorem State.fetchWord_hit {s : State} {c : Ctx} {va : Nat} {d : PteFormat} {e : TlbEntry} (hd : c.desc = some d)
    (hhit : s.hit sDie c d 2 (!c.sup) va = some e) :
    (s.leafOk d (e.addr va) = false → s.fetchWord c va = .trap (trapOf causePteFmt e.level (BitVec.ofNat 64 va)) s) ∧
    (s.leafOk d (e.addr va) = true → regionOf (s.outPa d (e.addr va)) = 3 →
      s.fetchWord c va = .trap (protTrap 2 (!c.sup) va) s) := by
  refine ⟨fun hbad => State.fetchWord_of_translate_trap ?_, fun hok hregion => State.fetchWord_of_translate_trap ?_⟩
  · simp only [State.translateOut, hd, hhit, hbad, Bool.not_false, ↓reduceIte]
  · simp only [State.translateOut, hd, hhit, hok, Gate.at, hregion, Ctx.noMmio, Bool.not_true, Bool.false_eq_true, ↓reduceIte]

/-- A fetch whose walk fails, with PRI off where the page is absent or denied. -/
theorem State.fetchWord_walk {s : State} {c : Ctx} {va : Nat} {d : PteFormat} (hd : c.desc = some d)
    (hhit : s.hit sDie c d 2 (!c.sup) va = none) {t : TrapInfo}
    (h : let walk := (s.countMiss sDie c).siteWalk sDie c d 2 (!c.sup) false va
      let here := BitVec.ofNat 64 va
      (∃ k, (walk = .absent k ∧ d.pri = false ∧ t = trapOf causeXlate (accSub 2 (!c.sup) false) here) ∨
        (walk = .denied k ∧ d.pri = false ∧ t = trapOf causeProt (accSub 2 (!c.sup) false) here) ∨
        (walk = .prot k ∧ t = trapOf causeProt (accSub 2 (!c.sup) false) here) ∨
        (walk = .format k ∧ t = trapOf causePteFmt k here) ∨ (walk = .poison k ∧ t = trapOf causeMemPoison 0 here))) :
    s.fetchWord c va = .trap t (s.countMiss sDie c) := by
  refine State.fetchWord_of_translate_trap ?_
  obtain ⟨k, ⟨hwalk, hpri, rfl⟩ | ⟨hwalk, hpri, rfl⟩ | ⟨hwalk, rfl⟩ | ⟨hwalk, rfl⟩ | ⟨hwalk, rfl⟩⟩ := h
  · simp only [State.translateOut, hd, hhit, hwalk, State.askOr, hpri, Bool.not_false, ↓reduceIte]
  · simp only [State.translateOut, hd, hhit, hwalk, State.askOr, hpri, Bool.not_false, ↓reduceIte]
  · simp only [State.translateOut, hd, hhit, hwalk]
  · simp only [State.translateOut, hd, hhit, hwalk]
  · simp only [State.translateOut, hd, hhit, hwalk]

/-- Each way in which a fetch fails is its trap, in the state that the attempt leaves. -/
theorem State.fetchWord_trap {s s' : State} {c : Ctx} {va : Nat} {cause : BitVec 8} {sub : Nat} {eval : Word}
    (h : fetchFaults s s' c va cause sub eval) : s.fetchWord c va = .trap (trapOf cause sub eval) s' := by
  have hkind : (if (!c.status.getLsbD 0) = true then 6 else 2) = accSub 2 (!c.sup) false := (accSub_fetch _).symm
  obtain ⟨hd, rfl, rfl, rfl, rfl⟩ | ⟨d, e, hd, hhit, rfl, rfl, hleaf⟩ | ⟨d, k, hd, hhit, rfl, rfl, hwalk⟩ |
    ⟨pa, hpa, hawake, hnear, hpoison, rfl, rfl, rfl⟩ := h
  · exact State.fetchWord_of_translate_trap (by simp only [State.translateOut, hd])
  · obtain ⟨hbad, rfl, rfl⟩ | ⟨hok, hregion, rfl, rfl⟩ := hleaf
    · exact (State.fetchWord_hit hd hhit).1 hbad
    · rw [hkind]
      exact (State.fetchWord_hit hd hhit).2 hok hregion
  · refine State.fetchWord_walk hd hhit ⟨k, ?_⟩
    dsimp only at hwalk
    rw [hkind] at hwalk
    obtain ⟨hw, hpri, rfl, rfl⟩ | ⟨hw, hpri, rfl, rfl⟩ | ⟨hw, rfl, rfl⟩ | ⟨hw, rfl, rfl⟩ | ⟨hw, rfl, rfl⟩ := hwalk
    · exact .inl ⟨hw, hpri, rfl⟩
    · exact .inr (.inl ⟨hw, hpri, rfl⟩)
    · exact .inr (.inr (.inl ⟨hw, rfl⟩))
    · exact .inr (.inr (.inr (.inl ⟨hw, rfl⟩)))
    · exact .inr (.inr (.inr (.inr ⟨hw, rfl⟩)))
  · unfold State.fetchWord
    rw [hpa]
    simp only [Res.andThen_ok, hawake, hnear, Bool.false_and, Bool.or_false, Bool.false_eq_true, ↓reduceIte, hpoison]

/-- No fetch raises HW_UE. -/
theorem fetchFaults_cause_ne {s s' : State} {c : Ctx} {va : Nat} {cause : BitVec 8} {sub : Nat} {eval : Word}
    (h : fetchFaults s s' c va cause sub eval) : cause ≠ causeHwUe := by
  obtain ⟨-, rfl, -⟩ | ⟨d, e, -, -, -, -, ⟨-, rfl, -⟩ | ⟨-, -, rfl, -⟩⟩ |
    ⟨d, k, -, -, -, -, ⟨-, -, rfl, -⟩ | ⟨-, -, rfl, -⟩ | ⟨-, rfl, -⟩ | ⟨-, rfl, -⟩ | ⟨-, rfl, -⟩⟩ |
    ⟨pa, -, -, -, -, rfl, -⟩ := h
  all_goals decide

/-- The bytes at a PC whose first parcel cannot be fetched. -/
theorem State.fetchBytes_trap {s s' : State} {c : Ctx} {t : TrapInfo} (h : s.fetchWord c c.pc.toNat = .trap t s') :
    s.fetchBytes c = .trap t s' := by
  unfold State.fetchBytes
  rw [h]
  rfl

/-! ## The decoder's causes -/

/-- A decode that fails does so with one of the causes of R100, which are 1 to 3. -/
def decCauseOk : Dec → Prop
  | .ok _ => True
  | .bad c _ => c ≤ 3

@[simp] theorem decCauseOk_ok (i : Instr) : decCauseOk (.ok i) := trivial

@[simp] theorem decCauseOk_op1 (n : Nat) : decCauseOk (.bad causeIllegalOp n) := by
  show 1 ≤ 3
  decide

@[simp] theorem decCauseOk_needOp (b : Bool) (n : Nat) (k : Dec) :
    decCauseOk (needOp b n k) ↔ (b = true → decCauseOk k) := by
  cases b <;> simp [needOp]

@[simp] theorem decCauseOk_needOperand (b : Bool) (n : Nat) (k : Dec) :
    decCauseOk (needOperand b n k) ↔ (b = true → decCauseOk k) := by
  cases b <;> simp [needOperand, decCauseOk, causeIllegalOperand]

@[simp] theorem decCauseOk_checked (o : Option Nat) (k : Dec) : decCauseOk (checked o k) ↔ (o = none → decCauseOk k) := by
  cases o <;> simp [checked]

theorem decAmo_causeOk (rd ra rb : XReg) (fn : Nat) : decCauseOk (decAmo rd ra rb fn) := by
  unfold decAmo
  dsimp only
  split <;> simp

theorem decSf_causeOk (rd ra rb : XReg) (fn : Nat) : decCauseOk (decSf rd ra rb fn) := by
  unfold decSf
  rw [decCauseOk_needOp]
  intro _
  split <;> simp

theorem decPl_causeOk (rd ra rb : XReg) (fn : Nat) : decCauseOk (decPl rd ra rb fn) := by
  unfold decPl
  rw [decCauseOk_needOp]
  intro _
  split <;> simp

theorem decMx_causeOk (rd ra rb : XReg) (fn : Nat) : decCauseOk (decMx rd ra rb fn) := by
  unfold decMx
  rw [decCauseOk_needOp]
  intro _
  split <;> simp

theorem decXch_causeOk (rd ra rb : XReg) (fn : Nat) : decCauseOk (decXch rd ra rb fn) := by
  unfold decXch
  rw [decCauseOk_needOp]
  intro _
  split <;> simp

theorem decMs_causeOk (rd ra rb : XReg) (fn : Nat) : decCauseOk (decMs rd ra rb fn) := by
  unfold decMs
  rw [decCauseOk_needOp]
  intro _
  split <;> simp

theorem decSysop_causeOk (rd ra rb : XReg) (fn : Nat) : decCauseOk (decSysop rd ra rb fn) := by
  unfold decSysop
  rw [decCauseOk_needOp]
  intro _
  split <;> simp

theorem decR_causeOk (op : Nat) (rd ra rb : XReg) (fn : Nat) : decCauseOk (decR op rd ra rb fn) := by
  unfold decR
  split
  case h_23 =>
    rw [decCauseOk_needOp]
    intro _
    split <;> simp
  all_goals simp [dec3, decFp, decAmo_causeOk, decSf_causeOk, decPl_causeOk, decMx_causeOk, decXch_causeOk, decMs_causeOk,
    decSysop_causeOk]

theorem decI_causeOk (op : Nat) (rd ra : XReg) (imm : Nat) : decCauseOk (decI op rd ra imm) := by
  unfold decI
  split <;> simp [decMem, decAcqRel]

theorem decL_causeOk (op : Nat) (rd : XReg) (imm : Nat) : decCauseOk (decL op rd imm) := by
  unfold decL
  split <;> simp

theorem decodeScalar_causeOk (w : Nat) : decCauseOk (decodeScalar w) := by
  unfold decodeScalar
  dsimp only
  split
  · exact decR_causeOk _ _ _ _ _
  · exact decI_causeOk _ _ _ _
  · exact decL_causeOk _ _ _
  · exact Nat.le_refl 3

theorem vrInstr_causeOk (m : Nat) (f : VR) : decCauseOk (vrInstr m f) := by
  unfold vrInstr
  split <;> simp

theorem viInstr_causeOk (m : Nat) (f : VI) : decCauseOk (viInstr m f) := by
  unfold viInstr
  split <;> simp

theorem vtInstr_causeOk (m : Nat) (f : VT) : decCauseOk (vtInstr m f) := by
  unfold vtInstr
  split <;> simp

theorem vmInstr_causeOk (m : Nat) (f : VM) : decCauseOk (vmInstr m f) := by
  unfold vmInstr
  split <;> simp

theorem decodeVec_causeOk (w : Nat) : decCauseOk (decodeVec w) := by
  unfold decodeVec
  dsimp only
  repeat' split
  all_goals simp [vrInstr_causeOk, viInstr_causeOk, vtInstr_causeOk, vmInstr_causeOk]

/-- A cause of decoding is none of HW_UE. -/
theorem cause_ne_hwUe {c : Nat} (h : c ≤ 3) : BitVec.ofNat 8 c ≠ causeHwUe := by
  interval_cases c <;> decide

/-! ## Refused parcels (R98) -/

theorem decR_reserved {op : Nat} (h : 0x22 ≤ op ∧ op ≤ 0x27) (rd ra rb : XReg) (fn : Nat) :
    decR op rd ra rb fn = .bad causeIllegalOp 1 := by
  obtain ⟨hlo, hhi⟩ := h
  interval_cases op <;> rfl

theorem decI_reserved {op : Nat} (h : 0x09 ≤ op ∧ op ≤ 0x0F ∨ 0x27 ≤ op) (rd ra : XReg) (imm : Nat) :
    decI op rd ra imm = .bad causeIllegalOp 1 := by
  unfold decI
  dsimp only
  split
  case h_33 => rfl
  all_goals omega

theorem decL_reserved {op : Nat} (h : 3 ≤ op) (rd : XReg) (imm : Nat) : decL op rd imm = .bad causeIllegalOp 1 := by
  unfold decL
  split
  case h_4 => rfl
  all_goals omega

/-- An operation of three registers whose fn9 is not zero. -/
theorem decR_fn {op fn : Nat} (h : op ≤ 0x15 ∨ op = 0x17 ∨ op = 0x18) (hfn : fn ≠ 0) (rd ra rb : XReg) :
    decR op rd ra rb fn = .bad causeIllegalOp 2 := by
  have hbad : ∀ i, dec3 fn i = .bad causeIllegalOp 2 := fun i => by
    unfold dec3
    rw [decide_eq_false hfn]
    rfl
  obtain hop | rfl | rfl := h
  · interval_cases op <;> exact hbad _
  · exact hbad _
  · exact hbad _

theorem decR_fcmp {fn : Nat} (h : 4 ≤ fn ∧ fn < 8) (rd ra rb : XReg) : decR 0x1E rd ra rb fn = .bad causeIllegalOp 3 := by
  obtain ⟨hlo, hhi⟩ := h
  interval_cases fn <;> rfl

/-- A rounding code that the scalar FP32 operations do not have. -/
theorem decR_rounding {op fn : Nat} (h : 0x19 ≤ op ∧ op ≤ 0x1D) (hfn : fn ∈ [4, 6, 7]) (rd ra rb : XReg) :
    decR op rd ra rb fn = .bad causeIllegalOp 4 := by
  have hbad : ∀ mk, decFp fn mk = .bad causeIllegalOp 4 := fun mk => by
    simp only [List.mem_cons, List.not_mem_nil, or_false] at hfn
    obtain rfl | rfl | rfl := hfn <;> rfl
  obtain ⟨hlo, hhi⟩ := h
  interval_cases op <;> exact hbad _

theorem decR_csrr {fn : Nat} (h : csrKnown fn = false) (rd : XReg) : decR 0x29 rd 0 0 fn = .bad causeIllegalOp 5 := by
  show needOp (csrKnown fn) 5 _ = _
  rw [h]
  rfl

theorem decR_csrWrite {op fn : Nat} (hop : 0x2A ≤ op ∧ op ≤ 0x2C) (h : csrWritable fn = false) (rd ra : XReg) :
    decR op rd ra 0 fn = .bad causeIllegalOp 5 := by
  have hbad : ∀ k, needOp (csrWritable fn) 5 k = .bad causeIllegalOp 5 := fun k => by
    rw [h]
    rfl
  obtain ⟨hlo, hhi⟩ := hop
  interval_cases op <;> exact hbad _

theorem decR_fence {fn : Nat} (h : fn < 16 ∧ 6 ≤ fn % 8) (ra : XReg) :
    decR 0x28 0 ra 0 fn = .bad causeIllegalOperand 4 := by
  obtain rfl | rfl | rfl | rfl : fn = 6 ∨ fn = 7 ∨ fn = 14 ∨ fn = 15 := by omega
  all_goals rfl

/-- The registers of a parcel whose field is zero. -/
theorem reg_zero {h k : Nat} (hz : h / 2 ^ k % 32 = 0) : BitVec.ofNat 5 (h / 2 ^ k) = 0 :=
  BitVec.eq_of_toNat_eq (by simpa using hz)

theorem decodeScalar_r {h : Nat} (h0 : h % 4 = 0) : decodeScalar h = decR (h / 4 % 64) (BitVec.ofNat 5 (h / 2 ^ 8))
    (BitVec.ofNat 5 (h / 2 ^ 13)) (BitVec.ofNat 5 (h / 2 ^ 18)) (h / 2 ^ 23 % 512) := by
  simp only [decodeScalar, h0]

theorem parcelRefused_bad {h c n : Nat} (hr : parcelRefused h c n) : h % 4 ≠ 3 ∧ decodeScalar h = .bad c n := by
  obtain ⟨h0, hlo, hhi, rfl, rfl⟩ | ⟨h1, hop, rfl, rfl⟩ | ⟨h2, hop, rfl, rfl⟩ | ⟨h0, hop, hfn, rfl, rfl⟩ |
    ⟨h0, hop, hlo, hhi, rfl, rfl⟩ | ⟨h0, hlo, hhi, hfn, rfl, rfl⟩ | ⟨h0, hop, hra, hrb, hcsr, rfl, rfl⟩ |
    ⟨h0, hlo, hhi, hrb, hcsr, rfl, rfl⟩ | ⟨h0, hop, hrd, hrb, hlt, hscope, rfl, rfl⟩ | hbad := hr
  · exact ⟨by omega, (decodeScalar_r h0).trans (decR_reserved ⟨hlo, hhi⟩ _ _ _ _)⟩
  · refine ⟨by omega, ?_⟩
    simp only [decodeScalar, h1]
    exact decI_reserved hop _ _ _
  · refine ⟨by omega, ?_⟩
    simp only [decodeScalar, h2]
    exact decL_reserved hop _ _
  · exact ⟨by omega, (decodeScalar_r h0).trans (decR_fn hop hfn _ _ _)⟩
  · refine ⟨by omega, (decodeScalar_r h0).trans ?_⟩
    rw [hop]
    exact decR_fcmp ⟨hlo, hhi⟩ _ _ _
  · exact ⟨by omega, (decodeScalar_r h0).trans (decR_rounding ⟨hlo, hhi⟩ hfn _ _ _)⟩
  · refine ⟨by omega, (decodeScalar_r h0).trans ?_⟩
    rw [hop, reg_zero hra, reg_zero hrb]
    exact decR_csrr hcsr _
  · refine ⟨by omega, (decodeScalar_r h0).trans ?_⟩
    rw [reg_zero hrb]
    exact decR_csrWrite ⟨hlo, hhi⟩ hcsr _ _
  · refine ⟨by omega, (decodeScalar_r h0).trans ?_⟩
    rw [hop, reg_zero hrd, reg_zero hrb]
    exact decR_fence ⟨hlt, hscope⟩ _
  · exact hbad

/-! ## Refused convoys (R99, R100) -/

/-- The lowest of the four slots that a check marks. -/
theorem lowestSlot {p : Nat → Bool} {k : Nat} (hk : k < 4) (hp : p k = true) (hmin : ∀ j, j < k → p j = false) :
    ([0, 1, 2, 3].filter p).head? = some k := by
  have hfind : (List.range 4).find? p = some k :=
    List.find?_range_eq_some.2 ⟨hp, List.mem_range.2 hk, fun j hj => by simp [hmin j hj]⟩
  rw [List.head?_filter]
  exact hfind

theorem noSlot {p : Nat → Bool} (h : ∀ k, k < 4 → p k = false) : ([0, 1, 2, 3].filter p).head? = none := by
  have hfind : (List.range 4).find? p = none :=
    List.find?_eq_none.2 fun k hk => by simp [h k (List.mem_range.1 hk)]
  rw [List.head?_filter]
  exact hfind

theorem strayUnit_some {h k : Nat} (hlo : convoyCount h ≤ k) (hk : k < 4) (hu : unitCode h k ≠ 0)
    (hmin : ∀ j, convoyCount h ≤ j → j < k → unitCode h j = 0) : strayUnit h = some k := by
  refine lowestSlot hk (by simp [hlo, hu]) fun j hj => ?_
  by_cases hc : convoyCount h ≤ j
  · simp [hmin j hc hj]
  · simp [hc]

theorem strayUnit_none {h : Nat} (hz : ∀ k, convoyCount h ≤ k → k < 4 → unitCode h k = 0) : strayUnit h = none := by
  refine noSlot fun k hk => ?_
  by_cases hc : convoyCount h ≤ k
  · simp [hz k hc hk]
  · simp [hc]

/-- Some slot before slot k has its unit code. -/
theorem clashes_iff {h k : Nat} (hk : k < 4) :
    ([0, 1, 2].any fun i => decide (i < k) && decide (unitCode h i = unitCode h k)) = true ↔
      ∃ i, i < k ∧ unitCode h i = unitCode h k := by
  simp only [List.any_eq_true, Bool.and_eq_true, decide_eq_true_eq]
  constructor
  · rintro ⟨i, -, hi⟩
    exact ⟨i, hi⟩
  · rintro ⟨i, hi, hu⟩
    refine ⟨i, ?_, hi, hu⟩
    simp only [List.mem_cons, List.not_mem_nil, or_false]
    omega

theorem convoyCount_le (h : Nat) : convoyCount h ≤ 4 := by
  unfold convoyCount
  omega

theorem unitClash_some {h k : Nat} (hk : k < convoyCount h) (hu : ∃ i, i < k ∧ unitCode h i = unitCode h k)
    (hmin : ∀ j, j < k → ∀ i, i < j → unitCode h i ≠ unitCode h j) : unitClash h = some k := by
  have hlt : k < 4 := hk.trans_le (convoyCount_le h)
  refine lowestSlot hlt (Bool.and_eq_true_iff.2 ⟨decide_eq_true hk, (clashes_iff hlt).2 hu⟩) fun j hj => ?_
  refine Bool.and_eq_false_iff.2 (.inr (Bool.eq_false_iff.2 fun hany => ?_))
  obtain ⟨i, hi, hij⟩ := (clashes_iff (hj.trans hlt)).1 hany
  exact hmin j hj i hi hij

theorem unitClash_none {h : Nat} (hd : ∀ k, k < convoyCount h → ∀ i, i < k → unitCode h i ≠ unitCode h k) :
    unitClash h = none := by
  refine noSlot fun k hk => Bool.eq_false_iff.2 fun hp => ?_
  obtain ⟨hc, hany⟩ := Bool.and_eq_true_iff.1 hp
  obtain ⟨i, hi, hik⟩ := (clashes_iff hk).1 hany
  exact hd k (of_decide_eq_true hc) i hi hik

theorem decodeConvoy_header {h n : Nat} (hr : headerRefused h n) (ws : List Nat) :
    decodeConvoy h ws = .trap ⟨causeConvoyUnit, n, h⟩ := by
  have hhigh : h < 2 ^ 14 → ¬ h / 2 ^ 14 ≠ 0 := fun hlt hne => hne (Nat.div_eq_of_lt hlt)
  unfold decodeConvoy
  obtain ⟨hbig, rfl⟩ | ⟨hlt, k, hlo, hk, hu, hmin, rfl⟩ | ⟨hlt, hz, k, hk, hu, hmin, rfl⟩ := hr
  · rw [if_pos (Nat.div_pos hbig (by decide)).ne']
  · rw [if_neg (hhigh hlt), strayUnit_some hlo hk hu hmin]
  · rw [if_neg (hhigh hlt), strayUnit_none hz, unitClash_some hk hu hmin]

/-- A header that passes step 2 of R99 leaves a refused slot its trap. -/
theorem decodeConvoy_error {h : Nat} (hg : headerGood h) {ws : List Nat} {t : DecodeTrap} (herr : decodeSlots h 0 ws = .error t) :
    decodeConvoy h ws = .trap t := by
  obtain ⟨hlt, hz, hd⟩ := hg
  unfold decodeConvoy
  rw [if_neg fun hne => hne (Nat.div_eq_of_lt hlt), strayUnit_none hz, unitClash_none hd, herr]

theorem vecUnit_reserved {m : Nat} (h : reservedMajor m) : vecUnit m = none := by
  obtain ⟨hlo, hhi⟩ | ⟨hlo, hhi⟩ | ⟨hlo, hhi⟩ | ⟨hlo, hhi⟩ | ⟨hlo, hhi⟩ | ⟨hlo, hhi⟩ | hlo := h
  case inr.inr.inr.inr.inr.inr =>
    unfold vecUnit
    repeat rw [if_neg (by omega)]
  all_goals interval_cases m <;> rfl

/-- Slots that pass step 3 of R99 leave the convoy's fate to the slots behind them. -/
theorem decodeSlots_error {h : Nat} {t : DecodeTrap} {w : Nat} : ∀ {ws : List Nat} {m k : Nat}, ws[k]? = some w →
    (∀ j x, j < k → ws[j]? = some x → vecUnit (x / 2 ^ 56) = some (unitCode h (m + j)) ∧ ∃ i, decodeVec x = .ok i) →
    (∀ rest, decodeSlots h (m + k) (w :: rest) = .error t) → decodeSlots h m ws = .error t
  | [], _, _, hw, _, _ => by cases hw
  | x :: ws, m, 0, hw, _, herr => by
    obtain rfl : x = w := by simpa using hw
    exact herr ws
  | x :: ws, m, k + 1, hw, hgood, herr => by
    obtain ⟨hunit, i, hi⟩ := hgood 0 x (Nat.succ_pos k) rfl
    have hrest : decodeSlots h (m + 1) ws = .error t := by
      refine decodeSlots_error (by simpa using hw) (fun j y hj hy => ?_) fun rest => ?_
      · rw [show m + 1 + j = m + (j + 1) by omega]
        exact hgood (j + 1) y (by omega) (by simpa using hy)
      · rw [show m + 1 + k = m + (k + 1) by omega]
        exact herr rest
    simp only [decodeSlots, hunit, Nat.add_zero, ne_eq, not_true_eq_false, ↓reduceIte, hi, hrest]

theorem slotRefused_error {h : Nat} {ws : List Nat} {t : DecodeTrap} (hr : slotRefused h ws t) :
    decodeSlots h 0 ws = .error t ∧ t.cause ≤ 3 := by
  obtain ⟨k, w, hw, -, hgood, hbad⟩ := hr
  have herr := decodeSlots_error (m := 0) (t := t) hw (by simpa only [Nat.zero_add] using hgood)
  rw [Nat.zero_add] at herr
  obtain ⟨hres, rfl⟩ | ⟨u, hu, hne, rfl⟩ | ⟨hu, c, n, hvec, rfl⟩ := hbad
  · exact ⟨herr fun rest => by simp only [decodeSlots, vecUnit_reserved hres]; rfl, show 1 ≤ 3 by decide⟩
  · exact ⟨herr fun rest => by simp only [decodeSlots, hu, ne_eq, hne, not_false_eq_true, ↓reduceIte]; rfl, Nat.le_refl 3⟩
  · refine ⟨herr fun rest => by simp only [decodeSlots, hu, ne_eq, not_true_eq_false, ↓reduceIte, hvec], ?_⟩
    have hc := decodeVec_causeOk w
    rw [hvec] at hc
    exact hc

/-- Bytes that decode refuses trap with the check's cause, subcode and word, and none of the causes is HW_UE. -/
theorem decodeBytes_refused {l : List Byte} {t : DecodeTrap} (hr : bytesRefused l t) :
    decodeBytes l = .trap t ∧ BitVec.ofNat 8 t.cause ≠ causeHwUe := by
  unfold decodeBytes
  obtain ⟨c, n, hp, rfl⟩ | ⟨h3, n, hh, rfl⟩ | ⟨h3, hg, hs⟩ := hr
  · obtain ⟨h3, hbad⟩ := parcelRefused_bad hp
    have hc := decodeScalar_causeOk (leNat (l.take 4))
    rw [hbad] at hc
    exact ⟨by simp only [if_neg h3, decodeParcel, hbad], cause_ne_hwUe hc⟩
  · exact ⟨by simp only [if_pos h3, decodeConvoy_header hh, causeConvoyUnit], cause_ne_hwUe (Nat.le_refl 3)⟩
  · obtain ⟨herr, hc⟩ := slotRefused_error hs
    refine ⟨?_, cause_ne_hwUe hc⟩
    dsimp only
    rw [if_pos h3]
    exact decodeConvoy_error hg herr

/-! ## The checks of an opened convoy (step 4 of R99) -/

/-- The checks of a slot's own description raise no HW_UE. -/
def OperandSpec.noHwUe (o : OperandSpec) : Prop := ∀ x ∈ o.rest, x.2.1 ≠ causeHwUe

theorem causeOperand_ne : causeOperand ≠ causeHwUe := by decide

theorem OperandSpec.first_cause_ne {o : OperandSpec} (hrest : o.noHwUe) {c : BitVec 8} {n : Nat}
    (h : o.first = some (c, n)) : c ≠ causeHwUe := by
  obtain ⟨x, hx, hxc⟩ := Option.map_eq_some_iff.1 h
  have hmem := List.mem_of_find?_eq_some hx
  obtain rfl : x.2.1 = c := congrArg Prod.fst hxc
  simp only [List.cons_append, List.nil_append, List.mem_cons] at hmem
  obtain rfl | rfl | rfl | rfl | rfl | rfl | hin := hmem
  case inr.inr.inr.inr.inr.inr => exact hrest x hin
  all_goals exact causeOperand_ne

theorem OperandSpec.noHwUe_ite {p : Prop} [Decidable p] {a b : OperandSpec} (ha : a.noHwUe) (hb : b.noHwUe) :
    (if p then a else b).noHwUe := by
  split
  · exact ha
  · exact hb

theorem vrSpec_noHwUe (L vl vstart mq m : Nat) (f : VR) : (vrSpec L vl vstart mq m f).noHwUe := by
  unfold vrSpec
  dsimp only
  repeat' apply OperandSpec.noHwUe_ite
  all_goals simp [OperandSpec.noHwUe, causeOperand_ne]

theorem viSpec_noHwUe (L vl m : Nat) (f : VI) : (viSpec L vl m f).noHwUe := by
  unfold viSpec
  dsimp only
  repeat' apply OperandSpec.noHwUe_ite
  all_goals simp [OperandSpec.noHwUe]

theorem vmSpec_noHwUe (L vl m : Nat) (f : VM) : (vmSpec L vl m f).noHwUe := by
  unfold vmSpec
  dsimp only
  repeat' apply OperandSpec.noHwUe_ite
  all_goals simp [OperandSpec.noHwUe]

theorem spcfgSpec_noHwUe (c : Ctx) (running : Bool) (f : VM) : (spcfgSpec c running f).noHwUe := by
  have hpriv : causePriv ≠ causeHwUe := by decide
  simp [spcfgSpec, OperandSpec.noHwUe, causeOperand_ne, hpriv]

theorem vtSpec_noHwUe (c : Ctx) (vl m : Nat) (f : VT) : (vtSpec c vl m f).noHwUe := by
  unfold vtSpec
  dsimp only
  repeat' apply OperandSpec.noHwUe_ite
  all_goals simp [OperandSpec.noHwUe]

theorem State.slotSpec_noHwUe (s : State) (c : Ctx) (i : Instr) : (s.slotSpec c i).noHwUe := by
  unfold State.slotSpec
  split
  · exact vrSpec_noHwUe _ _ _ _ _ _
  · exact viSpec_noHwUe _ _ _ _
  · exact OperandSpec.noHwUe_ite (spcfgSpec_noHwUe _ _ _) (vmSpec_noHwUe _ _ _ _)
  · exact vtSpec_noHwUe _ _ _ _
  · simp [OperandSpec.noHwUe]

theorem State.convoyCheck_first_cause_ne (s : State) (c : Ctx) {cause : BitVec 8} {sub k : Nat} :
    ∀ (l : List Instr) (m : Nat), State.convoyCheck.first s c m l = some (cause, sub, k) → cause ≠ causeHwUe
  | [], _, h => by cases h
  | i :: l, m, h => by
    unfold State.convoyCheck.first at h
    split at h
    next x hx =>
      cases h
      exact OperandSpec.first_cause_ne (s.slotSpec_noHwUe c i) hx
    next => exact s.convoyCheck_first_cause_ne c l (m + 1) h

theorem State.convoyCheck_cause_ne {s : State} {c : Ctx} {l : List Instr} {cause : BitVec 8} {sub k : Nat}
    (h : s.convoyCheck c l = some (cause, sub, k)) : cause ≠ causeHwUe := by
  unfold State.convoyCheck at h
  split at h
  · split at h
    · cases h
      exact causeOperand_ne
    · exact s.convoyCheck_first_cause_ne c l 0 h
  · exact s.convoyCheck_first_cause_ne c l 0 h

/-- R125: a vamo beside a slot that commits all or nothing is the first check of a convoy. -/
theorem State.convoyCheck_vamo (s : State) (c : Ctx) {l : List Instr} {k : Nat} {w : Instr} (hw : l[k]? = some w)
    (hm : majorOf w = 0xC6) (hfirst : ∀ j x, j < k → l[j]? = some x → majorOf x ≠ 0xC6) (ha : l.any isAtomic = true) :
    s.convoyCheck c l = some (causeOperand, 8, k) := by
  have hfind : l.findIdx? (fun i => majorOf i == 0xC6) = some k := by
    obtain ⟨hk, hkw⟩ := List.getElem?_eq_some_iff.1 hw
    refine List.findIdx?_eq_some_iff_getElem.2 ⟨hk, by simp [hkw, hm], fun j hj => ?_⟩
    simpa using hfirst j _ hj (List.getElem?_eq_getElem (hj.trans hk))
  unfold State.convoyCheck
  rw [hfind]
  simp only [ha, ↓reduceIte]

theorem Ctx.slotsOff_cause_ne {c : Ctx} {l : List Instr} {t : TrapInfo} (h : c.slotsOff l = some t) : t.cause ≠ causeHwUe := by
  obtain ⟨p, -, hp⟩ := List.exists_of_findSome?_eq_some h
  obtain ⟨u, hu, rfl⟩ := Option.map_eq_some_iff.1 hp
  obtain ⟨items, -, hitems⟩ := Option.bind_eq_some_iff.1 hu
  have hcause : u.cause = causeTileOff := by
    unfold Ctx.tileOff at hitems
    split at hitems
    · cases hitems
      rfl
    · obtain ⟨i, -, rfl⟩ := Option.map_eq_some_iff.1 hitems
      rfl
  show u.cause ≠ causeHwUe
  rw [hcause]
  decide

end Sys2Proof.Machine
end

section
/-! What a step comes to: the head of the agenda, and without one the first thing that is due (R21, R22, R166, R308), and
O56. -/

namespace Sys2Proof.Machine

open Sys2Proof.Claims

/-! ## What the agenda's head asks for -/

/-- What an act comes to. -/
def Act.outcome : Act → Host.Outcome State Fault Refusal
  | .run i t => exec i t
  | .go t => .next t
  | .noContext => .fault .noSuchContext

theorem step_eq_outcome (s : State) : step s = (s.act exec).outcome := by
  unfold step
  split <;> next h => rw [h]; rfl

theorem step_issue {s : State} {d : Nat} {rest : List Agendum} (h : s.agenda = .issue d :: rest) :
    step s = (({ s with agenda := rest } : State).issue d).outcome := by
  rw [step_eq_outcome, State.act, h]
  rfl

theorem step_event {s : State} {i : Instr} {rest : List Agendum} (h : s.agenda = .event i :: rest) :
    step s = (({ s with agenda := rest } : State).perform (.event i)).outcome := by
  rw [step_eq_outcome, State.act, h]

theorem step_idle {s : State} (h : s.agenda = []) : step s = ((s.busy exec).getD (.go (s.tick 1))).outcome := by
  rw [step_eq_outcome, State.act, h]

/-! ## The issue of a driver -/

theorem State.pick_of_isNext {s : State} {d n : Nat} (h : isNext s d n) : s.pick d = some n := by
  obtain ⟨i, hi, rfl, hmay, hfirst⟩ := h
  unfold State.pick
  dsimp only
  rw [List.find?_map]
  have hfind : (List.range 4).find? (s.issues ∘ fun i => 4 * d + (smGet 3 s.lastCtx d + 1 + i) % 4) = some i :=
    List.find?_range_eq_some.2 ⟨hmay, List.mem_range.2 hi, fun j hj => by
      have hno : s.issues (4 * d + (smGet 3 s.lastCtx d + 1 + j) % 4) = false := hfirst j hj
      simp [hno]⟩
  rw [hfind]
  rfl

theorem mayIssue_of_isNext {s : State} {d n : Nat} (h : isNext s d n) : mayIssue s n = true := by
  obtain ⟨i, -, rfl, hmay, -⟩ := h
  exact hmay

/-- A context with convoys in its VIQ issues only where the next one can join them. -/
theorem queueNext_of_isNext {s : State} {d n : Nat} (h : isNext s d n) (hused : (s.ctxAt n).viqUsed ≠ 0) :
    (s.queueNext n).isSome = true := by
  obtain ⟨hmay, -⟩ := Bool.and_eq_true_iff.1 (mayIssue_of_isNext h)
  have hready : (s.ctxAt n).ready = false := by simp [Ctx.ready, hused]
  rwa [hready, Bool.false_or] at hmay

theorem State.pick_none {s : State} {d : Nat} (h : ∀ k, k / 4 = d → mayIssue s k = false) : s.pick d = none := by
  refine List.find?_eq_none.2 fun k hk => ?_
  obtain ⟨i, -, rfl⟩ := List.mem_map.1 hk
  have hno : s.issues (4 * d + (smGet 3 s.lastCtx d + 1 + i) % 4) = false := h _ (by omega)
  simp [hno]

theorem State.issue_isNext {s : State} {d n : Nat} (hd : d < 64) (hfree : d ∉ s.issued) (h : isNext s d n) :
    s.issue d = s.issueFrom d n := by
  unfold State.issue
  rw [if_neg (Nat.not_le.2 hd), if_neg (by simpa using hfree), State.pick_of_isNext h]

theorem State.issue_idle {s : State} {d : Nat} (hd : d < 64) (h : d ∈ s.issued ∨ ∀ k, k / 4 = d → mayIssue s k = false) :
    s.issue d = .go s := by
  unfold State.issue
  rw [if_neg (Nat.not_le.2 hd)]
  obtain hissued | hnone := h
  · rw [if_pos (by simpa using hissued)]
  · rw [State.pick_none hnone]
    exact ite_self _

theorem State.issueFrom_async {s t : State} {n : Nat} (d : Nat) (h : s.asyncNow n = some t) : s.issueFrom d n = .go t := by
  simp only [State.issueFrom, h]

/-- With an empty VIQ the driver runs what it fetches. -/
theorem State.issueFrom_executes {s : State} {d n : Nat} (hasync : s.asyncNow n = none)
    (hviq : (s.ctxAt n).viq ++ (s.ctxAt n).queued = []) : s.issueFrom d n = (issuing s d n).executes n := by
  obtain ⟨hv, hq⟩ := List.append_eq_nil_iff.1 hviq
  have hused : (s.ctxAt n).viqUsed = 0 := by rw [Ctx.viqUsed, hv, hq]; rfl
  simp only [State.issueFrom, hasync, hused, ↓reduceIte]
  rfl

/-- With convoys in the VIQ the driver places the one that follows. -/
theorem State.issueFrom_enqueue {s : State} {d n : Nat} (hasync : s.asyncNow n = none) (hviq : (s.ctxAt n).viqUsed ≠ 0) :
    s.issueFrom d n = .go ((issuing s d n).enqueue n) := by
  simp only [State.issueFrom, hasync, hviq, ↓reduceIte]
  rfl

theorem issuing_ctxAt (s : State) (d n k : Nat) : (issuing s d n).ctxAt k = s.ctxAt k :=
  (State.perfCount_sameStrands _ _ _ _ _).ctxAt k

theorem issuedFrom_me (s : State) (d n : Nat) : (issuedFrom s d n).me = s.ctxAt n := issuing_ctxAt s d n n

/-! ## What a context fetches -/

/-- What a fetch comes to. -/
def Fetched.outcome : Fetched → Host.Outcome State Fault Refusal
  | .run i t => exec i t
  | .stop t => .next t

theorem State.executes_outcome (s : State) (n : Nat) :
    (s.executes n).outcome = ({ s with cur := n } : State).fetchNext.outcome := by
  unfold State.executes
  split <;> next h => rw [h]; rfl

section
variable {s s' : State} (hviq : s.me.viq = []) (hqueued : s.me.queued = [])
include hviq hqueued

theorem State.fetchNext_ok {l : List Byte} (h : s.fetchBytes s.me = .ok l s') : s.fetchNext = s'.decodeAt l := by
  simp only [State.fetchNext, hviq, hqueued, h]

theorem State.fetchNext_trap {t : TrapInfo} (h : s.fetchBytes s.me = .trap t s') :
    s.fetchNext = .stop (s'.enterTrap s.cur t s.me.pc) := by
  simp only [State.fetchNext, hviq, hqueued, h, State.finish]

theorem State.fetchNext_ask {q : PageReq} (h : s.fetchBytes s.me = .ask q s') :
    s.fetchNext = .stop (s'.hostWait s.cur q) := by
  simp only [State.fetchNext, hviq, hqueued, h, State.finish]

theorem State.fetchNext_wait (h : s.fetchBytes s.me = .wait s') : s.fetchNext = .stop s' := by
  simp only [State.fetchNext, hviq, hqueued, h]

end

/-! ## What the fetched bytes come to -/

theorem State.decodeAt_refused {s : State} (hm : plainMode s.me) {l : List Byte} {x : DecodeTrap} (h : bytesRefused l x) :
    s.decodeAt l = .stop (trapped s (BitVec.ofNat 8 x.cause) x.sub (BitVec.ofNat 64 x.word)) := by
  obtain ⟨hdec, hc⟩ := decodeBytes_refused h
  simp only [State.decodeAt, hdec, State.trap_eq_trapped hm hc]

theorem State.decodeAt_scalar {s : State} {l : List Byte} {i : Instr} (h : decodeBytes l = .scalar i) :
    s.decodeAt l = .run i (s.setMe { s.me with atWaypoint := false }) := by
  simp only [State.decodeAt, h]

theorem State.decodeAt_convoy {s : State} {l : List Byte} {cc : ConvoyCode} (h : decodeBytes l = .convoy cc) :
    s.decodeAt l = s.openConvoy cc := by
  simp only [State.decodeAt, h]

theorem State.openConvoy_refused {s : State} (hm : plainMode s.me) {cc : ConvoyCode} {cause : BitVec 8} {sub k : Nat}
    {w : Nat × Instr} (h : s.convoyCheck s.me (cc.slots.map Prod.snd) = some (cause, sub, k)) (hw : cc.slots[k]? = some w) :
    s.openConvoy cc = .stop (trapped s cause (sub + 16 * k) (BitVec.ofNat 64 w.1)) := by
  have hword : (cc.slots.map Prod.fst).getD k 0 = w.1 := by simp [List.getD_eq_getElem?_getD, hw]
  simp only [State.openConvoy, h, hword, State.trapSlot, State.trap_eq_trapped hm (State.convoyCheck_cause_ne h)]

theorem State.openConvoy_off {s : State} (hm : plainMode s.me) {cc : ConvoyCode} {t : TrapInfo}
    (hcheck : s.convoyCheck s.me (cc.slots.map Prod.snd) = none) (h : s.me.slotsOff (cc.slots.map Prod.snd) = some t) :
    s.openConvoy cc = .stop (trappedIn s s.cur t s.me.pc) := by
  simp only [State.openConvoy, hcheck, h, State.enterTrap_eq_trappedIn (n := s.cur) hm (Ctx.slotsOff_cause_ne h)]

theorem State.openConvoy_runs {s : State} {cc : ConvoyCode} {i : Instr}
    (hcheck : s.convoyCheck s.me (cc.slots.map Prod.snd) = none) (hoff : s.me.slotsOff (cc.slots.map Prod.snd) = none)
    (hi : (cc.slots.map Prod.snd).head? = some i) :
    s.openConvoy cc = .run i (s.setMe { s.me with
      atWaypoint := false, viq := [s.me.capture (4 + 8 * cc.slots.length) cc.waypoint (cc.slots.map Prod.snd)] }) := by
  obtain ⟨l, hl⟩ := List.head?_eq_some_iff.1 hi
  have hlen : cc.slots.length = (i :: l).length := by rw [← hl, List.length_map]
  rw [hl] at hcheck hoff ⊢
  simp only [State.openConvoy, hl, hcheck, hoff, hlen]

/-! ## The convoy that joins the VIQ -/

/-- A convoy can join the VIQ of a resident context that holds convoys and has room. -/
theorem State.queueNext_room {s : State} {n : Nat} (h : (s.queueNext n).isSome = true) :
    (s.ctxAt n).viqUsed < 64 ∧ ¬ ((s.ctxAt n).mode ≠ .resident ∨ (s.ctxAt n).viqUsed = 0) := by
  unfold State.queueNext at h
  split at h
  next hroom =>
    unfold State.convoyNext at h
    dsimp only at h
    split at h
    next => cases h
    next hres => exact ⟨hroom, hres⟩
  next => cases h

theorem State.enqueue_joins {s s' : State} {n : Nat} {l : List Byte} {cc : ConvoyCode} {cv : Convoy}
    (hroom : (s.ctxAt n).viqUsed < 64) (hres : ¬ ((s.ctxAt n).mode ≠ .resident ∨ (s.ctxAt n).viqUsed = 0))
    (hlast : ((s.ctxAt n).viq ++ (s.ctxAt n).queued).getLast? = some cv) (hdec : decodeBytes l = .convoy cc) :
    let behind : Ctx := { s.ctxAt n with pc := cv.epc + BitVec.ofNat 64 cv.size, vstart := 0 }
    s.fetchBytes behind = .ok l s' → s'.convoyCheck behind (cc.slots.map Prod.snd) = none →
      behind.slotsOff (cc.slots.map Prod.snd) = none →
      s.enqueue n = s'.setCtx n { s'.ctxAt n with queued := (s'.ctxAt n).queued ++
        [behind.capture (4 + 8 * cc.slots.length) cc.waypoint (cc.slots.map Prod.snd)] } := by
  intro behind hfetch hcheck hoff
  have htail : (s.ctxAt n).tailPc = cv.epc + BitVec.ofNat 64 cv.size := by rw [Ctx.tailPc, hlast]
  have hnext : s.queueNext n = some (behind.capture (4 + 8 * cc.slots.length) cc.waypoint (cc.slots.map Prod.snd), s') := by
    have hno : ¬ ((s.ctxAt n).mode ≠ .resident ∨ behind.viqUsed = 0) := hres
    simp only [behind] at hno hfetch hcheck hoff
    unfold State.queueNext State.convoyNext
    dsimp only
    rw [if_pos hroom, htail, if_neg hno]
    simp only [hfetch, hdec, hcheck, hoff, Option.isNone_none, Bool.and_self, ↓reduceIte, List.length_map]
    rfl
  unfold State.enqueue
  rw [hnext]

/-! ## Without an agenda -/

theorem State.busy_event {s t : State} (h : s.firstChange s.events = some t)
    (ex : Instr → State → Host.Outcome State Fault Refusal) : s.busy ex = some (.go t) := by
  simp only [State.busy, h]

theorem State.busy_slot {s : State} (h : noEvent s) {n : Nat} {c : Ctx}
    (hslot : s.ctxs.find? (fun e => s.slotReady e.1) = some (n, c)) (ex : Instr → State → Host.Outcome State Fault Refusal) :
    s.busy ex = some (s.executes n) := by
  unfold noEvent at h
  simp only [State.busy, h, hslot]

theorem State.busy_issue {s : State} (h : noEvent s) (hslot : s.ctxs.find? (fun e => s.slotReady e.1) = none)
    (hretry : s.firstChange (s.retries exec) = none) : s.busy exec = s.nextDriver.map s.issue := by
  unfold noEvent at h
  simp only [State.busy, h, hslot, hretry]

/-- The next slot of an open convoy. -/
theorem State.fetchNext_slot {s : State} {cv : Convoy} {i : Instr} (hviq : s.me.viq = [cv]) (hi : cv.todo.head? = some i) :
    s.fetchNext = .run i s := by
  obtain ⟨l, hl⟩ := List.head?_eq_some_iff.1 hi
  simp only [State.fetchNext, hviq, hl]

/-- The first slot of the convoy that is first in the VIQ. -/
theorem State.fetchNext_begins {s : State} {cv : Convoy} {more : List Convoy} {i : Instr} (hviq : s.me.viq = [])
    (hqueued : s.me.queued = cv :: more) (hi : cv.todo.head? = some i) :
    s.fetchNext = .run i (s.setMe { s.me with atWaypoint := false, viq := [cv], queued := more }) := by
  obtain ⟨l, hl⟩ := List.head?_eq_some_iff.1 hi
  simp only [State.fetchNext, hviq, hqueued, hl]

end Sys2Proof.Machine

namespace Sys2Proof.Proofs

open Sys2Proof Sys2Proof.Machine Sys2Proof.Claims

section
variable {s s' : State} {d n : Nat} {rest : List Agendum}

theorem step_issue_isNext (h : s.agenda = .issue d :: rest) (hd : d < 64) (hfree : d ∉ s.issued)
    (hnext : isNext { s with agenda := rest } d n) :
    step s = (({ s with agenda := rest } : State).issueFrom d n).outcome := by
  rw [step_issue h, State.issue_isNext (s := { s with agenda := rest }) hd hfree hnext]

/-- An issue of a driver that has a context runs that context, with an empty VIQ, from what it fetches. -/
theorem step_issue_executes (h : s.agenda = .issue d :: rest) (hd : d < 64) (hfree : d ∉ s.issued)
    (hnext : isNext { s with agenda := rest } d n) (hasync : ({ s with agenda := rest } : State).asyncNow n = none)
    (hviq : (s.ctxAt n).viq ++ (s.ctxAt n).queued = []) :
    step s = (issuedFrom { s with agenda := rest } d n).fetchNext.outcome := by
  rw [step_issue_isNext h hd hfree hnext, State.issueFrom_executes hasync hviq, State.executes_outcome]
  rfl

/-- What the bytes at the PC come to (R98 to R101). -/
theorem step_of_bytes {l : List Byte} (hstep : step s = (s'.decodeAt l).outcome) {i : Instr} {cc : ConvoyCode} :
    let slots := cc.slots.map Prod.snd
    (∀ x, bytesRefused l x → plainMode s'.me →
      step s = .next (trapped s' (BitVec.ofNat 8 x.cause) x.sub (BitVec.ofNat 64 x.word))) ∧
    (∀ cause sub k w, decodeBytes l = .convoy cc → s'.convoyCheck s'.me slots = some (cause, sub, k) →
      cc.slots[k]? = some w → plainMode s'.me →
      step s = .next (trapped s' cause (sub + 16 * k) (BitVec.ofNat 64 w.1))) ∧
    (∀ k w, decodeBytes l = .convoy cc → slots[k]? = some w → majorOf w = 0xC6 →
      (∀ j x, j < k → slots[j]? = some x → majorOf x ≠ 0xC6) → slots.any isAtomic = true →
      s'.convoyCheck s'.me slots = some (causeOperand, 8, k)) ∧
    (∀ x, decodeBytes l = .convoy cc → s'.convoyCheck s'.me slots = none → s'.me.slotsOff slots = some x →
      plainMode s'.me → step s = .next (trappedIn s' s'.cur x s'.me.pc)) ∧
    (decodeBytes l = .scalar i → step s = exec i (s'.setMe { s'.me with atWaypoint := false })) ∧
    (decodeBytes l = .convoy cc → s'.convoyCheck s'.me slots = none → s'.me.slotsOff slots = none →
      slots.head? = some i → step s = exec i (s'.setMe { s'.me with
        atWaypoint := false, viq := [s'.me.capture (4 + 8 * cc.slots.length) cc.waypoint slots] })) := by
  intro slots
  refine ⟨fun x hr hm => ?_, fun cause sub k w hdec hcheck hw hm => ?_,
    fun k w _ hw hm hfirst ha => State.convoyCheck_vamo s' _ hw hm hfirst ha, fun x hdec hcheck hoff hm => ?_,
    fun hdec => ?_, fun hdec hcheck hoff hi => ?_⟩
  · rw [hstep, State.decodeAt_refused hm hr, Fetched.outcome]
  · rw [hstep, State.decodeAt_convoy hdec, State.openConvoy_refused hm hcheck hw, Fetched.outcome]
  · rw [hstep, State.decodeAt_convoy hdec, State.openConvoy_off hm hcheck hoff, Fetched.outcome]
  · rw [hstep, State.decodeAt_scalar hdec, Fetched.outcome]
  · rw [hstep, State.decodeAt_convoy hdec, State.openConvoy_runs hcheck hoff hi, Fetched.outcome]

/-- A driver that has a context with convoys in its VIQ places the convoy that follows. -/
theorem step_issue_joins (h : s.agenda = .issue d :: rest) (hd : d < 64) (hfree : d ∉ s.issued)
    (hnext : isNext { s with agenda := rest } d n) (hasync : ({ s with agenda := rest } : State).asyncNow n = none)
    {cv : Convoy} (hlast : ((s.ctxAt n).viq ++ (s.ctxAt n).queued).getLast? = some cv) {l : List Byte} {cc : ConvoyCode} :
    let t := issuing { s with agenda := rest } d n
    let behind : Ctx := { t.ctxAt n with pc := cv.epc + BitVec.ofNat 64 cv.size, vstart := 0 }
    let slots := cc.slots.map Prod.snd
    t.fetchBytes behind = .ok l s' → decodeBytes l = .convoy cc → s'.convoyCheck behind slots = none →
      behind.slotsOff slots = none → step s = .next (s'.setCtx n { s'.ctxAt n with
        queued := (s'.ctxAt n).queued ++ [behind.capture (4 + 8 * cc.slots.length) cc.waypoint slots] }) := by
  intro t behind slots hfetch hdec hcheck hoff
  have hctx : t.ctxAt n = s.ctxAt n := issuing_ctxAt _ d n n
  have hused : (s.ctxAt n).viqUsed ≠ 0 := fun h0 => by
    have hlen : ((s.ctxAt n).viq ++ (s.ctxAt n).queued).length = 0 := by rw [List.length_append]; exact h0
    rw [List.length_eq_zero_iff.1 hlen] at hlast
    cases hlast
  obtain ⟨hroom, hres⟩ := State.queueNext_room (queueNext_of_isNext hnext hused)
  rw [step_issue_isNext h hd hfree hnext, State.issueFrom_enqueue hasync hused, Act.outcome]
  exact congrArg _ (State.enqueue_joins (hctx ▸ hroom) (hctx ▸ hres) (hctx ▸ hlast) hdec hfetch hcheck hoff)

end

/-- Settles O56, by what the head of the agenda asks for, and without an agenda by the first thing that is due: each clause
names one branch of the fetch, of the checks of decode or of the operand checks, whose causes are never 0. -/
theorem stepRunsDecodedInstruction : Obligations.StepRunsDecodedInstruction := by
  unfold Obligations.StepRunsDecodedInstruction
  intro s s' t d n rest i l cc cv c more r u slots joined
  refine ⟨fun h hd hfree hnext hasync => ?_, fun h hd hfree hnext hasync hviq => ?_,
    fun h hd hfree hnext hasync hlast => step_issue_joins h hd hfree hnext hasync hlast, fun h hd hidle => ?_,
    fun h hi => ⟨fun ha => ?_, fun cl a ha => ?_⟩, fun h => ⟨fun hevent => ?_, fun hno hslot hc => ⟨fun hviq hi => ?_,
    fun hviq hqueued hi => ?_⟩, fun hno hslot hretry => ⟨fun hdriver => ?_, fun hdriver => ?_⟩⟩⟩
  · rw [step_issue_isNext h hd hfree hnext, State.issueFrom_async d hasync, Act.outcome]
  · have hstep : step s = u.fetchNext.outcome := step_issue_executes h hd hfree hnext hasync hviq
    obtain ⟨hv, hq⟩ := List.append_eq_nil_iff.1 hviq
    have hme : u.me = s.ctxAt n := issuedFrom_me r d n
    have hv' : u.me.viq = [] := hme ▸ hv
    have hq' : u.me.queued = [] := hme ▸ hq
    refine ⟨fun cause sub eval hfault hm => ?_, fun q hask => ?_, fun hwait => ?_, fun hok => ?_⟩
    · rw [hstep, State.fetchNext_trap hv' hq' (State.fetchBytes_trap (State.fetchWord_trap hfault)), Fetched.outcome]
      exact congrArg _ (State.enterTrap_eq_trappedIn hm (fetchFaults_cause_ne hfault) _)
    · rw [hstep, State.fetchNext_ask hv' hq' hask, Fetched.outcome]
      rfl
    · rw [hstep, State.fetchNext_wait hv' hq' hwait, Fetched.outcome]
    · exact step_of_bytes (by rw [hstep, State.fetchNext_ok hv' hq' hok])
  · rw [step_issue h, State.issue_idle hd hidle, Act.outcome]
  · simp only [step_event h, State.perform, hi, ha, Bool.not_true, Bool.false_eq_true, ↓reduceIte, Act.outcome]
    rfl
  · rw [step_event h]
    simp only [State.perform, hi, ha, Bool.not_true, Bool.false_eq_true, ↓reduceIte]
    split <;> rfl
  · rw [step_idle h, State.busy_event hevent, Option.getD_some, Act.outcome]
  · have hme : ({ s with cur := n } : State).me = c := hc
    rw [step_idle h, State.busy_slot hno hslot, Option.getD_some, State.executes_outcome,
      State.fetchNext_slot (hme ▸ hviq) hi, Fetched.outcome]
  · have hme : ({ s with cur := n } : State).me = c := hc
    rw [step_idle h, State.busy_slot hno hslot, Option.getD_some, State.executes_outcome,
      State.fetchNext_begins (hme ▸ hviq) (hme ▸ hqueued) hi, Fetched.outcome, hme]
  · rw [step_idle h, State.busy_issue hno hslot hretry, hdriver, step_issue (s := { s with agenda := [.issue d] }) rfl]
    show (s.issue d).outcome = (({ s with agenda := [] } : State).issue d).outcome
    rw [← h]
  · rw [step_idle h, State.busy_issue hno hslot hretry, hdriver]
    rfl

end Sys2Proof.Proofs
end

section
/-! Sparse tables as lists of entries: their keys, their values under a map, and where a new key leaves room. -/

namespace Sys2Proof.Machine

section
variable {α β : Type}

theorem lt_of_mem_smRising {lo : Nat} {m : SMap α} {e : Nat × α} (h : smRising (some lo) m = true) (he : e ∈ m) : lo < e.1 := by
  induction m generalizing lo with
  | nil => cases he
  | cons x m ih =>
    simp only [smRising, Bool.and_eq_true, decide_eq_true_eq] at h
    rcases List.mem_cons.1 he with rfl | he
    · exact h.1
    · exact h.1.trans (ih h.2 he)

/-- What follows the first entry of a table lies above it. -/
theorem smRising_tail {lo : Option Nat} {e : Nat × α} {m : SMap α} (h : smRising lo (e :: m) = true) :
    smRising (some e.1) m = true := by
  simp only [smRising, Bool.and_eq_true] at h
  exact h.2

theorem smRising_keys_nodup {lo : Option Nat} {m : SMap α} (h : smRising lo m = true) : (m.map Prod.fst).Nodup := by
  induction m generalizing lo with
  | nil => exact List.nodup_nil
  | cons e m ih =>
    refine List.nodup_cons.2 ⟨fun he => ?_, ih (smRising_tail h)⟩
    obtain ⟨x, hx, hxe⟩ := List.mem_map.1 he
    exact absurd (lt_of_mem_smRising (smRising_tail h) hx) (by omega)

theorem mem_of_smFind {k : Nat} {v : α} {m : SMap α} (h : smFind k m = some v) : (k, v) ∈ m := by
  induction m with
  | nil => cases h
  | cons e m ih =>
    unfold smFind at h
    split at h
    next hk => cases h; subst hk; exact List.mem_cons_self ..
    next => exact List.mem_cons_of_mem _ (ih h)

theorem smFind_of_mem {lo : Option Nat} {k : Nat} {v : α} {m : SMap α} (h : smRising lo m = true) (he : (k, v) ∈ m) :
    smFind k m = some v := by
  induction m generalizing lo with
  | nil => cases he
  | cons e m ih =>
    unfold smFind
    rcases List.mem_cons.1 he with rfl | he
    · exact if_pos rfl
    · have hlt := lt_of_mem_smRising (smRising_tail h) he
      rw [if_neg (by dsimp only at hlt; omega)]
      exact ih (smRising_tail h) he

theorem smFind_eq_none_of_not_mem {k : Nat} {m : SMap α} (h : k ∉ m.map Prod.fst) : smFind k m = none :=
  Option.eq_none_iff_forall_ne_some.2 fun _ hv => h (List.mem_map.2 ⟨_, mem_of_smFind hv, rfl⟩)

/-- Listing a key again with its value changes nothing. -/
theorem smPut_of_smFind {lo : Option Nat} {k : Nat} {v : α} {m : SMap α} (h : smRising lo m = true) (hf : smFind k m = some v) :
    smPut k v m = m := by
  induction m generalizing lo with
  | nil => cases hf
  | cons e m ih =>
    unfold smFind at hf
    unfold smPut
    split at hf
    next hk => cases hf; subst hk; simp
    next hk =>
      have hlt := lt_of_mem_smRising (smRising_tail h) (mem_of_smFind hf)
      rw [if_neg (by dsimp only at hlt; omega), if_neg (Ne.symm hk), ih (smRising_tail h) hf]

/-- A new key adds its entry. -/
theorem smPut_perm {k : Nat} {m : SMap α} (v : α) (h : smFind k m = none) : (smPut k v m).Perm ((k, v) :: m) := by
  induction m with
  | nil => exact .refl _
  | cons e m ih =>
    unfold smFind at h
    unfold smPut
    split at h
    next => cases h
    next hk =>
      split
      · exact .refl _
      · rw [if_neg (Ne.symm hk)]
        exact ((ih h).cons e).trans (.swap _ _ _)

/-! ## The values under a map -/

theorem smRising_map (f : Nat × α → β) (lo : Option Nat) (m : SMap α) :
    smRising lo (m.map fun e => (e.1, f e)) = smRising lo m := by
  induction m generalizing lo with
  | nil => rfl
  | cons e m ih => exact congrArg (_ && ·) (ih (some e.1))

theorem smFind_map (f : Nat × α → β) (k : Nat) (m : SMap α) :
    smFind k (m.map fun e => (e.1, f e)) = (smFind k m).map fun v => f (k, v) := by
  induction m with
  | nil => rfl
  | cons e m ih =>
    simp only [List.map_cons, smFind]
    split
    next hk => subst hk; rfl
    next => exact ih

theorem map_smPut (f : α → β) (k : Nat) (v : α) (m : SMap α) :
    (smPut k v m).map (fun e => (e.1, f e.2)) = smPut k (f v) (m.map fun e => (e.1, f e.2)) := by
  induction m with
  | nil => rfl
  | cons e m ih =>
    simp only [smPut, List.map_cons]
    split
    · rfl
    · split
      · rfl
      · exact congrArg _ ih

/-! ## A vacant key -/

/-- Below a bound there is a key that a shorter table does not list. -/
theorem exists_vacant {m : SMap α} {b : Nat} (hm : m.length < b) : ∃ k < b, smFind k m = none := by
  by_contra hno
  push Not at hno
  have hsub : List.range b ⊆ m.map Prod.fst := fun k hk => by
    by_contra hk'
    exact hno k (List.mem_range.1 hk) (smFind_eq_none_of_not_mem hk')
  have hlen := (List.nodup_range.subperm hsub).length_le
  rw [List.length_range, List.length_map] at hlen
  omega

end

end Sys2Proof.Machine
end

section
/-! Which queue each launch slot belongs to, and what the mapping of queues to slots changes (R339, R340). -/

namespace Sys2Proof.Machine

/-! ## The ranking -/

theorem mem_ranking {s : State} (h : smRising none s.queues = true) {k : Nat} :
    k ∈ s.ranking ↔ 0 < (s.queueAt k).count := by
  have hperm := fun l : List (Nat × Queue) => List.mergeSort_perm l fun a b => s.ranksBefore a b || decide (a.1 = b.1)
  constructor
  · intro hk
    obtain ⟨⟨j, q⟩, he, rfl⟩ := List.mem_map.1 hk
    obtain ⟨hq, hcount⟩ := List.mem_filter.1 ((hperm _).mem_iff.1 he)
    simpa [State.queueAt, smGet, smFind_of_mem h hq] using hcount
  · intro hcount
    cases hf : smFind k s.queues with
    | none => simp [State.queueAt, smGet, hf, Queue.count] at hcount
    | some q =>
      have hq : 0 < q.count := by simpa [State.queueAt, smGet, hf] using hcount
      exact List.mem_map.2 ⟨(k, q), (hperm _).mem_iff.2 (List.mem_filter.2 ⟨mem_of_smFind hf, by simpa using hq⟩), rfl⟩

theorem ranking_nodup {s : State} (h : smRising none s.queues = true) : s.ranking.Nodup := by
  have hkeys := smRising_keys_nodup (smRising_filter (fun e : Nat × Queue => decide (0 < e.2.count)) h)
  exact (((List.mergeSort_perm _ fun a b => s.ranksBefore a b || decide (a.1 = b.1)).map Prod.fst).nodup_iff).2 hkeys

/-! ## The queues of the slots -/

/-- The queue of each slot. -/
def State.seating (s : State) : SMap Nat := s.slots.map fun e => (e.1, e.2.queue)

theorem State.slots_length (s : State) : s.slots.length = s.seating.length := (List.length_map ..).symm

theorem State.slots_rising (s : State) : smRising none s.slots = smRising none s.seating :=
  (smRising_map (fun e : Nat × Slot => e.2.queue) none s.slots).symm

theorem State.isNone_slot (s : State) (k : Nat) : (smFind k s.slots).isNone = (smFind k s.seating).isNone := by
  rw [State.seating, smFind_map fun e : Nat × Slot => e.2.queue]
  exact (Option.isNone_map ..).symm

theorem State.any_slot (s : State) (q : Nat) :
    (s.slots.any fun e => decide (e.2.queue = q)) = true ↔ q ∈ s.seating.map Prod.snd := by
  simp [State.seating, List.any_eq_true]

/-- Slots numbered below 64 hold queues of a list, each queue one slot. -/
structure State.Seats (s : State) (top : List Nat) : Prop where
  rising : smRising none s.seating = true
  low : ∀ e ∈ s.seating, e.1 < 64
  nodup : (s.seating.map Prod.snd).Nodup
  within : s.seating.map Prod.snd ⊆ top

theorem State.Seats.of_seating {s t : State} {top : List Nat} (h : s.Seats top) (hseat : t.seating = s.seating) :
    t.Seats top := ⟨hseat ▸ h.rising, hseat ▸ h.low, hseat ▸ h.nodup, hseat ▸ h.within⟩

/-- A queue of the list without a slot finds fewer than 64 slots taken. -/
theorem State.Seats.room {s : State} {top : List Nat} (h : s.Seats top) (hlen : top.length ≤ 64) {q : Nat} (hq : q ∈ top)
    (hno : q ∉ s.seating.map Prod.snd) : s.seating.length < 64 := by
  have hall : (q :: s.seating.map Prod.snd).Nodup := List.nodup_cons.2 ⟨hno, h.nodup⟩
  have := (hall.subperm (List.cons_subset.2 ⟨hq, h.within⟩)).length_le
  rw [List.length_cons, List.length_map] at this
  omega

/-! ## A queue gets a slot -/

theorem State.mapQueue_cases (s : State) (q : Nat) :
    s.mapQueue q = s ∨ ∃ k, s.mapQueue q =
      ({ s with slots := smPut k { queue := q } s.slots } : State).setQueue q { s.queueAt q with w := 0 } := by
  unfold State.mapQueue
  split
  next => exact .inl rfl
  next k _ => exact .inr ⟨k, rfl⟩

/-- The lowest vacant slot is the queue's. -/
theorem State.mapQueue_vacant {s : State} (hroom : s.seating.length < 64) (q : Nat) :
    ∃ k < 64, smFind k s.seating = none ∧ s.mapQueue q =
      ({ s with slots := smPut k { queue := q } s.slots } : State).setQueue q { s.queueAt q with w := 0 } := by
  unfold State.mapQueue
  split
  next hnone =>
    obtain ⟨k, hk, hvacant⟩ := exists_vacant hroom
    have := List.find?_eq_none.1 hnone k (List.mem_range.2 hk)
    rw [s.isNone_slot k, hvacant] at this
    exact absurd rfl this
  next k hk =>
    have hvacant : (smFind k s.slots).isNone = true := by simpa using List.find?_some hk
    rw [s.isNone_slot k] at hvacant
    exact ⟨k, List.mem_range.1 (List.mem_of_find?_eq_some hk), Option.isNone_iff_eq_none.1 hvacant, rfl⟩

theorem State.queueAt_setQueue (s : State) (n k : Nat) (q : Queue) :
    (s.setQueue n q).queueAt k = if k = n then q else s.queueAt k := by
  unfold State.queueAt State.setQueue
  split
  next h => subst h; exact smGet_put_same ..
  next h => exact smGet_put_other _ h _ _

/-- Two states agree on the contexts, the parked strands, memory, and on every queue but for the boundaries it waited. -/
structure State.SameButWaits (s t : State) : Prop where
  ctxs : t.ctxs = s.ctxs
  parked : t.parked = s.parked
  mem : t.mem = s.mem
  queue : ∀ k, ∃ w, t.queueAt k = { s.queueAt k with w := w }

theorem State.SameButWaits.refl (s : State) : s.SameButWaits s := ⟨rfl, rfl, rfl, fun _ => ⟨_, rfl⟩⟩

theorem State.SameButWaits.trans {s t u : State} (h : s.SameButWaits t) (g : t.SameButWaits u) : s.SameButWaits u where
  ctxs := g.ctxs.trans h.ctxs
  parked := g.parked.trans h.parked
  mem := g.mem.trans h.mem
  queue k := by
    obtain ⟨_, hw⟩ := h.queue k
    obtain ⟨w, gw⟩ := g.queue k
    exact ⟨w, by rw [gw, hw]⟩

theorem State.SameButWaits.count {s t : State} (h : s.SameButWaits t) (k : Nat) : (t.queueAt k).count = (s.queueAt k).count := by
  obtain ⟨_, hw⟩ := h.queue k
  rw [hw]
  rfl

theorem State.mapQueue_sameButWaits (s : State) (q : Nat) : s.SameButWaits (s.mapQueue q) := by
  obtain h | ⟨k, h⟩ := s.mapQueue_cases q
  · exact h.symm ▸ .refl s
  · rw [h]
    refine ⟨rfl, rfl, rfl, fun j => ?_⟩
    rw [State.queueAt_setQueue]
    split
    next hj => exact ⟨0, by rw [hj]⟩
    next => exact ⟨_, rfl⟩

theorem State.mapQueues_sameButWaits : ∀ (l : List Nat) (s : State), s.SameButWaits (l.foldl State.mapQueue s)
  | [], s => .refl s
  | q :: l, s => (s.mapQueue_sameButWaits q).trans (State.mapQueues_sameButWaits l _)

theorem State.fillSlots_sameButWaits (s : State) : s.SameButWaits s.fillSlots :=
  have hkept : s.SameButWaits { s with slots := s.slots.filter fun e => decide (0 < (s.queueAt e.2.queue).count) } :=
    ⟨rfl, rfl, rfl, fun _ => ⟨_, rfl⟩⟩
  hkept.trans (State.mapQueues_sameButWaits _ _)

theorem State.mapQueue_queueAt {s : State} {q k : Nat} (h : k ≠ q) : (s.mapQueue q).queueAt k = s.queueAt k := by
  obtain e | ⟨j, e⟩ := s.mapQueue_cases q
  · rw [e]
  · rw [e, State.queueAt_setQueue, if_neg h]
    rfl

theorem State.mapQueue_queues_rising {s : State} (h : smRising none s.queues = true) (q : Nat) :
    smRising none (s.mapQueue q).queues = true := by
  obtain e | ⟨j, e⟩ := s.mapQueue_cases q
  · rwa [e]
  · rw [e]
    exact smRising_put q _ (by simp) h

theorem State.mapQueue_seats {s : State} {top : List Nat} (h : s.Seats top) (hlen : top.length ≤ 64) {q : Nat} (hq : q ∈ top)
    (hno : q ∉ s.seating.map Prod.snd) :
    (s.mapQueue q).Seats top ∧ ((s.mapQueue q).seating.map Prod.snd).Perm (q :: s.seating.map Prod.snd) := by
  obtain ⟨k, hk, hvacant, e⟩ := s.mapQueue_vacant (h.room hlen hq hno) q
  have hseat : (s.mapQueue q).seating = smPut k q s.seating := by
    rw [e]
    exact map_smPut Slot.queue k { queue := q } s.slots
  have hperm := smPut_perm q hvacant
  have hqueues : ((smPut k q s.seating).map Prod.snd).Perm (q :: s.seating.map Prod.snd) := hperm.map Prod.snd
  refine ⟨⟨?_, fun e he => ?_, ?_, fun x hx => ?_⟩, hseat ▸ hqueues⟩
  · exact hseat ▸ smRising_put k q (by simp) h.rising
  · rcases List.mem_cons.1 (hperm.mem_iff.1 (hseat ▸ he)) with rfl | he
    · exact hk
    · exact h.low e he
  · exact hseat ▸ (hqueues.nodup_iff).2 (List.nodup_cons.2 ⟨hno, h.nodup⟩)
  · rcases List.mem_cons.1 (hqueues.mem_iff.1 (hseat ▸ hx)) with rfl | hx
    · exact hq
    · exact h.within hx

/-- Queues of the list without a slot get one each, and no other queue changes. -/
theorem State.mapQueues_seats {top : List Nat} (hlen : top.length ≤ 64) : ∀ {l : List Nat} {s : State}, s.Seats top →
    l.Nodup → l ⊆ top → (∀ q ∈ l, q ∉ s.seating.map Prod.snd) →
    (l.foldl State.mapQueue s).Seats top ∧
      (∀ q, q ∈ (l.foldl State.mapQueue s).seating.map Prod.snd ↔ q ∈ l ∨ q ∈ s.seating.map Prod.snd) ∧
      ∀ k, k ∉ l → (l.foldl State.mapQueue s).queueAt k = s.queueAt k
  | [], s, h, _, _, _ => ⟨h, by simp, fun _ _ => rfl⟩
  | q :: l, s, h, hnodup, hsub, hno => by
    obtain ⟨hql, hl⟩ := List.nodup_cons.1 hnodup
    obtain ⟨hq, hsub⟩ := List.cons_subset.1 hsub
    obtain ⟨hseats, hperm⟩ := State.mapQueue_seats h hlen hq (hno q (List.mem_cons_self ..))
    have hno' : ∀ j ∈ l, j ∉ (s.mapQueue q).seating.map Prod.snd := fun j hj hmem => by
      rcases List.mem_cons.1 (hperm.mem_iff.1 hmem) with rfl | hmem
      · exact hql hj
      · exact hno j (List.mem_cons_of_mem _ hj) hmem
    obtain ⟨hend, hmem, hqueue⟩ := State.mapQueues_seats hlen hseats hl hsub hno'
    refine ⟨hend, fun j => ?_, fun k hk => ?_⟩
    · rw [List.foldl_cons, hmem, hperm.mem_iff, List.mem_cons, List.mem_cons]
      tauto
    · obtain ⟨hkq, hkl⟩ := not_or.1 (List.mem_cons.not.1 hk)
      rw [List.foldl_cons, hqueue k hkl, State.mapQueue_queueAt hkq]

theorem State.mapQueues_queues_rising {l : List Nat} {s : State} (h : smRising none s.queues = true) :
    smRising none (l.foldl State.mapQueue s).queues = true := by
  induction l generalizing s with
  | nil => exact h
  | cons q l ih => exact ih (State.mapQueue_queues_rising h q)

/-- Where every slot has a queue with work, and each queue with work has a slot or every slot is taken, nothing is left to
fill. -/
theorem State.fillSlots_full {s : State} (hwork : ∀ e ∈ s.slots, 0 < (s.queueAt e.2.queue).count)
    (hfull : 64 ≤ s.slots.length ∨ ∀ q ∈ s.ranking, q ∈ s.seating.map Prod.snd) : s.fillSlots = s := by
  have hkeep : (s.slots.filter fun e => decide (0 < (s.queueAt e.2.queue).count)) = s.slots :=
    List.filter_eq_self.2 fun e he => by simpa using hwork e he
  unfold State.fillSlots
  rw [hkeep]
  dsimp only
  obtain hlen | hall := hfull
  · rw [Nat.sub_eq_zero_of_le hlen, List.take_zero]
    rfl
  · have hnone : (s.ranking.filter fun q => !s.slots.any fun e => decide (e.2.queue = q)) = [] :=
      List.filter_eq_nil_iff.2 fun q hq => by rw [(s.any_slot q).2 (hall q hq)]; simp
    rw [hnone, List.take_nil]
    rfl

end Sys2Proof.Machine
end

section
/-! What the preparation of a span, the capture of a descriptor and the reads and writes of an image leave alone: the strands,
their queues and their slots (R245, R354, R362, R409). -/

namespace Sys2Proof.Machine

/-! ## Errors counted -/

theorem State.countUe_sameStrands (s : State) (block src : Nat) (loc : Word) : s.SameStrands (s.countUe block src loc) := by
  have hras : ∀ (s : State) (i : Nat) (v : Word), s.SameStrands (s.setRas block src i v) := fun _ _ _ => ⟨rfl, rfl, rfl, rfl⟩
  exact ((hras s _ _).trans (hras _ _ _)).trans (State.post_sameStrands _ _)

theorem State.countPoison_sameStrands (s : State) (cl : Nat) (l : Loc) : s.SameStrands (s.countPoison cl l) := by
  unfold State.countPoison
  split
  · exact s.countUe_sameStrands _ _ _
  · split <;> exact s.countUe_sameStrands _ _ _

theorem State.captureFor_sameStrands (s : State) (ptdesc : Word) : s.SameStrands (s.captureFor ptdesc).2 := by
  unfold State.captureFor
  split
  · exact .refl s
  · exact .refl s
  · dsimp only
    split
    · exact s.countPoison_sameStrands _ _
    · exact .refl s

/-! ## The clusters and lanes of a span -/

theorem State.setCl_sameStrands (s : State) (n : Nat) (c : Cluster) : s.SameStrands (s.setCl n c) := ⟨rfl, rfl, rfl, rfl⟩

theorem State.enterCluster_sameStrands (s : State) (pasid : Word) (fresh whole : Bool) (cl : Nat) :
    s.SameStrands (s.enterCluster pasid fresh whole cl) := by
  have hclear : s.SameStrands (s.clearScratch cl) := ⟨rfl, rfl, rfl, rfl⟩
  unfold State.enterCluster
  dsimp only
  split
  · exact hclear.trans (State.setCl_sameStrands _ _ _)
  · exact s.setCl_sameStrands _ _

theorem State.clearLanes_sameStrands (s : State) (lane n : Nat) : s.SameStrands (s.clearLanes lane n) := ⟨rfl, rfl, rfl, rfl⟩

theorem State.clearMatrix_sameStrands (s : State) (cl base rows : Nat) : s.SameStrands (s.clearMatrix cl base rows) := by
  unfold State.clearMatrix
  extract_lets tiled accd
  have htiled : s.SameStrands tiled := .foldl (fun _ _ => by constructor <;> rfl) _ s
  have haccd : s.SameStrands accd := htiled.trans (.foldl (fun _ _ => by constructor <;> rfl) _ _)
  exact haccd.trans ⟨rfl, rfl, rfl, rfl⟩

theorem State.setSpcfg_sameStrands (s : State) (c : Ctx) (v : Word) : s.SameStrands (s.setSpcfg c v) :=
  .foldl (fun s cl => s.setCl_sameStrands cl _) _ s

/-! ## Gangs and records -/

theorem State.bindGang_sameStrands (s : State) (r : LaunchRec) : s.SameStrands (s.bindGang r).2 := by
  unfold State.bindGang
  split
  · exact .refl s
  · dsimp only
    split <;> exact ⟨rfl, rfl, rfl, rfl⟩

/-! ## The state of an image -/

/-- Keeps the strands where a condition decides whether a step is taken. -/
theorem State.SameStrands.ite {s t u : State} {p : Prop} [Decidable p] (ht : s.SameStrands t) (hu : s.SameStrands u) :
    s.SameStrands (if p then t else u) := by
  split
  · exact ht
  · exact hu

theorem State.restoreBulk_sameStrands (s : State) (c : Ctx) (l : List PByte) : s.SameStrands (s.restoreBulk c l) := by
  unfold State.restoreBulk
  extract_lets bytes bad lanes matrix preds slices
  have hlanes : s.SameStrands lanes := s.clearLanes_sameStrands _ _
  have hmatrix : s.SameStrands matrix := hlanes.trans (.foldl (fun s _ => s.clearMatrix_sameStrands _ _ _) _ _)
  have hpreds : s.SameStrands preds := hmatrix.trans (.foldl (fun s _ => .foldl (fun _ _ => by constructor <;> rfl) _ s) _ _)
  have hslices : s.SameStrands slices := hpreds.trans (.foldl (fun s _ => .ite (.refl s) (.foldl (fun s _ => by
    extract_lets off d key row
    have hrow : s.SameStrands row := .foldl (fun _ _ => by constructor <;> rfl) _ s
    exact hrow.trans (.foldl (fun s _ => .ite (by constructor <;> rfl) (.refl s)) _ _)) _ s)) _ _)
  exact hslices.trans (.foldl (fun s _ => .foldl (fun s _ => .ite (.refl s) (.foldl (fun s _ => by
    extract_lets off d row cells
    have hcells : s.SameStrands cells := .ite (.foldl (fun _ _ => by constructor <;> rfl) _ s)
      (.ite (.foldl (fun _ _ => by constructor <;> rfl) _ s) (.foldl (fun _ _ => by constructor <;> rfl) _ s))
    exact hcells.trans (.ite ⟨rfl, rfl, rfl, rfl⟩ (.refl _))) _ s)) _ s) _ _)

theorem State.setAg_sameStrands (s : State) (cl a : Nat) (g : Ag) : s.SameStrands (s.setAg cl a g) := ⟨rfl, rfl, rfl, rfl⟩

theorem State.setJn_sameStrands (s : State) (cl u : Nat) (j : Jn) : s.SameStrands (s.setJn cl u j) := ⟨rfl, rfl, rfl, rfl⟩

theorem State.restoreUnits_sameStrands (s : State) (c : Ctx) (l : List Byte) : s.SameStrands (s.restoreUnits c l) := by
  unfold State.restoreUnits
  refine .foldl (fun s p => .foldl (fun s a => ?_) _ s) _ s
  extract_lets d k
  refine .ite (.refl s) (.ite ?_ ?_)
  · split
    · exact s.setAg_sameStrands _ _ _
    · exact .refl s
  · split
    · exact s.setJn_sameStrands _ _ _
    · exact .refl s

/-! ## Translation -/

/-- The state in which an operation ends. -/
def Res.after {α : Type} : Res α → State
  | .ok _ s => s
  | .trap _ s => s
  | .ask _ s => s
  | .wait s => s

theorem Res.after_andThen {α β : Type} {s : State} {r : Res α} {k : α → State → Res β} (hr : s.SameStrands r.after)
    (hk : ∀ (v : α) (t : State), t.SameStrands (k v t).after) : s.SameStrands (r.andThen k).after := by
  cases r with
  | ok v t => exact hr.trans (hk v t)
  | trap t u => exact hr
  | ask q u => exact hr
  | wait u => exact hr

theorem State.setFlags_sameStrands : ∀ (l : List (Nat × Nat)) (s : State), s.SameStrands (s.setFlags l)
  | [], s => .refl s
  | (a, v) :: l, s => by
    unfold State.setFlags
    exact (s.writePhys_sameStrands a _).trans (State.setFlags_sameStrands l _)

theorem State.installIn_sameStrands (s : State) (cache : Nat) (e : TlbEntry) : s.SameStrands (s.installIn cache e) :=
  ⟨rfl, rfl, rfl, rfl⟩

theorem State.install_sameStrands (s : State) (site : Nat) (e : TlbEntry) : s.SameStrands (s.install site e) :=
  .ite ((s.installIn_sameStrands _ _).trans (State.installIn_sameStrands _ _ _)) (s.installIn_sameStrands _ _)

theorem State.keepSteps_sameStrands (s : State) (site : Nat) (c : Ctx) (d : PteFormat) (va : Nat) (l : List WalkPoint) :
    s.SameStrands (s.keepSteps site c d va l) :=
  .ite (.refl s) ⟨rfl, rfl, rfl, rfl⟩

theorem State.countMiss_sameStrands (s : State) (site : Nat) (c : Ctx) : s.SameStrands (s.countMiss site c) := by
  unfold State.countMiss
  extract_lets t
  have ht : s.SameStrands t := .ite ((s.perfCount_sameStrands _ _ _ _).trans (State.perfCount_sameStrands _ _ _ _ _)) (.refl s)
  exact ht.trans (State.perfCount_sameStrands _ _ _ _ _)

theorem State.askOr_after (s : State) (site : Nat) (c : Ctx) (d : PteFormat) (kind : AccKind) (user : Bool) (va : Nat)
    (cause : BitVec 8) : (s.askOr site c d kind user va cause).after = s := by
  unfold State.askOr
  split
  · rfl
  · split <;> rfl

theorem State.translateOut_sameStrands (s : State) (site : Nat) (c : Ctx) (kind : AccKind) (gate : Gate) (va : Nat) :
    s.SameStrands (s.translateOut site c kind gate va).after := by
  unfold State.translateOut
  dsimp only
  split
  next => exact .refl s
  next d _ =>
    split
    next e _ =>
      split
      next => exact .refl s
      next =>
        split
        next => exact .refl s
        next => exact .ite ((s.perfCount_sameStrands _ _ _ _).trans (State.installIn_sameStrands _ _ _)) (.refl s)
    next =>
      have hmiss := s.countMiss_sameStrands site c
      split
      next i upd steps _ =>
        split
        next => exact hmiss
        next =>
          exact ((hmiss.trans (State.setFlags_sameStrands upd _)).trans (State.install_sameStrands _ _ _)).trans
            (State.keepSteps_sameStrands _ _ _ _ _ _)
      next => rwa [State.askOr_after]
      next => rwa [State.askOr_after]
      next => exact hmiss
      next => exact hmiss
      next => exact hmiss
      next => exact .refl s

theorem PageAcc.add_sameStrands (c : Ctx) (kind : AccKind) (x : Elem) (a : PageAcc) (va : Nat) :
    a.s.SameStrands (PageAcc.add c kind x a va).s := by
  have htrans := a.s.translateOut_sameStrands x.cl c kind (c.noMmio kind va) va
  unfold PageAcc.add
  dsimp only
  split
  next => exact .refl a.s
  next =>
    split
    all_goals next h => rw [h] at htrans; exact htrans

theorem PageAcc.addElem_sameStrands (c : Ctx) (kind : AccKind) (a : PageAcc) (x : Elem) :
    a.s.SameStrands (PageAcc.addElem c kind a x).s := by
  unfold PageAcc.addElem
  generalize x.pageVas c.granBytes = l
  induction l generalizing a with
  | nil => exact .refl a.s
  | cons va l ih => exact (PageAcc.add_sameStrands c kind x a va).trans (ih _)

/-! ## The reads of an image -/

theorem State.sendPacket_sameStrands (s : State) (ctx sid : Nat) (waits store : Bool) (cls : Nat) (l : List RemoteAcc) :
    s.SameStrands (s.sendPacket ctx sid waits store cls l) := by
  cases l with
  | nil => exact .refl s
  | cons a l => exact ⟨rfl, rfl, rfl, rfl⟩

theorem State.countUnit_sameStrands (s : State) (cl : Nat) (pasid : Word) (l : List Loc) :
    s.SameStrands (s.countUnit cl pasid l) :=
  .ite (.refl s) (s.perfCount_sameStrands _ _ _ _)

theorem State.unitLocs_sameStrands (s : State) (c : Ctx) (kind : AccKind) (scratch : Bool) (cl a n : Nat) :
    s.SameStrands (s.unitLocs c kind scratch cl a n).after := by
  have hadd := PageAcc.addElem_sameStrands c kind { s := s } { e := 0, cl := cl, va := a, bit := 0, bits := 8 * n }
  unfold State.unitLocs
  dsimp only
  split
  next =>
    split
    next => exact .refl s
    next => exact s.countUnit_sameStrands _ _ _
  next =>
    split
    next => exact hadd
    next => exact hadd
    next =>
      split
      next => exact hadd
      next =>
        split
        next => exact hadd
        next =>
          split
          next => exact hadd
          next => exact hadd.trans (.foldl (fun s _ => s.sendPacket_sameStrands _ _ _ _ _ _) _ _)

theorem State.observeLocs_sameStrands (s : State) (die : Nat) (l : List Loc) : s.SameStrands (s.observeLocs die l) := by
  have hbut : s.sameBut (s.observeLocs die l) := s.observe_sameBut die _
  exact ⟨hbut.ctxs, by rw [hbut], by rw [hbut], by rw [hbut]⟩

theorem State.unitRead_sameStrands (s : State) (c : Ctx) (scratch : Bool) (cl a n : Nat) :
    s.SameStrands (s.unitRead c scratch cl a n).after := by
  refine Res.after_andThen (s.unitLocs_sameStrands c 0 scratch cl a n) fun l t => ?_
  dsimp only
  split
  next => exact (t.countPoison_sameStrands _ _).trans (State.observeLocs_sameStrands _ _ _)
  next => exact t.observeLocs_sameStrands _ _

theorem State.unitReads_sameStrands (c : Ctx) (scratch : Bool) (cl : Nat) : ∀ (l : List (Nat × Nat)) (s : State),
    s.SameStrands (s.unitReads c scratch cl l).after
  | [], s => .refl s
  | (a, n) :: l, s => Res.after_andThen (s.unitRead_sameStrands c scratch cl a n) fun _ t =>
      Res.after_andThen (State.unitReads_sameStrands c scratch cl l t) fun _ u => .refl u

theorem State.readImage_sameStrands (s : State) (c : Ctx) : s.SameStrands (s.readImage c).after :=
  Res.after_andThen (State.unitReads_sameStrands c false c.firstCl _ s) fun _ u => .refl u

end Sys2Proof.Machine
end

section
/-! A rotation boundary: the best queues hold the slots, the others with work wait, and a reservation moves neither (R339,
R340, R345). -/

namespace Sys2Proof.Machine

/-! ## Reservations -/

/-- Two states agree on the queue of every slot, on the queues and on memory. -/
structure State.SameSeats (s t : State) : Prop where
  seating : t.seating = s.seating
  queues : t.queues = s.queues
  mem : t.mem = s.mem

theorem State.SameSeats.refl (s : State) : s.SameSeats s := ⟨rfl, rfl, rfl⟩

theorem State.SameSeats.trans {s t u : State} (h : s.SameSeats t) (g : t.SameSeats u) : s.SameSeats u :=
  ⟨g.seating.trans h.seating, g.queues.trans h.queues, g.mem.trans h.mem⟩

theorem State.SameSeats.queueAt {s t : State} (h : s.SameSeats t) (k : Nat) : t.queueAt k = s.queueAt k := by
  simp only [State.queueAt, h.queues]

/-- A slot that keeps its queue keeps every seat. -/
theorem State.SameSeats.putSlot {s : State} (h : smRising none s.seating = true) {k : Nat} {sl sl' : Slot}
    (hf : smFind k s.slots = some sl) (hq : sl'.queue = sl.queue) : s.SameSeats { s with slots := smPut k sl' s.slots } := by
  refine ⟨?_, rfl, rfl⟩
  have hseat : smFind k s.seating = some sl'.queue := by
    rw [State.seating, smFind_map fun e : Nat × Slot => e.2.queue, hf, hq]
    rfl
  exact (map_smPut Slot.queue k sl' s.slots).trans (smPut_of_smFind h hseat)

theorem State.preemptDues_sameSeats : ∀ (l : List Nat) (s : State), s.SameSeats (l.foldl State.preemptDue s)
  | [], s => .refl s
  | n :: l, s =>
    have hone : s.SameSeats (s.preemptDue n) := by
      unfold State.preemptDue
      dsimp only
      split
      · exact .refl s
      · exact ⟨rfl, rfl, rfl⟩
    hone.trans (State.preemptDues_sameSeats l _)

theorem State.claim_sameSeats {s : State} (h : smRising none s.seating = true) (k : Nat) (l : List Nat) :
    s.SameSeats (s.claim k l) := by
  unfold State.claim
  split
  next => exact .refl s
  next sl hsl =>
    have hput := State.SameSeats.putSlot h hsl (sl' := { sl with victims := sl.victims ++ l.map fun n => (s.ctxAt n).sid }) rfl
    exact hput.trans (State.preemptDues_sameSeats l _)

theorem State.reserve_sameSeats {s : State} (h : smRising none s.seating = true) (k : Nat) : s.SameSeats (s.reserve k) := by
  unfold State.reserve
  split
  next => exact .refl s
  next sl hsl =>
    dsimp only
    split
    next => exact .refl s
    next l _ =>
      have hput := State.SameSeats.putSlot h hsl (sl' := { sl with reserved := (l.flatMap Place.clusters).eraseDups }) rfl
      exact hput.trans (State.claim_sameSeats (hput.seating ▸ h) k _)

theorem State.reserves_sameSeats (p : State → Bool) : ∀ (l : List Nat) (s : State), smRising none s.seating = true →
    s.SameSeats (l.foldl (fun s k => if p s = true then s.reserve k else s) s)
  | [], s, _ => .refl s
  | k :: l, s, h => by
    have hone : s.SameSeats (if p s = true then s.reserve k else s) := by
      split
      · exact State.reserve_sameSeats h k
      · exact .refl s
    exact hone.trans (State.reserves_sameSeats p l _ (hone.seating ▸ h))

/-! ## A boundary -/

/-- What a rotation leaves: each of the best queues in a slot and no other, every queue as it was but for the boundaries it
waited, which count for those with work and without a slot. -/
structure State.Rotated (s t : State) (top : List Nat) : Prop where
  seats : t.Seats top
  seated : top ⊆ t.seating.map Prod.snd
  rising : smRising none t.queues = true
  count : ∀ k, (t.queueAt k).count = (s.queueAt k).count
  waits : ∀ k, 0 < (s.queueAt k).count → k ∉ top → (t.queueAt k).w = (s.queueAt k).w + 1
  mem : t.mem = s.mem

/-- The slots of queues outside a list are emptied, and those that stay have waited once more. -/
def State.keptSlots (s : State) (top : List Nat) : State :=
  { s with slots := (s.slots.filter fun e => top.contains e.2.queue).map fun e => (e.1, { e.2 with waited := e.2.waited + 1 }) }

theorem State.keptSlots_seating (s : State) (top : List Nat) :
    (s.keptSlots top).seating = s.seating.filter fun e => top.contains e.2 := by
  simp only [State.keptSlots, State.seating, List.map_map, List.filter_map]
  rfl

/-- The queues of a list have a slot each. -/
def State.seatTop (s : State) (top : List Nat) : State :=
  let t := s.keptSlots top
  (top.filter fun q => !t.slots.any fun e => decide (e.2.queue = q)).foldl State.mapQueue t

/-- A queue at a boundary: with work, and outside a list, it has waited once more. -/
def Queue.passedBy (q : Queue) (top : List Nat) (k : Nat) : Queue :=
  if decide (0 < q.count) && !top.contains k then { q with w := q.w + 1 } else q

theorem Queue.passedBy_count (q : Queue) (top : List Nat) (k : Nat) : (q.passedBy top k).count = q.count := by
  unfold Queue.passedBy
  split <;> rfl

theorem Queue.passedBy_w {q : Queue} {top : List Nat} {k : Nat} (hq : 0 < q.count) (hk : k ∉ top) :
    (q.passedBy top k).w = q.w + 1 := by
  simp [Queue.passedBy, hq, hk]

/-- W counts for the queues with work outside a list. -/
def State.countWaits (s : State) (top : List Nat) : State :=
  { s with queues := s.queues.map fun e => (e.1, e.2.passedBy top e.1) }

theorem State.rotate_eq (s : State) :
    s.rotate = ((s.seatTop (s.ranking.take 64)).countWaits (s.ranking.take 64)).qualified.foldl (fun s k =>
      if (decide ((s.slots.filter fun e => !e.2.reserved.isEmpty).length < 4)) = true then s.reserve k else s)
      ((s.seatTop (s.ranking.take 64)).countWaits (s.ranking.take 64)) := by
  simp only [decide_eq_true_eq]
  rfl

theorem State.countWaits_queueAt (s : State) (top : List Nat) (k : Nat) :
    (s.countWaits top).queueAt k = (s.queueAt k).passedBy top k := by
  simp only [State.queueAt, smGet, State.countWaits, smFind_map fun e : Nat × Queue => e.2.passedBy top e.1]
  exact Option.getD_map (fun q : Queue => q.passedBy top k) {} _

/-- Slots numbered below 64, each with a queue of its own. -/
structure State.SlotsOk (s : State) : Prop where
  rising : smRising none s.slots = true
  low : ∀ e ∈ s.slots, e.1 < 64
  nodup : (s.slots.map fun e => e.2.queue).Nodup

theorem State.SlotsOk.keptSlots {s : State} (h : s.SlotsOk) (top : List Nat) : (s.keptSlots top).Seats top := by
  have hseat := s.keptSlots_seating top
  have hqueues : s.seating.map Prod.snd = s.slots.map fun e => e.2.queue := by simp [State.seating]
  have hsub : ((s.keptSlots top).seating.map Prod.snd).Sublist (s.slots.map fun e => e.2.queue) :=
    hqueues ▸ hseat ▸ (List.filter_sublist (l := s.seating)).map Prod.snd
  refine ⟨?_, fun e he => ?_, h.nodup.sublist hsub, fun q hq => ?_⟩
  · rw [hseat]
    exact smRising_filter _ (s.slots_rising ▸ h.rising)
  · obtain ⟨x, hx, rfl⟩ := List.mem_map.1 (List.mem_filter.1 (hseat ▸ he)).1
    exact h.low x hx
  · obtain ⟨x, hx, rfl⟩ := List.mem_map.1 (hseat ▸ hq)
    simpa using (List.mem_filter.1 hx).2

theorem State.SlotsOk.seatTop {s : State} (h : s.SlotsOk) {top : List Nat} (hlen : top.length ≤ 64) (hnodup : top.Nodup) :
    (s.seatTop top).Seats top ∧ top ⊆ (s.seatTop top).seating.map Prod.snd ∧
      ∀ k, k ∉ top → (s.seatTop top).queueAt k = s.queueAt k := by
  have hany := (s.keptSlots top).any_slot
  have hno : ∀ q ∈ top.filter fun q => !(s.keptSlots top).slots.any fun e => decide (e.2.queue = q),
      q ∉ (s.keptSlots top).seating.map Prod.snd := fun q hq hslot => by
    have hnone := (List.mem_filter.1 hq).2
    rw [(hany q).2 hslot] at hnone
    cases hnone
  obtain ⟨hseats, hmem, hqueue⟩ := State.mapQueues_seats hlen (h.keptSlots top) (hnodup.sublist List.filter_sublist)
    List.filter_sublist.subset hno
  refine ⟨hseats, fun q hq => (hmem q).2 ?_, fun k hk => hqueue k fun hmem => hk (List.mem_filter.1 hmem).1⟩
  by_cases hslot : ((s.keptSlots top).slots.any fun e => decide (e.2.queue = q)) = true
  · exact .inr ((hany q).1 hslot)
  · exact .inl (List.mem_filter.2 ⟨hq, by simpa using hslot⟩)

theorem State.seatTop_sameButWaits (s : State) (top : List Nat) : s.SameButWaits (s.seatTop top) :=
  have hkept : s.SameButWaits (s.keptSlots top) := ⟨rfl, rfl, rfl, fun _ => ⟨_, rfl⟩⟩
  hkept.trans (State.mapQueues_sameButWaits _ _)

theorem State.SlotsOk.rotated {s : State} (h : s.SlotsOk) (hq : smRising none s.queues = true) :
    s.Rotated s.rotate (s.ranking.take 64) := by
  rw [s.rotate_eq]
  generalize htop : s.ranking.take 64 = top
  have hlen : top.length ≤ 64 := htop ▸ List.length_take_le ..
  have hnodup : top.Nodup := htop ▸ (ranking_nodup hq).sublist (List.take_sublist ..)
  obtain ⟨hseats, hall, hother⟩ := h.seatTop hlen hnodup
  have hwaits := s.seatTop_sameButWaits top
  have hrising : smRising none (s.seatTop top).queues = true := State.mapQueues_queues_rising hq
  have hcounted : ((s.seatTop top).countWaits top).seating = (s.seatTop top).seating := rfl
  have hsame := State.reserves_sameSeats (fun s => decide ((s.slots.filter fun e => !e.2.reserved.isEmpty).length < 4))
    ((s.seatTop top).countWaits top).qualified ((s.seatTop top).countWaits top) (hcounted ▸ hseats.rising)
  have hseat := hsame.seating.trans hcounted
  refine ⟨hseats.of_seating hseat, hseat ▸ hall, ?_, fun k => ?_, fun k hk hktop => ?_, hsame.mem.trans hwaits.mem⟩
  · rw [hsame.queues]
    exact (smRising_map ..).trans hrising
  · rw [hsame.queueAt, State.countWaits_queueAt, Queue.passedBy_count, hwaits.count]
  · rw [hsame.queueAt, State.countWaits_queueAt, hother k hktop, Queue.passedBy_w hk hktop]

/-- After a rotation there is nothing to fill. -/
theorem State.Rotated.fillSlots {s t : State} (h : s.Rotated t (s.ranking.take 64)) (hq : smRising none s.queues = true) :
    t.fillSlots = t ∧ (∀ e ∈ t.slots, 0 < (t.queueAt e.2.queue).count) ∧
      ∀ k, (∀ e ∈ t.slots, e.2.queue ≠ k) → k ∉ s.ranking.take 64 := by
  have hwork : ∀ e ∈ t.slots, 0 < (t.queueAt e.2.queue).count := fun e he => by
    have htop := h.seats.within (List.mem_map.2 ⟨_, List.mem_map.2 ⟨e, he, rfl⟩, rfl⟩)
    rw [h.count]
    exact (mem_ranking hq).1 (List.mem_of_mem_take htop)
  refine ⟨State.fillSlots_full hwork ?_, hwork, fun k hk htop => ?_⟩
  · by_cases hlen : s.ranking.length ≤ 64
    · refine .inr fun q hr => h.seated ?_
      rw [List.take_of_length_le hlen, mem_ranking hq, ← h.count]
      exact (mem_ranking h.rising).1 hr
    · refine .inl ?_
      have hnodup := (ranking_nodup hq).sublist (List.take_sublist 64 _)
      have := (hnodup.subperm h.seated).length_le
      rw [List.length_take, List.length_map, ← t.slots_length] at this
      omega
  · obtain ⟨e, he, hek⟩ := List.any_eq_true.1 ((t.any_slot k).2 (h.seated htop))
    exact hk e he (by simpa using hek)

end Sys2Proof.Machine

namespace Sys2Proof.Proofs

open Sys2Proof Sys2Proof.Machine Sys2Proof.Claims

theorem rotationBoundary_completes {s : State} (hb : s.boundary < s.boundaries) (hs : s.SlotsOk)
    (hq : smRising none s.queues = true) : completes .rotationBoundary s fun t =>
      t.boundary = s.boundary + 1 ∧ (∀ e ∈ t.slots, 0 < (t.queueAt e.2.queue).count) ∧ t.mem = s.mem ∧
        ∀ k, 0 < (s.queueAt k).count → (∀ e ∈ t.slots, e.2.queue ≠ k) → (t.queueAt k).w = (s.queueAt k).w + 1 := by
  have hrot := hs.rotated hq
  have hrot' : s.Rotated { s.rotate with boundary := s.boundary + 1 } (s.ranking.take 64) :=
    ⟨hrot.seats.of_seating rfl, hrot.seated, hrot.rising, hrot.count, hrot.waits, hrot.mem⟩
  obtain ⟨hfull, hwork, hout⟩ := hrot'.fillSlots hq
  refine ⟨{ s.rotate with boundary := s.boundary + 1 }, ?_, rfl, hwork, hrot'.mem, fun k hk hno => hrot'.waits k hk (hout k hno)⟩
  have hexec : exec .rotationBoundary s = execRotationBoundary s := rfl
  rw [hexec, execRotationBoundary, if_neg (Nat.not_le.2 hb), hfull]

end Sys2Proof.Proofs
end

section
/-! Placement of a new record: each member's context starts as the record says, and no other context changes (R31, R32, R137,
R343). -/

namespace Sys2Proof.Machine

/-! ## The context of a new strand -/

/-- A context at the start of a record's strand, in a place and with grants. -/
def Ctx.startsAs (c : Ctx) (q : Queue) (r : LaunchRec) (p : Place) (gs : List Grant) : Prop :=
  c.mode = .resident ∧ c.pc = r.entry ∧ c.reg 3 = r.arg ∧ (∀ k, k ≠ 3 → c.reg k = 0) ∧ c.vspan = p.vspan ∧
    c.vlmax = BitVec.ofNat 64 (64 * p.lanes) ∧ c.status = (if r.sup then 1 else 0) ∧ c.pasid = q.pasid ∧
    c.stvec = clearLow 2 q.stvec ∧ c.grants = gs

theorem newCtx_reg_arg (p : Place) (entry arg : Word) (sup : Bool) : (newCtx p entry arg sup).reg 3 = arg := by
  rw [Ctx.reg, if_neg (by decide)]
  exact Vector.getElem_set_self ..

theorem newCtx_reg_other (p : Place) (entry arg : Word) (sup : Bool) {k : XReg} (hk : k ≠ 3) :
    (newCtx p entry arg sup).reg k = 0 := by
  have hne : (3 : Nat) ≠ k.toNat := fun h => hk (BitVec.eq_of_toNat_eq h.symm)
  unfold Ctx.reg newCtx
  split
  · rfl
  · rw [Vector.getElem_set_ne _ _ hne]
    exact Vector.getElem_replicate ..

theorem newCtx_status (p : Place) (entry arg : Word) (sup : Bool) :
    (newCtx p entry arg sup).status = if sup then 1 else 0 := by
  cases sup <;> rfl

/-! ## One member -/

theorem State.ctxAt_of_put {s t : State} {n : Nat} {c : Ctx} (h : t.ctxs = smPut n c s.ctxs) (k : Nat) :
    t.ctxAt k = if k = n then c else s.ctxAt k := by
  unfold State.ctxAt
  rw [h]
  split
  next hk => subst hk; exact smGet_put_same ..
  next hk => exact smGet_put_other _ hk _ _

theorem State.placeMember_ctxs (s : State) (qn : Nat) (r : LaunchRec) (recId gangId : Nat) (rep : Rep) (p : Place)
    (gs : List Grant) (n : Nat) :
    (∃ c : Ctx, c.startsAs (s.queueAt qn) r p gs ∧ (s.placeMember qn r recId gangId rep p gs n).ctxs = smPut n c s.ctxs) ∧
      (s.placeMember qn r recId gangId rep p gs n).queues = s.queues := by
  unfold State.placeMember
  extract_lets q entered cleared half zeroed desc d captured fresh c named ganged
  have hentered : s.SameStrands entered := .foldl (fun s cl => s.enterCluster_sameStrands _ _ _ cl) _ s
  have hcleared : s.SameStrands cleared := hentered.trans (State.clearLanes_sameStrands _ _ _)
  have hzeroed : s.SameStrands zeroed :=
    .ite hcleared (hcleared.trans (.foldl (fun s cl => s.clearMatrix_sameStrands cl _ _) _ _))
  have hnamed : s.SameStrands named := (hzeroed.trans (State.captureFor_sameStrands _ _)).trans ⟨rfl, rfl, rfl, rfl⟩
  have hganged : s.SameStrands ganged := by
    refine hnamed.trans ?_
    unfold ganged
    split
    · exact ⟨rfl, rfl, rfl, rfl⟩
    · exact .refl _
  have hcount := (ganged.setCtx n c).perfCount_sameStrands 72 0x62 (some c.pasid) 1
  refine ⟨⟨c, ⟨rfl, rfl, newCtx_reg_arg p r.entry r.arg r.sup, fun k hk => newCtx_reg_other p r.entry r.arg r.sup hk, rfl, rfl,
    newCtx_status p r.entry r.arg r.sup, rfl, rfl, rfl⟩, ?_⟩, ?_⟩
  · rw [hcount.ctxs, State.setCtx_ctxs, hganged.ctxs]
  · rw [hcount.queues]
    exact hganged.queues

/-! ## The members of a record -/

theorem State.queueAt_of_queues {s t : State} (h : t.queues = s.queues) (k : Nat) : t.queueAt k = s.queueAt k := by
  rw [State.queueAt, h, State.queueAt]

/-- The members are placed one after another. -/
def State.placeMembers (s : State) (qn : Nat) (r : LaunchRec) (recId gangId : Nat) (l : List (Rep × Place × List Grant × Nat)) :
    State :=
  l.foldl (fun s m => s.placeMember qn r recId gangId m.1 m.2.1 m.2.2.1 m.2.2.2) s

theorem State.placeMembers_queues (qn : Nat) (r : LaunchRec) (recId gangId : Nat) :
    ∀ (l : List (Rep × Place × List Grant × Nat)) (s : State), (s.placeMembers qn r recId gangId l).queues = s.queues
  | [], _ => rfl
  | _ :: l, s => (State.placeMembers_queues qn r recId gangId l _).trans (s.placeMember_ctxs qn r recId gangId _ _ _ _).2

theorem State.placeMembers_other (qn : Nat) (r : LaunchRec) (recId gangId : Nat) {k : Nat} :
    ∀ {l : List (Rep × Place × List Grant × Nat)} {s : State}, (∀ m ∈ l, m.2.2.2 ≠ k) →
      (s.placeMembers qn r recId gangId l).ctxAt k = s.ctxAt k
  | [], _, _ => rfl
  | m :: l, s, h => by
    obtain ⟨⟨c, -, hctxs⟩, -⟩ := s.placeMember_ctxs qn r recId gangId m.1 m.2.1 m.2.2.1 m.2.2.2
    have hrest := State.placeMembers_other qn r recId gangId (s := s.placeMember qn r recId gangId m.1 m.2.1 m.2.2.1 m.2.2.2)
      fun x hx => h x (List.mem_cons_of_mem _ hx)
    exact hrest.trans ((State.ctxAt_of_put hctxs k).trans (if_neg (h m (List.mem_cons_self ..)).symm))

/-- Members on contexts of their own all start as the record says. -/
theorem State.placeMembers_starts (qn : Nat) (r : LaunchRec) (recId gangId : Nat) :
    ∀ {l : List (Rep × Place × List Grant × Nat)} {s : State}, (l.map fun m => m.2.2.2).Nodup → ∀ m ∈ l,
      ((s.placeMembers qn r recId gangId l).ctxAt m.2.2.2).startsAs (s.queueAt qn) r m.2.1 m.2.2.1
  | [], _, _, _, hm => by cases hm
  | x :: l, s, hnodup, m, hm => by
    obtain ⟨hx, hl⟩ := List.nodup_cons.1 hnodup
    obtain ⟨⟨c, hc, hctxs⟩, hqueues⟩ := s.placeMember_ctxs qn r recId gangId x.1 x.2.1 x.2.2.1 x.2.2.2
    rcases List.mem_cons.1 hm with rfl | hm
    · have hkept := State.placeMembers_other qn r recId gangId
        (s := s.placeMember qn r recId gangId m.1 m.2.1 m.2.2.1 m.2.2.2) fun y hy hym =>
          hx (List.mem_map.2 ⟨y, hy, hym⟩)
      have hctx := hkept.trans ((State.ctxAt_of_put hctxs _).trans (if_pos rfl))
      show ((State.placeMembers _ qn r recId gangId l).ctxAt m.2.2.2).startsAs _ r m.2.1 m.2.2.1
      rwa [hctx]
    · have := State.placeMembers_starts qn r recId gangId (s := s.placeMember qn r recId gangId x.1 x.2.1 x.2.2.1 x.2.2.2) hl m hm
      rwa [State.queueAt_of_queues hqueues] at this

/-! ## The record leaves its queue -/

/-- What the placement of a record leaves of its queue: the next replica to place, or the next record. -/
def Queue.afterFresh (q : Queue) (r : LaunchRec) (recId : Nat) : Queue :=
  let next := (q.replica.map Prod.fst).getD 0 + 1
  if r.single && decide (next < r.replicas) then { q with replica := some (next, recId) }
  else { q with head := q.head + 1, replica := none }

theorem State.commitFresh_eq (s : State) (qn : Nat) (l : List (Rep × Place × List Grant × Nat)) :
    ∃ t recId gangId, s.SameStrands t ∧ s.commitFresh qn l =
      (t.placeMembers qn ((s.queueAt qn).recOf (s.headBytes (s.queueAt qn))) recId gangId l).setQueue qn
        ((s.queueAt qn).afterFresh ((s.queueAt qn).recOf (s.headBytes (s.queueAt qn))) recId) := by
  unfold State.commitFresh
  extract_lets q r recId listed g placed next q'
  have hlisted : s.SameStrands listed := by
    unfold listed
    split
    · exact .refl s
    · exact ⟨rfl, rfl, rfl, rfl⟩
  have hbound : s.SameStrands g.2 := hlisted.trans (State.bindGang_sameStrands _ _)
  have hq : q' = q := (State.queueAt_of_queues (State.placeMembers_queues qn r recId g.1 l g.2) qn).trans (hbound.queueAt qn)
  exact ⟨g.2, recId, g.1, hbound, by rw [hq]; rfl⟩

/-- A record's members start as it says, it leaves its queue with its last replica, and no other context changes. -/
theorem State.commitFresh_starts (s : State) (qn : Nat) {l : List (Rep × Place × List Grant × Nat)}
    (hnodup : (l.map fun m => m.2.2.2).Nodup) :
    let q := s.queueAt qn
    let r := q.recOf (s.headBytes q)
    (∀ m ∈ l, ((s.commitFresh qn l).ctxAt m.2.2.2).startsAs q r m.2.1 m.2.2.1) ∧
      (∃ recId, (s.commitFresh qn l).queueAt qn = q.afterFresh r recId) ∧
      ∀ k, (∀ m ∈ l, m.2.2.2 ≠ k) → (s.commitFresh qn l).ctxAt k = s.ctxAt k := by
  intro q r
  obtain ⟨t, recId, gangId, ht, e⟩ := s.commitFresh_eq qn l
  have hctx : ∀ k, (s.commitFresh qn l).ctxAt k = (t.placeMembers qn r recId gangId l).ctxAt k := fun k => by rw [e]; rfl
  refine ⟨fun m hm => ?_, ⟨recId, ?_⟩, fun k hk => ?_⟩
  · rw [hctx]
    have hstarts := State.placeMembers_starts qn r recId gangId (s := t) hnodup m hm
    rwa [ht.queueAt qn] at hstarts
  · rw [e, State.queueAt_setQueue, if_pos rfl]
  · rw [hctx, State.placeMembers_other qn r recId gangId hk, ht.ctxAt]

/-! ## The plan carried out -/

theorem State.fillSlots_after_slots (u : State) (m : SMap Slot) : u.SameButWaits ({ u with slots := m } : State).fillSlots :=
  have hslots : u.SameButWaits { u with slots := m } := ⟨rfl, rfl, rfl, fun _ => ⟨_, rfl⟩⟩
  hslots.trans (State.fillSlots_sameButWaits _)

theorem State.commitPlan_fresh {s : State} {slot : Nat} {sl : Slot} (hslot : smFind slot s.slots = some sl)
    (l : List (Rep × Place × List Grant × Nat)) : (s.commitFresh sl.queue l).SameButWaits (s.commitPlan slot (.fresh l)) := by
  unfold State.commitPlan
  rw [hslot]
  exact State.fillSlots_after_slots _ _

theorem State.commitPlan_resume (s : State) (slot : Nat) (l : List (Ctx × Place × Nat)) :
    (s.commitResume l).SameButWaits (s.commitPlan slot (.resume l)) :=
  State.fillSlots_after_slots _ _

theorem State.SameButWaits.ctxAt {s t : State} (h : s.SameButWaits t) (k : Nat) : t.ctxAt k = s.ctxAt k := by
  rw [State.ctxAt, h.ctxs, State.ctxAt]

/-- The placement unit acts on a slot with a plan when no slot before it has one. -/
theorem execPlacement_plan {s : State} {slot : Nat} {p : Plan} (hplan : s.planNow slot = some p)
    (hfirst : ∀ k ∈ s.slotOrder.takeWhile fun k => decide (k ≠ slot), s.planNow k = none) :
    exec (.placement slot) s = .next (s.commitPlan slot p) := by
  have hexec : exec (.placement slot) s = execPlacement slot s := rfl
  have hnone : ¬ ((s.slotOrder.takeWhile fun k => decide (k ≠ slot)).any fun k => (s.planNow k).isSome) = true := fun hany => by
    obtain ⟨k, hk, hsome⟩ := List.any_eq_true.1 hany
    rw [hfirst k hk] at hsome
    cases hsome
  rw [hexec, execPlacement, if_neg hnone, State.serveSlot, hplan]
  rfl

end Sys2Proof.Machine

namespace Sys2Proof.Proofs

open Sys2Proof Sys2Proof.Machine Sys2Proof.Claims

theorem placement_starts {s : State} {slot : Nat} {sl : Slot} {l : List (Rep × Place × List Grant × Nat)}
    (hslot : smFind slot s.slots = some sl) (hplan : s.planNow slot = some (.fresh l)) (hnodup : (l.map fun m => m.2.2.2).Nodup)
    (hfirst : ∀ k ∈ s.slotOrder.takeWhile fun k => decide (k ≠ slot), s.planNow k = none) :
    let q := s.queueAt sl.queue
    let r := q.recOf (s.headBytes q)
    let next := (q.replica.map Prod.fst).getD 0 + 1
    completes (.placement slot) s fun t =>
      (∀ m ∈ l, (t.ctxAt m.2.2.2).startsAs q r m.2.1 m.2.2.1) ∧
      (if r.single = true ∧ next < r.replicas then
        (t.queueAt sl.queue).head = q.head ∧ ((t.queueAt sl.queue).replica.map Prod.fst) = some next
       else (t.queueAt sl.queue).head = q.head + 1 ∧ (t.queueAt sl.queue).replica = none) ∧
      ∀ k, (∀ m ∈ l, m.2.2.2 ≠ k) → t.ctxAt k = s.ctxAt k := by
  intro q r next
  obtain ⟨hstarts, ⟨recId, hqueue⟩, hother⟩ := s.commitFresh_starts sl.queue hnodup
  have hwaits := State.commitPlan_fresh hslot l
  obtain ⟨w, hw⟩ := hwaits.queue sl.queue
  refine ⟨_, execPlacement_plan hplan hfirst, fun m hm => ?_, ?_, fun k hk => ?_⟩
  · rw [hwaits.ctxAt]
    exact hstarts m hm
  · rw [hw, hqueue]
    unfold Queue.afterFresh
    dsimp only
    by_cases hnext : r.single = true ∧ next < r.replicas
    · rw [if_pos hnext, if_pos (by simpa using hnext)]
      exact ⟨rfl, rfl⟩
    · rw [if_neg hnext, if_neg (by simpa using hnext)]
      exact ⟨rfl, rfl⟩
  · rw [hwaits.ctxAt]
    exact hother k hk

end Sys2Proof.Proofs
end

section
/-! A parked strand goes on from its image in its new span, and O43 (R343, R354, R355). -/

namespace Sys2Proof.Machine

/-! ## What an image gives a context -/

theorem leNat_lt : ∀ l : List Byte, leNat l < 256 ^ l.length
  | [] => Nat.one_pos
  | b :: l => by
    have hb : b.toNat < 256 := b.isLt
    have hl := leNat_lt l
    rw [List.length_cons, Nat.pow_succ, leNat]
    omega

theorem fieldAt_lt (l : List Byte) (i n : Nat) : fieldAt l i n < 256 ^ n :=
  (leNat_lt _).trans_le (Nat.pow_le_pow_right (by decide) (List.length_take_le ..))

theorem clearLow_two_ofNat {n : Nat} (hn : n < 2 ^ 64) : clearLow 2 (BitVec.ofNat 64 n) = BitVec.ofNat 64 (n / 4 * 4) := by
  rw [clearLow, BitVec.toNat_ofNat, Nat.mod_eq_of_lt hn, show 2 ^ 2 = 4 from rfl]

theorem Ctx.restoreRegs_pc (c : Ctx) (l : List Byte) (lazy : Bool) (desc : Option PteFormat) :
    (c.restoreRegs l lazy desc).pc = BitVec.ofNat 64 (fieldAt l 24 8 / 4 * 4) :=
  clearLow_two_ofNat (fieldAt_lt l 24 8)

theorem Ctx.restoreRegs_reg (c : Ctx) (l : List Byte) (lazy : Bool) (desc : Option PteFormat) {k : Nat} (h0 : 0 < k) (h32 : k < 32) :
    (c.restoreRegs l lazy desc).reg (BitVec.ofNat 5 k) = BitVec.ofNat 64 (fieldAt l (0x40 + 8 * k) 8) := by
  have hk : (BitVec.ofNat 5 k).toNat = k := by simp [BitVec.toNat_ofNat, Nat.mod_eq_of_lt h32]
  have hne : BitVec.ofNat 5 k ≠ 0 := fun h => by rw [h] at hk; simp at hk; omega
  unfold Ctx.reg Ctx.restoreRegs
  rw [if_neg hne]
  simp [hk, h0.ne']

/-! ## Restoring a context -/

/-- A state differs from another, of the strands and their queues, in one context at most. -/
structure State.OnlyCtx (s t : State) (n : Nat) (c : Ctx) : Prop where
  ctxs : t.ctxs = smPut n c s.ctxs
  queues : t.queues = s.queues
  parked : t.parked = s.parked

theorem State.OnlyCtx.setCtx (s : State) (n : Nat) (c : Ctx) : s.OnlyCtx (s.setCtx n c) n c := ⟨rfl, rfl, rfl⟩

theorem State.OnlyCtx.sameStrands {s t u : State} {n : Nat} {c : Ctx} (h : s.OnlyCtx t n c) (g : t.SameStrands u) :
    s.OnlyCtx u n c := ⟨g.ctxs.trans h.ctxs, g.queues.trans h.queues, g.parked.trans h.parked⟩

theorem State.OnlyCtx.again {s t u : State} {n : Nat} {c d : Ctx} (h : s.OnlyCtx t n c) (g : t.OnlyCtx u n d) :
    s.OnlyCtx u n d := ⟨by rw [g.ctxs, h.ctxs, smPut_put], g.queues.trans h.queues, g.parked.trans h.parked⟩

theorem State.SameStrands.onlyCtx {s t u : State} {n : Nat} {c : Ctx} (h : s.SameStrands t) (g : t.OnlyCtx u n c) :
    s.OnlyCtx u n c := ⟨by rw [g.ctxs, h.ctxs], g.queues.trans h.queues, g.parked.trans h.parked⟩

theorem State.OnlyCtx.ctxAt {s t : State} {n : Nat} {c : Ctx} (h : s.OnlyCtx t n c) : t.ctxAt n = c :=
  (State.ctxAt_of_put h.ctxs n).trans (if_pos rfl)

theorem State.OnlyCtx.ctxAt_other {s t : State} {n : Nat} {c : Ctx} (h : s.OnlyCtx t n c) {k : Nat} (hk : k ≠ n) :
    t.ctxAt k = s.ctxAt k := (State.ctxAt_of_put h.ctxs k).trans (if_neg hk)

/-- A context whose later reads are ordered anew. -/
def Ctx.withOrder (c : Ctx) (o : Order) : Ctx := { c with order := o }

/-- An acquire orders the later reads of its strand and changes nothing else. -/
theorem State.OnlyCtx.acquire {s t : State} {n : Nat} {c : Ctx} (h : s.OnlyCtx t n c) :
    ∃ o, s.OnlyCtx (t.acquire n) n (c.withOrder o) := by
  unfold State.acquire State.acquireAt
  dsimp only
  split
  · exact ⟨c.order, h⟩
  · rw [h.ctxAt]
    exact ⟨_, h.again (.setCtx t n (c.withOrder _))⟩

/-- Registers and CSRs of a context come from an image; its later reads are ordered anew. -/
theorem State.restoreCtx_onlyCtx (s : State) (n : Nat) (l : List PByte) (lazy : Bool) : ∃ desc o,
    s.OnlyCtx (s.restoreCtx n l lazy) n (((s.ctxAt n).restoreRegs (l.map Prod.fst) lazy desc).withOrder o) := by
  unfold State.restoreCtx
  extract_lets bytes d c bulk
  have hcapture : s.SameStrands d.2 := s.captureFor_sameStrands _
  have hctx : c = (s.ctxAt n).restoreRegs bytes lazy d.1 := congrArg (Ctx.restoreRegs · bytes lazy d.1) (hcapture.ctxAt n)
  have hbulk : s.OnlyCtx bulk n c :=
    (hcapture.onlyCtx (.setCtx d.2 n c)).sameStrands (State.restoreBulk_sameStrands _ _ _)
  exact ⟨d.1, hctx ▸ (hbulk.sameStrands (.ite (State.setSpcfg_sameStrands _ _ _) (.refl bulk))).acquire⟩

/-- A context with the pipelines of its image. -/
def Ctx.withPipes (c : Ctx) (m : SMap Pipe) : Ctx := { c with pipes := m, dirtySince := 0 }

/-- A context whose image and unit records have been restored. -/
def State.restored (s : State) (n : Nat) (l : List PByte) (lazy : Bool) (m : SMap Pipe) : State :=
  let t := s.restoreCtx n l lazy
  (t.setCtx n ((t.ctxAt n).withPipes m)).restoreUnits (t.ctxAt n) (l.map Prod.fst)

theorem State.restored_onlyCtx (s : State) (n : Nat) (l : List PByte) (lazy : Bool) (m : SMap Pipe) : ∃ desc o,
    s.OnlyCtx (s.restored n l lazy m) n
      ((((s.ctxAt n).restoreRegs (l.map Prod.fst) lazy desc).withOrder o).withPipes m) := by
  obtain ⟨desc, o, hrest⟩ := s.restoreCtx_onlyCtx n l lazy
  refine ⟨desc, o, ?_⟩
  unfold State.restored
  dsimp only
  rw [hrest.ctxAt]
  exact (hrest.again (.setCtx _ n _)).sameStrands (State.restoreUnits_sameStrands _ _ _)

/-! ## A strand of its own -/

/-- What the placement of a parked strand leaves of it: its context, no resume entry and no parked strand of its number. -/
structure State.Resumed (s t : State) (c : Ctx) (img : List Byte) (p : Place) (n : Nat) : Prop where
  mode : (t.ctxAt n).mode = .resident
  sid : (t.ctxAt n).sid = c.sid
  vspan : (t.ctxAt n).vspan = p.vspan
  pc : (t.ctxAt n).pc = BitVec.ofNat 64 (fieldAt img 24 8 / 4 * 4)
  regs : ∀ k, 0 < k → k < 32 → (t.ctxAt n).reg (BitVec.ofNat 5 k) = BitVec.ofNat 64 (fieldAt img (0x40 + 8 * k) 8)
  parked : (t.parked.all fun x => decide (x.sid ≠ c.sid)) = true
  queue : c.sid ∉ (t.queueAt c.queue).resume
  other : ∀ k, k ≠ n → t.ctxAt k = s.ctxAt k

theorem State.Resumed.sameButWaits {s t u : State} {c : Ctx} {img : List Byte} {p : Place} {n : Nat} (h : s.Resumed t c img p n)
    (g : t.SameButWaits u) : s.Resumed u c img p n := by
  obtain ⟨w, hw⟩ := g.queue c.queue
  have hctx := g.ctxAt
  exact ⟨by rw [hctx, h.mode], by rw [hctx, h.sid], by rw [hctx, h.vspan], by rw [hctx, h.pc],
    fun k h0 h32 => by rw [hctx, h.regs k h0 h32], by rw [g.parked, h.parked], by rw [hw]; exact h.queue,
    fun k hk => by rw [hctx, h.other k hk]⟩

/-- A parked strand in its new context, before its image is restored. -/
def State.backCtx (s : State) (c : Ctx) (p : Place) : Ctx :=
  { c with mode := .resident, vspan := p.vspan, parent := none, placedAt := s.nextId, order := { all := s.moment } }

/-- A parked strand enters its new span and context: its resume entry and its parked record are gone. -/
def State.enterBack (s : State) (c : Ctx) (p : Place) (n : Nat) : State :=
  let t := p.clusters.foldl (fun s cl => s.enterCluster c.pasid false (p.whole && c.parent.isNone) cl) s
  let q := t.queueAt c.queue
  { (t.setCtx n c).setQueue c.queue { q with resume := State.resumeOne.nsDelOne c.sid q.resume } with
    parked := t.parked.filter (fun x => decide (x.sid ≠ c.sid)), nextId := t.nextId + 1 }

theorem State.enterBack_ctxs (s : State) (c : Ctx) (p : Place) (n : Nat) : (s.enterBack c p n).ctxs = smPut n c s.ctxs ∧
    (s.enterBack c p n).parked = s.parked.filter (fun x => decide (x.sid ≠ c.sid)) ∧
    c.sid ∉ ((s.enterBack c p n).queueAt c.queue).resume := by
  unfold State.enterBack
  extract_lets t q
  have ht : s.SameStrands t := .foldl (fun s cl => s.enterCluster_sameStrands _ _ _ cl) _ s
  refine ⟨by rw [← ht.ctxs]; rfl, by rw [← ht.parked], fun hmem => ?_⟩
  have hq : State.queueAt { (t.setCtx n c).setQueue c.queue { q with resume := State.resumeOne.nsDelOne c.sid q.resume } with
      parked := t.parked.filter (fun x => decide (x.sid ≠ c.sid)), nextId := t.nextId + 1 } c.queue =
        { q with resume := State.resumeOne.nsDelOne c.sid q.resume } :=
    (State.queueAt_setQueue (t.setCtx n c) c.queue c.queue _).trans (if_pos rfl)
  rw [hq] at hmem
  simpa using (List.mem_filter.1 hmem).2

/-- A strand whose image has been read and found right goes on from it. -/
theorem State.resumeOne_eq {s s' : State} {c : Ctx} {p : Place} {n : Nat} {b : List PByte} (hparent : c.parent = none)
    (hread : s.readImage (s.backCtx c p) = .ok b s') (hbad : (s.backCtx c p).imgBad b = none)
    (hheader : imgHeaderOk (b.map Prod.fst) = true) (hfits : (s.backCtx c p).imgFits (b.map Prod.fst) = true) :
    s.resumeOne c p n none = (s'.enterBack (s.backCtx c p) p n).restored n b c.record.lazy
      ((s.backCtx c p).restorePipes (b.map Prod.fst)) := by
  unfold State.resumeOne
  extract_lets +onlyGivenNames back
  have hback : back = s.backCtx c p := by simp [back, State.backCtx, hparent]
  clear_value back
  subst hback
  simp only [hread, hbad, hheader, hfits, Bool.not_true, Bool.false_eq_true, ↓reduceIte]
  rfl

theorem State.resumeOne_resumed {s s' : State} {c : Ctx} {p : Place} {n : Nat} {b : List PByte} (hparent : c.parent = none)
    (hread : s.readImage (s.backCtx c p) = .ok b s') (hbad : (s.backCtx c p).imgBad b = none)
    (hheader : imgHeaderOk (b.map Prod.fst) = true) (hfits : (s.backCtx c p).imgFits (b.map Prod.fst) = true) :
    s.Resumed (s.resumeOne c p n none) c (b.map Prod.fst) p n := by
  have hsame : s.SameStrands s' := by
    have := s.readImage_sameStrands (s.backCtx c p)
    rwa [hread] at this
  rw [State.resumeOne_eq hparent hread hbad hheader hfits]
  obtain ⟨hctxs, hparked, hqueue⟩ := s'.enterBack_ctxs (s.backCtx c p) p n
  generalize s'.enterBack (s.backCtx c p) p n = u at hctxs hparked hqueue
  obtain ⟨desc, o, hend⟩ := u.restored_onlyCtx n b c.record.lazy ((s.backCtx c p).restorePipes (b.map Prod.fst))
  rw [(State.ctxAt_of_put hctxs n).trans (if_pos rfl)] at hend
  have hat := hend.ctxAt
  exact {
    mode := by rw [hat]; rfl
    sid := by rw [hat]; rfl
    vspan := by rw [hat]; rfl
    pc := by
      rw [hat]
      exact Ctx.restoreRegs_pc (s.backCtx c p) _ c.record.lazy desc
    regs := fun k h0 h32 => by
      rw [hat]
      exact Ctx.restoreRegs_reg (s.backCtx c p) _ c.record.lazy desc h0 h32
    parked := by
      rw [hend.parked, hparked]
      exact List.all_eq_true.2 fun x hx => (List.mem_filter.1 hx).2
    queue := by
      rw [State.queueAt_of_queues hend.queues]
      exact hqueue
    other := fun k hk => by rw [hend.ctxAt_other hk, State.ctxAt_of_put hctxs, if_neg hk, hsame.ctxAt] }

end Sys2Proof.Machine

namespace Sys2Proof.Proofs

open Sys2Proof Sys2Proof.Machine Sys2Proof.Claims

theorem placement_resumes {s s' : State} {slot n : Nat} {c : Ctx} {p : Place} {b : List PByte}
    (hplan : s.planNow slot = some (.resume [(c, p, n)])) (hparent : c.parent = none)
    (hfirst : ∀ k ∈ s.slotOrder.takeWhile fun k => decide (k ≠ slot), s.planNow k = none)
    (hread : s.readImage (s.backCtx c p) = .ok b s') (hbad : (s.backCtx c p).imgBad b = none)
    (hheader : imgHeaderOk (b.map Prod.fst) = true) (hfits : (s.backCtx c p).imgFits (b.map Prod.fst) = true) :
    ∃ t, exec (.placement slot) s = .next t ∧ s.Resumed t c (b.map Prod.fst) p n := by
  have hone : s.commitResume [(c, p, n)] = s.resumeOne c p n none := by simp [State.commitResume, hparent]
  have hresumed := State.resumeOne_resumed (n := n) hparent hread hbad hheader hfits
  exact ⟨_, execPlacement_plan hplan hfirst, (hone ▸ hresumed).sameButWaits (s.commitPlan_resume slot _)⟩

/-- Settles O43: each member's context is what its placement leaves there, the strand's is what its image gives it, and a
rotation seats the best queues, so that there is nothing to fill. -/
theorem placementAndRotation : Obligations.PlacementAndRotation := by
  unfold Obligations.PlacementAndRotation
  intro s s' slot n sl l c p b q r next img back
  refine ⟨fun hslot hplan hnodup hfirst => placement_starts hslot hplan hnodup hfirst,
    fun _ hplan hparent hfirst hread hbad hheader hfits => ?_,
    fun hb hslots hqueues hlow hnodup => rotationBoundary_completes hb ⟨hslots, hlow, hnodup⟩ hqueues⟩
  obtain ⟨t, hexec, h⟩ := placement_resumes (s := s) hplan hparent hfirst hread hbad hheader hfits
  exact ⟨t, hexec, h.mode, h.sid, h.vspan, h.pc, h.regs, h.parked, h.queue, h.other⟩

end Sys2Proof.Proofs
end

section
/-! From bytes to words (R78, R79, R86) and the fields of the formats, as the encoder writes them and the decoder reads them. -/

namespace Sys2Proof

open Sys2Proof.Claims

/-! ## Bytes -/

theorem leNat_leBytes : ∀ n w : Nat, leNat (leBytes n w) = w % 256 ^ n
  | 0, w => by simp [leBytes, leNat, Nat.mod_one]
  | n + 1, w => by
    rw [leBytes, leNat, leNat_leBytes n, BitVec.toNat_ofNat]
    show w % 256 + 256 * (w / 256 % 256 ^ n) = _
    rw [← Nat.mod_mul, ← Nat.pow_succ']

theorem leBytes_add : ∀ m n w : Nat, leBytes (m + n) w = leBytes m w ++ leBytes n (w / 256 ^ m)
  | 0, n, w => by simp [leBytes]
  | m + 1, n, w => by
    rw [Nat.add_right_comm, leBytes, leBytes_add m n, Nat.div_div_eq_div_mul, ← Nat.pow_succ']
    rfl

theorem leNat_take_leBytes (m n w : Nat) : leNat ((leBytes (m + n) w).take m) = w % 256 ^ m := by
  rw [leBytes_add, List.take_left' (Machine.leBytes_length m w), leNat_leBytes]

theorem drop_leBytes (m n w : Nat) : (leBytes (m + n) w).drop m = leBytes n (w / 256 ^ m) := by
  rw [leBytes_add, List.drop_left' (Machine.leBytes_length m w)]

/-- A parcel that the decoder accepts, in the bytes of its table word. -/
theorem decodeTableWord_parcel {w : Nat} {i : Instr} (hw : w < 2 ^ 32) (h : decodeScalar w = .ok i) :
    decodeTableWord 32 w = some i := by
  have hhead : leNat ((leBytes 36 (w % 2 ^ 32)).take 4) = w := (leNat_take_leBytes 4 32 _).trans (by omega)
  have hparcel : ¬ w % 4 = 3 := fun h3 => by simp [decodeScalar, h3] at h
  simp only [decodeTableWord, decodeBytes, hhead, if_neg hparcel, decodeParcel, h, Decoded.first]

theorem decodeConvoy_ok {h : Nat} (hg : headerGood h) {ws : List Nat} {l : List (Nat × Instr)} (hok : decodeSlots h 0 ws = .ok l) :
    decodeConvoy h ws = .convoy ⟨bitAt h 12, bitAt h 13, l⟩ := by
  obtain ⟨hlt, hz, hd⟩ := hg
  unfold decodeConvoy
  rw [if_neg fun hne => hne (Nat.div_eq_of_lt hlt), Machine.strayUnit_none hz, Machine.unitClash_none hd, hok]

/-- The header of a convoy of one slot (R86). -/
theorem headerGood_one {u : Nat} (hu : u < 4) : headerGood (3 + 16 * u) := by
  refine ⟨by omega, fun k hk _ => ?_, fun k hk j hj => by omega⟩
  have hcode : 2 ^ 6 ≤ 2 ^ (4 + 2 * k) := Nat.pow_le_pow_right (by decide) (by omega)
  rw [unitCode, Nat.div_eq_of_lt (by omega)]

/-- A slot that the decoder accepts, alone in a convoy, in the bytes of its table word. -/
theorem decodeTableWord_one {u w : Nat} {i : Instr} (hu : u < 4) (hw : w < 2 ^ 64) (hunit : vecUnit (w / 2 ^ 56) = some u)
    (h : decodeVec w = .ok i) : decodeTableWord 96 (3 + 16 * u + 2 ^ 32 * w) = some i := by
  set bits := (3 + 16 * u + 2 ^ 32 * w) % 2 ^ 96 with hbits
  have hhead : leNat ((leBytes 36 bits).take 4) = 3 + 16 * u := (leNat_take_leBytes 4 32 _).trans (by omega)
  have hslot : leNat (((leBytes 36 bits).drop 4).take 8) = w := by
    rw [show 36 = 4 + (8 + 24) from rfl, drop_leBytes, leNat_take_leBytes]
    omega
  have h3 : (3 + 16 * u) % 4 = 3 := by omega
  have hcount : convoyCount (3 + 16 * u) = 1 := by unfold convoyCount; omega
  have hcode : unitCode (3 + 16 * u) 0 = u := by unfold unitCode; omega
  have hslots : decodeSlots (3 + 16 * u) 0 [w] = .ok [(w, i)] := by
    simp only [decodeSlots, hunit, hcode, ne_eq, not_true_eq_false, ↓reduceIte, h]
  simp only [decodeTableWord, decodeBytes, ← hbits, hhead, if_pos h3, hcount, wordsOf, hslot,
    decodeConvoy_ok (headerGood_one hu) hslots, Decoded.first]
  rfl

/-! ## Fields -/

theorem ofNat_of_mod {n v : Nat} {x : BitVec n} (h : v % 2 ^ n = x.toNat) : BitVec.ofNat n v = x :=
  BitVec.eq_of_toNat_eq ((BitVec.toNat_ofNat v n).trans h)

theorem bitNat_lt (b : Bool) : bitNat b < 2 := by cases b <;> decide

theorem decide_bitNat {n : Nat} {b : Bool} (h : n = bitNat b) : decide (n = 1) = b := by
  subst h
  cases b <;> rfl

/-! ## Scalar words -/

theorem decodeScalar_encR {op fn : Nat} (hop : op < 64) (hfn : fn < 512) (rd ra rb : XReg) :
    encR op rd ra rb fn < 2 ^ 32 ∧ decodeScalar (encR op rd ra rb fn) = decR op rd ra rb fn := by
  have hrd := rd.isLt
  have hra := ra.isLt
  have hrb := rb.isLt
  unfold encR
  refine ⟨by omega, ?_⟩
  rw [Machine.decodeScalar_r (by omega)]
  congr 1
  · omega
  iterate 3 exact ofNat_of_mod (by omega)
  · omega

theorem decodeScalar_encI {op imm : Nat} (hop : op < 64) (himm : imm < 2 ^ 14) (rd ra : XReg) :
    encI op rd ra imm < 2 ^ 32 ∧ decodeScalar (encI op rd ra imm) = decI op rd ra imm := by
  have hrd := rd.isLt
  have hra := ra.isLt
  unfold encI
  refine ⟨by omega, ?_⟩
  simp only [decodeScalar, show (1 + 4 * op + 2 ^ 8 * rd.toNat + 2 ^ 13 * ra.toNat + 2 ^ 18 * imm) % 4 = 1 by omega]
  congr 1
  · omega
  iterate 2 exact ofNat_of_mod (by omega)
  · omega

theorem decodeScalar_encL {op : Nat} (hop : op < 64) (rd : XReg) (imm : BitVec 19) :
    encL op rd imm < 2 ^ 32 ∧ decodeScalar (encL op rd imm) = decL op rd imm.toNat := by
  have hrd := rd.isLt
  have himm := imm.isLt
  unfold encL
  refine ⟨by omega, ?_⟩
  simp only [decodeScalar, show (2 + 4 * op + 2 ^ 8 * rd.toNat + 2 ^ 13 * imm.toNat) % 4 = 2 by omega]
  congr 1
  · omega
  · exact ofNat_of_mod (by omega)
  · omega

/-! ## Slot words -/

theorem encOpnd_lt (o : Opnd) : encOpnd o < 2 ^ 14 := by
  have hs := o.start.isLt
  have hw := o.wcode.isLt
  unfold encOpnd
  omega

theorem opndAt_eq {w k : Nat} {o : Opnd} (h : w / 2 ^ k % 2 ^ 14 = encOpnd o) : opndAt w k = o := by
  have hw := o.wcode.isLt
  have hs := o.start.isLt
  unfold encOpnd at h
  have hstart : BitVec.ofNat 10 (w / 2 ^ (k + 4)) = o.start := ofNat_of_mod (by
    rw [Nat.pow_add, ← Nat.div_div_eq_div_mul]
    omega)
  have hwcode : BitVec.ofNat 4 (w / 2 ^ k) = o.wcode := ofNat_of_mod (by omega)
  simp only [opndAt, hstart, hwcode]

/-- The word has the major opcode and the fields are as written. -/
theorem vrOf_encVR (m : Nat) (f : VR) : encVR m f / 2 ^ 56 = m ∧ vrOf (encVR m f) = f := by
  have hdest := encOpnd_lt f.dest
  have hsrc1 := encOpnd_lt f.src1
  have hsrc2 := encOpnd_lt f.src2
  have hpred := f.pred.isLt
  have hmode := f.mode.isLt
  have hseg := f.seg.isLt
  have hfn := f.fn.isLt
  have hpz := bitNat_lt f.pz
  have hext := bitNat_lt f.ext
  have hsat := bitNat_lt f.sat
  unfold vrOf encVR
  refine ⟨by omega, ?_⟩
  congr 1
  iterate 3 exact opndAt_eq (by omega)
  · exact ofNat_of_mod (by omega)
  · exact decide_bitNat (by omega)
  iterate 2 exact ofNat_of_mod (by omega)
  iterate 2 exact decide_bitNat (by omega)
  · exact ofNat_of_mod (by omega)

/-- The word has the major opcode, the bits that R91 leaves out are zero, and the fields are as written. -/
theorem viOf_encVI (m : Nat) (f : VI) :
    encVI m f / 2 ^ 56 = m ∧ encVI m f / 2 ^ 5 % 16 = 0 ∧ viOf (encVI m f) = f := by
  have hdest := encOpnd_lt f.dest
  have hsrc1 := encOpnd_lt f.src1
  have himm := f.imm.isLt
  have hpred := f.pred.isLt
  have hfn := f.fn.isLt
  have hpz := bitNat_lt f.pz
  have hext := bitNat_lt f.ext
  have hsat := bitNat_lt f.sat
  unfold viOf encVI
  refine ⟨by omega, by omega, ?_⟩
  congr 1
  iterate 2 exact opndAt_eq (by omega)
  iterate 2 exact ofNat_of_mod (by omega)
  iterate 3 exact decide_bitNat (by omega)
  · exact ofNat_of_mod (by omega)

theorem vmOf_encVM (m : Nat) (f : VM) :
    encVM m f / 2 ^ 56 = m ∧ encVM m f / 2 ^ 7 % 4 = 0 ∧ vmOf (encVM m f) = f := by
  have hdata := encOpnd_lt f.data
  have hbase := f.base.isLt
  have hstride := f.stride.isLt
  have hidx := f.idx.isLt
  have hcls := f.cls.isLt
  have hpred := f.pred.isLt
  have hspace := bitNat_lt f.space
  have hhint := f.hint.isLt
  have hfn := f.fn.isLt
  unfold vmOf encVM
  refine ⟨by omega, by omega, ?_⟩
  congr 1
  · exact opndAt_eq (by omega)
  iterate 5 exact ofNat_of_mod (by omega)
  · exact decide_bitNat (by omega)
  iterate 2 exact ofNat_of_mod (by omega)

theorem vtOf_encVT (m : Nat) (f : VT) : encVT m f / 2 ^ 56 = m ∧
    encVT m f / 2 ^ 14 % 512 = 0 ∧ encVT m f / 2 ^ 3 % 128 = 0 ∧ vtOf (encVT m f) = f := by
  have htd := f.td.isLt
  have hta := f.ta.isLt
  have htb := f.tb.isLt
  have hvec := encOpnd_lt f.vec
  have hxa := f.xa.isLt
  have hxb := f.xb.isLt
  have hpred := f.pred.isLt
  have hfn := f.fn.isLt
  unfold vtOf encVT
  refine ⟨by omega, by omega, by omega, ?_⟩
  congr 1
  iterate 3 exact ofNat_of_mod (by omega)
  · exact opndAt_eq (by omega)
  iterate 4 exact ofNat_of_mod (by omega)

theorem checked_none {c : Option Nat} (h : c.isNone = true) (k : Dec) : checked c k = k := by
  rw [Option.isNone_iff_eq_none.1 h]
  rfl

/-- A word of the VR format is read as its major opcode's instruction. -/
theorem decodeVec_encVR {m : Nat} (hm : m < 0x40 ∨ 0x50 ≤ m ∧ m < 0xA0 ∨ 0xE0 ≤ m) {f : VR} (h : (vrCheck m f).isNone = true) :
    decodeVec (encVR m f) = vrInstr m f := by
  obtain ⟨hmajor, hfields⟩ := vrOf_encVR m f
  simp only [decodeVec, hmajor, hfields, checked_none h]
  obtain h1 | ⟨h1, h2⟩ | h1 := hm
  · rw [if_pos h1]
  · rw [if_neg (by omega), if_neg (by omega), if_pos h2]
  · iterate 5 rw [if_neg (by omega)]

theorem decodeVec_encVI {m : Nat} (hm : 0x40 ≤ m ∧ m < 0x50) {f : VI} (h : (viCheck m f).isNone = true) :
    decodeVec (encVI m f) = viInstr m f := by
  obtain ⟨hmajor, hzero, hfields⟩ := viOf_encVI m f
  simp only [decodeVec, hmajor, hzero, hfields, checked_none h]
  rw [if_neg (by omega), if_pos hm.2]
  rfl

theorem decodeVec_encVM {m : Nat} (hm : 0xC0 ≤ m ∧ m < 0xE0) {f : VM} (h : (vmCheck m f).isNone = true) :
    decodeVec (encVM m f) = vmInstr m f := by
  obtain ⟨hmajor, hzero, hfields⟩ := vmOf_encVM m f
  simp only [decodeVec, hmajor, hzero, hfields, checked_none h]
  iterate 4 rw [if_neg (by omega)]
  rw [if_pos hm.2]
  rfl

theorem decodeVec_encVT {m : Nat} (hm : 0xA0 ≤ m ∧ m < 0xC0) {f : VT} (h : (vtCheck m f).isNone = true) :
    decodeVec (encVT m f) = vtInstr m f := by
  obtain ⟨hmajor, hhigh, hlow, hfields⟩ := vtOf_encVT m f
  simp only [decodeVec, hmajor, hhigh, hlow, hfields, checked_none h]
  iterate 3 rw [if_neg (by omega)]
  rw [if_pos hm.2]
  rfl

end Sys2Proof
end

section
/-! Every instruction that has words reads back (O58): what the decoder reads from each encoder's fn9 and immediate, then the
rows one format at a time; and O57. -/

namespace Sys2Proof

open Sys2Proof.Claims

/-! ## The checks of decode -/

@[simp] theorem needOp_true (n : Nat) (k : Dec) : needOp true n k = k := rfl

@[simp] theorem needOperand_true (n : Nat) (k : Dec) : needOperand true n k = k := rfl

theorem needOperand_of {ok : Bool} (h : ok = true) (n : Nat) (k : Dec) : needOperand ok n k = k := by rw [h, needOperand_true]

theorem z5_zero : z5 0 = true := rfl

/-! ## What the decoder reads from fn9 (R85) -/

theorem decFp_toNat {rm : BitVec 3} (h : rmOk rm = true) (mk : BitVec 3 → Instr) : decFp rm.toNat mk = .ok (mk rm) := by
  have hz : rm.toNat / 8 = 0 := Nat.div_eq_of_lt rm.isLt
  simp only [decFp, BitVec.ofNat_toNat, BitVec.setWidth_eq, hz, h, decide_true, needOp_true]

theorem decR_fcmp_toNat (rd ra rb : XReg) (cc : BitVec 2) : decR 0x1E rd ra rb cc.toNat = .ok (.fcmp rd ra rb cc) := by
  have hcc : cc.toNat < 4 := cc.isLt
  have hz : cc.toNat / 8 = 0 := by omega
  simp only [decR, BitVec.ofNat_toNat, BitVec.setWidth_eq, hz, hcc, decide_true, needOp_true]

theorem decR_fcvt_fields (rd ra : XReg) (k : BitVec 2) {rm : BitVec 3} (h : rmOk rm = true) :
    decR 0x1F rd ra 0 (rm.toNat + 8 * k.toNat) = .ok (.fcvt rd ra k rm) := by
  have hk := k.isLt
  have hrm := rm.isLt
  have hround : BitVec.ofNat 3 (rm.toNat + 8 * k.toNat) = rm := ofNat_of_mod (by omega)
  have hkind : BitVec.ofNat 2 ((rm.toNat + 8 * k.toNat) / 8) = k := ofNat_of_mod (by omega)
  have hz : (rm.toNat + 8 * k.toNat) / 32 = 0 := by omega
  simp only [decR, hround, hkind, hz, h, z5_zero, decide_true, Bool.and_true, needOp_true]

theorem encAmoFn_lt {sub : Nat} (hsub : sub < 16) (scope : BitVec 3) (acq rel : Bool) : encAmoFn sub scope acq rel < 512 := by
  have hscope := scope.isLt
  have hacq := bitNat_lt acq
  have hrel := bitNat_lt rel
  unfold encAmoFn
  omega

theorem encAmoFn_fields {sub : Nat} (hsub : sub < 16) (scope : BitVec 3) (acq rel : Bool) :
    encAmoFn sub scope acq rel % 16 = sub ∧ BitVec.ofNat 3 (encAmoFn sub scope acq rel / 16) = scope ∧
      decide (encAmoFn sub scope acq rel / 128 % 2 = 1) = acq ∧ decide (encAmoFn sub scope acq rel / 256 % 2 = 1) = rel := by
  have hscope := scope.isLt
  have hacq := bitNat_lt acq
  have hrel := bitNat_lt rel
  unfold encAmoFn
  exact ⟨by omega, ofNat_of_mod (by omega), decide_bitNat (by omega), decide_bitNat (by omega)⟩

theorem decR_amocas_fields (rd ra rb : XReg) {scope : BitVec 3} (h : scopeOk scope = true) (acq rel : Bool) :
    decR 0x21 rd ra rb (encAmoFn 0 scope acq rel) = .ok (.amocas rd ra rb scope acq rel) := by
  obtain ⟨hsub, hscope, hacq, hrel⟩ := encAmoFn_fields (sub := 0) (by decide) scope acq rel
  simp only [decR, hsub, hscope, hacq, hrel, h, decide_true, needOp_true, needOperand_true]

theorem decR_fence_fields (ra : XReg) {scope : BitVec 3} (h : scopeOk scope = true) (visible : Bool) :
    decR 0x28 0 ra 0 (scope.toNat + 8 * bitNat visible) = .ok (.fence ra scope visible) := by
  have hs := scope.isLt
  have hv := bitNat_lt visible
  have hscope : BitVec.ofNat 3 (scope.toNat + 8 * bitNat visible) = scope := ofNat_of_mod (by omega)
  have hvisible : decide ((scope.toNat + 8 * bitNat visible) / 8 % 2 = 1) = visible := decide_bitNat (by omega)
  have hz : (scope.toNat + 8 * bitNat visible) / 16 = 0 := by omega
  simp only [decR, hscope, hvisible, hz, h, z5_zero, decide_true, Bool.and_true, needOp_true, needOperand_true]

theorem decR_csrr_toNat (rd : XReg) {csr : BitVec 9} (h : csrKnown csr.toNat = true) :
    decR 0x29 rd 0 0 csr.toNat = .ok (.csrr rd csr) := by
  simp only [decR, BitVec.ofNat_toNat, BitVec.setWidth_eq, h, z5_zero, Bool.and_true, needOp_true]

theorem decR_chBind_toNat (c : BitVec 6) (ra : XReg) : decR 0x30 0 ra 0 c.toNat = .ok (.chBind c ra) := by
  have hz : c.toNat / 64 = 0 := Nat.div_eq_of_lt c.isLt
  simp only [decR, BitVec.ofNat_toNat, BitVec.setWidth_eq, hz, z5_zero, decide_true, Bool.and_true, needOp_true]

theorem decR_chPush_fields (c : BitVec 6) (ra : XReg) (rel : Bool) :
    decR 0x31 0 ra 0 (c.toNat + 256 * bitNat rel) = .ok (.chPush c ra rel) := by
  have hc := c.isLt
  have hr := bitNat_lt rel
  have hchan : BitVec.ofNat 6 (c.toNat + 256 * bitNat rel) = c := ofNat_of_mod (by omega)
  have hrel : decide ((c.toNat + 256 * bitNat rel) / 256 % 2 = 1) = rel := decide_bitNat (by omega)
  have hz : (c.toNat + 256 * bitNat rel) / 64 % 4 = 0 := by omega
  simp only [decR, hchan, hrel, hz, z5_zero, decide_true, Bool.and_true, needOp_true]

/-- A channel and a consumer index in fn9 (R85). -/
theorem chanFn_fields (c : BitVec 6) (i : BitVec 3) : c.toNat + 64 * i.toNat < 512 ∧
    BitVec.ofNat 6 (c.toNat + 64 * i.toNat) = c ∧ BitVec.ofNat 3 ((c.toNat + 64 * i.toNat) / 64) = i := by
  have hc := c.isLt
  have hi := i.isLt
  exact ⟨by omega, ofNat_of_mod (by omega), ofNat_of_mod (by omega)⟩

/-- A sub-operation and a unit number in fn9 (R85). -/
theorem unitFn_fields {sub : Nat} (hsub : sub < 8) (u : BitVec 5) : sub + 8 * u.toNat < 256 ∧
    (sub + 8 * u.toNat) % 8 = sub ∧ BitVec.ofNat 5 ((sub + 8 * u.toNat) / 8) = u := by
  have hu := u.isLt
  exact ⟨by omega, by omega, ofNat_of_mod (by omega)⟩

/-- A tile or an accumulator in a register field (R221). -/
theorem ofNat_setWidth {n : Nat} (hn : n ≤ 5) (x : BitVec n) :
    (x.setWidth 5).toNat < 2 ^ n ∧ BitVec.ofNat n (x.setWidth 5).toNat = x := by
  rw [BitVec.toNat_setWidth_of_le hn]
  exact ⟨x.isLt, ofNat_of_mod (Nat.mod_eq_of_lt x.isLt)⟩

theorem decMx_matrices (acc : BitVec 2) (ta tb : BitVec 3) :
    decMx (acc.setWidth 5) (ta.setWidth 5) (tb.setWidth 5) 0 = .ok (.mxMma acc ta tb) ∧
      decMx (acc.setWidth 5) (ta.setWidth 5) (tb.setWidth 5) 1 = .ok (.mxMms acc ta tb) := by
  obtain ⟨hacc, hacc'⟩ : (acc.setWidth 5).toNat < 4 ∧ _ := ofNat_setWidth (by decide) acc
  obtain ⟨hta, hta'⟩ : (ta.setWidth 5).toNat < 8 ∧ _ := ofNat_setWidth (by decide) ta
  obtain ⟨htb, htb'⟩ : (tb.setWidth 5).toNat < 8 ∧ _ := ofNat_setWidth (by decide) tb
  constructor
  all_goals
    simp only [decMx, hacc, hta, htb, hacc', hta', htb']
    rfl

theorem decMx_zacc (acc : BitVec 2) : decMx (acc.setWidth 5) 0 0 2 = .ok (.mxZacc acc) := by
  obtain ⟨hacc, hacc'⟩ : (acc.setWidth 5).toNat < 4 ∧ _ := ofNat_setWidth (by decide) acc
  simp only [decMx, hacc, hacc']
  rfl

theorem decMx_rnd (td : BitVec 3) (acc : BitVec 2) {rm : BitVec 3} (h : rmOk rm = true) :
    decMx (td.setWidth 5) (acc.setWidth 5) 0 (3 + 8 * rm.toNat) = .ok (.mxRnd td acc rm) := by
  have hrm := rm.isLt
  obtain ⟨htd, htd'⟩ : (td.setWidth 5).toNat < 8 ∧ _ := ofNat_setWidth (by decide) td
  obtain ⟨hacc, hacc'⟩ : (acc.setWidth 5).toNat < 4 ∧ _ := ofNat_setWidth (by decide) acc
  have hsub : (3 + 8 * rm.toNat) % 8 = 3 := by omega
  have hround : BitVec.ofNat 3 ((3 + 8 * rm.toNat) / 8 % 8) = rm := ofNat_of_mod (by omega)
  have hz : (3 + 8 * rm.toNat) / 64 = 0 := by omega
  simp only [decMx, hsub, hround, hz, h, htd, hacc, htd', hacc', z5_zero, decide_true, Bool.and_true, needOp_true]

/-- The milestone number of an ms parcel lies in its fields ra, rb and fn9[1:0] (R85). -/
theorem encMs_eq_encR (sub : Nat) (rd : XReg) (ms : BitVec 12) (pkg : Bool) :
    encMs sub rd ms pkg = encR 0x3C rd (BitVec.ofNat 5 ms.toNat) (BitVec.ofNat 5 (ms.toNat / 32))
      (ms.toNat / 1024 + 4 * sub + 32 * bitNat pkg) := by
  have hms := ms.isLt
  unfold encMs encR
  rw [BitVec.toNat_ofNat, BitVec.toNat_ofNat]
  omega

theorem msFn_fields {sub : Nat} (hsub : sub < 8) (ms : BitVec 12) (pkg : Bool) :
    let fn := ms.toNat / 1024 + 4 * sub + 32 * bitNat pkg
    fn < 64 ∧ fn / 4 % 8 = sub ∧ decide (fn / 32 % 2 = 1) = pkg ∧
      BitVec.ofNat 12 ((BitVec.ofNat 5 ms.toNat).toNat + 32 * (BitVec.ofNat 5 (ms.toNat / 32)).toNat + 1024 * (fn % 4)) = ms := by
  have hms := ms.isLt
  have hpkg := bitNat_lt pkg
  rw [BitVec.toNat_ofNat, BitVec.toNat_ofNat]
  exact ⟨by omega, by omega, decide_bitNat (by omega), ofNat_of_mod (by omega)⟩

/-! ## What the decoder reads from an immediate (R82) -/

theorem encMemImm_lt (imm : BitVec 10) (cls : BitVec 4) : encMemImm imm cls < 2 ^ 14 := by
  have himm := imm.isLt
  have hcls := cls.isLt
  unfold encMemImm
  omega

theorem decMem_encMemImm (imm : BitVec 10) (cls : BitVec 4) (mk : BitVec 10 → BitVec 4 → Instr) :
    decMem (encMemImm imm cls) mk = .ok (mk imm cls) := by
  have himm := imm.isLt
  have hcls := cls.isLt
  have hoffset : BitVec.ofNat 10 (encMemImm imm cls) = imm := ofNat_of_mod (by unfold encMemImm; omega)
  have hclass : BitVec.ofNat 4 (encMemImm imm cls / 1024) = cls := ofNat_of_mod (by unfold encMemImm; omega)
  rw [decMem, hoffset, hclass]

theorem encAcqRelImm_lt (off : BitVec 7) (scope : BitVec 3) (cls : BitVec 4) : encAcqRelImm off scope cls < 2 ^ 14 := by
  have hoff := off.isLt
  have hscope := scope.isLt
  have hcls := cls.isLt
  unfold encAcqRelImm
  omega

theorem decAcqRel_encAcqRelImm (off : BitVec 7) {scope : BitVec 3} (h : scopeOk scope = true) (cls : BitVec 4)
    (mk : BitVec 7 → BitVec 3 → BitVec 4 → Instr) : decAcqRel (encAcqRelImm off scope cls) mk = .ok (mk off scope cls) := by
  have hoff := off.isLt
  have hs := scope.isLt
  have hcls := cls.isLt
  have hoffset : BitVec.ofNat 7 (encAcqRelImm off scope cls) = off := ofNat_of_mod (by unfold encAcqRelImm; omega)
  have hscope : BitVec.ofNat 3 (encAcqRelImm off scope cls / 128) = scope := ofNat_of_mod (by unfold encAcqRelImm; omega)
  have hclass : BitVec.ofNat 4 (encAcqRelImm off scope cls / 1024) = cls := ofNat_of_mod (by unfold encAcqRelImm; omega)
  rw [decAcqRel, hoffset, hscope, hclass, h, needOperand_true]

/-! ## Reading back -/

/-- The decoder reads an instruction's words as that instruction, or as the first row of its opcode. -/
def Instr.ReadsBack (i : Instr) : Prop :=
  wellFormed i = true → ∀ n w, encode i = some (n, w) → decodeTableWord n w = some (wordRow i)

namespace Instr.ReadsBack

variable {i : Instr}

theorem of_words {p : Nat × Nat} (henc : encode i = some p)
    (h : wellFormed i = true → decodeTableWord p.1 p.2 = some (wordRow i)) : i.ReadsBack := by
  intro hwf n w hw
  obtain rfl : p = (n, w) := Option.some.inj (henc.symm.trans hw)
  exact h hwf

theorem of_none (henc : encode i = none) : i.ReadsBack := fun _ _ _ hw => nomatch henc.symm.trans hw

theorem ofR {op fn : Nat} {rd ra rb : XReg} (henc : encode i = par (encR op rd ra rb fn)) (hop : op < 64) (hfn : fn < 512)
    (h : wellFormed i = true → decR op rd ra rb fn = .ok (wordRow i)) : i.ReadsBack :=
  of_words henc fun hwf =>
    let ⟨hlt, hread⟩ := decodeScalar_encR hop hfn rd ra rb
    decodeTableWord_parcel hlt (hread.trans (h hwf))

theorem ofI {op imm : Nat} {rd ra : XReg} (henc : encode i = par (encI op rd ra imm)) (hop : op < 64) (himm : imm < 2 ^ 14)
    (h : wellFormed i = true → decI op rd ra imm = .ok (wordRow i)) : i.ReadsBack :=
  of_words henc fun hwf =>
    let ⟨hlt, hread⟩ := decodeScalar_encI hop himm rd ra
    decodeTableWord_parcel hlt (hread.trans (h hwf))

theorem ofL {op : Nat} {rd : XReg} {imm : BitVec 19} (henc : encode i = par (encL op rd imm)) (hop : op < 64)
    (h : decL op rd imm.toNat = .ok (wordRow i)) : i.ReadsBack :=
  of_words henc fun _ =>
    let ⟨hlt, hread⟩ := decodeScalar_encL hop rd imm
    decodeTableWord_parcel hlt (hread.trans h)

/-- An amo: whatever fn9 holds these fields reads as the instruction. -/
theorem ofAmo {sub : Nat} {rd ra rb : XReg} {scope : BitVec 3} {acq rel : Bool}
    (henc : encode i = par (encR 0x20 rd ra rb (encAmoFn sub scope acq rel))) (hsub : sub < 16)
    (h : wellFormed i = true → ∀ fn, fn % 16 = sub → BitVec.ofNat 3 (fn / 16) = scope → decide (fn / 128 % 2 = 1) = acq →
      decide (fn / 256 % 2 = 1) = rel → decAmo rd ra rb fn = .ok (wordRow i)) : i.ReadsBack :=
  ofR henc (by decide) (encAmoFn_lt hsub scope acq rel) fun hwf =>
    let ⟨hs, hscope, hacq, hrel⟩ := encAmoFn_fields hsub scope acq rel
    h hwf _ hs hscope hacq hrel

/-- An sf: likewise. -/
theorem ofSf {sub : Nat} {u : BitVec 5} {ra : XReg} (henc : encode i = par (encR 0x38 0 ra 0 (sub + 8 * u.toNat))) (hsub : sub < 8)
    (h : wellFormed i = true → ∀ fn, fn / 256 = 0 → fn % 8 = sub → BitVec.ofNat 5 (fn / 8) = u →
      decSf 0 ra 0 fn = .ok (wordRow i)) : i.ReadsBack :=
  let ⟨hlt, hs, hu⟩ := unitFn_fields hsub u
  ofR henc (by decide) (hlt.trans (by decide)) fun hwf => h hwf _ (Nat.div_eq_of_lt hlt) hs hu

/-- An ms: likewise, with the milestone number across three fields. -/
theorem ofMs {sub : Nat} {rd : XReg} {ms : BitVec 12} {pkg : Bool} (henc : encode i = par (encMs sub rd ms pkg)) (hsub : sub < 8)
    (h : wellFormed i = true → ∀ (ra rb : XReg) (fn : Nat), fn / 64 = 0 → fn / 4 % 8 = sub → decide (fn / 32 % 2 = 1) = pkg →
      BitVec.ofNat 12 (ra.toNat + 32 * rb.toNat + 1024 * (fn % 4)) = ms → decMs rd ra rb fn = .ok (wordRow i)) : i.ReadsBack :=
  let ⟨hlt, hs, hpkg, hms⟩ := msFn_fields hsub ms pkg
  ofR (henc.trans (congrArg par (encMs_eq_encR sub rd ms pkg))) (by decide) (hlt.trans (by decide)) fun hwf =>
    h hwf _ _ _ (Nat.div_eq_of_lt hlt) hs hpkg hms

/-- A slot word of an assigned major opcode. -/
theorem ofSlot {u m w : Nat} (henc : encode i = one u w) (hu : vecUnit m = some u ∧ u < 4 ∧ m < 2 ^ 8) (hmajor : w / 2 ^ 56 = m)
    (h : wellFormed i = true → decodeVec w = .ok (wordRow i)) : i.ReadsBack :=
  of_words henc fun hwf => by
    obtain ⟨hunit, hu4, hm⟩ := hu
    exact decodeTableWord_one hu4 (by omega) (by rw [hmajor, hunit]) (h hwf)

theorem ofVR {u m : Nat} {f : VR} (henc : encode i = one u (encVR m f)) (hu : vecUnit m = some u ∧ u < 4 ∧ m < 2 ^ 8)
    (hm : m < 0x40 ∨ 0x50 ≤ m ∧ m < 0xA0 ∨ 0xE0 ≤ m) (hcheck : wellFormed i = true → (vrCheck m f).isNone = true)
    (h : vrInstr m f = .ok (wordRow i)) : i.ReadsBack :=
  ofSlot henc hu (vrOf_encVR m f).1 fun hwf => (decodeVec_encVR hm (hcheck hwf)).trans h

theorem ofVI {u m : Nat} {f : VI} (henc : encode i = one u (encVI m f)) (hu : vecUnit m = some u ∧ u < 4 ∧ m < 2 ^ 8)
    (hm : 0x40 ≤ m ∧ m < 0x50) (hcheck : wellFormed i = true → (viCheck m f).isNone = true)
    (h : viInstr m f = .ok (wordRow i)) : i.ReadsBack :=
  ofSlot henc hu (viOf_encVI m f).1 fun hwf => (decodeVec_encVI hm (hcheck hwf)).trans h

theorem ofVM {u m : Nat} {f : VM} (henc : encode i = one u (encVM m f)) (hu : vecUnit m = some u ∧ u < 4 ∧ m < 2 ^ 8)
    (hm : 0xC0 ≤ m ∧ m < 0xE0) (hcheck : wellFormed i = true → (vmCheck m f).isNone = true)
    (h : vmInstr m f = .ok (wordRow i)) : i.ReadsBack :=
  ofSlot henc hu (vmOf_encVM m f).1 fun hwf => (decodeVec_encVM hm (hcheck hwf)).trans h

theorem ofVT {u m : Nat} {f : VT} (henc : encode i = one u (encVT m f)) (hu : vecUnit m = some u ∧ u < 4 ∧ m < 2 ^ 8)
    (hm : 0xA0 ≤ m ∧ m < 0xC0) (hcheck : wellFormed i = true → (vtCheck m f).isNone = true)
    (h : vtInstr m f = .ok (wordRow i)) : i.ReadsBack :=
  ofSlot henc hu (vtOf_encVT m f).1 fun hwf => (decodeVec_encVT hm (hcheck hwf)).trans h

end Instr.ReadsBack

open Instr.ReadsBack in
/-- The rows one format at a time, each with what its operand fields read back as. -/
theorem Instr.readsBack (i : Instr) : i.ReadsBack := by
  cases i with
  -- R-format, fn9 a constant
  | add | sub | and | or | xor | andn | sll | srl | sra | slt | sltn | mul | mulh | mulhn | div | divn | rem | remn | min | max
  | minn | maxn | clz | ctz | popc | bext | bins | tret | bpRun | bpTwl | plBind | plStart | plStop | plFreeze | mxSettl
  | xchPostDemand | xchPostRegister | xchPostDeregister | xchSend | xchRecv | xchEnd | xchStat | launch | tlbInvPage
  | tlbInvPasid | tlbInvAll | ctxSave | ctxRest | vpart | rtUpdWrite | rtUpdFlip | rtUpdQuery | snapTrigger | snapArm
  | snapStatus | pprobe | idle | yield | yieldEnd | vsetvl =>
    exact ofR rfl (by decide) (by decide) fun _ => rfl
  -- R-format, operands in fn9
  | fadd _ _ _ rm | fsub _ _ _ rm | fmul _ _ _ rm | fdiv _ _ _ rm | fmadd _ _ _ rm =>
    exact ofR rfl (by decide) (rm.isLt.trans (by decide)) fun hwf => decFp_toNat hwf _
  | fcmp rd ra rb cc => exact ofR rfl (by decide) (cc.isLt.trans (by decide)) fun _ => decR_fcmp_toNat rd ra rb cc
  | fcvt rd ra k rm => exact ofR rfl (by decide) (by omega) fun hwf => decR_fcvt_fields rd ra k hwf
  | amoAdd | amoAnd | amoOr | amoXor | amoMin | amoMax | amoMinn | amoMaxn | amoSwp | amoFadd =>
    refine ofAmo rfl (by decide) fun hwf fn hsub hscope hacq hrel => ?_
    rw [decAmo, hsub, hscope, hacq, hrel]
    exact needOperand_of hwf _ _
  | amocas rd ra rb scope acq rel =>
    exact ofR rfl (by decide) (encAmoFn_lt (by decide) scope acq rel) fun hwf => decR_amocas_fields rd ra rb hwf acq rel
  | fence ra scope visible =>
    exact ofR rfl (by decide) (by have := bitNat_lt visible; omega) fun hwf => decR_fence_fields ra hwf visible
  | csrr rd csr => exact ofR rfl (by decide) csr.isLt fun hwf => decR_csrr_toNat rd hwf
  | csrw _ _ csr | csrs _ _ csr | csrc _ _ csr =>
    refine ofR rfl (by decide) csr.isLt fun hwf => ?_
    have hok : csrWritable csr.toNat = true := hwf
    simp only [decR, BitVec.ofNat_toNat, BitVec.setWidth_eq, hok, z5_zero, needOp_true]
    rfl
  | trap code | brk code =>
    refine ofR rfl (by decide) code.isLt fun _ => ?_
    simp only [decR, BitVec.ofNat_toNat, BitVec.setWidth_eq]
    rfl
  | chBind c ra => exact ofR rfl (by decide) (c.isLt.trans (by decide)) fun _ => decR_chBind_toNat c ra
  | chPush c ra rel => exact ofR rfl (by decide) (by have := bitNat_lt rel; omega) fun _ => decR_chPush_fields c ra rel
  | chPop _ c k | chTpop _ c k | chDetach c k =>
    obtain ⟨hlt, hc, hk⟩ := chanFn_fields c k
    refine ofR rfl (by decide) hlt fun _ => ?_
    simp only [decR, hc, hk]
    rfl
  | cpCopy engine => cases engine <;> exact ofR rfl (by decide) (by decide) fun _ => rfl
  | sfAg | sfRoute | sfMerge | sfReord | sfPack | sfUnpack =>
    refine ofSf rfl (by decide) fun hwf fn hz hsub hu => ?_
    rw [decSf, hz, hsub, hu]
    exact needOperand_of hwf _ _
  | mxMma acc ta tb => exact ofR rfl (by decide) (by decide) fun _ => (decMx_matrices acc ta tb).1
  | mxMms acc ta tb => exact ofR rfl (by decide) (by decide) fun _ => (decMx_matrices acc ta tb).2
  | mxZacc acc => exact ofR rfl (by decide) (by decide) fun _ => decMx_zacc acc
  | mxRnd td acc rm => exact ofR rfl (by decide) (by omega) fun hwf => decMx_rnd td acc hwf
  | msArrive | msWait | msAdd | msSet | msRead =>
    refine ofMs rfl (by decide) fun hwf ra rb fn hz hsub hpkg hms => ?_
    rw [decMs, hz, hsub, hpkg, hms]
    exact needOperand_of hwf _ _
  -- I-format and L-format
  | addi _ _ imm | andi _ _ imm | ori _ _ imm | xori _ _ imm | slti _ _ imm | sltni _ _ imm | beq _ _ imm | bne _ _ imm
  | blt _ _ imm | bge _ _ imm | bltn _ _ imm | bgen _ _ imm | jr _ _ imm =>
    refine ofI rfl (by decide) imm.isLt fun _ => ?_
    simp only [decI, BitVec.ofNat_toNat, BitVec.setWidth_eq]
    rfl
  | slli _ _ sh | srli _ _ sh | srai _ _ sh =>
    refine ofI rfl (by decide) (sh.isLt.trans (by decide)) fun _ => ?_
    simp only [decI, BitVec.ofNat_toNat, BitVec.setWidth_eq, Nat.div_eq_of_lt sh.isLt]
    rfl
  | ldb | ldbn | ldh | ldhn | ldw | ldwn | ldd | stb | sth | stw | std | pf | cflush | cinv =>
    exact ofI rfl (by decide) (encMemImm_lt _ _) fun _ => decMem_encMemImm _ _ _
  | lda | stl => exact ofI rfl (by decide) (encAcqRelImm_lt _ _ _) fun hwf => decAcqRel_encAcqRelImm _ hwf _ _
  | jal | lhi | lpc =>
    refine ofL rfl (by decide) ?_
    rw [decL, BitVec.ofNat_toNat, BitVec.setWidth_eq]
    rfl
  -- vector formats
  | vadd | vsub | vrsub | vmul | vmulh | vmacc | vnmac | vdiv | vrem | vmin | vmax | vand | vor | vxor | vandn | vsll | vsrl
  | vsra | vclz | vpopc | vabs | vcmp | vsel | vmv | vid | vfadd | vfsub | vfmul | vfmacc | vfnmsac | vfdiv | vfsqrt | vfmin
  | vfmax | vfcmp | vfclass | vfexp2 | vflog2 | vfrcp | vfrsqrt | vcmul | vcmac | vmadd | vmsub | vmmul | vmred | vcvt
  | vftoi | vitof | vbfexp | vbfmant | vbfval | vslideDown | vxchg | vperm | vpush | vcompress | vexpand | vzip | vunzip
  | vrev | vred | vfred | vscan | vfscan | vargmax | vsetfib | vbcast | vext | vins | pand | por | pxor | pandn | pset
  | pcnt | pfirst | pmov | vchPush | vchPop =>
    exact ofVR rfl (by decide) (by decide) id rfl
  | vslideUp | vslideRot | vbcastFib =>
    exact ofVR rfl (by decide) (by decide) (fun hwf => (Bool.and_eq_true_iff.1 hwf).1) rfl
  | vaddi | vandi | vori | vxori | vslli | vsrli | vsrai | vmvi | vcmpi =>
    exact ofVI rfl (by decide) (by decide) id rfl
  | vld | vlds | vldx | vst | vsts | vstx | vamo | vspill | vfill | vpf | spcfg =>
    exact ofVM rfl (by decide) (by decide) id rfl
  | tld | tldt | tst | tzero | vtrow | vtcol | vrowt | vcolt | tprune | tpackt | tunpack | tsigck =>
    exact ofVT rfl (by decide) (by decide) id rfl
  | tldP | tpruneT => exact ofVT rfl (by decide) (by decide) (fun hwf => (Bool.and_eq_true_iff.1 hwf).1) rfl
  -- events
  | _ => exact of_none rfl

end Sys2Proof

namespace Sys2Proof.Proofs

open Sys2Proof

/-- Settles O58: a word of each format gives its fields back, and no earlier check or row of the decoder takes it. -/
theorem encodeDecodeRoundTrip : Obligations.EncodeDecodeRoundTrip := by
  unfold Obligations.EncodeDecodeRoundTrip
  exact fun i n w hwf hw => i.readsBack hwf n w hw

/-- Settles O57: the decoder runs on each of the written words. -/
theorem decodingIsRight : Obligations.DecodingIsRight := by
  unfold Obligations.DecodingIsRight
  decide

end Sys2Proof.Proofs
end


section
/-! How a slot of the open convoy joins its log to the convoy (R22, R121), and the element loop of R169 over slices that hold
no poison, in the words of the statements. -/

namespace Sys2Proof.Machine

open Sys2Proof.Claims

/-! ## The outcomes of a slot -/

section
variable {s s' : State} {cv : Convoy} {i j : Instr} {run : VEnv → SlotRes}

/-- A slot that completes adds its log and its fault to the convoy. -/
theorem State.runSlot_done {a : VAcc} (hopen : s.me.viq = [cv]) (hi : asRun i = j) (hrun : run (slotEnv s cv) = .done a s') :
    s.runSlot j run = slotRanIn s s' cv i a := by
  subst hi
  unfold State.runSlot
  dsimp only
  rw [hopen]
  dsimp only
  rw [show run { s := s, c := s.me, cv := cv } = .done a s' from hrun]
  rfl

/-- A slot that faults as a whole leaves its trap with the convoy. -/
theorem State.runSlot_whole {g : SlotLog} {t : TrapInfo} (hopen : s.me.viq = [cv])
    (hrun : run (slotEnv s cv) = .whole g t s') :
    s.runSlot i run = s'.setMe { s'.me with viq := [cv.pushWhole ((slotEnv s cv).tagLog i g) t] } := by
  unfold State.runSlot
  dsimp only
  rw [hopen]
  dsimp only
  rw [show run { s := s, c := s.me, cv := cv } = .whole g t s' from hrun]
  rfl

/-- A slot that waits keeps its convoy open. -/
theorem State.runSlot_wait (hopen : s.me.viq = [cv]) (hrun : run (slotEnv s cv) = .wait s') :
    s.runSlot i run = s'.setMe { s'.me with viq := [cv] } := by
  unfold State.runSlot
  dsimp only
  rw [hopen]
  dsimp only
  rw [show run { s := s, c := s.me, cv := cv } = .wait s' from hrun]

/-- A slot without memory and tile accesses always completes. -/
theorem State.runPlain_eq {run : VEnv → VAcc} {a : VAcc} (hopen : s.me.viq = [cv]) (hi : asRun i = j)
    (hrun : run (slotEnv s cv) = a) : s.runPlain j run = .next (slotRan s cv i a) := by
  subst hrun
  exact congrArg _ (State.runSlot_done hopen hi rfl)

end

/-! ## Poison -/

theorem VEnv.poisonFrom_clean {v : VEnv} (h : v.s.slicePoison = []) (key n : Nat) : v.poisonFrom key n = none := by
  simp [VEnv.poisonFrom, h]

theorem VEnv.poisonPart_clean {v : VEnv} (h : v.s.slicePoison = []) (key n : Nat) : v.poisonPart key n = none := by
  simp [VEnv.poisonPart, VEnv.poisonFrom_clean h]

theorem VEnv.poisonCheck_clean {v : VEnv} (h : v.s.slicePoison = []) (srcs : List (Opnd × Nat)) (dest : Option (Opnd × Nat)) :
    v.poisonCheck srcs dest = none := by
  have hsrcs : srcs.findSome? (fun p => v.poisonFrom (v.elemKey p.1 p.2) p.1.w) = none :=
    List.findSome?_eq_none_iff.2 fun p _ => VEnv.poisonFrom_clean h _ _
  have hdest : (dest.bind fun p => v.poisonPart (v.elemKey p.1 p.2) p.1.w) = none := by
    cases dest with
    | none => rfl
    | some p => exact VEnv.poisonPart_clean h _ _
  simp only [VEnv.poisonCheck, hsrcs, hdest, Option.map_none]

theorem VEnv.firstPoison_clean {v : VEnv} (h : v.s.slicePoison = []) (p : BitVec 4) (srcs : Nat → List (Opnd × Nat))
    (dest : Nat → Option (Opnd × Nat)) : v.firstPoison p srcs dest = none := by
  simp [VEnv.firstPoison, h]

/-! ## The loop -/

section
variable {v : VEnv} {d : VDest} {p : BitVec 4} {pz : Bool} {srcs : Nat → List (Opnd × Nat)} {F : ElemFn}

theorem VEnv.write_eq_putElem (v : VEnv) (d : VDest) (g : SlotLog) (e x : Nat) :
    v.write d { log := g } e x = { log := putElem v d e x g } := by cases d <;> rfl

theorem VEnv.foldl_elem_faulted (q : Nat × TrapInfo) (g : SlotLog) :
    ∀ l : List Nat, l.foldl (v.elem d p pz srcs F) { log := g, fault := some q } = { log := g, fault := some q }
  | [] => rfl
  | _ :: l => VEnv.foldl_elem_faulted q g l

/-- One element of the loop where no slice is poisoned. -/
theorem VEnv.elem_clean (h : v.s.slicePoison = []) (g : SlotLog) (e : Nat) : v.elem d p pz srcs F { log := g } e =
    if v.act p e then
      match F g.slices e with
      | .error t => { log := g, fault := some (e, t) }
      | .ok (x, fl) =>
        if fl &&& v.c.fcsr.extractLsb' 6 6 ≠ 0 then { log := g, fault := some (e, trapOf causeFpExc fl.toNat 0) }
        else
          let g := putElem v d e x g
          { log := if fl = 0 then g else { g with flags := (e, fl) :: g.flags } }
    else { log := if pz then putElem v d e 0 g else g } := by
  unfold VEnv.elem
  simp only [h, List.isEmpty_nil, ↓reduceIte, VEnv.write_eq_putElem]
  split
  · cases F g.slices e with
    | error t => rfl
    | ok r =>
      change (if r.2 &&& v.c.fcsr.extractLsb' 6 6 ≠ 0 then _ else _) = if r.2 &&& v.c.fcsr.extractLsb' 6 6 ≠ 0 then _ else _
      split
      · rfl
      · split <;> rfl
  · split <;> rfl

theorem VEnv.foldl_elem_eq_laneRun (h : v.s.slicePoison = []) :
    ∀ (l : List Nat) (g : SlotLog), l.foldl (v.elem d p pz srcs F) { log := g } = laneRun v d p pz F l g
  | [], _ => rfl
  | e :: l, g => by
    have ih := VEnv.foldl_elem_eq_laneRun h l
    rw [List.foldl_cons, VEnv.elem_clean h]
    unfold laneRun
    split
    · cases F g.slices e with
      | error t => exact VEnv.foldl_elem_faulted _ g l
      | ok r =>
        dsimp only
        split
        · exact VEnv.foldl_elem_faulted _ g l
        · exact ih _
    · exact ih _

theorem laneRun_rows : ∀ (l : List Nat) (g : SlotLog), (laneRun v d p pz F l g).log.rows = g.rows
  | [], _ => rfl
  | e :: l, g => by
    have hput : ∀ x, (putElem v d e x g).rows = g.rows := fun x => by cases d <;> rfl
    unfold laneRun
    split
    · split
      · rfl
      · split
        · rfl
        · split
          · exact (laneRun_rows l _).trans (hput _)
          · exact (laneRun_rows l _).trans (hput _)
    · split
      · exact (laneRun_rows l _).trans (hput _)
      · exact laneRun_rows l _

/-- The loop of R169 is the statements' loop where no slice is poisoned. -/
theorem VEnv.loop_eq_laneSlot (h : v.s.slicePoison = []) : v.loop d p pz srcs F = laneSlot v d p pz F := by
  have hrows := laneRun_rows (v := v) (d := d) (p := p) (pz := pz) (F := F) v.elems {}
  unfold VEnv.loop VEnv.close
  rw [VEnv.foldl_elem_eq_laneRun h]
  cases d with
  | slices o => rfl
  | pred k =>
    dsimp only
    rw [hrows]
    rfl

end

/-! ## Loops that move values -/

section
variable {v : VEnv} {o : Opnd} {p : BitVec 4} {pz : Bool} {F : Nat → Nat}

theorem laneRun_moves : ∀ (l : List Nat) (g : SlotLog),
    laneRun v (.slices o) p pz (fun _ e => .ok (F e, 0)) l g = { log := { g with
      slices := (l.flatMap fun e => if v.act p e then v.put o e (F e) else if pz then v.put o e 0 else []).reverse ++ g.slices } }
  | [], _ => rfl
  | e :: l, g => by
    have ih := laneRun_moves l
    have hquiet : (0 : FpFlags) &&& v.c.fcsr.extractLsb' 6 6 = 0 := BitVec.zero_and
    unfold laneRun
    simp only [hquiet, ne_eq, not_true_eq_false, ↓reduceIte, ih, List.flatMap_cons, List.reverse_append, List.append_assoc]
    split
    · rfl
    · split <;> rfl

/-- A loop whose values raise no flag and cannot fault writes them, and nothing else. -/
theorem laneSlot_moves : laneSlot v (.slices o) p pz (fun _ e => .ok (F e, 0)) =
    { log := { slices := moved v o p pz F, rows := v.rowsOf o } } := by
  unfold laneSlot
  simp only [laneRun_moves, List.append_nil, List.reverse_reverse, List.reverse_nil]
  rfl

theorem VEnv.loopX_eq_moved (h : v.s.slicePoison = []) (srcs : Nat → List (Opnd × Nat)) :
    v.loopX (.slices o) p pz srcs F = { log := { slices := moved v o p pz F, rows := v.rowsOf o } } :=
  (VEnv.loop_eq_laneSlot h).trans laneSlot_moves

end

end Sys2Proof.Machine
end


section
/-! Permutes, vcompress, vexpand and vpush (R193 to R198), and O25. -/

namespace Sys2Proof.Machine

open Sys2Proof.Claims

/-! ## Permutes -/

theorem VEnv.permute_eq {v : VEnv} (h : v.s.slicePoison = []) (f : VR) (two : Bool) (F : Nat → Option Nat) :
    v.permute f two F = { log := {
      slices := moved v f.dest f.pred f.pz fun e => (F e).elim 0 (srcAt v f.src1)
      rows := v.rowsOf f.dest } } := by
  have hsrc : (fun e => match F e with | some j => v.src f.src1 j | none => 0) = fun e => (F e).elim 0 (srcAt v f.src1) :=
    funext fun e => by cases F e <;> rfl
  exact (VEnv.loopX_eq_moved h _).trans
    (congrArg (fun G => ({ log := { slices := moved v f.dest f.pred f.pz G, rows := v.rowsOf f.dest } } : VAcc)) hsrc)

theorem VEnv.permute2_eq {v : VEnv} (h : v.s.slicePoison = []) (f : VR) (F : Nat → Opnd × Nat) :
    v.permute2 f F = { log := {
      slices := moved v f.dest f.pred f.pz fun e => srcAt v (F e).1 (F e).2, rows := v.rowsOf f.dest } } :=
  VEnv.loopX_eq_moved h _

theorem fibreFirst_succ (v : VEnv) (e : Nat) :
    fibreFirst v (e + 1) = if v.pred 13 (e + 1) then max (fibreFirst v e) (e + 1) else fibreFirst v e := by
  unfold fibreFirst
  rw [List.range_succ, List.filter_append, List.foldl_append]
  cases hp : v.pred 13 (e + 1) <;> simp [hp]

theorem fibreFirst_le (v : VEnv) : ∀ e, fibreFirst v e ≤ e
  | 0 => Nat.le_refl 0
  | e + 1 => by
    have ih := fibreFirst_le v e
    rw [fibreFirst_succ]
    split <;> omega

/-- The search downwards for a fibre's start finds the greatest start at or below an element. -/
theorem VEnv.startOf_eq_fibreFirst (v : VEnv) : ∀ e, v.startOf e = fibreFirst v e
  | 0 => rfl
  | e + 1 => by
    have hle := fibreFirst_le v e
    have hstart : v.fibreStart true (e + 1) = v.pred 13 (e + 1) := by simp [VEnv.fibreStart]
    rw [VEnv.startOf, hstart, fibreFirst_succ, VEnv.startOf_eq_fibreFirst v e]
    split <;> omega

section
variable {s : State} {cv : Convoy} {i j : Instr} {f : VR} {F : Nat → Nat}

/-- What a slot that moves elements by a rule leaves. -/
def State.movedBy (s : State) (cv : Convoy) (i : Instr) (f : VR) (F : Nat → Nat) : State :=
  slotRan s cv i { log := { slices := moved (slotEnv s cv) f.dest f.pred f.pz F, rows := (slotEnv s cv).rowsOf f.dest } }

theorem State.runPlain_permute (hs : openSlot s cv) (hi : asRun i = j) {two : Bool} {G : VEnv → Nat → Option Nat}
    (hG : ∀ e, (G (slotEnv s cv) e).elim 0 (srcAt (slotEnv s cv) f.src1) = F e) :
    s.runPlain j (fun v => v.permute f two (G v)) = .next (s.movedBy cv i f F) := by
  refine State.runPlain_eq hs.1 hi ((VEnv.permute_eq hs.2 ..).trans ?_)
  rw [funext hG]

theorem State.runPlain_permute2 (hs : openSlot s cv) (hi : asRun i = j) {G : VEnv → Nat → Opnd × Nat}
    (hG : ∀ e, srcAt (slotEnv s cv) (G (slotEnv s cv) e).1 (G (slotEnv s cv) e).2 = F e) :
    s.runPlain j (fun v => v.permute2 f (G v)) = .next (s.movedBy cv i f F) := by
  refine State.runPlain_eq hs.1 hi ((VEnv.permute2_eq hs.2 ..).trans ?_)
  rw [funext hG]

/-- vslide by its direction: down, up, and any other around. -/
theorem State.slide_eq (hs : openSlot s cv) (hi : asRun i = .vslideDown f) : s.slide f =
    .next (s.movedBy cv i f fun e =>
      if f.fn = 0 then srcAt (slotEnv s cv) f.src1 (e + (slotEnv s cv).s2x f e)
      else if f.fn = 1 then
        if (slotEnv s cv).s2x f e ≤ e then srcAt (slotEnv s cv) f.src1 (e - (slotEnv s cv).s2x f e) else 0
      else srcAt (slotEnv s cv) f.src1 ((e + (slotEnv s cv).s2x f e) % cv.vl)) := by
  refine State.runPlain_permute hs hi fun e => ?_
  split_ifs with h0 h1 hle
  · rfl
  · rw [if_pos hle]; rfl
  · rw [if_neg hle]; rfl
  · rfl

/-- vbcast by a scalar index, or under fn 001 of each fibre's first element. -/
theorem State.bcast_eq (hs : openSlot s cv) (hi : asRun i = .vbcast f) : s.bcast f =
    .next (s.movedBy cv i f fun e =>
      if f.fn = 1 then srcAt (slotEnv s cv) f.src1 (fibreFirst (slotEnv s cv) e)
      else srcAt (slotEnv s cv) f.src1 ((slotEnv s cv).c.reg f.src2.reg).toNat) := by
  refine State.runPlain_permute hs hi fun e => ?_
  simp only [VEnv.startOf_eq_fibreFirst]
  split_ifs <;> rfl

/-- Each permute, each broadcast and vexpand moves the elements that its rule names (R196, R197). -/
theorem exec_of_permuted (hs : openSlot s cv) (hi : permuted (slotEnv s cv) i = some (f, F)) :
    exec i s = .next (s.movedBy cv i f F) := by
  unfold permuted at hi
  split at hi
  case h_1 g =>
    refine (State.slide_eq (i := .vslideDown g) hs rfl).trans ?_
    split at hi
    next h0 => cases hi; simp only [h0, ↓reduceIte]; rfl
    next h0 =>
      split at hi
      next h1 => cases hi; simp only [h1, BitVec.reduceEq, ↓reduceIte]; rfl
      next h1 =>
        split at hi
        next h2 => cases hi; simp only [h2, BitVec.reduceEq, ↓reduceIte]; rfl
        next => cases hi
  case h_2 g => cases hi; exact State.slide_eq (f := { f with fn := 1 }) hs rfl
  case h_3 g => cases hi; exact State.slide_eq (f := { f with fn := 2 }) hs rfl
  case h_4 g =>
    cases hi
    exact State.runPlain_permute (i := .vxchg f) (j := .vxchg f) hs rfl fun e => rfl
  case h_5 g =>
    cases hi
    exact State.runPlain_permute (i := .vperm f) (j := .vperm f) hs rfl fun e => rfl
  case h_6 g =>
    cases hi
    exact State.runPlain_permute (i := .vrev f) (j := .vrev f) hs rfl fun e => rfl
  case h_7 g =>
    cases hi
    exact State.runPlain_permute2 (i := .vzip f) (j := .vzip f) hs rfl fun e => by split <;> rfl
  case h_8 g =>
    cases hi
    exact State.runPlain_permute2 (i := .vunzip f) (j := .vunzip f) hs rfl fun e => by dsimp only; split <;> rfl
  case h_9 g => cases hi; exact State.bcast_eq (i := .vbcast f) hs rfl
  case h_10 g => cases hi; exact State.bcast_eq (f := { f with fn := 1, mode := 0 }) hs rfl
  case h_11 g =>
    cases hi
    exact State.runPlain_eq (i := .vexpand f) (j := .vexpand f) hs.1 rfl (VEnv.loopX_eq_moved hs.2 _)
  case h_12 => cases hi

end

/-! ## Slots that write all their elements at once -/

theorem filterMap_ite {α β : Type} (p : α → Prop) [DecidablePred p] (g : α → β) (l : List α) :
    l.filterMap (fun e => if p e then some (g e) else none) = (l.filter fun e => decide (p e)).map g := by
  induction l with
  | nil => rfl
  | cons e l ih => by_cases h : p e <;> simp [h, ih]

theorem nodup_eraseDups {α : Type} [BEq α] [LawfulBEq α] : ∀ l : List α, l.eraseDups.Nodup
  | [] => List.nodup_nil
  | a :: l => by
    rw [List.eraseDups_cons]
    exact List.nodup_cons.2 ⟨by simp, nodup_eraseDups _⟩
termination_by l => l.length
decreasing_by exact Nat.lt_succ_of_le (List.length_filter_le ..)

theorem VEnv.atOnce_marks (v : VEnv) (o : Opnd) (slices : List SliceWrite) (preds : List PredWrite) :
    marks v o (v.atOnce o slices preds).log := by
  refine ⟨nodup_eraseDups _, fun x => ?_⟩
  simp [VEnv.atOnce, eq_comm]

theorem exec_vcompress {s : State} {cv : Convoy} (hs : openSlot s cv) (f : VR) :
    let v := slotEnv s cv
    let act := v.actives f.pred
    exec (.vcompress f) s = .next (slotRan s cv (.vcompress f) (v.atOnce f.dest
      ((act.zipIdx.flatMap fun p => v.put f.dest (cv.vstart + p.2) (v.get f.src1 p.1)) ++
        (if f.pz then (List.range (cv.vl - (cv.vstart + act.length))).flatMap fun i =>
          v.put f.dest (cv.vstart + act.length + i) 0 else [])) [])) := by
  intro v act
  refine State.runPlain_eq hs.1 rfl ?_
  dsimp only
  rw [VEnv.firstPoison_clean (v := slotEnv s cv) hs.2, List.zipIdx_eq_map_add]
  simp only [List.flatMap_map]
  rfl

theorem exec_vpush {s : State} {cv : Convoy} (hs : openSlot s cv) (f : VR) :
    let v := slotEnv s cv
    let hits := ((v.actives f.pred).filter fun e => decide (v.get f.src2 e < cv.vl)).map fun e => (e, v.get f.src2 e)
    let count := fun (j : Nat) => (hits.filter fun p => decide (p.2 = j)).length
    exec (.vpush f) s = .next (slotRan s cv (.vpush f) (v.atOnce f.dest
      ((hits.flatMap fun p => v.put f.dest p.2 (v.get f.src1 p.1)) ++
         (if f.pz then v.elems.flatMap fun j => if count j = 0 then v.put f.dest j 0 else [] else []))
      (if f.ext then v.elems.map fun j => v.putPred f.fn.toNat j (decide (2 ≤ count j)) else []))) := by
  intro v hits count
  refine State.runPlain_eq hs.1 rfl ?_
  have hhits : ((slotEnv s cv).actives f.pred).filterMap (fun e =>
      if (slotEnv s cv).get f.src2 e < (slotEnv s cv).cv.vl then some (e, (slotEnv s cv).get f.src2 e) else none) = hits :=
    filterMap_ite _ _ _
  dsimp only
  rw [VEnv.firstPoison_clean (v := slotEnv s cv) hs.2, hhits]

end Sys2Proof.Machine

namespace Sys2Proof.Proofs

open Sys2Proof Sys2Proof.Machine Sys2Proof.Claims

/-- Settles O25: each slot reads all its sources before it writes, and no slice is poisoned, so that it cannot fault. -/
theorem permuteCompressAndPushSlots : Obligations.PermuteCompressAndPushSlots := by
  unfold Obligations.PermuteCompressAndPushSlots
  refine ⟨fun s cv i f F hs hi => exec_of_permuted hs hi,
    fun s cv f hs => ⟨⟨_, exec_vcompress hs f, ?_⟩, _, exec_vpush hs f, ?_⟩⟩
  · exact ⟨rfl, rfl, VEnv.atOnce_marks .., rfl⟩
  · exact ⟨rfl, rfl, VEnv.atOnce_marks .., rfl⟩

end Sys2Proof.Proofs
end


section
/-! What the stores and the atomic updates of a convoy leave (R122, R268, R275): which bytes change, and that nothing changes but
memory and what agents have still to observe of it. -/

namespace Sys2Proof.Machine

open Sys2Proof.Claims

/-! ## Frames -/

/-- A state differs from another at most in the writes that agents have still to observe. -/
def State.ViewsOnly (s t : State) : Prop := t = { s with writes := t.writes, moment := t.moment, lags := t.lags }

/-- A state differs from another at most in memory, the scratchpads, and the writes that agents have still to observe. -/
def State.StoresOnly (s t : State) : Prop := t = { s with
  mem := t.mem, sp := t.sp, home := t.home, memPoison := t.memPoison, spPoison := t.spPoison
  writes := t.writes, moment := t.moment, lags := t.lags }

/-- A change of what agents have still to observe. -/
theorem State.ViewsOnly.ofWrites (s : State) (w : List Write) (m : Nat) (l : List Nat) :
    s.ViewsOnly { s with writes := w, moment := m, lags := l } := rfl

theorem State.ViewsOnly.trans {s t u : State} (h : s.ViewsOnly t) (g : t.ViewsOnly u) : s.ViewsOnly u := by
  unfold State.ViewsOnly at h g ⊢
  rw [h] at g
  exact g

theorem State.StoresOnly.refl (s : State) : s.StoresOnly s := rfl

theorem State.StoresOnly.trans {s t u : State} (h : s.StoresOnly t) (g : t.StoresOnly u) : s.StoresOnly u := by
  unfold State.StoresOnly at h g ⊢
  rw [h] at g
  exact g

theorem State.ViewsOnly.storesOnly {s t : State} (h : s.ViewsOnly t) : s.StoresOnly t := by
  unfold State.ViewsOnly at h
  rw [h]
  rfl

theorem State.sameBut.viewsOnly {s t : State} (h : s.sameBut t) : s.ViewsOnly t := by
  rw [h]
  rfl

theorem State.ViewsOnly.locByte {s t : State} (h : s.ViewsOnly t) (l : Loc) : t.locByte l = s.locByte l := by
  rw [h]
  rfl

theorem State.ViewsOnly.cellsOk {s t : State} (h : s.ViewsOnly t) (hs : cellsOk s) : cellsOk t := by
  rw [h]
  exact hs

/-- Steps that each change memory alone change memory alone together. -/
theorem State.StoresOnly.foldl {α : Type} {f : State → α → State} (hf : ∀ (s : State) (a : α), s.StoresOnly (f s a)) :
    ∀ (l : List α) (s : State), s.StoresOnly (l.foldl f s)
  | [], s => .refl s
  | a :: l, s => (hf s a).trans (State.StoresOnly.foldl hf l (f s a))

/-! ## Notes of writes -/

theorem State.noteWith_viewsOnly (s t : State) (lag : Nat → Nat) (left : List Nat) (sid cls : Nat) (l : List WriteAt) :
    t.ViewsOnly (s.noteWith t lag left sid cls l) := by
  unfold State.noteWith
  exact (State.ViewsOnly.ofWrites t _ _ _).trans (State.performFor_sameBut _ _).viewsOnly

theorem State.noteWrites_viewsOnly (s t : State) (sid cls : Nat) (l : List WriteAt) : t.ViewsOnly (s.noteWrites t sid cls l) := by
  unfold State.noteWrites
  split
  · rfl
  · exact s.noteWith_viewsOnly t _ _ sid cls l

/-- Without updates there is nothing to note before or after them. -/
theorem State.beforeAmos_none (s : State) (c : Ctx) {logs : List SlotLog} (h : ∀ g ∈ logs, g.amos = []) :
    s.beforeAmos c logs = s := by
  unfold State.beforeAmos
  split
  · rfl
  · induction logs with
    | nil => rfl
    | cons g logs ih =>
      rw [List.foldl_cons, h g List.mem_cons_self]
      exact ih fun g hg => h g (List.mem_cons_of_mem _ hg)

theorem State.noteAmos_none (s t : State) (c : Ctx) {logs : List SlotLog} (h : ∀ g ∈ logs, g.amos = []) (done : Nat → Bool) :
    s.noteAmos t c logs done = t := by
  unfold State.noteAmos
  split
  · rfl
  · induction logs with
    | nil => rfl
    | cons g logs ih =>
      rw [List.foldl_cons, h g List.mem_cons_self]
      exact ih fun g hg => h g (List.mem_cons_of_mem _ hg)

theorem State.beforeAmos_settled {s : State} (h : s.writes = []) (c : Ctx) (logs : List SlotLog) : s.beforeAmos c logs = s := by
  simp [State.beforeAmos, h]

theorem State.noteAmos_settled {s : State} (h : s.writes = []) (t : State) (c : Ctx) (logs : List SlotLog) (done : Nat → Bool) :
    s.noteAmos t c logs done = t := by
  simp [State.noteAmos, h]

/-! ## Stores -/

theorem State.setLoc_storesOnly (s : State) (l : Loc) (b : Byte) : s.StoresOnly (s.setLoc l b) := by
  unfold State.setLoc
  split <;> rfl

theorem State.putMems_storesOnly (s : State) (l : List MemWrite) : s.StoresOnly (s.putMems l) := by
  unfold State.putMems
  exact State.StoresOnly.trans (.foldl (fun s m => s.setLoc_storesOnly _ _) l s) rfl

/-- Lines that are written back change what their home holds, and nothing else. -/
theorem State.cleanLines_eq : ∀ (l : List MemWrite) (s : State), ∃ h,
    l.foldl (fun t m => if m.scratch then t else t.cleanLine (m.key / 64)) s = { s with home := h }
  | [], s => ⟨s.home, rfl⟩
  | m :: l, s => by
    rw [List.foldl_cons]
    split
    · exact State.cleanLines_eq l s
    · exact State.cleanLines_eq l (s.cleanLine (m.key / 64))

/-- What a slot stores: its bytes, and then what agents observe of them and what its lines' home holds. -/
theorem State.storeMems_eq (s : State) (c : Ctx) (g : SlotLog) (keep : Nat → Bool) : ∃ u h,
    (s.putMems (g.mems.filter fun m => keep m.elem)).ViewsOnly u ∧ s.storeMems c g keep = { u with home := h } := by
  unfold State.storeMems
  extract_lets l t u
  have hu : t.ViewsOnly u := by
    unfold u
    split
    · rfl
    · exact s.noteWrites_viewsOnly t _ _ _
  split
  · obtain ⟨h, heq⟩ := State.cleanLines_eq l u
    exact ⟨u, h, hu, heq⟩
  · exact ⟨u, u.home, hu, rfl⟩

theorem State.storeMems_storesOnly (s : State) (c : Ctx) (g : SlotLog) (keep : Nat → Bool) :
    s.StoresOnly (s.storeMems c g keep) := by
  obtain ⟨u, h, hu, heq⟩ := s.storeMems_eq c g keep
  rw [heq]
  exact (s.putMems_storesOnly _).trans (hu.storesOnly.trans rfl)

theorem State.storeAll_storesOnly (s : State) (c : Ctx) (logs : List SlotLog) (keep : Nat → Bool) :
    s.StoresOnly (s.storeAll c logs keep) := .foldl (fun s g => s.storeMems_storesOnly c g keep) logs s

/-! ## The bytes after stores -/

theorem overlay_append (a b : List MemWrite) (l : Loc) (x : Byte) : overlay (a ++ b) l x = overlay b l (overlay a l x) :=
  List.foldl_append

/-- The bytes of a list of writes, before the poison of the words that they cover goes. -/
theorem State.foldl_write_locByte (x : Loc) : ∀ (l : List MemWrite) (s : State), cellsOk s →
    (l.foldl (fun s m =>
      let x : Loc := { scratch := m.scratch, key := m.key, va := m.va }
      s.setLoc x ((s.locByte x &&& ~~~m.mask) ||| (m.val &&& m.mask))) s).locByte x = overlay l x (s.locByte x)
  | [], _, _ => rfl
  | m :: l, s, hs => by
    rw [List.foldl_cons, State.foldl_write_locByte x l _ (State.setLoc_cellsOk hs _ _)]
    unfold overlay
    rw [List.foldl_cons]
    congr 1
    by_cases hx : m.scratch = x.scratch ∧ m.key = x.key
    · have hsame : ∀ t : State, t.locByte x = t.locByte { scratch := m.scratch, key := m.key, va := m.va } := fun t => by
        simp only [State.locByte, hx.1, hx.2]
      rw [if_pos (by simp [hx]), hsame, State.setLoc_locByte_same hs, hsame]
    · rw [if_neg (by simpa using hx), State.setLoc_locByte_other _ (not_and_or.1 hx)]

theorem State.putMems_locByte {s : State} (hs : cellsOk s) (l : List MemWrite) (x : Loc) :
    (s.putMems l).locByte x = overlay l x (s.locByte x) := State.foldl_write_locByte x l s hs

theorem State.putMems_cellsOk {s : State} (hs : cellsOk s) (l : List MemWrite) : cellsOk (s.putMems l) :=
  s.putMems_wf l hs.1 hs.2

theorem State.storeMems_locByte {s : State} (hs : cellsOk s) (c : Ctx) (g : SlotLog) (keep : Nat → Bool) (x : Loc) :
    (s.storeMems c g keep).locByte x = overlay (g.mems.filter fun m => keep m.elem) x (s.locByte x) := by
  obtain ⟨u, h, hu, heq⟩ := s.storeMems_eq c g keep
  rw [heq, ← State.putMems_locByte hs, ← hu.locByte]
  rfl

theorem State.storeMems_cellsOk {s : State} (hs : cellsOk s) (c : Ctx) (g : SlotLog) (keep : Nat → Bool) :
    cellsOk (s.storeMems c g keep) := by
  obtain ⟨u, h, hu, heq⟩ := s.storeMems_eq c g keep
  rw [heq]
  exact hu.cellsOk (State.putMems_cellsOk hs _)

theorem State.storeAll_locByte (c : Ctx) (keep : Nat → Bool) (x : Loc) : ∀ (logs : List SlotLog) {s : State}, cellsOk s →
    (s.storeAll c logs keep).locByte x = overlay ((logs.flatMap SlotLog.mems).filter fun m => keep m.elem) x (s.locByte x)
  | [], _, _ => rfl
  | g :: logs, s, hs => by
    rw [List.flatMap_cons, List.filter_append, overlay_append, ← State.storeMems_locByte hs c g keep]
    exact State.storeAll_locByte c keep x logs (State.storeMems_cellsOk hs c g keep)

end Sys2Proof.Machine
end


section
/-! How a convoy without a fault retires (R23, R126), rings at a production and a consumption (R297), and O34. -/

namespace Sys2Proof.Machine

open Sys2Proof.Claims

/-! ## A convoy whose slots have all run -/

section
variable {s : State} {n : Nat} {cv : Convoy}

theorem exec_convoyRetire_ok (hviq : (s.ctxAt n).viq = [cv]) (htodo : cv.todo = []) (hwhole : cv.whole = none)
    (hfault : cv.fault = none) : exec (.convoyRetire n) s = .next (s.retireOk n cv) := by
  change execConvoyRetire n s = _
  simp only [execConvoyRetire, hviq, htodo, hwhole, hfault]
  rfl

/-- The rows of a convoy are committed. -/
def State.putRows (s : State) (logs : List SlotLog) : State :=
  (s.putSlices ((commitSlices logs fun _ => true).map (fun w => (w.key, w.val)) ++ logs.flatMap SlotLog.fill)).putPreds
    (commitPreds logs fun _ => true)

/-- The channels, tiles and scratchpad configurations of a convoy are committed. -/
def State.putUnits (s : State) (n : Nat) (c : Ctx) (logs : List SlotLog) : State :=
  let t := (s.commitChans n c logs).applyTiles n (logs.flatMap SlotLog.tiles)
  match logs.findSome? SlotLog.spcfg with | some v => t.setSpcfg c v | none => t

/-- A convoy without updates retires by its stores, its rows and what it does to the units, past its end. -/
theorem State.retireOk_ends (hamos : ∀ g ∈ cv.logs, g.amos = []) (hchans : s.chansHold (s.ctxAt n) cv.logs = true) :
    ∃ c, c.pc = cv.epc + BitVec.ofNat 64 cv.size ∧ s.retireOk n cv =
      ((((s.storeAll (s.ctxAt n) cv.logs fun _ => true).putRows cv.logs).putUnits n (s.ctxAt n) cv.logs).countRows
        (s.ctxAt n) cv fun _ => true).setCtx n c := by
  have hnil : cv.logs.flatMap SlotLog.amos = [] := List.flatMap_eq_nil_iff.2 hamos
  unfold State.retireOk
  simp only [s.beforeAmos_none _ hamos, hnil, State.putAmos, hchans, s.noteAmos_none s _ hamos]
  exact ⟨_, rfl, rfl⟩

theorem State.countRows_none (h : s.perf = []) (c : Ctx) (done : Nat → Bool) : s.countRows c cv done = s := by
  simp [State.countRows, h]

end

/-! ## Rings -/

section
variable {s t : State} {cl k : Nat} {r : Ring}

theorem State.ringAt_of_clusters (h : t.clusters = s.clusters) (cl k : Nat) : t.ringAt cl k = s.ringAt cl k := by
  simp only [State.ringAt, State.clAt, h]

theorem State.holders_of_ringAt (h : s.ringAt cl k = some r) : r.holders.isEmpty = false := by
  unfold State.ringAt at h
  split at h
  · split at h
    · cases h
    next hne => cases h; simpa using hne
  · cases h

theorem State.ringAt_setRing (s : State) (cl k : Nat) (h : r.holders.isEmpty = false) :
    (s.setRing cl k r).ringAt cl k = some r := by
  simp [State.ringAt, State.setRing, h]

theorem Ring.onAttached_getD (f : Nat → Nat) (l : List Nat) {i : Nat} (h : i ∈ r.attached) :
    (r.onAttached f l).getD i 0 = f (l.getD i 0) := by
  obtain ⟨hlt, hno⟩ := List.mem_filter.1 h
  have hlt := List.mem_range.1 hlt
  have hno : i ∉ r.detached := by simpa using hno
  simp [Ring.onAttached, hlt, hno]

theorem State.addSpPoison_storesOnly (s : State) (cl a : Nat) : s.StoresOnly (s.addSpPoison cl a) := rfl

theorem State.writeSpList_storesOnly (cl : Nat) : ∀ (l : List Byte) (s : State) (a : Nat), s.StoresOnly (s.writeSpList cl a l)
  | [], s, _ => .refl s
  | b :: l, s, a => State.StoresOnly.trans (t := s.writeSp cl a b) rfl (State.writeSpList_storesOnly cl l _ (a + 1))

theorem State.putTok_storesOnly (s : State) (cl : Nat) (r : Ring) (j : Nat) (t : Tok) : s.StoresOnly (s.putTok cl r j t) := by
  unfold State.putTok State.writeSpBytes
  refine State.StoresOnly.trans ?_ (.foldl (fun s k => s.addSpPoison_storesOnly cl _) _ _)
  exact (s.writeSpList_storesOnly cl _ _).trans rfl

/-- A production advances the write index, and takes a place of each attached consumer for each token (R297). -/
theorem State.produce_ring (h : s.ringAt cl k = some r) (l : List Tok) : ∃ u r', s.produce cl k l = u.setRing cl k r' ∧
    s.StoresOnly u ∧ r'.holders = r.holders ∧ r'.widx = (r.widx + l.length) % r.slots ∧
    ∀ i ∈ r.attached, r'.freeOf i = r.freeOf i - l.length ∧ r'.tokensOf i = r.tokensOf i + l.length := by
  unfold State.produce
  simp only [h]
  refine ⟨_, _, rfl, ?_, rfl, rfl, fun i hi =>
    ⟨Ring.onAttached_getD (fun x => x - l.length) r.free hi, Ring.onAttached_getD (fun x => x + l.length) r.tokens hi⟩⟩
  split
  · exact .foldl (fun s p => s.putTok_storesOnly cl r _ _) _ s
  · exact .refl s

theorem getD_set {l : List Nat} {i : Nat} (h : i < l.length) (j x : Nat) :
    (l.set i x).getD j 0 = if j = i then x else l.getD j 0 := by
  by_cases hj : j = i
  · simp [hj, h]
  · simp [hj, Ne.symm hj]

/-- A consumption by one consumer frees the places of its tokens and moves its read index, and no other's (R297). -/
theorem State.consume_ring (h : s.ringAt cl k = some r) (hr : ringSound r) {q : Nat} (hq : q < r.cons)
    (hatt : r.detached.contains q = false) (m : Nat) : ∃ r', s.consume cl k q m = s.setRing cl k r' ∧ r'.holders = r.holders ∧
    (∀ j, r'.tokensOf j = if j = q then r.tokensOf q - m else r.tokensOf j) ∧
    (∀ j, r'.freeOf j = if j = q then r.freeOf q + m else r.freeOf j) ∧
    (∀ j, r'.readAt j = if j = q then (r.readAt q + m) % r.slots else r.readAt j) := by
  have hr : r.sound = true := hr
  simp only [Ring.sound, Bool.and_eq_true, decide_eq_true_eq] at hr
  obtain ⟨⟨⟨⟨hfree, htokens⟩, hridx⟩, -⟩, -⟩ := hr
  unfold State.consume
  simp only [h]
  refine ⟨_, rfl, rfl, fun j => getD_set (htokens ▸ hq) j _, fun j => ?_, fun j => getD_set (hridx ▸ hq) j _⟩
  simp only [Ring.freeOf, hatt, Bool.false_eq_true, ↓reduceIte]
  exact getD_set (hfree ▸ hq) j _

end
end Sys2Proof.Machine
end


section
/-! The vector channel slots and their retirement (R126, R305, R306), and O34. -/

namespace Sys2Proof.Machine

open Sys2Proof.Claims

/-! ## The slots -/

theorem VEnv.loop_eq_moved {v : VEnv} {o : Opnd} {p : BitVec 4} {pz : Bool} {srcs : Nat → List (Opnd × Nat)} {F : ElemFn}
    {G : Nat → Nat} (h : v.s.slicePoison = []) (hF : ∀ g e, F g e = .ok (G e, 0)) :
    v.loop (.slices o) p pz srcs F = { log := { slices := moved v o p pz G, rows := v.rowsOf o } } := by
  rw [funext fun g => funext (hF g), VEnv.loop_eq_laneSlot h, laneSlot_moves]

section
variable {s : State} {cv : Convoy} {i : Instr} {run : VEnv → SlotRes}

/-- A slot that faults as a whole before it logs anything. -/
theorem State.runSlot_wholeRan {t : TrapInfo} (hs : openSlot s cv) (hi : asRun i = i) (hrun : run (slotEnv s cv) = .whole {} t s) :
    s.runSlot i run = wholeRan s s cv i t := by
  rw [State.runSlot_whole hs.1 hrun, wholeRan, logged, hi]
  rfl

/-- A slot that finds its channel short of room or tokens. -/
theorem slotWaits_vch (hs : openSlot s cv) (hexec : exec i s = .next (s.runSlot i run))
    (hrun : run (slotEnv s cv) = State.vchWait (slotEnv s cv)) : slotWaits i s .vch := by
  refine ⟨_, hexec.trans (congrArg _ (State.runSlot_wait hs.1 hrun)), rfl, ?_, fun m hm => ?_⟩
  · simp only [State.me_setMe, slotEnv]
    rw [← hs.1]
  · exact (State.ctxAt_setMe_other (s.setMe _) hm _).trans (State.ctxAt_setMe_other s hm _)

end

section
variable {s : State} {cv : Convoy} {f : VR} {cl k : Nat} {r : Ring}

theorem exec_vchPush_error {e : BitVec 8 × Nat} (hs : openSlot s cv) (h : s.chanCheck s.me (vchChan f) .push = .error e) :
    exec (.vchPush f) s = .next (wholeRan s s cv (.vchPush f) (chanTrap (vchChan f) (slotWord (.vchPush f)) e)) :=
  congrArg Host.Outcome.next (State.runSlot_wholeRan hs rfl (by simp only [slotEnv, h]))

theorem exec_vchPop_error {e : BitVec 8 × Nat} (hs : openSlot s cv)
    (h : s.chanCheck s.me (vchChan f) (.pop f.fn.toNat) = .error e) :
    exec (.vchPop f) s = .next (wholeRan s s cv (.vchPop f) (chanTrap (vchChan f) (slotWord (.vchPop f)) e)) :=
  congrArg Host.Outcome.next (State.runSlot_wholeRan hs rfl (by simp only [slotEnv, h]))

section
variable (hs : openSlot s cv) (h : s.chanCheck s.me (vchChan f) .push = .ok (cl, k, r))
include hs h

theorem exec_vchPush_long (hn : r.slots < pushNeed cv.vl f r) :
    exec (.vchPush f) s = .next (wholeRan s s cv (.vchPush f) (trapOf causeChMisuse 4 (BitVec.ofNat 64 (vchChan f)))) :=
  congrArg Host.Outcome.next (State.runSlot_wholeRan hs rfl (by simp only [slotEnv, h, hn, ↓reduceIte]; rfl))

theorem slotWaits_vchPush (hn : pushNeed cv.vl f r ≤ r.slots) (hroom : r.room (pushNeed cv.vl f r) = false) :
    slotWaits (.vchPush f) s .vch :=
  slotWaits_vch hs rfl (by simp [slotEnv, h, Nat.not_lt.2 hn, hroom])

theorem exec_vchPush (hn : pushNeed cv.vl f r ≤ r.slots) (hroom : r.room (pushNeed cv.vl f r) = true) :
    exec (.vchPush f) s = .next (slotRan s cv (.vchPush f)
      { log := { push := some (vchChan f, (slotEnv s cv).pushToks f r) } }) := by
  refine congrArg Host.Outcome.next (State.runSlot_done hs.1 rfl ?_)
  have hbad : (((slotEnv s cv).actives f.pred).findSome? fun e =>
      ((slotEnv s cv).poisonCheck [(f.src1, e)] none).map fun t => (e, t)) = none :=
    List.findSome?_eq_none_iff.2 fun e _ => by rw [VEnv.poisonCheck_clean hs.2]; rfl
  rw [hbad]
  simp [slotEnv, h, Nat.not_lt.2 hn, hroom]

end

section
variable (hs : openSlot s cv) (h : s.chanCheck s.me (vchChan f) (.pop f.fn.toNat) = .ok (cl, k, r))
include hs h

theorem exec_vchPop_long (hn : r.slots < dataToks cv.vl f.dest.w r.size) :
    exec (.vchPop f) s = .next (wholeRan s s cv (.vchPop f) (trapOf causeChMisuse 4 (BitVec.ofNat 64 (vchChan f)))) :=
  congrArg Host.Outcome.next (State.runSlot_wholeRan hs rfl (by simp only [slotEnv, h, hn, ↓reduceIte]; rfl))

theorem slotWaits_vchPop (hn : dataToks cv.vl f.dest.w r.size ≤ r.slots)
    (hlack : r.tokensOf f.fn.toNat < dataToks cv.vl f.dest.w r.size) : slotWaits (.vchPop f) s .vch :=
  slotWaits_vch hs rfl (by simp [slotEnv, h, Nat.not_lt.2 hn, hlack])

variable (hn : dataToks cv.vl f.dest.w r.size ≤ r.slots) (htoks : dataToks cv.vl f.dest.w r.size ≤ r.tokensOf f.fn.toNat)
include hn htoks

theorem exec_vchPop_control (hctl : ∃ j, j < dataToks cv.vl f.dest.w r.size ∧
      (s.slotTok cl r ((r.readAt f.fn.toNat + j) % r.slots)).tag ≠ 0) :
    exec (.vchPop f) s = .next (wholeRan s s cv (.vchPop f) (trapOf causeChMisuse 5 (BitVec.ofNat 64 (vchChan f)))) := by
  refine congrArg Host.Outcome.next (State.runSlot_wholeRan hs rfl ?_)
  have hany : (((List.range (dataToks cv.vl f.dest.w r.size)).map fun j =>
      s.slotTok cl r ((r.readAt f.fn.toNat + j) % r.slots)).any fun t => decide (t.tag ≠ 0)) = true := by simpa using hctl
  simp only [slotEnv, h, Nat.not_lt.2 hn, Nat.not_lt.2 htoks, hany, ↓reduceIte]
  rfl

theorem exec_vchPop (hdata : ∀ j, j < dataToks cv.vl f.dest.w r.size →
      (s.slotTok cl r ((r.readAt f.fn.toNat + j) % r.slots)).tag = 0 ∧
      (s.slotTok cl r ((r.readAt f.fn.toNat + j) % r.slots)).bad = []) :
    let bits := leNat ((List.range (dataToks cv.vl f.dest.w r.size)).flatMap fun j =>
      (s.slotTok cl r ((r.readAt f.fn.toNat + j) % r.slots)).data)
    exec (.vchPop f) s = .next (slotRan s cv (.vchPop f) { log := {
      slices := moved (slotEnv s cv) f.dest f.pred f.pz fun e => bits / 2 ^ (4 * f.dest.w * e) % 2 ^ (4 * f.dest.w)
      rows := (slotEnv s cv).rowsOf f.dest, pop := some (vchChan f, f.fn.toNat, dataToks cv.vl f.dest.w r.size) } }) := by
  intro bits
  refine congrArg Host.Outcome.next (State.runSlot_done hs.1 rfl ?_)
  generalize htk : ((List.range (dataToks cv.vl f.dest.w r.size)).map fun j =>
    s.slotTok cl r ((r.readAt f.fn.toNat + j) % r.slots)) = toks
  have hbits : leNat (toks.flatMap Tok.data) = bits := by rw [← htk, List.flatMap_map]
  have hmem : ∀ t ∈ toks, t.tag = 0 ∧ t.bad = [] := fun t ht => by
    rw [← htk] at ht
    obtain ⟨j, hj, rfl⟩ := List.mem_map.1 ht
    exact hdata j (List.mem_range.1 hj)
  have hany : (toks.any fun t => decide (t.tag ≠ 0)) = false :=
    List.any_eq_false.2 fun t ht => by simp [(hmem t ht).1]
  simp only [slotEnv, h, Nat.not_lt.2 hn, Nat.not_lt.2 htoks, htk, hany, hbits, ↓reduceIte, Bool.false_eq_true]
  rw [VEnv.loop_eq_moved (G := fun e => bits / 2 ^ (4 * f.dest.w * e) % 2 ^ (4 * f.dest.w)) (by exact hs.2) fun g e => ?_]
  · split
    next k hk =>
      have hk := List.find?_some hk
      split at hk
      next t ht => simp [(hmem t (List.mem_of_getElem? ht)).2] at hk
      · cases hk
    · rfl

end

end

/-! ## Retirement -/

section
variable {s : State} {c : Ctx} {n i cl k : Nat} {r : Ring} {op : ChanOp}

theorem State.chanAt_of_check (h : s.chanCheck c i op = .ok (cl, k, r)) : s.chanAt c i = some (cl, k, r) ∧ r.check op = none := by
  unfold State.chanCheck at h
  split at h
  · cases h
  next heq =>
    split at h
    · cases h
    next hr => cases h; exact ⟨heq, hr⟩

theorem State.ringAt_of_chanAt (h : s.chanAt c i = some (cl, k, r)) : s.ringAt cl k = some r := by
  obtain ⟨b, -, hb⟩ := Option.bind_eq_some_iff.1 h
  obtain ⟨r', hr, heq⟩ := Option.map_eq_some_iff.1 hb
  cases heq
  exact hr

theorem State.chanAt_of_clusters {t : State} (h : t.clusters = s.clusters) (c : Ctx) (i : Nat) : t.chanAt c i = s.chanAt c i := by
  simp only [State.chanAt, State.ringAt_of_clusters h]

/-- A pop that passes its checks is of a consumer that is attached. -/
theorem Ring.consumer_of_check {q : Nat} (h : r.check (.pop q) = none) : q < r.cons ∧ r.detached.contains q = false := by
  change (if r.cons ≤ q then some (causeOperand, 5)
    else if r.actorConsumer q then some (causeChMisuse, 2)
    else if r.detached.contains q then some (causeChMisuse, 3) else none) = none at h
  split at h
  · cases h
  next hq =>
    split at h
    · cases h
    · split at h
      · cases h
      next hno => exact ⟨Nat.lt_of_not_le hq, Bool.eq_false_iff.2 hno⟩

theorem State.acquireSlots_onlyCtxs (s : State) (n : Nat) (r : Ring) (q k : Nat) :
    s.acquireSlots n r q k = { s with ctxs := (s.acquireSlots n r q k).ctxs } := by
  unfold State.acquireSlots
  induction List.range k generalizing s with
  | nil => rfl
  | cons j l ih =>
    rw [List.foldl_cons]
    have hstep : ∀ t : State, t = { s with ctxs := t.ctxs } → l.foldl (fun s j =>
        let p := (r.readAt q + j) % r.slots
        if r.plain.contains p then s else s.acquireAt n (smGet 0 r.moments p)) t =
        { s with ctxs := (l.foldl (fun s j =>
          let p := (r.readAt q + j) % r.slots
          if r.plain.contains p then s else s.acquireAt n (smGet 0 r.moments p)) t).ctxs } := fun t ht =>
      (ih t).trans (by rw [ht])
    refine hstep _ ?_
    dsimp only
    split
    · rfl
    · unfold State.acquireAt
      split <;> rfl

end

section
variable {s : State} {cv : Convoy} {n : Nat} {g : SlotLog}

/-- A convoy of one slot that touches its channels alone leaves the rings as its commitment to them does. -/
theorem execConvoyRetire_channels (hviq : (s.ctxAt n).viq = [cv]) (htodo : cv.todo = []) (hwhole : cv.whole = none)
    (hfault : cv.fault = none) (hperf : s.perf = []) (hlogs : cv.logs = [g]) (hamos : g.amos = []) (htiles : g.tiles = [])
    (hspcfg : g.spcfg = none) (hchans : s.chansHold (s.ctxAt n) [g] = true) : ∃ u : State,
      u.clusters = s.clusters ∧ u.perf = [] ∧ ((u.commitChans n (s.ctxAt n) [g]).perf = [] →
        completes (.convoyRetire n) s fun t => t.clusters = (u.commitChans n (s.ctxAt n) [g]).clusters) := by
  refine ⟨(s.storeAll (s.ctxAt n) [g] fun _ => true).putRows [g], ?_, ?_, fun hw => ?_⟩
  · change (s.storeAll (s.ctxAt n) [g] fun _ => true).clusters = _
    rw [s.storeAll_storesOnly]
  · change (s.storeAll (s.ctxAt n) [g] fun _ => true).perf = _
    rw [s.storeAll_storesOnly]
    exact hperf
  · obtain ⟨c, -, heq⟩ := State.retireOk_ends (s := s) (n := n) (cv := cv) (by simpa [hlogs] using hamos) (hlogs ▸ hchans)
    refine ⟨_, (exec_convoyRetire_ok hviq htodo hwhole hfault).trans (congrArg _ heq), ?_⟩
    simp only [hlogs, State.putUnits, List.flatMap_cons, List.flatMap_nil, htiles, List.findSome?_cons, List.findSome?_nil,
      hspcfg, List.append_nil]
    rw [State.countRows_none (by exact hw)]
    rfl

end
end Sys2Proof.Machine

namespace Sys2Proof.Proofs

open Sys2Proof Sys2Proof.Machine Sys2Proof.Claims

section
variable {s : State} {cv : Convoy} {n i q T cl k : Nat} {r : Ring} {g : SlotLog} {toks : List (BitVec 2 × List Byte)}
variable (hviq : (s.ctxAt n).viq = [cv]) (htodo : cv.todo = []) (hwhole : cv.whole = none) (hfault : cv.fault = none)
  (hperf : s.perf = []) (hlogs : cv.logs = [g])
include hviq htodo hwhole hfault hperf hlogs

theorem convoyRetire_push (hpush : g.push = some (i, toks)) (hplain : plainLog { g with push := none })
    (hchan : s.chanCheck (s.ctxAt n) i .push = .ok (cl, k, r)) (hroom : r.room toks.length = true) :
    completes (.convoyRetire n) s fun t => ∃ r', t.ringAt cl k = some r' ∧
      r'.widx = (r.widx + toks.length) % r.slots ∧
      ∀ j ∈ r.attached, r'.freeOf j + toks.length = r.freeOf j ∧ r'.tokensOf j = r.tokensOf j + toks.length := by
  obtain ⟨-, hamos, hpop, -, htiles, hspcfg, -⟩ := hplain
  have hpop : g.pop = none := hpop
  obtain ⟨hat, -⟩ := State.chanAt_of_check hchan
  obtain ⟨u, hu, hup, hrun⟩ := execConvoyRetire_channels hviq htodo hwhole hfault hperf hlogs hamos htiles hspcfg
    (by simpa [State.chansHold, hpush, hpop, hchan] using hroom)
  have hatu := (State.chanAt_of_clusters hu (s.ctxAt n) i).trans hat
  obtain ⟨w, r', hw, hwu, hh, hwidx, hcount⟩ := State.produce_ring (State.ringAt_of_chanAt hatu)
    (toks.map fun t => { tag := t.1, data := t.2, plain := true })
  have hcommit : u.commitChans n (s.ctxAt n) [g] = w.setRing cl k r' := by
    simp only [State.commitChans, List.foldl_cons, List.foldl_nil, hpush, hpop, hatu, hw]
  rw [hcommit] at hrun
  obtain ⟨t, ht, hcl⟩ := hrun (by
    change w.perf = []
    rw [hwu]
    exact hup)
  simp only [List.length_map] at hwidx hcount
  refine ⟨t, ht, r', ?_, hwidx, fun j hj => ?_⟩
  · rw [State.ringAt_of_clusters hcl, State.ringAt_setRing]
    rw [hh]
    exact State.holders_of_ringAt (State.ringAt_of_chanAt hat)
  · obtain ⟨hfree, htok⟩ := hcount j hj
    have := of_decide_eq_true (List.all_eq_true.1 hroom j hj)
    exact ⟨by omega, htok⟩

theorem convoyRetire_pop (hsound : ringSound r) (hpop : g.pop = some (i, q, T)) (hplain : plainLog { g with pop := none })
    (hchan : s.chanCheck (s.ctxAt n) i (.pop q) = .ok (cl, k, r)) (htoks : T ≤ r.tokensOf q) :
    completes (.convoyRetire n) s fun t => ∃ r', t.ringAt cl k = some r' ∧
      r'.tokensOf q + T = r.tokensOf q ∧ r'.freeOf q = r.freeOf q + T ∧ r'.readAt q = (r.readAt q + T) % r.slots ∧
      ∀ j, j ≠ q → r'.tokensOf j = r.tokensOf j ∧ r'.freeOf j = r.freeOf j ∧ r'.readAt j = r.readAt j := by
  obtain ⟨-, hamos, -, hpush, htiles, hspcfg, -⟩ := hplain
  have hpush : g.push = none := hpush
  obtain ⟨hat, hcheck⟩ := State.chanAt_of_check hchan
  obtain ⟨hq, hatt⟩ := Ring.consumer_of_check hcheck
  obtain ⟨u, hu, hup, hrun⟩ := execConvoyRetire_channels hviq htodo hwhole hfault hperf hlogs hamos htiles hspcfg
    (by simpa [State.chansHold, hpush, hpop, State.chanReady, hchan] using htoks)
  have hatu := (State.chanAt_of_clusters hu (s.ctxAt n) i).trans hat
  obtain ⟨r', hw, hh, htok, hfree, hread⟩ := State.consume_ring (State.ringAt_of_chanAt hatu) hsound hq hatt T
  have hcommit : u.commitChans n (s.ctxAt n) [g] = (u.setRing cl k r').acquireSlots n r q T := by
    simp only [State.commitChans, List.foldl_cons, List.foldl_nil, hpush, hpop, hatu, hw]
  rw [hcommit, State.acquireSlots_onlyCtxs] at hrun
  obtain ⟨t, ht, hcl⟩ := hrun hup
  refine ⟨t, ht, r', ?_, ?_, ?_, ?_, fun j hj => ⟨?_, ?_, ?_⟩⟩
  · rw [State.ringAt_of_clusters (s := u.setRing cl k r') hcl, State.ringAt_setRing]
    rw [hh]
    exact State.holders_of_ringAt (State.ringAt_of_chanAt hat)
  · rw [htok, if_pos rfl]
    omega
  · rw [hfree, if_pos rfl]
  · rw [hread, if_pos rfl]
  · rw [htok, if_neg hj]
  · rw [hfree, if_neg hj]
  · rw [hread, if_neg hj]

end

/-- Settles O34: a slot ends by its checks in their order, and what it logged moves the counters of the ring it names. -/
theorem vectorChannelSlots : Obligations.VectorChannelSlots := by
  unfold Obligations.VectorChannelSlots
  intro s cv f cl k n i q T r toks g
  refine ⟨fun hs => ⟨fun e he => exec_vchPush_error hs he, fun e he => exec_vchPop_error hs he, fun h => ⟨?_, ?_, ?_⟩,
    fun h => ⟨?_, ?_, ?_, ?_⟩⟩, fun hviq htodo hwhole hfault hperf hsound hlogs => ⟨?_, ?_⟩, fun hwait hready => ?_⟩
  · exact exec_vchPush_long hs h
  · exact slotWaits_vchPush hs h
  · exact exec_vchPush hs h
  · exact exec_vchPop_long hs h
  · exact slotWaits_vchPop hs h
  · exact exec_vchPop_control hs h
  · exact exec_vchPop hs h
  · exact convoyRetire_push hviq htodo hwhole hfault hperf hlogs
  · exact convoyRetire_pop hviq htodo hwhole hfault hperf hlogs hsound
  · exact if_pos ⟨hwait, hready⟩

end Sys2Proof.Proofs
end


section
/-! Vector stores, vspill and vfill, the bytes after a convoy that stores has retired (R134, R267, R268, R271), and O31. -/

namespace Sys2Proof.Machine

open Sys2Proof.Claims

/-! ## Addresses -/

/-- Before a slot has results of its own, an element of an access is the one of its form. -/
theorem memElem_eq_elemOf (v : VEnv) (f : VM) (form e : Nat) : v.memElem f form [] e = elemOf v f form e := by
  unfold VEnv.memElem elemOf elemAddress
  by_cases h0 : form = 0
  · simp only [h0, ↓reduceIte]
    rfl
  · by_cases h1 : form = 1
    · simp only [h1, ↓reduceIte]
      rfl
    · simp only [h0, h1, ↓reduceIte]
      rfl

/-! ## What a store logs -/

/-- A slot that stores the bits of elements at their places, and nothing else. -/
def storedAt (els : List Elem) (r : Elem → List Loc) (val : Elem → Nat) : VAcc :=
  { log := { mems := els.flatMap fun x => memWrites x (r x) (val x) } }

/-- A store whose sources and places hold no poison logs the bits of each of its elements. -/
theorem VEnv.storeAcc_clean {v : VEnv} (h : v.s.slicePoison = []) {els : List Elem} {r : Elem → List Loc}
    (hloc : ∀ x ∈ els, ∀ b ∈ r x, v.s.locPoison b = false) (val : Elem → Nat) (srcs : Nat → List (Opnd × Nat)) :
    v.storeAcc none (els.map fun x => (x, r x, val x)) srcs = storedAt els r val := by
  unfold VEnv.storeAcc
  extract_lets w bad
  have hpart : ∀ x ∈ els, VEnv.storeAcc.part v w (x, r x, val x) = none := fun x hx =>
    Option.map_eq_none_iff.2 (List.find?_eq_none.2 fun b hb => by simp [hloc x hx b hb])
  have hbad : (els.map fun x => (x, r x, val x)).filterMap bad = [] := by
    rw [List.filterMap_map]
    exact List.filterMap_eq_nil_iff.2 fun x hx => by
      simp only [bad, Function.comp_apply, VEnv.poisonCheck_clean h, hpart x hx]
  rw [hbad]
  simp only [w, List.flatMap_map]
  rfl

/-! ## Slots -/

section
variable {s s' : State} {cv : Convoy} {i : Instr} {f : VM} {form cls : Nat} {els : List Elem} {r : Elem → List Loc} {kind : AccKind}
  {space : Bool}

theorem State.vstore_eq (hs : openSlot s cv) (hi : asRun i = i)
    (h : placesOf s s' 1 f.space form f.cls.toNat (((slotEnv s cv).actives f.pred).map (elemOf (slotEnv s cv) f form)) r) :
    s.vstore i f form = .next (slotRanIn s s' cv i (storedAt
      (((slotEnv s cv).actives f.pred).map (elemOf (slotEnv s cv) f form)) r fun x => (slotEnv s cv).get f.data x.e)) := by
  obtain ⟨hres, hslice, -, -, hloc⟩ := h
  refine congrArg Host.Outcome.next (State.runSlot_done hs.1 hi ?_)
  have hels : (slotEnv s cv).memElem f form [] = elemOf (slotEnv s cv) f form := funext fun e => memElem_eq_elemOf _ f form e
  rw [hels]
  change SlotRes.ofRes (s.resolve s.me 1 f.space form f.cls.toNat _ _) _ = _
  rw [hres]
  exact congrArg (SlotRes.done · s') (VEnv.storeAcc_clean (v := { slotEnv s cv with s := s' }) hslice hloc _ _)

theorem exec_vspill (hs : openSlot s cv)
    (h : placesOf s s' 1 f.space 0 f.cls.toNat ((List.range (slotEnv s cv).L).map ((slotEnv s cv).laneElem f)) r) :
    exec (.vspill f) s = .next (slotRanIn s s' cv (.vspill f) (storedAt
      ((List.range (slotEnv s cv).L).map ((slotEnv s cv).laneElem f)) r fun x => (slotEnv s cv).spillBits f x.e)) := by
  obtain ⟨hres, hslice, -, -, hloc⟩ := h
  refine congrArg Host.Outcome.next (State.runSlot_done hs.1 rfl ?_)
  change SlotRes.ofRes (s.resolve s.me 1 f.space 0 f.cls.toNat _ _) _ = _
  have hue : (List.range (slotEnv s cv).L).findSome? (fun i => ((slotEnv s cv).poisonFrom ((slotEnv s cv).sliceKey i f.data.s)
      (f.idx.toNat % 1024 + 1)).map fun k => (i, hwUeSlice k)) = none :=
    List.findSome?_eq_none_iff.2 fun i _ => by rw [VEnv.poisonFrom_clean hs.2]; rfl
  have hacc := VEnv.storeAcc_clean (v := { slotEnv s cv with s := s' }) hslice hloc
    (fun x => (slotEnv s cv).spillBits f x.e) fun _ => []
  rw [hres]
  unfold SlotRes.ofRes
  dsimp only
  rw [hue, hacc]
  rfl

/-- The first lane that vfill cannot fill: none where neither its bytes nor its slices hold poison. -/
theorem exec_vfill (hs : openSlot s cv)
    (h : placesOf s s' 0 f.space 0 f.cls.toNat ((List.range (slotEnv s cv).L).map ((slotEnv s cv).laneElem f)) r) :
    let els := (List.range (slotEnv s cv).L).map ((slotEnv s cv).laneElem f)
    let v' : VEnv := { slotEnv s cv with s := s'.beforeLoad s.me f.cls.toNat els }
    exec (.vfill f) s = .next (slotRanIn s (readIn s' s.me f.cls.toNat els) cv (.vfill f)
      { log := { fill := els.flatMap fun x => v'.fillWords f x (v'.loadBits f.cls.toNat x (r x)) } }) := by
  intro els v'
  obtain ⟨hres, -, -, -, hloc⟩ := h
  refine congrArg Host.Outcome.next (State.runSlot_done hs.1 rfl ?_)
  change SlotRes.ofRes (s.resolve s.me 0 f.space 0 f.cls.toNat els els) _ = _
  rw [hres]
  unfold SlotRes.ofRes
  dsimp only
  rw [List.findSome?_eq_none_iff.2 fun x hx => ?_]
  · rfl
  · have hfind : (r x).find? s'.locPoison = none := List.find?_eq_none.2 fun b hb => by simp [hloc x hx b hb]
    have hclean : (slotEnv s cv).s.slicePoison = [] := hs.2
    have hrows : ∀ n, (List.range n).find? (fun _ => false) = none := fun n => List.find?_eq_none.2 fun _ _ => Bool.false_ne_true
    simp [hfind, hclean, hrows]

end

/-! ## Reads where no write is on its way -/

theorem readIn_settled {s : State} (h : s.writes = []) (c : Ctx) (cls : Nat) (els : List Elem) : readIn s c cls els = s := by
  simp [readIn, State.beforeLoad, State.afterLoad, h]

theorem State.beforeLoad_settled {s : State} (h : s.writes = []) (c : Ctx) (cls : Nat) (els : List Elem) :
    s.beforeLoad c cls els = s := by
  simp [State.beforeLoad, h]

theorem VEnv.loadBits_settled {v : VEnv} (h : v.s.writes = []) (cls : Nat) (x : Elem) (l : List Loc) :
    v.loadBits cls x l = v.memBits [] x l := by
  simp only [VEnv.loadBits, VEnv.loadBitsAt, State.seenByte_none h]
  rfl

/-! ## The bytes after a retirement -/

/-- Two states hold the same bytes and have the same counters enabled. -/
def State.SameBytes (s t : State) : Prop := t.mem = s.mem ∧ t.sp = s.sp ∧ t.perf = s.perf

theorem State.SameBytes.refl (s : State) : s.SameBytes s := ⟨rfl, rfl, rfl⟩

theorem State.SameBytes.trans {s t u : State} (h : s.SameBytes t) (g : t.SameBytes u) : s.SameBytes u :=
  ⟨g.1.trans h.1, g.2.1.trans h.2.1, g.2.2.trans h.2.2⟩

theorem State.SameBytes.locByte {s t : State} (h : s.SameBytes t) (l : Loc) : t.locByte l = s.locByte l := by
  obtain ⟨hmem, hsp, -⟩ := h
  simp only [State.locByte, hmem, hsp]

theorem State.SameBytes.foldl {α : Type} {f : State → α → State} (hf : ∀ (s : State) (a : α), s.SameBytes (f s a)) :
    ∀ (l : List α) (s : State), s.SameBytes (l.foldl f s)
  | [], s => .refl s
  | a :: l, s => (hf s a).trans (State.SameBytes.foldl hf l (f s a))

theorem State.putRows_sameBytes (s : State) (logs : List SlotLog) : s.SameBytes (s.putRows logs) := ⟨rfl, rfl, rfl⟩

theorem State.applyTile_sameBytes (s : State) (n : Nat) (w : TileWrite) : s.SameBytes (s.applyTile n w) := by
  cases w <;> exact ⟨rfl, rfl, rfl⟩

theorem State.applyTiles_sameBytes (s : State) (n : Nat) (l : List TileWrite) : s.SameBytes (s.applyTiles n l) :=
  State.SameBytes.trans (.foldl (fun s w => s.applyTile_sameBytes n w) l s) ⟨rfl, rfl, rfl⟩

theorem State.setSpcfg_sameBytes (s : State) (c : Ctx) (v : Word) : s.SameBytes (s.setSpcfg c v) :=
  .foldl (f := fun s cl => s.setCl cl { s.clAt cl with spcfg := v }) (fun _ _ => ⟨rfl, rfl, rfl⟩) c.clusters s

theorem State.commitChans_none (n : Nat) (c : Ctx) : ∀ (logs : List SlotLog) (s : State),
    (∀ g ∈ logs, g.push = none ∧ g.pop = none) → s.commitChans n c logs = s
  | [], _, _ => rfl
  | g :: logs, s, h => by
    obtain ⟨⟨hpush, hpop⟩, hrest⟩ := List.forall_mem_cons.1 h
    have ih := State.commitChans_none n c logs s hrest
    unfold State.commitChans at ih ⊢
    simp only [List.foldl_cons, hpush, hpop]
    exact ih

theorem State.putUnits_sameBytes (s : State) (n : Nat) (c : Ctx) {logs : List SlotLog}
    (h : ∀ g ∈ logs, g.push = none ∧ g.pop = none) : s.SameBytes (s.putUnits n c logs) := by
  unfold State.putUnits
  rw [s.commitChans_none n c logs h]
  dsimp only
  split
  · exact (s.applyTiles_sameBytes n _).trans (State.setSpcfg_sameBytes _ c _)
  · exact s.applyTiles_sameBytes n _

theorem State.chansHold_none (s : State) (c : Ctx) {logs : List SlotLog} (h : ∀ g ∈ logs, g.push = none ∧ g.pop = none) :
    s.chansHold c logs = true :=
  List.all_eq_true.2 fun g hg => by simp [h g hg]

end Sys2Proof.Machine

namespace Sys2Proof.Proofs

open Sys2Proof Sys2Proof.Machine Sys2Proof.Claims

/-- Settles O31: a store logs its writes where nothing that it touches is poisoned, and of a retirement only its stores change
bytes. -/
theorem vectorStores : Obligations.VectorStores := by
  unfold Obligations.VectorStores
  refine ⟨fun s s' cv i f form r hs => ⟨fun hi h => ?_, fun h => exec_vspill hs h, fun h => exec_vfill hs h, fun h => ⟨?_, ?_⟩⟩,
    fun s n cv hviq htodo hwhole hfault hlogs hperf hcells => ?_⟩
  · cases i <;> cases hi <;> exact State.vstore_eq hs rfl h
  · exact readIn_settled h _ _ _
  · intro x l
    rw [State.beforeLoad_settled h]
    exact VEnv.loadBits_settled h _ x l
  · have hchans : ∀ g ∈ cv.logs, g.push = none ∧ g.pop = none := fun g hg => (hlogs g hg).2
    obtain ⟨c, hpc, heq⟩ := State.retireOk_ends (s := s) (n := n) (cv := cv) (fun g hg => (hlogs g hg).1)
      (s.chansHold_none _ hchans)
    refine ⟨_, (exec_convoyRetire_ok hviq htodo hwhole hfault).trans (congrArg _ heq), ?_, fun l => ?_⟩
    · rw [State.ctxAt_setCtx_same, hpc]
    · have hunits := (State.putRows_sameBytes (s.storeAll (s.ctxAt n) cv.logs fun _ => true) cv.logs).trans
        (State.putUnits_sameBytes _ n (s.ctxAt n) hchans)
      rw [State.countRows_none]
      · refine (hunits.locByte l).trans ((State.storeAll_locByte (s.ctxAt n) (fun _ => true) l cv.logs hcells).trans ?_)
        rw [List.filter_true]
      · obtain ⟨-, -, hp⟩ := hunits
        rw [hp, s.storeAll_storesOnly]
        exact hperf

end Sys2Proof.Proofs
end


section
/-! Frames of what a convoy with a fault does (R122 to R124): counters and their records, the stores that it may have
performed, and the entry of its trap. -/

namespace Sys2Proof.Machine

open Sys2Proof.Claims

/-! ## Counters and records -/

/-- A state differs from another at most in its counters, in its fault records, and in the memory to which they go. -/
def State.PostsOnly (s t : State) : Prop := t = { s with
  perf := t.perf, seq := t.seq, fq := t.fq, ctl := t.ctl
  mem := t.mem, home := t.home, writes := t.writes, memPoison := t.memPoison }

theorem State.PostsOnly.refl (s : State) : s.PostsOnly s := rfl

theorem State.PostsOnly.trans {s t u : State} (h : s.PostsOnly t) (g : t.PostsOnly u) : s.PostsOnly u := by
  unfold State.PostsOnly at h g ⊢
  rw [h] at g
  exact g

theorem State.PostsOnly.foldl {α : Type} {f : State → α → State} (hf : ∀ (s : State) (a : α), s.PostsOnly (f s a)) :
    ∀ (l : List α) (s : State), s.PostsOnly (l.foldl f s)
  | [], s => .refl s
  | a :: l, s => (hf s a).trans (State.PostsOnly.foldl hf l (f s a))

theorem State.writeBytes_postsOnly : ∀ (l : List Byte) (s : State) (pa : Nat), s.PostsOnly (s.writeBytes pa l)
  | [], s, _ => .refl s
  | b :: l, s, pa => State.PostsOnly.trans (t := s.writeByte pa b) rfl (State.writeBytes_postsOnly l _ _)

theorem State.fqWrite_postsOnly (s : State) (r : FqRec) : s.PostsOnly (s.fqWrite r) := by
  have hwritten := State.writeBytes_postsOnly (fqBytes r) s s.fqPa
  unfold State.fqWrite State.writePhys
  generalize s.writeBytes s.fqPa (fqBytes r) = t at hwritten
  exact hwritten.trans rfl

theorem State.post_postsOnly (s : State) (r : FqRec) : s.PostsOnly (s.post r) := by
  have hseq : s.PostsOnly { s with seq := s.seq + 1 } := rfl
  unfold State.post
  dsimp only
  split
  · exact hseq.trans (State.fqWrite_postsOnly _ _)
  · split <;> rfl

theorem State.perf1_postsOnly (s : State) (block code : Nat) (pasids : List Word) (n i : Nat) :
    s.PostsOnly (s.perf1 block code pasids n i) := by
  have hperf : ∀ (s : State) (m : SMap Word), s.PostsOnly { s with perf := m } := fun s m => rfl
  unfold State.perf1 State.perfAdd
  dsimp only
  split
  · split
    · exact hperf s _
    · split
      · exact ((hperf s _).trans (hperf _ _)).trans (State.post_postsOnly _ _)
      · exact (hperf s _).trans (hperf _ _)
  · exact .refl s

theorem State.perfCount_postsOnly (s : State) (block code : Nat) (pasid : Option Word) (n : Nat) :
    s.PostsOnly (s.perfCount block code pasid n) := by
  unfold State.perfCount State.perfCountOf
  split
  · exact .refl s
  · exact .foldl (fun s i => s.perf1_postsOnly _ _ _ _ i) _ s

theorem State.countRows_postsOnly (s : State) (c : Ctx) (cv : Convoy) (done : Nat → Bool) :
    s.PostsOnly (s.countRows c cv done) := by
  unfold State.countRows
  split
  · exact .refl s
  · exact .foldl (fun s cl => (s.perfCount_postsOnly _ _ _ _).trans (State.perfCount_postsOnly _ _ _ _ _)) _ s

/-! ## The entry of a trap -/

theorem State.enterTrap_outsideGang {s : State} {n : Nat} {t : TrapInfo} (h : plainMode (s.ctxAt n))
    (hc : t.cause ≠ causeHwUe ∨ (s.ctxAt n).record.gang ≤ 1) (epc : Word) : s.enterTrap n t epc = trappedIn s n t epc := by
  unfold State.enterTrap
  rw [if_neg fun hue => hc.elim (· hue.1) (Nat.not_le.2 hue.2)]
  exact State.enterPlain_eq_trappedIn h t epc

theorem State.fenceAt_onlyOrder (s : State) (n : Nat) (mask : BitVec 16) (scope : Nat) :
    let u := s.fenceAt n mask scope
    u = { s with ctxs := u.ctxs, writes := u.writes, moment := u.moment } ∧
      u.ctxAt n = { s.ctxAt n with order := (u.ctxAt n).order } ∧ ∀ m, m ≠ n → u.ctxAt m = s.ctxAt m := by
  intro u
  unfold u State.fenceAt
  split
  · exact ⟨rfl, rfl, fun _ _ => rfl⟩
  · dsimp only
    refine ⟨?_, ?_, fun m hm => ?_⟩
    · rw [s.performWith_sameBut]
      rfl
    · rw [State.ctxAt_setCtx_same, s.performWith_sameBut]
    · rw [State.ctxAt_setCtx_other _ hm, s.performWith_sameBut]
      rfl

theorem trappedIn_onlyCtxs (s : State) (n : Nat) (t : TrapInfo) (epc : Word) :
    let u := trappedIn s n t epc
    u = { s with ctxs := u.ctxs, writes := u.writes, moment := u.moment } := by
  intro u
  obtain ⟨hf, -, -⟩ := s.fenceAt_onlyOrder n 0xFFFF 0
  unfold u trappedIn
  dsimp only
  rw [hf]
  rfl

theorem trappedIn_ctxAt_same (s : State) (n : Nat) (t : TrapInfo) (epc : Word) :
    (trappedIn s n t epc).ctxAt n =
      { entered (s.ctxAt n) t epc with order := ((trappedIn s n t epc).ctxAt n).order } := by
  obtain ⟨-, hf, -⟩ := s.fenceAt_onlyOrder n 0xFFFF 0
  unfold trappedIn
  dsimp only
  rw [State.ctxAt_setCtx_same, hf]
  rfl

theorem trappedIn_ctxAt_other (s : State) {n m : Nat} (h : m ≠ n) (t : TrapInfo) (epc : Word) :
    (trappedIn s n t epc).ctxAt m = s.ctxAt m := by
  obtain ⟨-, -, hf⟩ := s.fenceAt_onlyOrder n 0xFFFF 0
  exact (State.ctxAt_setCtx_other _ h _).trans (hf m h)

/-! ## Stores that may have been performed -/

/-- A state differs from another at most by stores, and by the free bits that chose them. -/
def State.Strays (s t : State) : Prop := t = { s with
  free := t.free, mem := t.mem, sp := t.sp, home := t.home, memPoison := t.memPoison, spPoison := t.spPoison
  writes := t.writes, moment := t.moment, lags := t.lags }

theorem State.Strays.refl (s : State) : s.Strays s := rfl

theorem State.Strays.trans {s t u : State} (h : s.Strays t) (g : t.Strays u) : s.Strays u := by
  unfold State.Strays at h g ⊢
  rw [h] at g
  exact g

theorem State.StoresOnly.strays {s t : State} (h : s.StoresOnly t) : s.Strays t := by
  unfold State.StoresOnly at h
  rw [h]
  rfl

theorem State.Strays.ctxAt {s t : State} (h : s.Strays t) (n : Nat) : t.ctxAt n = s.ctxAt n := by
  rw [h]
  rfl

/-- The choice of elements takes one free bit for each. -/
theorem State.someElems_state : ∀ (l : List Nat) (s : State), (s.someElems l).2 = { s with free := s.free + l.length }
  | [], _ => rfl
  | e :: l, s => by
    unfold State.someElems
    dsimp only
    rw [State.someElems_state l]
    simp only [List.length_cons, Nat.add_assoc, Nat.add_comm 1]

theorem State.mem_of_someElems {e : Nat} : ∀ (l : List Nat) (s : State), e ∈ (s.someElems l).1 → e ∈ l
  | [], _, h => h
  | x :: l, s, h => by
    have ih := State.mem_of_someElems (e := e) l { s with free := s.free + 1 }
    unfold State.someElems at h
    dsimp only at h
    split at h
    · exact (List.mem_cons.1 h).elim (fun h => h ▸ List.mem_cons_self) fun h => List.mem_cons_of_mem _ (ih h)
    · exact List.mem_cons_of_mem _ (ih h)

theorem State.storeMems_congr (s : State) (c : Ctx) {g : SlotLog} {p q : Nat → Bool} (h : ∀ m ∈ g.mems, p m.elem = q m.elem) :
    s.storeMems c g p = s.storeMems c g q := by
  have hl : (g.mems.filter fun m => p m.elem) = g.mems.filter fun m => q m.elem := List.filter_congr h
  unfold State.storeMems
  rw [hl]

/-- The stores of a slot that does not commit. -/
def State.strayStore (s : State) (c : Ctx) (g : SlotLog) : State := s.strayStores c [g]

theorem State.strayStores_cons (s : State) (c : Ctx) (g : SlotLog) (logs : List SlotLog) :
    s.strayStores c (g :: logs) = (s.strayStore c g).strayStores c logs := rfl

/-- A slot that does not commit performs some of its stores; of a vspill, those of the lanes below its faulting one, and not
that one's own. -/
theorem State.strayStore_eq (s : State) (c : Ctx) (g : SlotLog) : ∃ (m : Nat) (keep : Nat → Bool),
    (∀ b, g.spillAt = some b → keep b = false ∧ ∀ e, e < b → keep e = true) ∧
    s.strayStore c g = ({ s with free := m } : State).storeMems c g keep := by
  unfold State.strayStore State.strayStores
  rw [List.foldl_cons, List.foldl_nil]
  dsimp only
  cases hspill : g.spillAt with
  | none =>
    dsimp only
    rw [State.someElems_state]
    exact ⟨_, _, nofun, rfl⟩
  | some b =>
    dsimp only
    generalize hels : (g.mems.map MemWrite.elem).eraseDups = els
    generalize hmaybe : els.filter (fun e => decide (b < e)) = maybe
    rw [State.someElems_state]
    refine ⟨_, fun e => decide (e < b) || (s.someElems maybe).1.contains e, fun x hx => ?_, State.storeMems_congr _ c fun m hm => ?_⟩
    · cases hx
      refine ⟨?_, fun e he => by simp [he]⟩
      have hno : b ∉ (s.someElems maybe).1 := fun h => by
        have := State.mem_of_someElems _ _ h
        rw [← hmaybe] at this
        simp at this
      simp [hno]
    · have hmem : m.elem ∈ els := by
        rw [← hels]
        exact List.mem_eraseDups.2 (List.mem_map_of_mem hm)
      simp [hmem]

theorem State.strayStore_strays (s : State) (c : Ctx) (g : SlotLog) : s.Strays (s.strayStore c g) := by
  obtain ⟨m, keep, -, heq⟩ := s.strayStore_eq c g
  rw [heq]
  exact State.Strays.trans (t := { s with free := m }) rfl (State.storeMems_storesOnly _ c g keep).strays

theorem State.strayStores_strays (c : Ctx) : ∀ (logs : List SlotLog) (s : State), s.Strays (s.strayStores c logs)
  | [], s => .refl s
  | g :: logs, s => (s.strayStore_strays c g).trans (State.strayStores_strays c logs _)

theorem State.strayStores_locByte (c : Ctx) : ∀ (logs : List SlotLog) (i : Nat) {s : State}, cellsOk s →
    ∃ keep : Nat → Nat → Bool,
      (∀ p ∈ logs.zipIdx i, ∀ b, p.1.spillAt = some b → keep p.2 b = false ∧ ∀ e, e < b → keep p.2 e = true) ∧
      ∀ l : Loc, (s.strayStores c logs).locByte l =
        overlay ((logs.zipIdx i).flatMap fun p => p.1.mems.filter fun m => keep p.2 m.elem) l (s.locByte l)
  | [], _, _, _ => ⟨fun _ _ => false, nofun, fun _ => rfl⟩
  | g :: logs, i, s, hs => by
    obtain ⟨m, first, hspill, heq⟩ := s.strayStore_eq c g
    have hfree : cellsOk ({ s with free := m } : State) := hs
    have hnext : cellsOk (s.strayStore c g) := heq ▸ State.storeMems_cellsOk hfree c g first
    obtain ⟨rest, hrest, hbytes⟩ := State.strayStores_locByte c logs (i + 1) hnext
    have hlater : ∀ p ∈ logs.zipIdx (i + 1), p.2 ≠ i := fun p hp => by
      have := List.le_snd_of_mem_zipIdx hp
      omega
    refine ⟨fun j => if j = i then first else rest j, fun p hp => ?_, fun l => ?_⟩
    · rw [List.zipIdx_cons] at hp
      obtain rfl | hp := List.mem_cons.1 hp
      · simpa using hspill
      · simpa [hlater p hp] using hrest p hp
    · have hcongr : ((logs.zipIdx (i + 1)).flatMap fun p => p.1.mems.filter fun m => (if p.2 = i then first else rest p.2) m.elem) =
          (logs.zipIdx (i + 1)).flatMap fun p => p.1.mems.filter fun m => rest p.2 m.elem := by
        simp only [List.flatMap]
        congr 1
        exact List.map_congr_left fun p hp => by simp [hlater p hp]
      rw [State.strayStores_cons, hbytes, heq, State.storeMems_locByte hfree, List.zipIdx_cons, List.flatMap_cons, overlay_append, hcongr]
      simp only [↓reduceIte]
      rfl

end Sys2Proof.Machine
end


section
/-! A convoy with a fault at its retirement (R122 to R124, R163), and O30. -/

namespace Sys2Proof.Machine

open Sys2Proof.Claims

/-! ## VDIRTY, FCSR and EFC -/

/-- A word that gathers the bits of the members of a list that a test admits. -/
theorem foldl_or_getLsbD {α : Type} (p : α → Bool) (f : α → Word) (b : Nat) : ∀ (l : List α) (w : Word),
    (l.foldl (fun w x => if p x then w ||| f x else w) w).getLsbD b = true ↔
      w.getLsbD b = true ∨ ∃ x ∈ l, p x = true ∧ (f x).getLsbD b = true
  | [], w => by simp
  | x :: l, w => by
    rw [List.foldl_cons, foldl_or_getLsbD p f b l]
    by_cases hp : p x = true <;> simp [hp, or_assoc]

/-- The blocks of 64 slices that a run of slices touches. -/
theorem blockBits_getLsbD {b : Nat} (hb : b < 64) (a n : Nat) :
    (blockBits a n).getLsbD b = true ↔ 0 < n ∧ a / 64 ≤ b ∧ b ≤ (a + n - 1) / 64 := by
  have hbit : ∀ i, (BitVec.ofNat 64 (2 ^ (a / 64 + i))).getLsbD b = true ↔ a / 64 + i = b := fun i => by
    rw [BitVec.getLsbD_ofNat, Nat.testBit_two_pow]
    simp [hb]
  have hzero : (0 : Word).getLsbD b = false := BitVec.getLsbD_zero
  unfold blockBits
  split
  next hn => simp [hn]
  next hn =>
    refine (foldl_or_getLsbD (fun _ => true) (fun i => BitVec.ofNat 64 (2 ^ (a / 64 + i))) b _ 0).trans ?_
    simp only [hbit, hzero, List.mem_range, Bool.false_eq_true, false_or, true_and]
    have hle : a / 64 ≤ (a + n - 1) / 64 := Nat.div_le_div_right (by omega)
    exact ⟨fun ⟨i, hi, he⟩ => ⟨by omega, by omega, by omega⟩, fun ⟨_, hlo, hhi⟩ => ⟨b - a / 64, by omega, by omega⟩⟩

/-- The block of VDIRTY that the admitted rows of a convoy touch. -/
theorem dirtyBits_getLsbD {b : Nat} (hb : b < 64) (logs : List SlotLog) (row : Nat → Bool) :
    (dirtyBits logs row false).getLsbD b = true ↔ ∃ r ∈ logs.flatMap SlotLog.rows, row r.1 = true ∧
      0 < r.2.2 ∧ r.2.1 / 64 ≤ b ∧ b ≤ (r.2.1 + r.2.2 - 1) / 64 := by
  have h := foldl_or_getLsbD (fun r : Nat × Nat × Nat => row r.1) (fun r => blockBits r.2.1 r.2.2) b (logs.flatMap SlotLog.rows) 0
  have hzero : (0 : Word).getLsbD b = false := BitVec.getLsbD_zero
  simp only [hzero, Bool.false_eq_true, false_or, blockBits_getLsbD hb] at h
  exact h

theorem foldl_merge_eq (p : Nat → Bool) : ∀ (l : List (Nat × FpFlags)) (c : Ctx),
    l.foldl (fun c f => if p f.1 then c.merge f.2 else c) c =
      { c with fcsr := (l.filter fun f => p f.1).foldl (fun w f => w ||| f.2.setWidth 64) c.fcsr }
  | [], _ => rfl
  | f :: l, c => by
    rw [List.foldl_cons, foldl_merge_eq p l, List.filter_cons]
    split <;> rfl

/-- The flags and the carry of the committed elements, in the words of the statement. -/
theorem Ctx.commitFlags_eq (c : Ctx) (logs : List SlotLog) (below : Nat → Bool) : c.commitFlags logs below = { c with
    fcsr := ((logs.flatMap SlotLog.flags).filter fun f => below f.1).foldl (fun w f => w ||| f.2.setWidth 64) c.fcsr
    efc := (match ((logs.flatMap SlotLog.efc).filter fun f => below f.1).getLast? with
      | some f => f.2.setWidth 64
      | none => c.efc) } := by
  unfold Ctx.commitFlags
  rw [foldl_merge_eq]
  generalize ((logs.flatMap SlotLog.efc).filter fun f => below f.1).getLast? = last
  cases last <;> rfl

/-! ## Stores and updates -/

theorem State.storeMems_nil {s : State} (hw : s.writes = []) (hl : s.lags = []) (c : Ctx) {g : SlotLog} (hg : g.mems = [])
    (keep : Nat → Bool) : s.storeMems c g keep = s := by
  have hcover : ∀ b w, coversWord [] b w = false := fun b w => by simp [coversWord]; exact ⟨0, by decide⟩
  have hput : s.putMems [] = s := by simp [State.putMems, hcover]
  unfold State.storeMems
  simp [hg, hput, hw, hl]

theorem State.storeAll_nil {s : State} (hw : s.writes = []) (hl : s.lags = []) (c : Ctx) (keep : Nat → Bool) :
    ∀ {logs : List SlotLog}, (∀ g ∈ logs, g.mems = []) → s.storeAll c logs keep = s
  | [], _ => rfl
  | g :: logs, h => by
    obtain ⟨hg, hrest⟩ := List.forall_mem_cons.1 h
    have ih := State.storeAll_nil hw hl c keep hrest
    unfold State.storeAll at ih ⊢
    rw [List.foldl_cons, State.storeMems_nil hw hl c hg, ih]

theorem State.foldl_setLoc_free (f : Nat) : ∀ (l : List (Loc × Byte)) (s : State),
    l.foldl (fun s p => s.setLoc p.1 p.2) { s with free := f } = { l.foldl (fun s p => s.setLoc p.1 p.2) s with free := f }
  | [], _ => rfl
  | p :: l, s => by
    have hset : ({ s with free := f } : State).setLoc p.1 p.2 = { s.setLoc p.1 p.2 with free := f } := by
      unfold State.setLoc
      split <;> rfl
    rw [List.foldl_cons, List.foldl_cons, hset, State.foldl_setLoc_free f l]

/-- Updates do not look at the free bits that are left. -/
theorem State.putAmo_free (f : Nat) (s : State) (a : AmoWrite) :
    ({ s with free := f } : State).putAmo a = { s.putAmo a with free := f } := State.foldl_setLoc_free f _ s

theorem State.putAmos_free (f : Nat) : ∀ (l : List AmoWrite) (s : State),
    ({ s with free := f } : State).putAmos l = (s.putAmos l).map fun t => { t with free := f }
  | [], _ => rfl
  | a :: l, s => by
    unfold State.putAmos
    rw [State.putAmo_free, State.putAmos_free f l, show ({ s with free := f } : State).amoOld a = s.amoOld a from rfl]
    by_cases h : s.amoOld a = a.old
    · rw [if_pos h, if_pos h]
    · rw [if_neg h, if_neg h]
      rfl

theorem State.foldl_putAmo_free (f : Nat) : ∀ (l : List AmoWrite) (s : State),
    l.foldl State.putAmo { s with free := f } = { l.foldl State.putAmo s with free := f }
  | [], _ => rfl
  | a :: l, s => by rw [List.foldl_cons, List.foldl_cons, State.putAmo_free, State.foldl_putAmo_free f l]

theorem State.putAmo_storesOnly (s : State) (a : AmoWrite) : s.StoresOnly (s.putAmo a) :=
  .foldl (f := fun s (p : Loc × Byte) => s.setLoc p.1 p.2) (fun s p => s.setLoc_storesOnly p.1 p.2) _ s

theorem State.putAmos_storesOnly : ∀ (l : List AmoWrite) {s t : State}, s.putAmos l = some t → s.StoresOnly t
  | [], _, _, h => by cases h; exact .refl _
  | a :: l, s, t, h => by
    unfold State.putAmos at h
    split at h
    · exact (s.putAmo_storesOnly a).trans (State.putAmos_storesOnly l h)
    · cases h

/-! ## A convoy with an element fault -/

/-- The rows, flags and carry of the elements below a fault are committed, and its trap is entered. -/
def State.commitBelow (s : State) (n k : Nat) (c : Ctx) (cv : Convoy) (t : TrapInfo) : State :=
  let below := fun e => decide (e < k)
  let s1 := s.putSlices ((commitSlices cv.logs below).map fun w => (w.key, w.val))
  let s1 := (s1.putPreds (commitPreds cv.logs below)).countRows c cv fun r => decide ((r + 1) * c.lanes ≤ k)
  let c := s1.ctxAt n
  let L := c.lanes
  let c := c.commitFlags cv.logs below
  let rows := fun r => decide (r * L < k) && decide (cv.vstart < k)
  let c := c.markDirty (dirtyBits cv.logs rows false)
  let s1 := s1.setCtx n { c with vstart := BitVec.ofNat 64 k, eelem := BitVec.ofNat 64 k }
  s1.enterTrap n { t with elem := some k } cv.epc

/-- The elements not below the fault whose stores and updates are performed all the same (log entry 47). -/
def State.faultChoice (s : State) (k : Nat) (cv : Convoy) (t : TrapInfo) : List Nat × State :=
  let same := t.sub.toNat / 512 == memSlot cv.logs
  s.someElems ((((cv.logs.flatMap SlotLog.mems).map MemWrite.elem ++ (cv.logs.flatMap SlotLog.amos).map AmoWrite.elem).filter
    fun e => decide (k < e) || (e == k && !same)).eraseDups)

/-- The elements whose stores and updates a convoy with a fault performs. -/
def State.faultKeep (s : State) (k : Nat) (cv : Convoy) (t : TrapInfo) (e : Nat) : Bool :=
  decide (e < k) || (s.faultChoice k cv t).1.contains e

section
variable {s : State} {n k : Nat} {cv : Convoy} {t : TrapInfo}

theorem State.faultKeep_below {e : Nat} (h : e < k) : s.faultKeep k cv t e = true := by simp [State.faultKeep, h]

theorem State.faultKeep_same (h : t.sub.toNat / 512 = memSlot cv.logs) : s.faultKeep k cv t k = false := by
  have hno : k ∉ (s.faultChoice k cv t).1 := fun hk => by
    have := State.mem_of_someElems _ _ hk
    simp [h] at this
  simp [State.faultKeep, hno]

theorem State.faultChoice_state : ∃ f, (s.faultChoice k cv t).2 = { s with free := f } := ⟨_, State.someElems_state _ s⟩

/-- What is performed of a convoy with a fault: its stores, then its updates below the fault, which meet the old values that
its slot took, and then those others that are chosen. -/
theorem State.retireElem_cases {P s1 : State}
    (hP : ((s.faultChoice k cv t).2.storeAll (s.ctxAt n) cv.logs (s.faultKeep k cv t)).beforeAmos (s.ctxAt n) cv.logs = P)
    (hs1 : P.putAmos ((cv.logs.flatMap SlotLog.amos).filter fun a => decide (a.elem < k)) = some s1) :
    s.retireElem n cv k t = (P.noteAmos (((cv.logs.flatMap SlotLog.amos).filter fun a =>
      !decide (a.elem < k) && (s.faultChoice k cv t).1.contains a.elem).foldl State.putAmo s1) (s.ctxAt n) cv.logs
      (s.faultKeep k cv t)).commitBelow n k (s.ctxAt n) cv t := by
  subst hP
  unfold State.retireElem
  extract_lets below same mems amos up r keep s0
  have hs0 : s0.putAmos (amos.filter fun a => below a.elem) = some s1 := hs1
  rw [hs0]
  rfl

/-- A convoy without updates performs the stores of the elements that it keeps. -/
theorem State.retireElem_stores (hamos : cv.logs.flatMap SlotLog.amos = []) : ∃ m : State, s.Strays m ∧
    s.retireElem n cv k t = m.commitBelow n k (s.ctxAt n) cv t ∧ (cellsOk s → ∀ l, m.locByte l =
      overlay ((cv.logs.flatMap SlotLog.mems).filter fun m => s.faultKeep k cv t m.elem) l (s.locByte l)) := by
  obtain ⟨f, hf⟩ := State.faultChoice_state (s := s) (k := k) (cv := cv) (t := t)
  have heach := List.flatMap_eq_nil_iff.1 hamos
  have heq := State.retireElem_cases (n := n) (k := k) (t := t) (State.beforeAmos_none _ (s.ctxAt n) heach) (by rw [hamos]; rfl)
  rw [hamos, List.filter_nil, List.foldl_nil, State.noteAmos_none _ _ _ heach, hf] at heq
  exact ⟨_, State.Strays.trans (t := { s with free := f }) rfl (State.storeAll_storesOnly _ _ _ _).strays, heq,
    fun hs l => State.storeAll_locByte (s := { s with free := f }) (s.ctxAt n) _ l cv.logs hs⟩

section
variable (hmems : cv.logs.flatMap SlotLog.mems = []) (hw : s.writes = []) (hl : s.lags = [])
include hmems hw hl

/-- Without stores, and with no write on its way, the choice of elements is all that precedes the updates. -/
theorem State.faultStores_nil {f : Nat} (hf : (s.faultChoice k cv t).2 = { s with free := f }) :
    ((s.faultChoice k cv t).2.storeAll (s.ctxAt n) cv.logs (s.faultKeep k cv t)).beforeAmos (s.ctxAt n) cv.logs =
      { s with free := f } := by
  have hw : ({ s with free := f } : State).writes = [] := hw
  rw [hf, State.storeAll_nil hw hl _ _ (List.flatMap_eq_nil_iff.1 hmems), State.beforeAmos_settled hw]

/-- A convoy whose slots update and do not store performs the updates of the elements that it keeps. -/
theorem State.retireElem_updates {s1 : State}
    (hs1 : s.putAmos ((cv.logs.flatMap SlotLog.amos).filter fun a => decide (a.elem < k)) = some s1) :
    ∃ m : State, s.Strays m ∧ s.retireElem n cv k t = m.commitBelow n k (s.ctxAt n) cv t ∧ ∀ l, m.locByte l =
      (((cv.logs.flatMap SlotLog.amos).filter fun a => !decide (a.elem < k) && s.faultKeep k cv t a.elem).foldl
        State.putAmo s1).locByte l := by
  obtain ⟨f, hf⟩ := State.faultChoice_state (s := s) (k := k) (cv := cv) (t := t)
  have hfirst : ({ s with free := f } : State).putAmos ((cv.logs.flatMap SlotLog.amos).filter fun a => decide (a.elem < k)) =
      some { s1 with free := f } := by rw [State.putAmos_free, hs1]; rfl
  have heq := State.retireElem_cases (n := n) (State.faultStores_nil hmems hw hl hf) hfirst
  rw [State.noteAmos_settled (by exact hw), State.foldl_putAmo_free] at heq
  have hkeep : ((cv.logs.flatMap SlotLog.amos).filter fun a => !decide (a.elem < k) && s.faultKeep k cv t a.elem) =
      (cv.logs.flatMap SlotLog.amos).filter fun a => !decide (a.elem < k) && (s.faultChoice k cv t).1.contains a.elem :=
    List.filter_congr fun a _ => by cases h : decide (a.elem < k) <;> simp [State.faultKeep, h]
  have hstores : ∀ l : List AmoWrite, s.Strays { l.foldl State.putAmo s1 with free := f } := fun l =>
    ((State.putAmos_storesOnly _ hs1).trans (.foldl (fun s a => s.putAmo_storesOnly a) l s1)).strays.trans rfl
  exact ⟨_, hstores _, heq, fun l => by rw [hkeep]; rfl⟩

/-- Where an update below the fault meets another old value than its slot took, the convoy is issued again. -/
theorem State.retireElem_again
    (hs1 : s.putAmos ((cv.logs.flatMap SlotLog.amos).filter fun a => decide (a.elem < k)) = none) :
    s.retireElem n cv k t = s.setCtx n { s.ctxAt n with viq := [], queued := [] } := by
  obtain ⟨f, hf⟩ := State.faultChoice_state (s := s) (k := k) (cv := cv) (t := t)
  have hP := State.faultStores_nil (n := n) (k := k) (t := t) hmems hw hl hf
  have hfirst : ({ s with free := f } : State).putAmos ((cv.logs.flatMap SlotLog.amos).filter fun a => decide (a.elem < k)) =
      none := by rw [State.putAmos_free, hs1]; rfl
  unfold State.retireElem
  extract_lets below same mems amos up r keep s0
  have hs0 : s0.putAmos (amos.filter fun a => below a.elem) = none := (congrArg (State.putAmos · _) hP).trans hfirst
  rw [hs0]

end

end

/-! ## The commitment of the elements below a fault -/

/-- The rows of the elements below a fault, committed and counted. -/
def State.rowsBelow (s : State) (k : Nat) (c : Ctx) (cv : Convoy) : State :=
  let below := fun e => decide (e < k)
  let s1 := s.putSlices ((commitSlices cv.logs below).map fun w => (w.key, w.val))
  (s1.putPreds (commitPreds cv.logs below)).countRows c cv fun r => decide ((r + 1) * c.lanes ≤ k)

/-- The blocks that the rows with an element below a fault touch. -/
def dirtyBelow (c : Ctx) (k : Nat) (cv : Convoy) : Word :=
  dirtyBits cv.logs (fun r => decide (r * c.lanes < k) && decide (cv.vstart < k)) false

/-- A context with the flags, the carry and VDIRTY of the elements below a fault, as it enters the trap. -/
def Ctx.faultAt (c : Ctx) (k : Nat) (cv : Convoy) : Ctx :=
  { (c.commitFlags cv.logs fun e => decide (e < k)).markDirty (dirtyBelow c k cv) with
    vstart := BitVec.ofNat 64 k, eelem := BitVec.ofNat 64 k }

section
variable {s : State} {n k : Nat} {c : Ctx} {cv : Convoy} {t : TrapInfo}

theorem State.rowsBelow_ctxAt (n : Nat) : (s.rowsBelow k c cv).ctxAt n = s.ctxAt n := by
  unfold State.rowsBelow
  rw [State.countRows_postsOnly]
  rfl

theorem Ctx.faultAt_eq (c : Ctx) (k : Nat) (cv : Convoy) : c.faultAt k cv = { c with
    vdirty := c.vdirty ||| dirtyBelow c k cv, dirtySince := c.dirtySince ||| dirtyBelow c k cv
    fcsr := (c.commitFlags cv.logs fun e => decide (e < k)).fcsr, efc := (c.commitFlags cv.logs fun e => decide (e < k)).efc
    vstart := BitVec.ofNat 64 k, eelem := BitVec.ofNat 64 k } := by
  unfold Ctx.faultAt
  rw [Ctx.commitFlags_eq]
  rfl

theorem Ctx.faultAt_dirty (c : Ctx) (k : Nat) (cv : Convoy) {b : Nat} (hb : b < 64) :
    let touched := ∃ r ∈ cv.logs.flatMap SlotLog.rows, r.1 * c.lanes < k ∧ cv.vstart < k ∧ 0 < r.2.2 ∧
      r.2.1 / 64 ≤ b ∧ b ≤ (r.2.1 + r.2.2 - 1) / 64
    ((c.faultAt k cv).vdirty.getLsbD b = true ↔ c.vdirty.getLsbD b = true ∨ touched) ∧
      ((c.faultAt k cv).dirtySince.getLsbD b = true ↔ c.dirtySince.getLsbD b = true ∨ touched) := by
  intro touched
  have htouched : (dirtyBelow c k cv).getLsbD b = true ↔ touched := by
    unfold dirtyBelow
    rw [dirtyBits_getLsbD hb]
    simp only [touched, Bool.and_eq_true, decide_eq_true_eq, and_assoc]
  rw [Ctx.faultAt_eq, ← htouched]
  simp

theorem Ctx.faultAt_fcsr (c : Ctx) (k : Nat) (cv : Convoy) : (c.faultAt k cv).fcsr =
    ((cv.logs.flatMap SlotLog.flags).filter fun f => decide (f.1 < k)).foldl (fun w f => w ||| f.2.setWidth 64) c.fcsr := by
  rw [Ctx.faultAt_eq, Ctx.commitFlags_eq]

theorem Ctx.faultAt_efc (c : Ctx) (k : Nat) (cv : Convoy) : (c.faultAt k cv).efc =
    (match ((cv.logs.flatMap SlotLog.efc).filter fun f => decide (f.1 < k)).getLast? with
      | some f => f.2.setWidth 64
      | none => c.efc) := by
  rw [Ctx.faultAt_eq]
  exact congrArg Ctx.efc (c.commitFlags_eq cv.logs fun e => decide (e < k))

theorem State.commitBelow_eq (h : plainMode (s.ctxAt n)) (hc : t.cause ≠ causeHwUe ∨ (s.ctxAt n).record.gang ≤ 1) :
    s.commitBelow n k c cv t =
      trappedIn ((s.rowsBelow k c cv).setCtx n ((s.ctxAt n).faultAt k cv)) n { t with elem := some k } cv.epc := by
  have hctx := s.rowsBelow_ctxAt (k := k) (c := c) (cv := cv) n
  unfold State.rowsBelow at hctx
  unfold State.commitBelow
  dsimp only at hctx ⊢
  rw [hctx]
  refine State.enterTrap_outsideGang ?_ ?_ _
  · rw [State.ctxAt_setCtx_same, Ctx.commitFlags_eq]
    exact h
  · rw [State.ctxAt_setCtx_same, Ctx.commitFlags_eq]
    exact hc

theorem State.rowsBelow_fields (s : State) (k : Nat) (c : Ctx) (cv : Convoy) :
    let u := s.rowsBelow k c cv
    u.slices = slicesAfter s.slices (commitSlices cv.logs fun e => decide (e < k)) ∧
      u.preds = predsAfter s.preds (commitPreds cv.logs fun e => decide (e < k)) ∧
      u.tiles = s.tiles ∧ u.idxs = s.idxs ∧ u.accs = s.accs ∧ u.clusters = s.clusters := by
  intro u
  unfold u State.rowsBelow
  rw [State.countRows_postsOnly]
  refine ⟨?_, rfl, rfl, rfl, rfl, rfl⟩
  exact List.foldl_map

theorem State.rowsBelow_uncounted (h : s.perf = []) : s.rowsBelow k c cv =
    { s with
      slices := (s.rowsBelow k c cv).slices, slicePoison := (s.rowsBelow k c cv).slicePoison
      preds := (s.rowsBelow k c cv).preds } := by
  unfold State.rowsBelow
  rw [State.countRows_none (by exact h)]
  rfl

end

/-- What an element fault leaves of its context: what was committed of it, and the entry of its trap. -/
theorem entered_faultAt (c : Ctx) (k : Nat) (cv : Convoy) (t : TrapInfo) (o : Order) :
    ({ entered (c.faultAt k cv) { t with elem := some k } cv.epc with order := o } : Ctx) =
      { entered c { t with elem := some k } cv.epc with
        vstart := BitVec.ofNat 64 k, vdirty := (c.faultAt k cv).vdirty, dirtySince := (c.faultAt k cv).dirtySince
        fcsr := (c.faultAt k cv).fcsr, efc := (c.faultAt k cv).efc, order := o } := by
  rw [Ctx.faultAt_eq]
  rfl

end Sys2Proof.Machine

namespace Sys2Proof.Proofs

open Sys2Proof Sys2Proof.Machine Sys2Proof.Claims

section
variable {s m : State} {n k : Nat} {cv : Convoy} {t : TrapInfo}

/-- Outside a handler, and of no gang's member that it breaks (R359). -/
theorem retireElem_commits (hplain : plainMode (s.ctxAt n)) (hgang : t.cause ≠ causeHwUe ∨ (s.ctxAt n).record.gang ≤ 1)
    (hm : s.Strays m) :
    let c := s.ctxAt n
    let logs := cv.logs
    let u := m.commitBelow n k c cv t
    u.slices = slicesAfter s.slices (commitSlices logs fun e => decide (e < k)) ∧
      u.preds = predsAfter s.preds (commitPreds logs fun e => decide (e < k)) ∧
      u.ctxAt n = { entered c { t with elem := some k } cv.epc with
        vstart := BitVec.ofNat 64 k, vdirty := (c.faultAt k cv).vdirty, dirtySince := (c.faultAt k cv).dirtySince
        fcsr := (c.faultAt k cv).fcsr, efc := (c.faultAt k cv).efc, order := (u.ctxAt n).order } ∧
      (∀ j, j ≠ n → u.ctxAt j = s.ctxAt j) ∧ u.tiles = s.tiles ∧ u.idxs = s.idxs ∧ u.accs = s.accs ∧
      (∀ cl, u.clAt cl = s.clAt cl) ∧
      (s.perf = [] → (∀ l, u.locByte l = m.locByte l) ∧ u = { s with
        ctxs := u.ctxs, free := u.free, slices := u.slices, slicePoison := u.slicePoison, preds := u.preds
        mem := u.mem, sp := u.sp, home := u.home, memPoison := u.memPoison, spPoison := u.spPoison
        writes := u.writes, moment := u.moment, lags := u.lags }) := by
  intro c logs u
  have hctx : ∀ j, m.ctxAt j = s.ctxAt j := hm.ctxAt
  have hu : u = trappedIn ((m.rowsBelow k c cv).setCtx n (c.faultAt k cv)) n { t with elem := some k } cv.epc := by
    have h := State.commitBelow_eq (s := m) (n := n) (k := k) (c := c) (cv := cv) (t := t) (hctx n ▸ hplain) (hctx n ▸ hgang)
    rwa [hctx n] at h
  obtain ⟨hslices, hpreds, htiles, hidxs, haccs, hcl⟩ := m.rowsBelow_fields k c cv
  have hframe := trappedIn_onlyCtxs ((m.rowsBelow k c cv).setCtx n (c.faultAt k cv)) n { t with elem := some k } cv.epc
  rw [← hu] at hframe
  have hself := trappedIn_ctxAt_same ((m.rowsBelow k c cv).setCtx n (c.faultAt k cv)) n { t with elem := some k } cv.epc
  rw [← hu, State.ctxAt_setCtx_same, entered_faultAt] at hself
  have hmine : m.slices = s.slices ∧ m.preds = s.preds ∧ m.tiles = s.tiles ∧ m.idxs = s.idxs ∧ m.accs = s.accs ∧
      m.clusters = s.clusters ∧ m.perf = s.perf := by
    rw [hm]
    exact ⟨rfl, rfl, rfl, rfl, rfl, rfl, rfl⟩
  obtain ⟨mslices, mpreds, mtiles, midxs, maccs, mcl, mperf⟩ := hmine
  refine ⟨?_, ?_, hself, fun j hj => ?_, ?_, ?_, ?_, fun cl => ?_, fun hperf => ?_⟩
  · rw [hframe, ← mslices]
    exact hslices
  · rw [hframe, ← mpreds]
    exact hpreds
  · rw [hu, trappedIn_ctxAt_other _ hj, State.ctxAt_setCtx_other _ hj, State.rowsBelow_ctxAt, hctx]
  · rw [hframe, ← mtiles]
    exact htiles
  · rw [hframe, ← midxs]
    exact hidxs
  · rw [hframe, ← maccs]
    exact haccs
  · have : u.clusters = s.clusters := by
      rw [hframe, ← mcl]
      exact hcl
    simp only [State.clAt, this]
  · have hrows := State.rowsBelow_uncounted (k := k) (c := c) (cv := cv) (mperf.trans hperf)
    have hbytes : m.SameBytes { u with perf := m.perf } := by
      rw [hframe, hrows]
      exact ⟨rfl, rfl, rfl⟩
    refine ⟨hbytes.locByte, ?_⟩
    · rw [hframe, hrows, hm]
      rfl

end

section
variable {s : State} {n k : Nat} {cv : Convoy} {t : TrapInfo}
variable (hviq : (s.ctxAt n).viq = [cv]) (htodo : cv.todo = [])
include hviq htodo

theorem exec_convoyRetire_elem (hwhole : cv.whole = none) (hfault : cv.fault = some (k, t)) (hatomic : cv.atomic = false) :
    exec (.convoyRetire n) s = .next (s.retireElem n cv k t) := by
  change execConvoyRetire n s = _
  simp [execConvoyRetire, hviq, htodo, hwhole, hfault, hatomic]

theorem exec_convoyRetire_atomic (hwhole : cv.whole = none) (hfault : cv.fault = some (k, t)) (hatomic : cv.atomic = true) :
    exec (.convoyRetire n) s = .next (s.retireAtomic n cv k t) := by
  change execConvoyRetire n s = _
  simp [execConvoyRetire, hviq, htodo, hwhole, hfault, hatomic]

theorem exec_convoyRetire_whole (hwhole : cv.whole = some t) : exec (.convoyRetire n) s = .next (s.retireWhole n cv t) := by
  change execConvoyRetire n s = _
  simp [execConvoyRetire, hviq, htodo, hwhole]

end

section
variable {s : State} {n k : Nat} {cv : Convoy} {t : TrapInfo}

/-- The trap of a convoy that commits nothing: after its stores, in a context that the fault may have marked before. -/
theorem strayStores_trapped {m : State} {c : Ctx} (hm : m = { s.strayStores (s.ctxAt n) cv.logs with ctxs := m.ctxs })
    (hc : m.ctxAt n = c) (hother : ∀ j, j ≠ n → m.ctxAt j = s.ctxAt j) (hplain : plainMode c)
    (hgang : t.cause ≠ causeHwUe ∨ c.record.gang ≤ 1) :
    let u := m.enterTrap n t cv.epc
    ((∀ j, j ≠ n → u.ctxAt j = s.ctxAt j) ∧ u = { s with
      ctxs := u.ctxs, free := u.free, mem := u.mem, sp := u.sp, home := u.home, memPoison := u.memPoison
      spPoison := u.spPoison, writes := u.writes, moment := u.moment, lags := u.lags }) ∧
    u.ctxAt n = { entered c t cv.epc with order := (u.ctxAt n).order } ∧
    ∀ l, u.locByte l = (s.strayStores (s.ctxAt n) cv.logs).locByte l := by
  intro u
  have hu : u = trappedIn m n t cv.epc := State.enterTrap_outsideGang (hc ▸ hplain) (hc ▸ hgang) _
  have hframe := trappedIn_onlyCtxs m n t cv.epc
  have hself := trappedIn_ctxAt_same m n t cv.epc
  rw [← hu] at hframe hself
  rw [hc] at hself
  refine ⟨⟨fun j hj => ?_, ?_⟩, hself, ?_⟩
  · rw [hu, trappedIn_ctxAt_other m hj, hother j hj]
  · rw [hframe, hm, State.strayStores_strays (s.ctxAt n) cv.logs s]
  · have hbytes : (s.strayStores (s.ctxAt n) cv.logs).SameBytes u := by
      rw [hframe, hm]
      exact ⟨rfl, rfl, rfl⟩
    exact hbytes.locByte

end

/-- Settles O30: a fault is met by stores and updates that only change memory, by the commitment of what precedes it where it
is an element's, and by the entry of its trap. -/
theorem convoyFaults : Obligations.ConvoyFaults := by
  unfold Obligations.ConvoyFaults
  intro s n k cv t hviq htodo hplain hgang c logs mems amos strayed stays
  have hstray : ∀ u : State, (∀ l, u.locByte l = (s.strayStores c logs).locByte l) → cellsOk s → strayed u := fun u hu hs => by
    obtain ⟨keep, hspill, hbytes⟩ := State.strayStores_locByte c logs 0 hs
    exact ⟨keep, hspill, fun l => (hu l).trans (hbytes l)⟩
  have hctx : ∀ j, (s.strayStores c logs).ctxAt j = s.ctxAt j := (State.strayStores_strays c logs s).ctxAt
  refine ⟨fun hwhole hfault hatomic hset s1 hs1 => ?_, fun hwhole hfault hatomic hmems hw hl hagain => ?_,
    fun hwhole hfault hatomic => ?_, fun hwhole => ?_⟩
  · obtain ⟨m, hm, heq, hbytes⟩ : ∃ m : State, s.Strays m ∧ s.retireElem n cv k t = m.commitBelow n k c cv t ∧ (cellsOk s →
        (amos = [] → ∀ l, m.locByte l = overlay (mems.filter fun m => s.faultKeep k cv t m.elem) l (s.locByte l)) ∧
        (mems = [] → ∀ l, m.locByte l =
          ((amos.filter fun a => !decide (a.elem < k) && s.faultKeep k cv t a.elem).foldl State.putAmo s1).locByte l)) := by
      by_cases hamos : amos = []
      · have hs1 : s1 = s := hs1.elim And.right fun h => by
          have := h.2
          rw [hamos] at this
          cases this
          rfl
        obtain ⟨m, hm, heq, hbytes⟩ := State.retireElem_stores (n := n) (k := k) (t := t) hamos
        refine ⟨m, hm, heq, fun hs => ⟨fun _ => hbytes hs, fun hmems l => ?_⟩⟩
        have hmems : cv.logs.flatMap SlotLog.mems = [] := hmems
        rw [hbytes hs, hmems, hamos, hs1]
        rfl
      · obtain ⟨hw, hl⟩ := hset.resolve_left hamos
        obtain ⟨hmems, hput⟩ := hs1.resolve_left fun h => hamos h.1
        obtain ⟨m, hm, heq, hbytes⟩ := State.retireElem_updates (n := n) (k := k) (t := t) hmems hw hl hput
        exact ⟨m, hm, heq, fun _ => ⟨fun h => absurd h hamos, fun _ => hbytes⟩⟩
    refine ⟨_, (exec_convoyRetire_elem hviq htodo hwhole hfault hatomic).trans (congrArg _ heq), ?_⟩
    obtain ⟨hslices, hpreds, hself, hother, htiles, hidxs, haccs, hcl, hbare⟩ := retireElem_commits (k := k) (cv := cv) hplain hgang hm
    have hdirty : ((m.commitBelow n k c cv t).ctxAt n).vdirty = (c.faultAt k cv).vdirty := by rw [hself]
    have hsince : ((m.commitBelow n k c cv t).ctxAt n).dirtySince = (c.faultAt k cv).dirtySince := by rw [hself]
    have hfcsr : ((m.commitBelow n k c cv t).ctxAt n).fcsr = (c.faultAt k cv).fcsr := by rw [hself]
    have hefc : ((m.commitBelow n k c cv t).ctxAt n).efc = (c.faultAt k cv).efc := by rw [hself]
    refine ⟨hslices, hpreds, fun b hb => ?_, hfcsr.trans (c.faultAt_fcsr k cv), hefc.trans (c.faultAt_efc k cv), ?_, hother, htiles,
      hidxs, haccs, hcl, fun hperf => (hbare hperf).2, fun hperf hs => ⟨s.faultKeep k cv t,
        fun e he => State.faultKeep_below he, State.faultKeep_same, fun ha l => ?_, fun hmems l => ?_⟩⟩
    · rw [hdirty, hsince]
      exact c.faultAt_dirty k cv (by omega)
    · rw [hdirty, hsince, hfcsr, hefc]
      exact hself
    · exact ((hbare hperf).1 l).trans ((hbytes hs).1 ha l)
    · exact ((hbare hperf).1 l).trans ((hbytes hs).2 hmems l)
  · rw [exec_convoyRetire_elem hviq htodo hwhole hfault hatomic, State.retireElem_again hmems hw hl hagain]
  · rw [completes, exec_convoyRetire_atomic hviq htodo hwhole hfault hatomic]
    obtain ⟨hstays, hself, hbytes⟩ := strayStores_trapped (s := s) (n := n) (cv := cv) (t := { t with elem := some k })
      (m := (s.strayStores c logs).setCtx n { c with vstart := BitVec.ofNat 64 cv.vstart, eelem := BitVec.ofNat 64 k })
      rfl (State.ctxAt_setCtx_same _ _ _) (fun j hj => (State.ctxAt_setCtx_other _ hj _).trans (hctx j)) hplain hgang
    unfold State.retireAtomic
    dsimp only
    rw [hctx]
    exact ⟨_, rfl, hstays, hstray _ hbytes, hself⟩
  · rw [completes, exec_convoyRetire_whole hviq htodo hwhole]
    obtain ⟨hstays, hself, hbytes⟩ := strayStores_trapped (s := s) (n := n) (cv := cv) (t := t) (m := s.strayStores c logs) rfl
      (hctx n) (fun j _ => hctx j) hplain hgang
    exact ⟨_, rfl, hstays, hstray _ hbytes, hself⟩

end Sys2Proof.Proofs
end


section
/-! The front of a context image (R351, R352), what a save and a restore leave (R353 to R355), and O45. -/

namespace Sys2Proof.Machine

open Sys2Proof.Claims

/-! ## Fields of byte strings -/

theorem fieldAt_append_left {l : List Byte} {i n : Nat} (h : i + n ≤ l.length) (m : List Byte) :
    fieldAt (l ++ m) i n = fieldAt l i n := by
  unfold fieldAt
  rw [List.drop_append_of_le_length (by omega), List.take_append_of_le_length (by rw [List.length_drop]; omega)]

theorem fieldAt_append_right {l : List Byte} {i : Nat} (h : l.length ≤ i) (m : List Byte) (n : Nat) :
    fieldAt (l ++ m) i n = fieldAt m (i - l.length) n := by
  unfold fieldAt
  rw [List.drop_append, List.drop_eq_nil_of_le h, List.nil_append]

theorem fieldAt_leBytes (n w : Nat) (m : List Byte) : fieldAt (leBytes n w ++ m) 0 n = w % 256 ^ n := by
  rw [fieldAt_append_left (by simp)]
  unfold fieldAt
  rw [List.drop_zero, List.take_of_length_le (by simp), leNat_leBytes]

/-- A table of entries of one width. -/
theorem length_flatMap_range {w : Nat} {f : Nat → List Byte} (hf : ∀ i, (f i).length = w) (n : Nat) :
    ((List.range n).flatMap f).length = w * n := by
  induction n with
  | zero => rfl
  | succ n ih => rw [List.range_succ, List.flatMap_append, List.length_append, ih]; simp [hf, Nat.mul_succ]

theorem fieldAt_flatMap_range {w k : Nat} {f : Nat → List Byte} (hf : ∀ i, (f i).length = w) {n : Nat} (h : k < n) :
    fieldAt ((List.range n).flatMap f) (w * k) w = leNat (f k) := by
  induction n with
  | zero => omega
  | succ n ih =>
    have hlen := length_flatMap_range hf n
    rw [List.range_succ, List.flatMap_append]
    obtain hk | rfl := Nat.lt_succ_iff_lt_or_eq.1 h
    · rw [fieldAt_append_left, ih hk]
      rw [hlen, ← Nat.mul_succ]
      exact Nat.mul_le_mul_left w hk
    · rw [fieldAt_append_right (by omega), hlen, Nat.sub_self]
      simp [fieldAt, hf, List.take_of_length_le]

/-! ## The front of an image -/

/-- The header before its PC, and without its check sum. -/
def headerHead (c : Ctx) : List Byte :=
  leBytes 2 0x5843 ++ leBytes 1 1 ++ leBytes 1 0 ++ leBytes 4 (c.vspan.toNat % 2 ^ 32) ++ leBytes 8 c.imgSize ++
    leBytes 2 c.ten.toNat ++ leBytes 2 (c.tseen.toNat ||| (c.ten.toNat % 2 ^ 12)) ++
    leBytes 2 (c.seen.toNat ||| (c.vdirty.toNat % 2 ^ 16)) ++ leBytes 2 0

def State.headerFields (s : State) (c : Ctx) (pc : Word) : List Byte :=
  headerHead c ++ (leBytes 8 pc.toNat ++
    (leBytes 4 c.pasid.toNat ++ leBytes 2 c.member ++ leBytes 2 c.queue ++ leBytes 8 s.time ++ leBytes 12 0))

/-- The register words of an image. -/
def imgReg (c : Ctx) (rd : Option XReg) (i : Nat) : Nat :=
  if rd = some (BitVec.ofNat 5 i) ∧ i ≠ 0 then 1 else (c.reg (BitVec.ofNat 5 i)).toNat

theorem State.headerFields_length (s : State) (c : Ctx) (pc : Word) : (s.headerFields c pc).length = 60 := by
  simp [State.headerFields, headerHead]

theorem chanImage_length (b : Option ChanBind) : (chanImage b).length = 16 := by
  cases b <;> simp [chanImage]

theorem pipeImage_length (p : Pipe) : (pipeImage p).length = 32 := by
  simp [pipeImage]

/-- The front is its header's fields, their sum, the registers, and 2,312 bytes more. -/
theorem State.imgFront_eq (s : State) (c : Ctx) (pc : Word) (rd : Option XReg) : ∃ rest : List Byte, rest.length = 2312 ∧
    s.imgFront c pc rd = s.headerFields c pc ++ (leBytes 4 (((s.headerFields c pc).map BitVec.toNat).foldl (· + ·) 0) ++
      ((List.range 32).flatMap (fun i => leBytes 8 (imgReg c rd i)) ++ rest)) := by
  refine ⟨_, ?_, by
    unfold State.imgFront State.imgHeader State.headerFields headerHead
    simp only [List.append_assoc]
    rfl⟩
  have hcsr : ∀ f : Nat → Nat, ((List.range 64).flatMap fun i => leBytes 8 (f i)).length = 8 * 64 := fun f =>
    length_flatMap_range (fun i => leBytes_length 8 (f i)) 64
  have hchan : ((List.range 64).flatMap fun n => chanImage (smFind n c.chans)).length = 16 * 64 :=
    length_flatMap_range (fun n => chanImage_length _) 64
  have hpipe : ((List.range 8).flatMap fun n => pipeImage (c.pipe n)).length = 32 * 8 :=
    length_flatMap_range (fun n => pipeImage_length _) 8
  simp only [List.length_append, hcsr, hchan, hpipe, leBytes_length]

section
variable (s : State) (c : Ctx) (pc : Word) (rd : Option XReg)

theorem State.imgFront_length : (s.imgFront c pc rd).length = 0xA48 := by
  obtain ⟨rest, hrest, heq⟩ := s.imgFront_eq c pc rd
  have hregs : ((List.range 32).flatMap fun i => leBytes 8 (imgReg c rd i)).length = 8 * 32 :=
    length_flatMap_range (fun i => leBytes_length 8 _) 32
  rw [heq]
  simp only [List.length_append, s.headerFields_length, hregs, hrest, leBytes_length]

/-- The parts of a header that its reader looks at, whatever follows it. -/
theorem State.headerFields_fields (m : List Byte) : let l := s.headerFields c pc ++ m
    fieldAt l 0 2 = 0x5843 ∧ byteAt l 2 = 1 ∧ fieldAt l 24 8 = pc.toNat ∧ l.take 60 = s.headerFields c pc := by
  intro l
  refine ⟨?_, rfl, ?_, List.take_left' (s.headerFields_length c pc)⟩
  · unfold l State.headerFields headerHead
    simp only [List.append_assoc]
    rw [fieldAt_leBytes]
    decide
  · have hhead : (headerHead c).length = 24 := by simp [headerHead]
    unfold l State.headerFields
    rw [List.append_assoc, fieldAt_append_right (by omega), hhead, List.append_assoc, Nat.sub_self, fieldAt_leBytes]
    exact Nat.mod_eq_of_lt pc.isLt

theorem State.imgFront_header : imgHeaderOk (s.imgFront c pc rd) = true ∧ fieldAt (s.imgFront c pc rd) 24 8 = pc.toNat := by
  obtain ⟨rest, -, heq⟩ := s.imgFront_eq c pc rd
  rw [heq]
  obtain ⟨hid, hversion, hpc, htake⟩ := s.headerFields_fields c pc (leBytes 4 _ ++ (_ ++ rest))
  refine ⟨?_, hpc⟩
  unfold imgHeaderOk
  rw [hid, hversion, htake, fieldAt_append_right (by simp [s.headerFields_length]), s.headerFields_length, Nat.sub_self,
    fieldAt_leBytes]
  simp

theorem State.imgFront_reg {k : Nat} (h : k < 32) : fieldAt (s.imgFront c pc rd) (0x40 + 8 * k) 8 = imgReg c rd k := by
  obtain ⟨rest, -, heq⟩ := s.imgFront_eq c pc rd
  have hregs : ((List.range 32).flatMap fun i => leBytes 8 (imgReg c rd i)).length = 8 * 32 :=
    length_flatMap_range (fun i => leBytes_length 8 _) 32
  have hfit : imgReg c rd k < 256 ^ 8 := by
    unfold imgReg
    split
    · decide
    · exact (c.reg _).isLt
  rw [heq, fieldAt_append_right (by rw [s.headerFields_length]; omega), s.headerFields_length,
    fieldAt_append_right (by rw [leBytes_length]; omega), leBytes_length, fieldAt_append_left (by omega),
    show 0x40 + 8 * k - 60 - 4 = 8 * k by omega, fieldAt_flatMap_range (fun i => leBytes_length 8 _) h, leNat_leBytes,
    Nat.mod_eq_of_lt hfit]

end

/-! ## The children's account -/

theorem State.childDirty_childless (s : State) {c : Ctx} (h : c.children = []) : s.childDirty c = 0 :=
  State.childDirty_of_clean fun k _ hk => by rw [h] at hk; cases hk

theorem State.cleanChildren_me {s : State} {c x : Ctx} (hc : c.children ≠ []) (hx : smFind s.cur s.ctxs = some x) :
    (s.cleanChildren c).me = { x with dirtySince := if x.sid ∈ c.children then 0 else x.dirtySince } := by
  unfold State.cleanChildren
  rw [if_neg (by simpa using hc)]
  dsimp only
  have hmap := smFind_map (fun e : Nat × Ctx => if e.2.sid ∈ c.children then { e.2 with dirtySince := 0 } else e.2) s.cur s.ctxs
  rw [hx] at hmap
  refine (congrArg (Option.getD · {}) hmap).trans ?_
  simp only [Option.map_some, Option.getD_some]
  split <;> rfl

/-- A context takes over what its children have written, and its own account starts afresh where it counts itself a child. -/
theorem State.absorb_me (s : State) : (s.absorb s.cur).me = { s.me with
    vdirty := s.me.vdirty ||| s.childDirty s.me
    dirtySince := if s.me.sid ∈ s.me.children then 0 else s.me.dirtySince } := by
  have hme : s.ctxAt s.cur = s.me := rfl
  by_cases hc : s.me.children = []
  · have habsorb : s.absorb s.cur = s := by simp [State.absorb, hme, hc]
    rw [habsorb, s.childDirty_childless hc, show s.me.vdirty ||| (0 : Word) = s.me.vdirty from BitVec.or_zero, if_neg (by simp [hc])]
  · have habsorb : s.absorb s.cur =
        (s.setMe { s.me with vdirty := s.me.vdirty ||| s.childDirty s.me }).cleanChildren s.me := by
      unfold State.absorb
      rw [hme, if_neg (by simpa using hc)]
      rfl
    rw [habsorb, State.cleanChildren_me hc (smFind_put_same _ _ _)]

end Sys2Proof.Machine
end


section
/-! ctx.save, ctx.rest and PARK (R353 to R355), and O45. -/

namespace Sys2Proof.Machine

open Sys2Proof.Claims

/-! ## The checks of both -/

section
variable {s : State} {rd ra rb : XReg}

theorem execCtxSave_go (hsup : s.me.status.getLsbD 0 = true) (ha : (s.me.reg ra).toNat % 4096 = 0)
    (hf : (s.me.reg rb).toNat < 4) (hpipe : s.me.pipeRuns = false) (hquiet : s.quiet s.me = true)
    (haccept : s.unaccepted s.me.sid = false)
    (hpark : (s.me.reg rb).toNat % 2 = 1 → s.childrenIn s.cur = []) :
    let whole := s.absorb s.cur
    exec (.ctxSave rd ra rb) s = .next (whole.finish
      ((whole.imgWrite whole.me (s.me.reg ra) (whole.me.pc + 4) (some rd)).andThen fun _ s' =>
        let s' := (s'.markSaved whole.me.sid whole.me.pasid (s.me.reg ra)).releasePackage s'.cur
        let s'' := s'.setMe (((s'.me.saved (decide (2 ≤ (s.me.reg rb).toNat))).setReg rd 0).advance)
        .ok () (if (s.me.reg rb).toNat % 2 = 1 then s''.park s''.cur (s.me.reg ra) else s''))) := by
  intro whole
  have hsup : s.me.sup = true := hsup
  have hkids : (decide ((s.me.reg rb).toNat % 2 = 1) && !(s.childrenIn s.cur).isEmpty) = false := by
    by_cases h : (s.me.reg rb).toNat % 2 = 1
    · simp [hpark h]
    · simp [h]
  change execCtxSave rd ra rb s = _
  unfold execCtxSave
  simp only [hsup, ha, Nat.not_le.2 hf, hpipe, hquiet, haccept, hkids, Bool.not_true, Bool.false_eq_true, ↓reduceIte, Bool.or_false,
    ne_eq, not_true_eq_false]
  rfl

/-- How ctx.rest ends once its image has been read (R354). -/
def State.restOutcome (s : State) (ra rb : XReg) (l : List PByte) (s' : State) : Res Unit :=
  let word := BitVec.ofNat 64 (parcelOf (.ctxRest ra rb))
  match s.me.imgBad l with
  | some w => .trap (trapOf causeHwUe 5 (s.me.reg ra + BitVec.ofNat 64 (8 * w))) s'
  | none =>
    if !imgHeaderOk (l.map Prod.fst) then .trap (trapOf causeOperand 12 word) s'
    else if !s.me.imgFits (l.map Prod.fst) || s.me.imgFabric (l.map Prod.fst) then .trap (trapOf causeOperand 13 word) s'
    else if !s'.imgAwake l then .wait s.block
    else .ok () (((s'.cleanChildren s.me).restoreCtx s'.cur l (decide (2 ≤ (s.me.reg rb).toNat))).inherit
      s.me.sid s.me.pasid (s.me.reg ra))

theorem execCtxRest_go (hsup : s.me.status.getLsbD 0 = true) (ha : (s.me.reg ra).toNat % 4096 = 0)
    (hf : (s.me.reg rb).toNat = 0 ∨ (s.me.reg rb).toNat = 2) (hpipe : s.me.pipeRuns = false) (hquiet : s.quiet s.me = true)
    {l : List PByte} {s' : State} (hread : s.imgRead s.me (s.me.reg ra) = .ok l s') :
    exec (.ctxRest ra rb) s = .next (s.finish (s.restOutcome ra rb l s')) := by
  have hsup : s.me.sup = true := hsup
  have hf : ¬ (4 ≤ (s.me.reg rb).toNat ∨ (s.me.reg rb).toNat % 2 = 1) := by omega
  change execCtxRest ra rb s = _
  unfold execCtxRest
  simp only [hsup, ha, hf, hpipe, hquiet, hread, Bool.not_true, Bool.false_eq_true, ↓reduceIte, ne_eq, not_true_eq_false]
  rfl

end

/-! ## What a save leaves -/

section
variable (s : State) (sid : Nat) (pasid a : Word)

/-- The release of the package after the note of a save changes only what agents have still to observe. -/
theorem State.saveNoted_sameBut :
    (s.markSaved sid pasid a).sameBut ((s.markSaved sid pasid a).releasePackage s.cur) := State.releaseTo_sameBut _ _ _ _ _

end

theorem Ctx.saved_setReg (c : Ctx) (f : Nat) (rd : XReg) (v : Word) : ((c.saved (decide (2 ≤ f))).setReg rd v).advance =
    onward (putReg { c with
      seen := c.seen ||| c.vdirty.setWidth 16, tseen := c.tseen ||| c.ten.setWidth 12
      vdirty := 0, ten := if 2 ≤ f then 0 else c.ten } rd v) := by
  rw [putReg_eq_setReg]
  unfold Ctx.saved
  by_cases h : 2 ≤ f <;> simp [h] <;> rfl

/-! ## Parking -/

/-- The strand that a parking leaves. -/
def Ctx.asParked (c : Ctx) (image : Word) : Ctx := { c with
  mode := .parked, image := image, wait := none, viq := [], queued := [], remote := .idle, group := none
  preemptDue := none, preemptEntry := none, graceOver := false }

theorem State.vacate_leaves (s : State) (n : Nat) : let v := s.vacate n
    (v.ctxAt n).mode = .free ∧ v.parked = s.parked ∧ v.queues = s.queues := by
  intro v
  unfold v State.vacate
  extract_lets c t w
  have ht : s.SameStrands t := .foldl (fun s cl => s.setCl_sameStrands cl _) c.clusters s
  refine ⟨?_, ht.parked, ht.queues⟩
  rw [State.ctxAt_setCtx_same]
  rfl

/-- A parked strand's context is free, it is with the parked strands, and its queue resumes it first. -/
theorem State.park_leaves (s : State) (n : Nat) (image : Word) : let t := s.park n image
    (t.ctxAt n).mode = .free ∧ (s.ctxAt n).asParked image ∈ t.parked ∧
    (t.queueAt (s.ctxAt n).queue).resume = (s.ctxAt n).sid :: (s.queueAt (s.ctxAt n).queue).resume := by
  intro t
  obtain ⟨hfree, hparked, hqueues⟩ := s.vacate_leaves n
  let q := s.queueAt (s.ctxAt n).queue
  let u : State := { s.vacate n with parked := s.parked ++ [(s.ctxAt n).asParked image] }
  let w := u.setQueue (s.ctxAt n).queue { q with resume := (s.ctxAt n).sid :: q.resume }
  have ht : w.SameButWaits t := State.fillSlots_after_slots w _
  obtain ⟨x, hx⟩ := ht.queue (s.ctxAt n).queue
  refine ⟨?_, ?_, ?_⟩
  · rw [ht.ctxAt]
    exact hfree
  · rw [ht.parked]
    exact List.mem_append_right _ List.mem_cons_self
  · rw [hx, State.queueAt_setQueue, if_pos rfl]

/-! ## What a restore leaves of memory -/

/-- Two states hold the same memory and issue from the same context. -/
structure State.SameMem (s t : State) : Prop where
  mem : t.mem = s.mem
  cur : t.cur = s.cur

theorem State.SameMem.refl (s : State) : s.SameMem s := ⟨rfl, rfl⟩

theorem State.SameMem.trans {s t u : State} (h : s.SameMem t) (g : t.SameMem u) : s.SameMem u :=
  ⟨g.mem.trans h.mem, g.cur.trans h.cur⟩

theorem State.SameMem.foldl {α : Type} {f : State → α → State} (hf : ∀ (s : State) (a : α), s.SameMem (f s a)) :
    ∀ (l : List α) (s : State), s.SameMem (l.foldl f s)
  | [], s => .refl s
  | a :: l, s => (hf s a).trans (State.SameMem.foldl hf l (f s a))

theorem State.SameMem.ite {s t u : State} {p : Prop} [Decidable p] (ht : s.SameMem t) (hu : s.SameMem u) :
    s.SameMem (if p then t else u) := by
  split
  · exact ht
  · exact hu

theorem State.clearMatrix_sameMem (s : State) (cl base rows : Nat) : s.SameMem (s.clearMatrix cl base rows) := by
  unfold State.clearMatrix
  extract_lets tiles accs
  have htiles : s.SameMem tiles := .foldl (fun _ _ => by constructor <;> rfl) _ s
  have haccs : s.SameMem accs := htiles.trans (.foldl (fun _ _ => by constructor <;> rfl) _ _)
  exact ⟨haccs.mem, haccs.cur⟩

theorem State.restoreBulk_sameMem (s : State) (c : Ctx) (l : List PByte) : s.SameMem (s.restoreBulk c l) := by
  unfold State.restoreBulk
  extract_lets bytes bad lanes matrix preds slices
  have hlanes : s.SameMem lanes := ⟨rfl, rfl⟩
  have hmatrix : s.SameMem matrix := hlanes.trans (.foldl (fun s _ => s.clearMatrix_sameMem _ _ _) _ _)
  have hpreds : s.SameMem preds := hmatrix.trans (.foldl (fun s _ => .foldl (fun _ _ => by constructor <;> rfl) _ s) _ _)
  have hslices : s.SameMem slices := hpreds.trans (.foldl (fun s _ => .ite (.refl s) (.foldl (fun s _ => by
    extract_lets off d key row
    have hrow : s.SameMem row := .foldl (fun _ _ => by constructor <;> rfl) _ s
    exact hrow.trans (.foldl (fun s _ => .ite (by constructor <;> rfl) (.refl s)) _ _)) _ s)) _ _)
  exact hslices.trans (.foldl (fun s _ => .foldl (fun s _ => .ite (.refl s) (.foldl (fun s _ => by
    extract_lets off d row cells
    have hcells : s.SameMem cells := .ite (.foldl (fun _ _ => by constructor <;> rfl) _ s)
      (.ite (.foldl (fun _ _ => by constructor <;> rfl) _ s) (.foldl (fun _ _ => by constructor <;> rfl) _ s))
    exact hcells.trans (.ite ⟨rfl, rfl⟩ (.refl _))) _ s)) _ s) _ _)

theorem State.acquire_sameMem (s : State) (n : Nat) : s.SameMem (s.acquire n) := by
  unfold State.acquire State.acquireAt
  dsimp only
  split <;> exact ⟨rfl, rfl⟩

theorem State.countPoison_cur (s : State) (cl : Nat) (l : Loc) : (s.countPoison cl l).cur = s.cur := by
  have hpost : ∀ (t : State) (r : FqRec), (t.post r).cur = t.cur := fun t r => by rw [t.post_postsOnly r]
  unfold State.countPoison State.countUe
  split
  · exact hpost _ _
  · split <;> exact hpost _ _

/-- While the fault queue is off, a count of poison writes no memory. -/
theorem State.countPoison_sameMem {s : State} (h : s.ctl.fqen = false) (cl : Nat) (l : Loc) : s.SameMem (s.countPoison cl l) := by
  have hpost : ∀ (t : State) (r : FqRec), t.ctl = s.ctl → t.mem = s.mem → (t.post r).mem = s.mem := fun t r ht hm => by
    have hopen : ({ t with seq := t.seq + 1 } : State).fqOpen = false := by simp [State.fqOpen, ht, h]
    unfold State.post
    dsimp only
    rw [hopen, Bool.and_false, if_neg Bool.false_ne_true]
    split <;> exact hm
  refine ⟨?_, s.countPoison_cur cl l⟩
  unfold State.countPoison State.countUe
  split
  · exact hpost _ _ rfl rfl
  · split <;> exact hpost _ _ rfl rfl

theorem State.captureFor_cur (s : State) (ptdesc : Word) : (s.captureFor ptdesc).2.cur = s.cur := by
  unfold State.captureFor
  split
  · rfl
  · rfl
  · dsimp only
    split
    · exact s.countPoison_cur _ _
    · rfl

theorem State.captureFor_mem {s : State} (h : s.ctl.fqen = false) (ptdesc : Word) : (s.captureFor ptdesc).2.mem = s.mem := by
  unfold State.captureFor
  split
  · rfl
  · rfl
  · dsimp only
    split
    · exact (State.countPoison_sameMem h _ _).mem
    · rfl

theorem State.restoreCtx_keeps (s : State) (n : Nat) (l : List PByte) (lazy : Bool) :
    (s.restoreCtx n l lazy).cur = s.cur ∧ (s.ctl.fqen = false → (s.restoreCtx n l lazy).mem = s.mem) := by
  unfold State.restoreCtx
  extract_lets bytes d c bulk
  have hbulk : d.2.SameMem bulk := State.SameMem.trans (t := d.2.setCtx n c) ⟨rfl, rfl⟩ (State.restoreBulk_sameMem _ _ _)
  have hspcfg : ∀ (t : State) (v : Word), t.SameMem (t.setSpcfg c v) := fun t v =>
    .foldl (f := fun t cl => t.setCl cl { t.clAt cl with spcfg := v }) (fun _ _ => ⟨rfl, rfl⟩) c.clusters t
  have hset : bulk.SameMem (if c.clusterSpan then bulk.setSpcfg c (BitVec.ofNat 64 (fieldAt bytes 0xA40 8) &&& 0x31) else bulk) :=
    .ite (hspcfg bulk _) (.refl bulk)
  have hend := hbulk.trans (hset.trans (State.acquire_sameMem _ n))
  exact ⟨hend.cur.trans (s.captureFor_cur _), fun h => hend.mem.trans (State.captureFor_mem h _)⟩

/-! ## The CSRs of an image -/

theorem lowBits_imgCsr {b : Nat} (hb : b ≤ 64) (l : List Byte) (n : Nat) : (lowBits b (imgCsr l n)).toNat =
    fieldAt l (if n < 0x100 then 0x140 + 8 * n else 0x340 + 8 * (n - 0x100)) 8 % 2 ^ b := by
  have hfit : (imgCsr l n).toNat = fieldAt l (if n < 0x100 then 0x140 + 8 * n else 0x340 + 8 * (n - 0x100)) 8 :=
    Nat.mod_eq_of_lt (fieldAt_lt l _ 8)
  rw [lowBits_toNat hb, hfit]

theorem clearLow_toNat (k : Nat) (v : Word) : (clearLow k v).toNat = v.toNat / 2 ^ k * 2 ^ k := by
  rw [clearLow, BitVec.toNat_ofNat, Nat.mod_eq_of_lt (lt_of_le_of_lt (Nat.div_mul_le_self _ _) v.isLt)]

/-- The CSRs that a restore takes from an image (R354). -/
def restoredCsrs (t : Ctx) (img : List Byte) : Prop :=
  let csr := fun (off bits : Nat) => fieldAt img off 8 % 2 ^ bits
  t.vl.toNat = csr 0x140 20 ∧ t.vstart.toNat = csr 0x148 20 ∧ t.efc.toNat = csr 0x168 32 ∧
    t.modq.toNat = csr 0x170 30 ∧ t.fcsr.toNat = csr 0x180 16 ∧ t.accfmt.toNat = csr 0x208 8 ∧
    t.mxm.toNat = csr 0x210 8 ∧ t.mxn.toNat = csr 0x218 8 ∧ t.mxk.toNat = csr 0x220 8 ∧
    t.retired.toNat = csr 0x248 64 ∧ (∀ k : Fin 4, t.lidx[k].toNat = csr (0x260 + 8 * k.val) 12) ∧
    t.status.toNat = csr 0x340 3 ∧ t.stvec.toNat = csr 0x348 64 / 4 * 4 ∧ t.cause.toNat = csr 0x350 8 ∧
    t.epc.toNat = csr 0x358 64 / 4 * 4 ∧ t.eval.toNat = csr 0x360 64 ∧ t.esub.toNat = csr 0x368 11 ∧
    t.eelem.toNat = csr 0x370 20 ∧ t.sscratch.toNat = csr 0x378 64 ∧
    t.ptroot.toNat = csr 0x3C0 60 / 8 * 8 ∧ t.ptdesc.toNat = csr 0x3C8 60 / 32 * 32 ∧
    t.quantum.toNat = csr 0x440 16 ∧ t.wdog.toNat = csr 0x448 32

theorem restoredCsrs_withOrder {t : Ctx} {img : List Byte} (h : restoredCsrs t img) (o : Order) :
    restoredCsrs (t.withOrder o) img := h

theorem Ctx.restoreRegs_csrs (c : Ctx) (img : List Byte) (lazy : Bool) (desc : Option PteFormat) :
    restoredCsrs (c.restoreRegs img lazy desc) img := by
  unfold restoredCsrs
  intro csr
  have hlow : ∀ n b, b ≤ 64 → (lowBits b (imgCsr img n)).toNat =
      csr (if n < 0x100 then 0x140 + 8 * n else 0x340 + 8 * (n - 0x100)) b := fun n b hb => lowBits_imgCsr hb img n
  have hclear : ∀ k n b, b ≤ 64 → (clearLow k (lowBits b (imgCsr img n))).toNat =
      csr (if n < 0x100 then 0x140 + 8 * n else 0x340 + 8 * (n - 0x100)) b / 2 ^ k * 2 ^ k := fun k n b hb => by
    rw [clearLow_toNat, hlow n b hb]
  refine ⟨hlow 0 20 ?_, hlow 1 20 ?_, hlow 5 32 ?_, hlow 6 30 ?_, hlow 8 16 ?_, hlow 0x19 8 ?_, hlow 0x1A 8 ?_, hlow 0x1B 8 ?_,
    hlow 0x1C 8 ?_, hlow 0x21 64 ?_, fun k => ?_, hlow 0x100 3 ?_, hclear 2 0x101 64 ?_, hlow 0x102 8 ?_, hclear 2 0x103 64 ?_,
    hlow 0x104 64 ?_, hlow 0x105 11 ?_, hlow 0x106 20 ?_, hlow 0x107 64 ?_, hclear 3 0x110 60 ?_, hclear 5 0x111 60 ?_,
    hlow 0x120 16 ?_, hlow 0x121 32 ?_⟩
  case refine_11 =>
    obtain ⟨k, hk⟩ := k
    have hword : (0x24 + k : Nat) < 0x100 := by omega
    have hreg : (c.restoreRegs img lazy desc).lidx[k] = lowBits 12 (imgCsr img (0x24 + k)) := Vector.getElem_ofFn _
    rw [show 0x260 + 8 * k = 0x140 + 8 * (0x24 + k) by omega]
    exact (congrArg BitVec.toNat hreg).trans ((hlow _ 12 (by decide)).trans (by rw [if_pos hword]))
  all_goals decide

theorem Ctx.restoreRegs_ten (c : Ctx) (img : List Byte) {f : Nat} (hf : f = 0 ∨ f = 2) (desc : Option PteFormat) :
    (c.restoreRegs img (decide (2 ≤ f)) desc).ten.toNat = if f = 2 then 0 else fieldAt img 16 2 % 2 ^ 12 := by
  obtain rfl | rfl := hf
  · have hfit : (BitVec.ofNat 64 (fieldAt img 16 2)).toNat = fieldAt img 16 2 :=
      Nat.mod_eq_of_lt (lt_trans (fieldAt_lt img 16 2) (by decide))
    change (lowBits 12 (BitVec.ofNat 64 (fieldAt img 16 2))).toNat = _
    rw [lowBits_toNat (by decide), hfit]
    rfl
  · rfl

theorem Ctx.withOrder_reg (c : Ctx) (o : Order) (r : XReg) : (c.withOrder o).reg r = c.reg r := rfl

theorem Ctx.withOrder_ten (c : Ctx) (o : Order) : (c.withOrder o).ten = c.ten := rfl

/-- What a strand that restores an image goes on with. -/
theorem restoreRegs_fields (c : Ctx) (img : List Byte) {f : Nat} (hf : f = 0 ∨ f = 2) (desc : Option PteFormat) (o : Order) :
    let t := (c.restoreRegs img (decide (2 ≤ f)) desc).withOrder o
    t.pc = BitVec.ofNat 64 (fieldAt img 24 8 / 4 * 4) ∧ t.reg 0 = 0 ∧
      (∀ k, 0 < k → k < 32 → t.reg (BitVec.ofNat 5 k) = BitVec.ofNat 64 (fieldAt img (0x40 + 8 * k) 8)) ∧
      restoredCsrs t img ∧ t.ten.toNat = (if f = 2 then 0 else fieldAt img 16 2 % 2 ^ 12) ∧ t.vdirty = 0 := by
  intro t
  refine ⟨c.restoreRegs_pc img (decide (2 ≤ f)) desc, rfl, fun k h0 h32 => ?_,
    restoredCsrs_withOrder (c.restoreRegs_csrs img (decide (2 ≤ f)) desc) o, ?_, rfl⟩
  · rw [Ctx.withOrder_reg, c.restoreRegs_reg img _ desc h0 h32]
  · rw [Ctx.withOrder_ten, c.restoreRegs_ten img hf desc]

end Sys2Proof.Machine

namespace Sys2Proof.Proofs

open Sys2Proof Sys2Proof.Machine Sys2Proof.Claims

section
variable {s s' : State} {rd ra rb : XReg}

theorem ctxSave_completes (hsup : s.me.status.getLsbD 0 = true) (ha : (s.me.reg ra).toNat % 4096 = 0)
    (hf : (s.me.reg rb).toNat < 4) (hpipe : s.me.pipeRuns = false) (hquiet : s.quiet s.me = true)
    (haccept : s.unaccepted s.me.sid = false)
    (hwrite : (s.absorb s.cur).imgWrite (s.absorb s.cur).me (s.me.reg ra) (s.me.pc + 4) (some rd) = .ok () s') :
    let f := (s.me.reg rb).toNat
    let u := (s'.markSaved s.me.sid s.me.pasid (s.me.reg ra)).releasePackage s'.cur
    let kept := { s'.me with
      seen := s'.me.seen ||| s'.me.vdirty.setWidth 16, tseen := s'.me.tseen ||| s'.me.ten.setWidth 12
      vdirty := 0, ten := if 2 ≤ f then 0 else s'.me.ten }
    (f % 2 = 0 → exec (.ctxSave rd ra rb) s = .next (u.setMe (onward (putReg kept rd 0))) ∧ sameBytes s' u ∧
      u = { s' with glox := u.glox, writes := u.writes, moment := u.moment }) ∧
    (f % 2 = 1 → s.childrenIn s.cur = [] → completes (.ctxSave rd ra rb) s fun t =>
      (t.ctxAt s'.cur).mode = .free ∧
      (∃ p ∈ t.parked, p.mode = .parked ∧ p.image = s.me.reg ra ∧ p.sid = s'.me.sid ∧ p.pc = s'.me.pc + 4) ∧
      (t.queueAt s'.me.queue).resume = s'.me.sid :: (s'.queueAt s'.me.queue).resume) := by
  intro f u kept
  have hme := s.absorb_me
  have hpc : (s.absorb s.cur).me.pc = s.me.pc := by rw [hme]
  have hsid : (s.absorb s.cur).me.sid = s.me.sid := by rw [hme]
  have hpasid : (s.absorb s.cur).me.pasid = s.me.pasid := by rw [hme]
  have hnoted : (s'.markSaved s.me.sid s.me.pasid (s.me.reg ra)).sameBut u := s'.saveNoted_sameBut _ _ _
  have hu : u = { s' with glox := u.glox, writes := u.writes, moment := u.moment } := by
    rw [hnoted]
    rfl
  have hmine : u.me = s'.me := by rw [hu]; rfl
  have hnext : ((u.me.saved (decide (2 ≤ f))).setReg rd 0).advance = onward (putReg kept rd 0) := by
    rw [hmine, Ctx.saved_setReg]
  have hexec : (f % 2 = 1 → s.childrenIn s.cur = []) → exec (.ctxSave rd ra rb) s =
      .next (if f % 2 = 1 then (u.setMe (onward (putReg kept rd 0))).park u.cur (s.me.reg ra)
        else u.setMe (onward (putReg kept rd 0))) := fun hpark => by
    rw [execCtxSave_go hsup ha hf hpipe hquiet haccept hpark, hpc, hsid, hpasid, hwrite, ← hnext]
    rfl
  refine ⟨fun heven => ⟨?_, ?_, hu⟩, fun hodd hkids => ⟨_, hexec fun _ => hkids, ?_⟩⟩
  · rw [hexec fun h => by omega, if_neg (by omega)]
  · rw [hnoted]
    exact ⟨fun _ => rfl, fun _ _ => rfl⟩
  · rw [if_pos hodd]
    have hcur : u.cur = s'.cur := by rw [hu]
    obtain ⟨hfree, hparked, hresume⟩ := (u.setMe (onward (putReg kept rd 0))).park_leaves u.cur (s.me.reg ra)
    have hctx : (u.setMe (onward (putReg kept rd 0))).ctxAt u.cur = onward (putReg kept rd 0) := State.me_setMe u _
    rw [hctx] at hparked hresume
    refine ⟨hcur ▸ hfree, ⟨_, hparked, rfl, rfl, rfl, rfl⟩, ?_⟩
    have hq : (u.setMe (onward (putReg kept rd 0))).queueAt s'.me.queue = s'.queueAt s'.me.queue := by
      rw [hu]
      rfl
    exact hresume.trans (congrArg (fun q : Queue => s'.me.sid :: q.resume) hq)

end

section
variable {s s' : State} {ra rb : XReg} {l : List PByte} {k : Nat}
variable (hsup : s.me.status.getLsbD 0 = true) (ha : (s.me.reg ra).toNat % 4096 = 0)
  (hf : (s.me.reg rb).toNat = 0 ∨ (s.me.reg rb).toNat = 2) (hpipe : s.me.pipeRuns = false) (hquiet : s.quiet s.me = true)
  (hread : s.imgRead s.me (s.me.reg ra) = .ok l s')
include hsup ha hf hpipe hquiet hread

theorem ctxRest_restores (hbad : s.me.imgBad l = none) (hheader : imgHeaderOk (l.map Prod.fst) = true)
    (hfits : s.me.imgFits (l.map Prod.fst) = true) (hfabric : s.me.imgFabric (l.map Prod.fst) = false)
    (hawake : s'.imgAwake l = true) : ∃ t c desc o, exec (.ctxRest ra rb) s = .next t ∧
      t.me = (Ctx.restoreRegs c (l.map Prod.fst) (decide (2 ≤ (s.me.reg rb).toNat)) desc).withOrder o ∧
      (s'.ctl.fqen = false → t.mem = s'.mem) := by
  obtain ⟨hcells, hcur, -⟩ := s'.cleanChildren_keeps s.me
  have hctl : (s'.cleanChildren s.me).ctl = s'.ctl := by
    unfold State.cleanChildren
    split <;> rfl
  obtain ⟨rcur, rmem⟩ := (s'.cleanChildren s.me).restoreCtx_keeps s'.cur l (decide (2 ≤ (s.me.reg rb).toNat))
  obtain ⟨desc, o, hctx⟩ := (s'.cleanChildren s.me).restoreCtx_onlyCtx s'.cur l (decide (2 ≤ (s.me.reg rb).toNat))
  refine ⟨((s'.cleanChildren s.me).restoreCtx s'.cur l (decide (2 ≤ (s.me.reg rb).toNat))).inherit s.me.sid s.me.pasid
    (s.me.reg ra), (s'.cleanChildren s.me).ctxAt s'.cur, desc, o, ?_, ?_, fun h => (rmem (hctl ▸ h)).trans hcells.mem⟩
  · rw [execCtxRest_go hsup ha hf hpipe hquiet hread]
    simp only [State.restOutcome, hbad, hheader, hfits, hfabric, hawake, Bool.not_true, Bool.or_false, Bool.false_eq_true, ↓reduceIte]
    rfl
  · rw [← hctx.ctxAt]
    exact congrArg _ (rcur.trans hcur)

theorem ctxRest_traps_poison (hplain : plainMode (s'.ctxAt s.cur)) (hbad : s.me.imgBad l = some k)
    (hgang : (s'.ctxAt s.cur).record.gang ≤ 1) : exec (.ctxRest ra rb) s =
      .next (trappedIn s' s.cur (trapOf causeHwUe 5 (s.me.reg ra + BitVec.ofNat 64 (8 * k))) s.me.pc) := by
  rw [execCtxRest_go hsup ha hf hpipe hquiet hread, State.restOutcome, hbad]
  exact congrArg _ (State.enterTrap_outsideGang hplain (.inr hgang) _)

theorem ctxRest_traps_header (hplain : plainMode (s'.ctxAt s.cur)) (hbad : s.me.imgBad l = none)
    (hheader : imgHeaderOk (l.map Prod.fst) = false) : exec (.ctxRest ra rb) s =
      .next (trappedIn s' s.cur (trapOf causeOperand 12 (BitVec.ofNat 64 (parcelOf (.ctxRest ra rb)))) s.me.pc) := by
  rw [execCtxRest_go hsup ha hf hpipe hquiet hread, State.restOutcome, hbad, hheader]
  exact congrArg _ (State.enterTrap_outsideGang hplain (.inl (show causeOperand ≠ causeHwUe by decide)) _)

theorem ctxRest_traps_misfit (hplain : plainMode (s'.ctxAt s.cur)) (hbad : s.me.imgBad l = none)
    (hheader : imgHeaderOk (l.map Prod.fst) = true)
    (hmisfit : s.me.imgFits (l.map Prod.fst) = false ∨ s.me.imgFabric (l.map Prod.fst) = true) : exec (.ctxRest ra rb) s =
      .next (trappedIn s' s.cur (trapOf causeOperand 13 (BitVec.ofNat 64 (parcelOf (.ctxRest ra rb)))) s.me.pc) := by
  have hor : (!s.me.imgFits (l.map Prod.fst) || s.me.imgFabric (l.map Prod.fst)) = true := by simpa using hmisfit
  rw [execCtxRest_go hsup ha hf hpipe hquiet hread, State.restOutcome, hbad, hheader, hor]
  exact congrArg _ (State.enterTrap_outsideGang hplain (.inl (show causeOperand ≠ causeHwUe by decide)) _)

end

section
variable {s : State} {rd ra rb : XReg}

theorem ctxSave_refused :
    let a := s.me.reg ra
    let f := (s.me.reg rb).toNat
    let word := BitVec.ofNat 64 (parcelOf (.ctxSave rd ra rb))
    let good := f < 4 ∧ (4 = 2 → f % 2 = 0)
    (s.me.status.getLsbD 0 = false → plainMode s.me → exec (.ctxSave rd ra rb) s = .next (trapped s causePriv 0 word)) ∧
    (s.me.status.getLsbD 0 = true → plainMode s.me → a.toNat % 4096 ≠ 0 →
      exec (.ctxSave rd ra rb) s = .next (trapped s causeMisalign 2 a)) ∧
    (s.me.status.getLsbD 0 = true → plainMode s.me → a.toNat % 4096 = 0 → ¬ good →
      exec (.ctxSave rd ra rb) s = .next (trapped s causeOperand 6 word)) ∧
    (s.me.status.getLsbD 0 = true → plainMode s.me → a.toNat % 4096 = 0 → good → s.me.pipeRuns = true →
      exec (.ctxSave rd ra rb) s = .next (trapped s causeOperand 10 word)) ∧
    (s.me.status.getLsbD 0 = true → a.toNat % 4096 = 0 → good → s.me.pipeRuns = false →
      (s.quiet s.me = false ∨ (4 = 4 ∧ (s.unaccepted s.me.sid = true ∨ (f % 2 = 1 ∧ s.childrenIn s.cur ≠ [])))) →
      exec (.ctxSave rd ra rb) s = .next (s.setMe { s.me with wait := some .engine })) := by
  intro a f word good
  have hexec : exec (.ctxSave rd ra rb) s = execCtxSave rd ra rb s := rfl
  have hsup : s.me.sup = s.me.status.getLsbD 0 := rfl
  rw [hexec]
  unfold execCtxSave
  refine ⟨fun h hplain => ?_, fun h hplain ha => ?_, fun h hplain ha hgood => ?_, fun h hplain ha hgood hpipe => ?_,
    fun h ha hgood hpipe hwait => ?_⟩
  all_goals simp only [hsup, h, Bool.not_true, Bool.not_false, Bool.false_eq_true, ↓reduceIte]
  · exact congrArg _ (State.trap_eq_trapped hplain (by decide) _ _)
  · rw [if_pos ha, State.trap_eq_trapped hplain (by decide)]
  · have hf : 4 ≤ f := by omega
    rw [if_neg (not_not.2 ha), if_pos hf, State.trap_eq_trapped hplain (by decide)]
  · rw [if_neg (not_not.2 ha), if_neg (Nat.not_le.2 hgood.1), if_pos hpipe, State.trap_eq_trapped hplain (by decide)]
  · have hstall : (!s.quiet s.me || s.unaccepted s.me.sid || (decide (f % 2 = 1) && !(s.childrenIn s.cur).isEmpty)) = true := by
      obtain h | ⟨-, h | h⟩ := hwait <;> simp [h]
    rw [if_neg (not_not.2 ha), if_neg (Nat.not_le.2 hgood.1), if_neg (by simp [hpipe]), if_pos hstall]
    rfl

theorem ctxRest_refused :
    let a := s.me.reg ra
    let f := (s.me.reg rb).toNat
    let word := BitVec.ofNat 64 (parcelOf (.ctxRest ra rb))
    let good := f < 4 ∧ (2 = 2 → f % 2 = 0)
    (s.me.status.getLsbD 0 = false → plainMode s.me → exec (.ctxRest ra rb) s = .next (trapped s causePriv 0 word)) ∧
    (s.me.status.getLsbD 0 = true → plainMode s.me → a.toNat % 4096 ≠ 0 →
      exec (.ctxRest ra rb) s = .next (trapped s causeMisalign 2 a)) ∧
    (s.me.status.getLsbD 0 = true → plainMode s.me → a.toNat % 4096 = 0 → ¬ good →
      exec (.ctxRest ra rb) s = .next (trapped s causeOperand 6 word)) ∧
    (s.me.status.getLsbD 0 = true → plainMode s.me → a.toNat % 4096 = 0 → good → s.me.pipeRuns = true →
      exec (.ctxRest ra rb) s = .next (trapped s causeOperand 10 word)) ∧
    (s.me.status.getLsbD 0 = true → a.toNat % 4096 = 0 → good → s.me.pipeRuns = false →
      (s.quiet s.me = false ∨ (2 = 4 ∧ (s.unaccepted s.me.sid = true ∨ (f % 2 = 1 ∧ s.childrenIn s.cur ≠ [])))) →
      exec (.ctxRest ra rb) s = .next (s.setMe { s.me with wait := some .engine })) := by
  intro a f word good
  have hexec : exec (.ctxRest ra rb) s = execCtxRest ra rb s := rfl
  have hsup : s.me.sup = s.me.status.getLsbD 0 := rfl
  rw [hexec]
  unfold execCtxRest
  refine ⟨fun h hplain => ?_, fun h hplain ha => ?_, fun h hplain ha hgood => ?_, fun h hplain ha hgood hpipe => ?_,
    fun h ha hgood hpipe hwait => ?_⟩
  all_goals simp only [hsup, h, Bool.not_true, Bool.not_false, Bool.false_eq_true, ↓reduceIte]
  · exact congrArg _ (State.trap_eq_trapped hplain (by decide) _ _)
  · rw [if_pos ha, State.trap_eq_trapped hplain (by decide)]
  · have hf : 4 ≤ f ∨ f % 2 = 1 := by omega
    rw [if_neg (not_not.2 ha), if_pos hf, State.trap_eq_trapped hplain (by decide)]
  · have hf : ¬ (4 ≤ f ∨ f % 2 = 1) := by omega
    rw [if_neg (not_not.2 ha), if_neg hf, if_pos hpipe, State.trap_eq_trapped hplain (by decide)]
  · have hstall : (!s.quiet s.me) = true := by
      obtain h | ⟨h, -⟩ := hwait
      · simp [h]
      · cases h
    have hf : ¬ (4 ≤ f ∨ f % 2 = 1) := by omega
    rw [if_neg (not_not.2 ha), if_neg hf, if_neg (by simp [hpipe]), if_pos hstall]
    rfl

end

/-- Settles O45: the image's front is a header, a sum and the registers; a save changes what is noted of the strand and no byte
beyond the image, and a restore takes the strand's registers from the image's fields. -/
theorem contextImages : Obligations.ContextImages := by
  unfold Obligations.ContextImages
  intro s s' rd ra rb c pc l k a f parcels word front img whole
  refine ⟨fun hsid => ?_, ⟨s.imgFront_length c pc _, (s.imgFront_header c pc _).1, (s.imgFront_header c pc _).2, fun hk => ?_⟩,
    fun hsup ha hf hpipe hquiet haccept hwrite => ?_, fun hsup ha hf hpipe hquiet hread hbad hheader hfits hfabric hawake => ?_,
    fun hsup ha hf hpipe hquiet hread hplain => ⟨fun hbad hgang => ?_, fun hbad hheader => ?_, fun hbad hheader hmisfit => ?_⟩, ?_⟩
  · have hme := s.absorb_me
    rw [if_neg hsid] at hme
    exact hme
  · rw [s.imgFront_reg c pc _ hk]
    simp only [imgReg, Option.some.injEq, eq_comm]
  · exact ctxSave_completes hsup ha hf hpipe hquiet haccept hwrite
  · obtain ⟨t, c, desc, o, hexec, hme, hmem⟩ := ctxRest_restores hsup ha hf hpipe hquiet hread hbad hheader hfits hfabric hawake
    have hfields := restoreRegs_fields c img hf desc o
    rw [← hme] at hfields
    obtain ⟨hpc, hzero, hregs, hcsrs, hten, hvdirty⟩ := hfields
    obtain ⟨hvl, hvstart, hefc, hmodq, hfcsr, haccfmt, hmxm, hmxn, hmxk, hretired, hlidx, hstatus, hstvec, hcause, hepc, heval,
      hesub, heelem, hscratch, hptroot, hptdesc, hquantum, hwdog⟩ := hcsrs
    refine ⟨t, hexec, hpc, hzero, hregs, hvl, hvstart, hefc, hmodq,
      hfcsr, haccfmt, hmxm, hmxn, hmxk, hretired, hlidx, hstatus, hstvec, hcause, hepc, heval, hesub, heelem, hscratch, hptroot,
      hptdesc, hquantum, hwdog, hten, hvdirty, hmem⟩
  · exact ctxRest_traps_poison hsup ha hf hpipe hquiet hread hplain hbad hgang
  · exact ctxRest_traps_header hsup ha hf hpipe hquiet hread hplain hbad hheader
  · exact ctxRest_traps_misfit hsup ha hf hpipe hquiet hread hplain hbad hheader hmisfit
  · intro i hi
    obtain rfl | hi := List.mem_cons.1 hi
    · exact ctxSave_refused
    · obtain rfl := List.mem_singleton.1 hi
      exact ctxRest_refused

end Sys2Proof.Proofs
end


section
/-! O32 fails: the elements of a load whose index its own result feeds end at the first that a remote endpoint has still to
answer, and a later one may then meet poison (R119, R268, R295). -/

namespace Sys2Proof.Machine

open Sys2Proof.Claims

/-- A lane slot whose values never fault does not fault. -/
theorem laneRun_fault_none {v : VEnv} {o : Opnd} {p : BitVec 4} {pz : Bool} {val : List SliceWrite → Nat → Nat} :
    ∀ (l : List Nat) (g : SlotLog), (laneRun v (.slices o) p pz (fun own e => .ok (val own e, 0)) l g).fault = none
  | [], _ => rfl
  | e :: l, g => by
    have hquiet : (0 : FpFlags) &&& v.c.fcsr.extractLsb' 6 6 = 0 := BitVec.zero_and
    unfold laneRun
    simp only [hquiet, ne_eq, not_true_eq_false, ↓reduceIte]
    split
    · exact laneRun_fault_none l _
    · exact laneRun_fault_none l _

/-! ## The load -/

/-- A convoy of two elements on one lane. -/
def chasedConvoy : Convoy := { vl := 2 }

/-- A load of bytes at slices 2 and 3 by the index at slices 0 and 1: the index of element 1 is the result of element 0. -/
def chasedLoad : VM :=
  { data := ⟨2, 2⟩, base := 0, stride := 0, idx := 2, cls := 15, pred := 12, space := false, hint := 0, fn := 0 }

/-- The memory of endpoint 1, as its accesses name it. -/
def endpointOne : Nat := 2 * 2 ^ 56 + 2 ^ 40

/-- A strand on one lane, whose remote accesses so far are answered. -/
def chasedCtx : Ctx :=
  { ({} : Ctx).placed with vspan := spanWord 0 false 0 0 1, viq := [chasedConvoy], remote := .ok }

/-- Its addresses are endpoint 1's; element 0 loads at 8, element 1 at 0, where the word is poisoned. -/
def chasedState : State :=
  { ctxs := [(0, chasedCtx)], tlbs := [(0, [{ flatEntry chasedCtx with out := endpointOne }])], slices := [(0, 8)]
    memPoison := [endpointOne / 8] }

/-- The elements of the load: element 0 alone, whose bytes have still to be answered when its addresses are found. -/
def chasedElems : List Elem :=
  let v := slotEnv chasedState chasedConvoy
  v.accessElems chasedLoad 2 0 true (v.loadElem chasedLoad 2 [] none)

/-- A resolution reaches all its elements, meets no poison and leaves the vector state. -/
def Res.reaches (s : State) (els : List Elem) : Res ((Elem → List Loc) × Option (Nat × TrapInfo)) → Bool
  | .ok (r, none) t => t.slicePoison.isEmpty && decide (t.slices = s.slices) && decide (t.preds = s.preds) &&
      els.all fun x => (r x).all fun b => !t.locPoison b
  | _ => false

theorem placesOf_of_reaches {s : State} {kind : AccKind} {space : Bool} {form cls : Nat} {els : List Elem}
    (h : Res.reaches s els (s.resolve s.me kind space form cls els els) = true) :
    ∃ s' r, placesOf s s' kind space form cls els r := by
  unfold placesOf
  generalize s.resolve s.me kind space form cls els els = res at h ⊢
  unfold Res.reaches at h
  split at h
  next r t =>
    simp only [Bool.and_eq_true, List.isEmpty_iff, decide_eq_true_eq, List.all_eq_true, Bool.not_eq_true'] at h
    obtain ⟨⟨⟨hpoison, hslices⟩, hpreds⟩, hclean⟩ := h
    exact ⟨t, r, rfl, hpoison, hslices, hpreds, hclean⟩
  · cases h

/-- They can be reached, and none is poisoned. -/
theorem chasedElems_places : ∃ s' r, placesOf chasedState s' 0 false 2 15 chasedElems r :=
  placesOf_of_reaches (by decide +kernel)

/-- The load faults all the same: at element 1. -/
theorem chasedLoad_faults : (match exec (.vldx chasedLoad) chasedState with
    | .next t => t.me.viq.any fun cv => cv.fault.isSome
    | _ => false) = true := by decide +kernel

end Sys2Proof.Machine

namespace Sys2Proof.Proofs

open Sys2Proof Sys2Proof.Machine Sys2Proof.Claims

/-- Refutes O32: where the rows of a result cross those of the index, the elements of a load end at the first whose remote bytes
are not answered yet, so that none of them need be poisoned while a later element, which the load reads all the same, is. -/
theorem not_vectorLoadAndAtomicSlots : ¬ Obligations.VectorLoadAndAtomicSlots := by
  unfold Obligations.VectorLoadAndAtomicSlots
  intro h
  obtain ⟨s', r, hplaces⟩ := chasedElems_places
  obtain ⟨hload, -⟩ := h
  have hexec := (hload chasedState s' chasedConvoy (.vldx chasedLoad) chasedLoad 2 r ⟨rfl, rfl⟩ rfl hplaces).1
  have hfaults := chasedLoad_faults
  rw [hexec] at hfaults
  simp only [slotRanIn, State.me_setMe, List.any_cons, List.any_nil, Bool.or_false] at hfaults
  have hnone : ∀ a : VAcc, a.fault = none → (chasedConvoy.push (logged chasedState chasedConvoy (.vldx chasedLoad) a)).fault = none :=
    fun a ha => by
      unfold Convoy.push logged
      dsimp only
      rw [ha]
      rfl
  rw [hnone] at hfaults
  · cases hfaults
  · exact laneRun_fault_none _ _

end Sys2Proof.Proofs
end

section
/-! What the integer operations compute, in the words of R37 to R40, R150 and R151: exact integers, wrapped to 64 bits. -/

namespace Sys2Proof.Machine

/-! ## Integers and their low bits -/

theorem intOf_false_toNat (b : Word) : intOf false 64 b.toNat = b.toNat := by
  simp only [intOf, Bool.false_and, Bool.false_eq_true, if_false, Nat.mod_eq_of_lt b.isLt]

theorem ofNat_wrapTo (q : Int) : BitVec.ofNat 64 (wrapTo 64 q) = BitVec.ofInt 64 q := by
  apply BitVec.eq_of_toNat_eq
  rw [BitVec.toNat_ofNat, BitVec.toNat_ofInt, wrapTo]
  omega

/-- The high half of a 128-bit product. -/
theorem ofNat_wrapTo_high (q : Int) : BitVec.ofNat 64 (wrapTo 128 q / 2 ^ 64) = BitVec.ofInt 64 (q / (2 ^ 64 : Nat)) := by
  apply BitVec.eq_of_toNat_eq
  rw [BitVec.toNat_ofNat, BitVec.toNat_ofInt, wrapTo]
  omega

/-! ## Products, quotients and remainders -/

theorem mul_eq_ofNat (a b : Word) : a * b = BitVec.ofNat 64 (a.toNat * b.toNat) :=
  BitVec.eq_of_toNat_eq (by rw [BitVec.toNat_mul, BitVec.toNat_ofNat])

theorem mulHigh_true (a b : Word) : mulHigh true a b = BitVec.ofInt 64 (a.toInt * b.toInt / (2 ^ 64 : Nat)) := by
  rw [mulHigh, ofNat_wrapTo_high, intOf_true_toNat, intOf_true_toNat]

theorem mulHigh_false (a b : Word) : mulHigh false a b = BitVec.ofNat 64 (a.toNat * b.toNat / 2 ^ 64) := by
  rw [mulHigh, ofNat_wrapTo_high, intOf_false_toNat, intOf_false_toNat, ← BitVec.ofInt_natCast]
  norm_cast

theorem toInt_eq_zero_iff (b : Word) : b.toInt = 0 ↔ b = 0 := BitVec.toInt_inj (y := 0)

theorem natCast_toNat_eq_zero_iff (b : Word) : (b.toNat : Int) = 0 ↔ b = 0 := by
  rw [Int.natCast_eq_zero]
  exact BitVec.toNat_inj (y := 0)

/-- The quotient of the least number by -1 wraps to the dividend, as R39 has it. -/
theorem divBy_true (a b : Int) : divBy true 64 a b = if b = 0 then -1 else if a = -2 ^ 63 ∧ b = -1 then a else a.tdiv b := by
  simp only [divBy, Bool.true_and, Bool.and_eq_true, decide_eq_true_eq, if_true]

theorem divWord_true (a b : Word) :
    divWord true a b = if b = 0 then BitVec.allOnes 64 else BitVec.ofInt 64 (a.toInt.tdiv b.toInt) := by
  rw [divWord, ofNat_wrapTo, intOf_true_toNat, intOf_true_toNat, divBy_true]
  simp only [toInt_eq_zero_iff]
  split
  · rfl
  · split
    next h =>
      rw [h.1, h.2]
      rfl
    · rfl

theorem divWord_false (a b : Word) :
    divWord false a b = if b = 0 then BitVec.allOnes 64 else BitVec.ofNat 64 (a.toNat / b.toNat) := by
  rw [divWord, ofNat_wrapTo, intOf_false_toNat, intOf_false_toNat, divBy]
  simp only [natCast_toNat_eq_zero_iff, Bool.false_and, Bool.false_eq_true, if_false]
  split
  · rfl
  · exact BitVec.ofInt_natCast ..

theorem remWord_true (a b : Word) : remWord true a b = if b = 0 then a else BitVec.ofInt 64 (a.toInt.tmod b.toInt) := by
  rw [remWord, ofNat_wrapTo, intOf_true_toNat, intOf_true_toNat, remBy]
  simp only [toInt_eq_zero_iff]
  split
  · exact BitVec.ofInt_toInt
  · rfl

theorem remWord_false (a b : Word) : remWord false a b = if b = 0 then a else BitVec.ofNat 64 (a.toNat % b.toNat) := by
  rw [remWord, ofNat_wrapTo, intOf_false_toNat, intOf_false_toNat, remBy]
  simp only [natCast_toNat_eq_zero_iff]
  split
  · rw [BitVec.ofInt_natCast, BitVec.ofNat_toNat, BitVec.setWidth_eq]
  · exact BitVec.ofInt_natCast ..

/-! ## Shifts -/

theorem shiftLeft_eq_ofNat (a : Word) (n : Nat) : a <<< n = BitVec.ofNat 64 (a.toNat * 2 ^ n) :=
  BitVec.eq_of_toNat_eq (by rw [BitVec.toNat_shiftLeft, BitVec.toNat_ofNat, Nat.shiftLeft_eq])

theorem shiftRight_eq_ofNat (a : Word) (n : Nat) : a >>> n = BitVec.ofNat 64 (a.toNat / 2 ^ n) := by
  rw [← Nat.shiftRight_eq_div_pow, ← BitVec.toNat_ushiftRight, BitVec.ofNat_toNat, BitVec.setWidth_eq]

theorem sshiftRight_eq_ofInt (a : Word) (n : Nat) : a.sshiftRight n = BitVec.ofInt 64 (a.toInt / (2 ^ n : Nat)) := by
  rw [← Int.shiftRight_eq_div_pow, ← BitVec.toInt_sshiftRight, BitVec.ofInt_toInt]

theorem shiftLeft_eq_ofInt (a : Word) (n : Nat) : a <<< n = BitVec.ofInt 64 (a.toInt * 2 ^ n) := by
  apply BitVec.eq_of_toInt_eq
  rw [BitVec.toInt_shiftLeft, BitVec.toInt_ofInt, BitVec.toInt_eq_toNat_bmod, Int.bmod_mul_bmod, Nat.shiftLeft_eq,
    Int.natCast_mul, Int.natCast_pow]
  rfl

/-- An immediate that counts units of 2 ^ n. -/
theorem sext64_shiftLeft {k : Nat} (imm : BitVec k) (h : k ≤ 64) (n : Nat) :
    sext64 imm <<< n = BitVec.ofInt 64 (imm.toInt * 2 ^ n) := by
  rw [sext64, shiftLeft_eq_ofInt, BitVec.toInt_signExtend_of_le h]

/-! ## Comparisons -/

theorem boolWord_slt (a b : Word) : boolWord (a.slt b) = if a.toInt < b.toInt then 1 else 0 := by
  simp only [boolWord, BitVec.slt_eq_decide, decide_eq_true_eq]

theorem boolWord_ult (a b : Word) : boolWord (a.ult b) = if a.toNat < b.toNat then 1 else 0 := by
  simp only [boolWord, BitVec.ult_eq_decide, decide_eq_true_eq]

/-- A choice by `<` between two values is the opposite choice by `≤`. -/
theorem ite_slt (a b x y : Word) : (if b.slt a then x else y) = if a.toInt ≤ b.toInt then y else x := by
  simp only [BitVec.slt_eq_decide, decide_eq_true_eq, ← not_le, ite_not]

theorem ite_ult (a b x y : Word) : (if b.ult a then x else y) = if a.toNat ≤ b.toNat then y else x := by
  simp only [BitVec.ult_eq_decide, decide_eq_true_eq, ← not_le, ite_not]

/-! The opposite comparisons, as branches and choices use them. -/

theorem not_slt_eq_decide (a b : Word) : (!a.slt b) = decide (b.toInt ≤ a.toInt) := by
  rw [BitVec.slt_eq_decide, ← decide_not, decide_eq_decide, not_lt]

theorem not_ult_eq_decide (a b : Word) : (!a.ult b) = decide (b.toNat ≤ a.toNat) := by
  rw [BitVec.ult_eq_decide, ← decide_not, decide_eq_decide, not_lt]

/-- The greater of two words by a measure that tells words apart, asked either way. -/
theorem ite_le_swap {β : Type} [LinearOrder β] {f : Word → β} (hf : ∀ a b, f a = f b → a = b) (a b : Word) :
    (if f b ≤ f a then a else b) = if f a ≤ f b then b else a := by
  split
  next h =>
    split
    next g => exact hf a b (le_antisymm g h)
    next => rfl
  next h => rw [if_pos (not_le.1 h).le]

theorem ite_slt_max (a b : Word) : (if a.slt b then b else a) = if a.toInt ≤ b.toInt then b else a :=
  (ite_slt b a b a).trans (ite_le_swap (fun _ _ => BitVec.eq_of_toInt_eq) a b)

theorem ite_ult_max (a b : Word) : (if a.ult b then b else a) = if a.toNat ≤ b.toNat then b else a :=
  (ite_ult b a b a).trans (ite_le_swap (fun _ _ => BitVec.eq_of_toNat_eq) a b)

/-! ## Counts of bits -/

theorem leadZeros_spec {v : Nat} (hv : v < 2 ^ 64) : leadZeros 64 v ≤ 64 ∧ v < 2 ^ (64 - leadZeros 64 v) ∧
    (leadZeros 64 v < 64 → 2 ^ (63 - leadZeros 64 v) ≤ v) := by
  unfold leadZeros
  rw [Nat.mod_eq_of_lt hv]
  split
  next h => exact ⟨le_refl _, by simp [h], fun hlt => absurd hlt (lt_irrefl _)⟩
  next h =>
    have hlog : Nat.log2 v < 64 := (Nat.log2_lt h).2 hv
    have hlow : 63 - (64 - 1 - Nat.log2 v) = Nat.log2 v := by omega
    have hhigh : 64 - (64 - 1 - Nat.log2 v) = Nat.log2 v + 1 := by omega
    rw [hlow, hhigh]
    exact ⟨by omega, Nat.lt_log2_self, fun _ => Nat.log2_self_le h⟩

theorem trailZeros_spec (n v : Nat) : trailZeros n v ≤ n ∧ v % 2 ^ trailZeros n v = 0 ∧
    (trailZeros n v < n → v / 2 ^ trailZeros n v % 2 = 1) := by
  induction n generalizing v with
  | zero => exact ⟨le_refl _, Nat.mod_one v, fun h => absurd h (lt_irrefl _)⟩
  | succ n ih =>
    unfold trailZeros
    split
    next h => exact ⟨Nat.zero_le _, Nat.mod_one v, fun _ => by rwa [pow_zero, Nat.div_one]⟩
    next h =>
      obtain ⟨hle, hlow, hbit⟩ := ih (v / 2)
      rw [Nat.add_comm 1, pow_succ']
      refine ⟨by omega, ?_, fun hlt => ?_⟩
      · rw [Nat.mod_mul, hlow]
        omega
      · rw [← Nat.div_div_eq_div_mul]
        exact hbit (by omega)

theorem popCount_eq_length (n v : Nat) : popCount n v = ((List.range n).filter fun k => v.testBit k).length := by
  induction n generalizing v with
  | zero => rfl
  | succ n ih =>
    have htail : ((List.range n).map Nat.succ).filter (fun k => v.testBit k) =
        ((List.range n).filter fun k => (v / 2).testBit k).map Nat.succ := by
      simp only [List.filter_map, Function.comp_def, Nat.succ_eq_add_one, Nat.testBit_succ]
    rw [popCount, ih, List.range_succ_eq_map, List.filter_cons, htail, Nat.testBit_zero]
    split
    next h => rw [List.length_cons, List.length_map, of_decide_eq_true h, Nat.add_comm]
    next h =>
      have hev : v % 2 = 0 := by
        have := of_decide_eq_false (Bool.eq_false_iff.2 h)
        omega
      rw [List.length_map, hev, Nat.zero_add]

end Sys2Proof.Machine
end

section
/-! Scalar registers, integer instructions, immediates and control transfer (R80, R136, R150 to R155): O1, O2, O3 and O4. -/

namespace Sys2Proof.Machine

open Sys2Proof.Claims

/-! ## Registers in the words of the statements -/

@[simp] theorem wrote_me (s : State) (r : XReg) (v : Word) : (wrote s r v).me = (s.me.setReg r v).advance := by
  rw [← State.done_eq_wrote, State.done_me]

theorem Ctx.reg_setReg (c : Ctx) (r : XReg) (v : Word) : (c.setReg r v).reg r = if r = 0 then 0 else v := by
  split
  next h => rw [h, Ctx.reg_zero]
  next h => rw [Ctx.reg_setReg_same c h]

theorem Ctx.reg_default (q : XReg) : ({} : Ctx).reg q = 0 := by
  unfold Ctx.reg
  split
  · rfl
  · exact Vector.getElem_replicate ..

/-! ## Results -/

/-- An integer instruction ends with what its operation comes to in X[rd]. -/
theorem State.done_wrote (s : State) (rd : XReg) {w v : Word} (h : w = v) :
    (Host.Outcome.next (s.done rd w) : Host.Outcome State Fault Refusal) = .next (wrote s rd v) := by
  rw [State.done_eq_wrote, h]

/-! ## Transfers -/

/-- A branch goes to its target or on, and writes nothing. -/
theorem State.branch_went (s : State) (ra rb : XReg) (imm : BitVec 14) {f : Word → Word → Bool} {p : Prop} [Decidable p]
    (h : f (s.me.reg ra) (s.me.reg rb) = decide p) :
    s.branch ra rb imm f =
      .next (went s s.me (if p then s.me.pc + BitVec.ofInt 64 (imm.toInt * 4) else s.me.pc + 4)) := by
  unfold State.branch
  dsimp only
  rw [h, sext64_shiftLeft imm (by decide) 2]
  by_cases hp : p
  · simp only [hp, decide_true, if_true]
    rfl
  · simp only [hp, decide_false, Bool.false_eq_true, if_false]
    rfl

end Sys2Proof.Machine

namespace Sys2Proof.Proofs

open Sys2Proof Sys2Proof.Machine Sys2Proof.Claims

/-- The word that the encoder gives an instruction decodes to it, where no row before it in the table shares the word. -/
theorem decodes_of_encode {i : Instr} {w : Nat} (hwf : wellFormed i = true) (hw : encode i = some (32, w))
    (hrow : wordRow i = i) : decodeTableWord 32 w = some i := by
  rw [i.readsBack hwf 32 w hw, hrow]

/-- Settles O1: by the laws of a register read after a write. -/
theorem registerFile : Obligations.RegisterFile := by
  unfold Obligations.RegisterFile
  intro s r q v
  rw [wrote_me, Ctx.reg_advance, Ctx.reg_advance]
  exact ⟨Ctx.reg_setReg _ _ _, fun h => Ctx.reg_setReg_other _ h v, Ctx.reg_zero _, Ctx.reg_default q⟩

/-- Settles O2, form by form: what each operation computes is a lemma about its word. -/
theorem scalarIntegerResults : Obligations.ScalarIntegerResults := by
  unfold Obligations.ScalarIntegerResults
  refine ⟨fun s rd ra rb => ?_, fun s rd ra imm sh => ?_⟩
  · intro a b n len
    exact ⟨s.done_wrote rd rfl, s.done_wrote rd rfl, s.done_wrote rd rfl, s.done_wrote rd rfl,
      s.done_wrote rd rfl, s.done_wrote rd rfl, s.done_wrote rd (shiftLeft_eq_ofNat a n),
      s.done_wrote rd (shiftRight_eq_ofNat a n), s.done_wrote rd (sshiftRight_eq_ofInt a n),
      s.done_wrote rd (boolWord_slt a b), s.done_wrote rd (boolWord_ult a b),
      s.done_wrote rd (mul_eq_ofNat a b), s.done_wrote rd (mulHigh_true a b),
      s.done_wrote rd (mulHigh_false a b), s.done_wrote rd (divWord_true a b),
      s.done_wrote rd (divWord_false a b), s.done_wrote rd (remWord_true a b),
      s.done_wrote rd (remWord_false a b), s.done_wrote rd (ite_slt a b b a),
      s.done_wrote rd (ite_slt_max a b), s.done_wrote rd (ite_ult a b b a), s.done_wrote rd (ite_ult_max a b),
      s.done_wrote rd rfl, s.done_wrote rd rfl⟩
  · intro a i word
    obtain ⟨hlead, habove, hfirst⟩ := leadZeros_spec a.isLt
    obtain ⟨htrail, hbelow, hlast⟩ := trailZeros_spec 64 a.toNat
    exact ⟨decodes_of_encode rfl rfl rfl, decodes_of_encode rfl rfl rfl, decodes_of_encode rfl rfl rfl,
      ⟨_, hlead, habove, hfirst, s.done_wrote rd rfl⟩, ⟨_, htrail, hbelow, hlast, s.done_wrote rd rfl⟩,
      s.done_wrote rd (congrArg _ (popCount_eq_length 64 a.toNat)), s.done_wrote rd rfl, s.done_wrote rd rfl,
      s.done_wrote rd rfl, s.done_wrote rd rfl, s.done_wrote rd (shiftLeft_eq_ofNat a _),
      s.done_wrote rd (shiftRight_eq_ofNat a _), s.done_wrote rd (sshiftRight_eq_ofInt a _),
      s.done_wrote rd (boolWord_slt a i), s.done_wrote rd (boolWord_ult a i)⟩

/-- Settles O3: the words read back, and an immediate shifted is its integer multiplied. -/
theorem longFormatInstructions : Obligations.LongFormatInstructions := by
  unfold Obligations.LongFormatInstructions
  intro s rd far word away
  have haway : s.me.pc + sext64 far <<< 2 = away := by rw [sext64_shiftLeft far (by decide) 2]; rfl
  refine ⟨decodes_of_encode rfl rfl rfl, decodes_of_encode rfl rfl rfl, decodes_of_encode rfl rfl rfl, ?_, ?_, ?_⟩
  · rw [← sext64_shiftLeft far (by decide), ← State.done_eq_wrote]
    rfl
  · rw [← haway, ← State.done_eq_wrote]
    rfl
  · rw [← haway, putReg_eq_setReg]
    rfl

/-- Settles O4: every branch is one operation with its own condition, and jr traps before it writes the link. -/
theorem controlTransfers : Obligations.ControlTransfers := by
  unfold Obligations.ControlTransfers
  intro s rd ra rb imm c a b target next t word
  have hjr : exec (.jr rd ra imm) s = if t.toNat % 4 ≠ 0 then .next (s.trap causeMisalign 1 t)
    else .next (s.setMe ((c.setReg rd next).jump t)) := rfl
  refine ⟨decodes_of_encode rfl rfl rfl, decodes_of_encode rfl rfl rfl, decodes_of_encode rfl rfl rfl,
    decodes_of_encode rfl rfl rfl, decodes_of_encode rfl rfl rfl, decodes_of_encode rfl rfl rfl, fun ht => ?_,
    fun ht hm => ?_, s.branch_went ra rb imm (f := fun a b => decide (a = b)) rfl,
    s.branch_went ra rb imm (f := fun a b => decide (a ≠ b)) rfl,
    s.branch_went ra rb imm (f := BitVec.slt) BitVec.slt_eq_decide,
    s.branch_went ra rb imm (f := fun a b => !a.slt b) (not_slt_eq_decide a b),
    s.branch_went ra rb imm (f := BitVec.ult) BitVec.ult_eq_decide,
    s.branch_went ra rb imm (f := fun a b => !a.ult b) (not_ult_eq_decide a b)⟩
  · rw [hjr, if_neg (not_not.2 ht), putReg_eq_setReg]
    rfl
  · rw [hjr, if_pos ht, State.trap_eq_trapped hm (by decide)]

end Sys2Proof.Proofs
end

section
/-! Scalar FP32 (R157): which result and flags an instruction ends with, and O5. -/

namespace Sys2Proof.Machine

open Sys2Proof.Claims

/-- Flags none of which is enabled are merged with the result. -/
theorem State.fpDone_clear {s : State} {f : FpFlags} (h : f &&& s.me.fcsr.extractLsb' 6 6 = 0) (rd : XReg) (v : Nat) :
    s.fpDone rd v f = flagged s rd v f := by
  have hoff : ¬ f &&& s.me.enables ≠ 0 := not_not.2 h
  unfold State.fpDone flagged
  dsimp only
  rw [if_neg hoff, putReg_eq_setReg, ← Ctx.setReg_fcsr s.me rd (BitVec.ofNat 64 v)]
  rfl

/-- A raised flag that is enabled traps in place of it. -/
theorem State.fpDone_raised {s : State} {f : FpFlags} (h : f &&& s.me.fcsr.extractLsb' 6 6 ≠ 0) (hm : plainMode s.me)
    (rd : XReg) (v : Nat) : s.fpDone rd v f = trapped s causeFpExc f.toNat 0 := by
  have hon : f &&& s.me.enables ≠ 0 := h
  unfold State.fpDone
  dsimp only
  rw [if_pos hon, State.trap_eq_trapped hm (by decide)]

/-- The four conversions of R157. -/
theorem fcvt_cases (k : BitVec 2) : k = 0 ∨ k = 1 ∨ k = 2 ∨ k = 3 := by
  revert k
  decide

/-- Each scalar FP32 instruction ends with its result and its flags. -/
theorem exec_of_scalarFp {s : State} {i : Instr} {rd : XReg} {r : Nat × FpFlags} (h : scalarFp s.me i = some (rd, r)) :
    exec i s = .next (s.fpDone rd r.1 r.2) := by
  unfold scalarFp at h
  split at h
  case h_7 rd' ra k rm =>
    cases h
    obtain rfl | rfl | rfl | rfl := fcvt_cases k
    · rfl
    · rfl
    · rw [← intOf_true_toNat]
      rfl
    · rw [← intOf_false_toNat]
      rfl
  case h_8 => cases h
  all_goals
    cases h
    rfl

end Sys2Proof.Machine

namespace Sys2Proof.Proofs

open Sys2Proof Sys2Proof.Machine Sys2Proof.Claims

/-- Settles O5: every instruction has one ending, which merges its flags or traps. -/
theorem scalarFloatResults : Obligations.ScalarFloatResults := by
  unfold Obligations.ScalarFloatResults
  intro s i rd v fl h
  rw [exec_of_scalarFp h]
  exact ⟨fun hoff => congrArg _ (State.fpDone_clear hoff rd v), fun hon hm => congrArg _ (State.fpDone_raised hon hm rd v)⟩

end Sys2Proof.Proofs
end

section
/-! vsetvl and the entry of a trap, in a handler and outside one (R160, R161, R163, R165): O7 and O8. -/

namespace Sys2Proof.Machine

open Sys2Proof.Claims

/-- VL and X[rd] are written in either order. -/
theorem Ctx.setReg_putVl (c : Ctx) (r : XReg) (v w : Word) :
    ({ c with vl := w } : Ctx).setReg r v = { c.setReg r v with vl := w } := by
  unfold Ctx.setReg
  split <;> rfl

/-! ## Entry outside a handler -/

theorem trappedIn_none {s : State} (h : s.writes = []) (n : Nat) (t : TrapInfo) (epc : Word) :
    trappedIn s n t epc = s.setCtx n (entered (s.ctxAt n) t epc) := by
  rw [trappedIn, State.fenceAt_none h]

theorem trappedIn_sameBytes (s : State) (n : Nat) (t : TrapInfo) (epc : Word) : sameBytes s (trappedIn s n t epc) := by
  refine State.SameCells.sameBytes ?_
  rw [trappedIn_onlyCtxs]
  exact ⟨rfl, rfl, rfl, rfl⟩

/-- STATUS in a handler: EX and SUP are set, and PSUP is the old privilege (R163). -/
theorem entered_status (c : Ctx) (t : TrapInfo) (epc : Word) :
    (entered c t epc).status.getLsbD 0 = true ∧ (entered c t epc).status.getLsbD 1 = c.status.getLsbD 0 ∧
      (entered c t epc).status.getLsbD 2 = true := by
  unfold entered
  dsimp only
  cases c.status.getLsbD 0 <;> exact ⟨rfl, rfl, rfl⟩

/-! ## Entry in a handler -/

/-- A record that cannot be written is numbered and held. -/
theorem State.post_held {s : State} (hoff : s.ctl.fqen = false) (hroom : s.fq.length < 256) (r : FqRec) :
    s.post r = { s with seq := s.seq + 1, fq := s.fq ++ [{ r with seq := s.seq + 1, time := s.time }] } := by
  have hshut : ∀ n, State.fqOpen { s with seq := n } = false := fun n => by
    unfold State.fqOpen
    simp only [hoff, Bool.false_and]
  unfold State.post
  dsimp only
  rw [hshut, Bool.and_false, if_neg Bool.false_ne_true, if_pos hroom]
  rfl

/-- The record of a second trap (R163, R432). -/
def State.doubleRec (s : State) (n : Nat) (t : TrapInfo) (epc : Word) : FqRec :=
  { s.recordOf n 1 with
    cause := t.cause, esub := t.sub.setWidth 16, epc := epc, eval := t.eval, elem := t.elem.getD 0 }

/-- A trap in a handler posts its record and stops the context. -/
theorem State.enterTrap_double {s : State} {n : Nat} {t : TrapInfo} (hex : (s.ctxAt n).status.getLsbD 2 = true)
    (hc : t.cause ≠ causeHwUe ∨ (s.ctxAt n).record.gang ≤ 1) (epc : Word) :
    s.enterTrap n t epc = (s.post (s.doubleRec n t epc)).setCtx n
      { s.ctxAt n with mode := .stopped, viq := [], queued := [], wait := none } := by
  have hin : (s.ctxAt n).ex = true := hex
  unfold State.enterTrap State.enterPlain
  rw [if_neg fun hue => hc.elim (· hue.1) (Nat.not_le.2 hue.2)]
  exact if_pos hin

end Sys2Proof.Machine

namespace Sys2Proof.Proofs

open Sys2Proof Sys2Proof.Machine Sys2Proof.Claims

/-- Settles O7: vsetvl is one write of VL and X[rd], and its word reads back. -/
theorem vsetvlResult : Obligations.VsetvlResult := by
  unfold Obligations.VsetvlResult
  intro s rd ra n
  refine ⟨decodes_of_encode rfl rfl rfl, ?_⟩
  rw [putReg_eq_setReg, ← Ctx.setReg_putVl]
  rfl

/-- Settles O8, by the three ways in: an instruction that traps, a trap outside a handler, and one in a handler. -/
theorem trapEntry : Obligations.TrapEntry := by
  unfold Obligations.TrapEntry
  refine ⟨fun s code hm => ⟨?_, ?_⟩, fun s n t epc hm hgang => ?_, fun s n t epc hex hgang hoff hroom => ?_⟩
  · exact congrArg _ (State.trap_eq_trapped hm (by decide) _ _)
  · exact congrArg _ (State.trap_eq_trapped hm (by decide) _ _)
  · intro u
    have hu : u = trappedIn s n t epc := State.enterTrap_outsideGang hm hgang epc
    obtain ⟨hsup, hpsup, hin⟩ := entered_status (s.ctxAt n) t epc
    rw [hu, trappedIn_ctxAt_same]
    exact ⟨rfl, fun hw => trappedIn_none hw n t epc, rfl, rfl, rfl, hsup, hpsup, hin, fun _ => rfl,
      trappedIn_sameBytes s n t epc⟩
  · intro u c
    have hu : u = _ := State.enterTrap_double hex hgang epc
    rw [State.post_held hoff hroom] at hu
    have hc : c = { s.ctxAt n with mode := .stopped, viq := [], queued := [], wait := none } :=
      (congrArg (State.ctxAt · n) hu).trans (State.ctxAt_setCtx_same _ n _)
    rw [hc, hu]
    exact ⟨rfl, rfl, rfl, rfl, rfl, rfl, rfl, _, rfl, rfl, rfl, rfl, rfl, rfl, rfl, rfl⟩

end Sys2Proof.Proofs
end

section
/-! The return from a trap (R162), and O9: what the fence and the resumption of units leave alone. -/

namespace Sys2Proof.Machine

open Sys2Proof.Claims

/-! ## The blocks that a context's children have written -/

/-- A child whose block of VDIRTY is marked. -/
def Ctx.childWrote (c : Ctx) (i : Nat) (k : Ctx) : Bool := decide (k.sid ∈ c.children) && k.dirtySince.getLsbD i

theorem foldl_dirty_getLsbD (c : Ctx) (i : Nat) (l : List Ctx) (w : Word) :
    (l.foldl (fun w k => if k.sid ∈ c.children then w ||| k.dirtySince else w) w).getLsbD i =
      (w.getLsbD i || l.any (c.childWrote i)) := by
  induction l generalizing w with
  | nil => exact (Bool.or_false _).symm
  | cons k l ih =>
    rw [List.foldl_cons, ih, List.any_cons, Ctx.childWrote]
    split
    next h => simp only [BitVec.getLsbD_or, h, decide_true, Bool.true_and, Bool.or_assoc]
    next h => simp only [h, decide_false, Bool.false_and, Bool.false_or]

theorem State.childDirty_getLsbD (s : State) (c : Ctx) (i : Nat) :
    (s.childDirty c).getLsbD i = ((s.ctxs.map Prod.snd).any (c.childWrote i) || s.parked.any (c.childWrote i)) := by
  rw [State.childDirty, foldl_dirty_getLsbD, List.any_append]
  exact (congrArg (· || _) BitVec.getLsbD_zero).trans (Bool.false_or _)

theorem any_of_smGet {α : Type} {p : α → Bool} {d : α} {k : Nat} {m : SMap α} (hd : p d = false)
    (h : p (smGet d m k) = true) : (m.map Prod.snd).any p = true := by
  unfold smGet at h
  cases hf : smFind k m with
  | none =>
    rw [hf, Option.getD_none, hd] at h
    cases h
  | some x =>
    rw [hf, Option.getD_some] at h
    exact List.any_eq_true.2 ⟨x, List.mem_map.2 ⟨_, mem_of_smFind hf, rfl⟩, h⟩

/-- A value that passes a test as the value at its key does leaves the outcome over the table as it was. -/
theorem any_smPut {α : Type} {p : α → Bool} {d v : α} {k : Nat} (hd : p d = false) :
    ∀ m : SMap α, p v = p (smGet d m k) → ((smPut k v m).map Prod.snd).any p = (m.map Prod.snd).any p
  | [], h => by
    have hv : p v = false := h.trans hd
    simp only [smPut, List.map_cons, List.map_nil, List.any_cons, List.any_nil, hv, Bool.or_false]
  | (k', x) :: m, h => by
    unfold smPut
    split
    · rw [List.map_cons, List.any_cons, Bool.or_eq_right_iff_imp, h]
      exact any_of_smGet hd
    · split
      next hk =>
        have hx : p v = p x := by simpa only [smGet, smFind, hk, if_true, Option.getD_some] using h
        simp only [List.map_cons, List.any_cons, hx]
      next hk =>
        have hm : p v = p (smGet d m k) := by simpa only [smGet, smFind, Ne.symm hk, if_false] using h
        simp only [List.map_cons, List.any_cons, any_smPut hd m hm]

/-- A context that keeps its strand and its own account of writes keeps what others' children wrote. -/
theorem State.childDirty_setMe_same (s : State) {d : Ctx} (hsid : d.sid = s.me.sid) (hsince : d.dirtySince = s.me.dirtySince)
    (c : Ctx) : (s.setMe d).childDirty c = s.childDirty c := by
  apply BitVec.eq_of_getLsbD_eq
  intro i _
  have hsame : c.childWrote i d = c.childWrote i s.me := by rw [Ctx.childWrote, hsid, hsince]; rfl
  have hfree : c.childWrote i {} = false := by
    rw [Ctx.childWrote]
    exact (congrArg _ BitVec.getLsbD_zero).trans (Bool.and_false _)
  rw [State.childDirty_getLsbD, State.childDirty_getLsbD]
  exact congrArg (· || _) (any_smPut hfree s.ctxs hsame)

/-! ## The fence and the resumption of units -/

/-- The fence of a strand after its context is set changes its order, and what is held, and nothing else. -/
theorem State.fenceAt_setMe (s : State) (c : Ctx) (mask : BitVec 16) (scope : Nat) :
    ∃ o ws m, (s.setMe c).fenceAt s.cur mask scope = { s.setMe { c with order := o } with writes := ws, moment := m } := by
  have hctx : (s.setMe c).ctxAt s.cur = c := State.ctxAt_setCtx_same s s.cur c
  unfold State.fenceAt
  split
  · exact ⟨c.order, _, _, rfl⟩
  · dsimp only
    rw [hctx, State.performWith_sameBut]
    unfold State.setMe State.setCtx
    dsimp only
    rw [smPut_put]
    exact ⟨_, _, _, rfl⟩

/-- A state differs from another at most in the state of units, of clusters and of exchange members; no cluster's
scratchpad is mapped anew. -/
def State.UnitsOnly (s t : State) : Prop :=
  t = { s with clusters := t.clusters, xsets := t.xsets } ∧ ∀ cl, (t.clAt cl).spcfg = (s.clAt cl).spcfg

theorem State.UnitsOnly.refl (s : State) : s.UnitsOnly s := ⟨rfl, fun _ => rfl⟩

theorem State.UnitsOnly.trans {s t u : State} (h : s.UnitsOnly t) (g : t.UnitsOnly u) : s.UnitsOnly u := by
  obtain ⟨ht, hcfg⟩ := h
  obtain ⟨hu, gcfg⟩ := g
  refine ⟨?_, fun cl => (gcfg cl).trans (hcfg cl)⟩
  rw [ht] at hu
  exact hu

theorem State.UnitsOnly.setCl {s : State} {cl : Nat} {k : Cluster} (h : k.spcfg = (s.clAt cl).spcfg) :
    s.UnitsOnly (s.setCl cl k) := by
  refine ⟨rfl, fun j => ?_⟩
  by_cases hj : j = cl
  · rw [hj, State.clAt_setCl_same, h]
  · rw [State.clAt_setCl_other _ hj]

theorem State.markUnit_unitsOnly (s : State) (cl a : Nat) (b : Bool) : s.UnitsOnly (s.markUnit cl a b) := by
  unfold State.markUnit
  dsimp only
  split
  · exact ⟨rfl, fun _ => rfl⟩
  split
  · split
    · exact .setCl rfl
    · exact .refl s
  split
  · split
    · exact .setCl rfl
    · exact .refl s
  split
  · exact .setCl rfl
  split
  · refine .setCl ?_
    split <;> split <;> rfl
  · exact .refl s

theorem State.markUnits_unitsOnly : ∀ (l : List (Nat × Nat)) (s : State),
    s.UnitsOnly (l.foldl (fun s u => s.markUnit u.1 u.2 false) s)
  | [], s => .refl s
  | u :: l, s => (s.markUnit_unitsOnly u.1 u.2 false).trans (State.markUnits_unitsOnly l _)

theorem State.restartStalls_unitsOnly (s : State) (sid : Nat) : s.UnitsOnly (s.restartStalls sid) := by
  refine ⟨rfl, fun cl => ?_⟩
  unfold State.restartStalls State.clAt smGet
  rw [smFind_map]
  cases smFind cl s.clusters <;> rfl

/-! ## The whole return -/

theorem State.UnitsOnly.me {s t : State} (h : s.UnitsOnly t) : t.me = s.me := by
  rw [h.1]
  rfl

theorem State.UnitsOnly.sameBytes {s t : State} (h : s.UnitsOnly t) : sameBytes s t := by
  obtain ⟨ht, hcfg⟩ := h
  refine ⟨fun a => ?_, fun cl a => ?_⟩
  · rw [ht]
    rfl
  · unfold State.readSp State.spCell
    rw [hcfg, ht]

theorem State.UnitsOnly.csrRead {s t : State} (h : s.UnitsOnly t) (c : Ctx) (k : Nat) : t.csrRead c k = s.csrRead c k := by
  obtain ⟨ht, -⟩ := h
  rw [ht]
  exact State.csrRead_congr rfl rfl c fun _ => rfl

/-! ## The whole return -/

/-- The context that R162 gives, with the pipelines, units and order that a return leaves. -/
def Ctx.returned (c : Ctx) (p : SMap Pipe) (f : List (Nat × Nat)) (o : Order) : Ctx :=
  { c.tret with pipes := p, frozenUnits := f, order := o }

/-- The state with that context, and with what the return's fence holds. -/
def State.fenced (s : State) (c : Ctx) (ws : List Write) (m : Nat) : State := { s.setMe c with writes := ws, moment := m }

/-- What tret leaves of a state. -/
def State.Returned (s t : State) : Prop := ∃ p f o ws m, (s.fenced (s.me.returned p f o) ws m).UnitsOnly t

theorem State.Returned.units {s t u : State} : s.Returned t → t.UnitsOnly u → s.Returned u
  | ⟨p, f, o, ws, m, h⟩, g => ⟨p, f, o, ws, m, h.trans g⟩

/-- The units that a trap froze resume after the fence. -/
theorem State.resumeUnits_returned (s : State) (p : SMap Pipe) (f : List (Nat × Nat)) (o : Order) (ws : List Write) (m : Nat)
    (l : List (Nat × Nat)) : s.Returned ((s.fenced (s.me.returned p f o) ws m).resumeUnits s.cur l) := by
  obtain ⟨hv, hcfg⟩ := State.markUnits_unitsOnly l (s.fenced (s.me.returned p f o) ws m)
  unfold State.resumeUnits
  dsimp only
  generalize l.foldl (fun s u => s.markUnit u.1 u.2 false) (s.fenced (s.me.returned p f o) ws m) = v at hv hcfg
  have hctx : v.ctxAt s.cur = s.me.returned p f o := by
    rw [hv]
    exact State.ctxAt_setCtx_same s s.cur _
  rw [hctx]
  generalize (s.me.returned p f o).pipes.map _ = q
  refine ⟨q, f, o, ws, m, ?_, hcfg⟩
  rw [hv]
  unfold State.fenced State.setMe State.setCtx
  dsimp only
  rw [smPut_put]
  rfl

theorem exec_tret {s : State} (h : s.me.status.getLsbD 0 = true) : ∃ p, exec .tret s = .next
    (let r := ((s.setMe (s.me.returned p [] s.me.order)).fenceAt s.cur 0xFFFF 0).resumeUnits s.cur s.me.frozenUnits
     if s.me.async.any fun t => decide (t.cause = causeChStall) then r else r.restartStalls s.me.sid) := by
  have hsup : s.me.sup = true := h
  exact ⟨_, if_neg (by rw [hsup]; decide)⟩

theorem exec_tret_returned {s : State} (h : s.me.status.getLsbD 0 = true) : ∃ t, exec .tret s = .next t ∧ s.Returned t := by
  obtain ⟨p, hexec⟩ := exec_tret h
  obtain ⟨o, ws, m, hfence⟩ := s.fenceAt_setMe (s.me.returned p [] s.me.order) 0xFFFF 0
  have hreturned : s.Returned _ := s.resumeUnits_returned p [] o ws m s.me.frozenUnits
  refine ⟨_, hexec, ?_⟩
  dsimp only
  rw [hfence]
  split
  · exact hreturned
  · exact hreturned.units (State.restartStalls_unitsOnly _ _)

theorem State.Returned.me {s t : State} : s.Returned t → ∃ p f o, t.me = s.me.returned p f o
  | ⟨p, f, o, _, _, h⟩ => ⟨p, f, o, h.me.trans (State.me_setMe _ _)⟩

theorem State.Returned.sameBytes {s t : State} : s.Returned t → sameBytes s t
  | ⟨_, _, _, _, _, h⟩ => h.sameBytes

/-- Every CSR but STATUS and RETIRED reads as before. -/
theorem State.csrRead_returned (s : State) (c : Ctx) (p : SMap Pipe) (f : List (Nat × Nat)) (o : Order) {k : Nat}
    (hstatus : k ≠ 0x100) (hretired : k ≠ 0x021) : s.csrRead (c.returned p f o) k = s.csrRead c k := by
  unfold State.csrRead
  split
  · rfl
  · split <;> trivial

theorem State.Returned.csrRead {s t : State} {k : Nat} (hstatus : k ≠ 0x100) (hretired : k ≠ 0x021) :
    s.Returned t → t.csrRead t.me k = s.csrRead s.me k
  | ⟨p, f, o, ws, m, h⟩ => by
    have hme : (s.fenced (s.me.returned p f o) ws m).me = s.me.returned p f o := State.me_setMe _ _
    have hdirty := s.childDirty_setMe_same (d := s.me.returned p f o) rfl rfl (s.me.returned p f o)
    have hbase : (s.fenced (s.me.returned p f o) ws m).csrRead (s.me.returned p f o) k = s.csrRead (s.me.returned p f o) k :=
      State.csrRead_congr (s := s) (t := s.fenced (s.me.returned p f o) ws m) rfl rfl _ fun _ => hdirty
    rw [h.csrRead, h.me, hme, hbase, s.csrRead_returned s.me p f o hstatus hretired]

theorem statusOf_return (c : Ctx) : statusOf false false c.psup = if c.status.getLsbD 1 then 1 else 0 := by
  unfold statusOf Ctx.psup
  cases c.status.getLsbD 1 <;> rfl

end Sys2Proof.Machine

namespace Sys2Proof.Proofs

open Sys2Proof Sys2Proof.Machine Sys2Proof.Claims

/-- Settles O9: a return changes the context as R162 says, and beside it only units and the order of accesses. -/
theorem tretResult : Obligations.TretResult := by
  unfold Obligations.TretResult
  refine fun s => ⟨fun hsup => ?_, fun huser hm => ?_⟩
  · obtain ⟨t, he, h⟩ := exec_tret_returned hsup
    refine ⟨t, he, ?_⟩
    obtain ⟨p, f, o, hme⟩ := h.me
    rw [hme]
    exact ⟨rfl, statusOf_return s.me, rfl, fun _ => rfl, fun n _ hstatus hretired => by
      rw [← hme]
      exact h.csrRead hstatus hretired,
      h.sameBytes⟩
  · have hsup : s.me.sup = false := huser
    rw [← State.trap_eq_trapped hm (by decide)]
    exact if_pos (by rw [hsup]; rfl)

end Sys2Proof.Proofs
end

section
/-! O59: the state after reset. -/

namespace Sys2Proof.Machine

/-- No context is listed after reset, so each reads as a free one. -/
theorem reset_ctxAt (n : Nat) : State.reset.ctxAt n = {} := rfl

/-- The CSRs that R142 to R149 and R158 give the reset value 0. -/
theorem reset_csrs_zero : ∀ k ∈ [0x000, 0x001, 0x002, 0x003, 0x004, 0x005, 0x008, 0x020, 0x021, 0x022, 0x024, 0x025, 0x026,
    0x027, 0x100, 0x101, 0x102, 0x103, 0x104, 0x105, 0x106, 0x107], State.reset.csrRead {} k = 0 := by
  decide

end Sys2Proof.Machine

namespace Sys2Proof.Proofs

open Sys2Proof Sys2Proof.Machine Sys2Proof.Claims

/-- Settles O59: every table is empty after reset, so that each part reads as its default. -/
theorem resetState : Obligations.ResetState := by
  unfold Obligations.ResetState
  intro r
  refine ⟨rfl, rfl, rfl, fun _ => rfl, fun _ _ => rfl, rfl, rfl, rfl, rfl, rfl, rfl, rfl, rfl, rfl, rfl, rfl, rfl, rfl, rfl,
    rfl, rfl, fun n => ?_, rfl, rfl, rfl, rfl, rfl, rfl, rfl, rfl, rfl, rfl, rfl, rfl⟩
  intro c
  have hc : c = {} := reset_ctxAt n
  rw [hc]
  exact ⟨rfl, rfl, rfl, rfl, Ctx.reg_default, reset_csrs_zero, rfl, rfl, rfl, rfl⟩

end Sys2Proof.Proofs
end

section
/-! Predicate instructions, vsetfib, vext, vins, pcnt and pfirst (R205 to R209), and O27. -/

namespace Sys2Proof.Machine

open Sys2Proof.Claims

/-! ## Loops that write bits -/

/-- What the loop of R169 writes of a predicate destination at one element: the bit of an active one, and under .z a zero
bit else. -/
def VEnv.bitRow (v : VEnv) (k : Nat) (p : BitVec 4) (pz : Bool) (F : Nat → Bool) (e : Nat) : List PredWrite :=
  if v.act p e then [v.putPred k e (F e)] else if pz then [v.putPred k e false] else []

section
variable {v : VEnv} {k : Nat} {p : BitVec 4} {pz : Bool} {F : Nat → Bool}

theorem bitOf_odd (b : Bool) : (bitOf b % 2 == 1) = b := by cases b <;> rfl

theorem laneRun_bits : ∀ (l : List Nat) (g : SlotLog),
    laneRun v (.pred k) p pz (fun _ e => .ok (bitOf (F e), 0)) l g =
      { log := { g with preds := (l.flatMap (v.bitRow k p pz F)).reverse ++ g.preds } }
  | [], _ => rfl
  | e :: l, g => by
    have ih := laneRun_bits l
    have hquiet : (0 : FpFlags) &&& v.c.fcsr.extractLsb' 6 6 = 0 := BitVec.zero_and
    unfold laneRun
    simp only [hquiet, ne_eq, not_true_eq_false, ↓reduceIte, ih, List.flatMap_cons, List.reverse_append, List.append_assoc]
    unfold VEnv.bitRow
    split
    · simp only [putElem, bitOf_odd]
      rfl
    · split <;> rfl

/-- A predicate instruction writes its bits, and nothing else (R209): no bit raises a flag, and none reads a slice. -/
theorem VEnv.predOp_eq (h : v.s.slicePoison = []) (f : VR) :
    v.predOp f F = { log := { preds := v.elems.flatMap (v.bitRow f.dest.s f.pred f.pz F) } } := by
  refine (VEnv.loop_eq_laneSlot h).trans ?_
  unfold laneSlot
  simp only [laneRun_bits, List.append_nil, List.reverse_reverse, List.reverse_nil]
  rfl

end

/-! ## The least set bit -/

theorem VEnv.elems_ascend (v : VEnv) : v.elems.Pairwise (· < ·) :=
  List.pairwise_lt_range.map _ fun _ _ h => Nat.add_lt_add_left h _

theorem VEnv.setBits_ascend (v : VEnv) (f : VR) : (v.setBits f).Pairwise (· < ·) :=
  (v.elems_ascend.filter _).filter _

theorem head?_eq_of_least {l : List Nat} {e : Nat} (hl : l.Pairwise (· < ·)) (he : e ∈ l) (hmin : ∀ k ∈ l, e ≤ k) :
    l.head? = some e := by
  cases l with
  | nil => cases he
  | cons a l =>
    have hle := hmin a List.mem_cons_self
    rcases List.mem_cons.1 he with rfl | hmem
    · rfl
    · exact absurd (List.rel_of_pairwise_cons hl hmem) (Nat.not_lt.2 hle)

/-! ## The slots -/

section
variable {s : State} {cv : Convoy} {i : Instr} {f : VR}

/-- A slot that writes a scalar register alone. -/
def State.scalarBy (s : State) (cv : Convoy) (i : Instr) (r : XReg) (w : Word) : State :=
  slotRan s cv i { log := { scalar := some (r, w) } }

theorem State.runPlain_predOp (hs : openSlot s cv) (hi : asRun i = i) (G : VEnv → Nat → Bool) :
    s.runPlain i (fun v => v.predOp f (G v)) = .next (slotRan s cv i { log := {
      preds := (slotEnv s cv).elems.flatMap ((slotEnv s cv).bitRow f.dest.s f.pred f.pz (G (slotEnv s cv))) } }) :=
  State.runPlain_eq hs.1 hi (VEnv.predOp_eq hs.2 f)

theorem exec_pfirst_least (hs : openSlot s cv) {e : Nat} (he : e ∈ (slotEnv s cv).setBits f)
    (hmin : ∀ k ∈ (slotEnv s cv).setBits f, e ≤ k) :
    exec (.pfirst f) s = .next (s.scalarBy cv (.pfirst f) f.dest.reg (BitVec.ofNat 64 e)) :=
  State.runPlain_eq hs.1 rfl (by rw [head?_eq_of_least (VEnv.setBits_ascend _ f) he hmin])

theorem exec_pfirst_none (hs : openSlot s cv) (hnone : (slotEnv s cv).setBits f = []) :
    exec (.pfirst f) s = .next (s.scalarBy cv (.pfirst f) f.dest.reg (BitVec.allOnes 64)) :=
  State.runPlain_eq hs.1 rfl (by rw [hnone]; rfl)

theorem exec_vext (hs : openSlot s cv) :
    let v := slotEnv s cv
    let e := (v.c.reg f.src2.reg).toNat
    exec (.vext f) s = .next (s.scalarBy cv (.vext f) f.dest.reg
      (if v.act f.pred e then BitVec.ofInt 64 (intBits f.ext f.src1.w (v.get f.src1 e)) else 0)) := by
  intro v e
  refine State.runPlain_eq hs.1 rfl ?_
  dsimp only
  rw [VEnv.poisonCheck_clean (v := slotEnv s cv) hs.2, ofNat_wrapTo]
  split <;> rfl

theorem exec_vins_active (hs : openSlot s cv)
    (hact : (slotEnv s cv).act f.pred ((slotEnv s cv).c.reg f.src1.reg).toNat = true) :
    let v := slotEnv s cv
    let e := (v.c.reg f.src1.reg).toNat
    exec (.vins f) s = .next (slotRan s cv (.vins f) { log := {
      slices := v.put f.dest e ((v.c.reg f.src2.reg).toNat % 2 ^ (4 * f.dest.w))
      rows := [(v.row e, f.dest.s + f.dest.w * v.row e, f.dest.w)] } }) := by
  refine State.runPlain_eq hs.1 rfl ?_
  dsimp only
  rw [if_pos hact, VEnv.poisonCheck_clean (v := slotEnv s cv) hs.2]
  rfl

theorem exec_vins_inactive (hs : openSlot s cv)
    (hact : (slotEnv s cv).act f.pred ((slotEnv s cv).c.reg f.src1.reg).toNat = false) :
    exec (.vins f) s = .next (slotRan s cv (.vins f) {}) := by
  refine State.runPlain_eq hs.1 rfl ?_
  dsimp only
  rw [hact]
  rfl

theorem exec_vsetfib (hs : openSlot s cv) :
    let v := slotEnv s cv
    exec (.vsetfib f) s = .next (slotRan s cv (.vsetfib f) { log := {
      preds := v.elems.map fun e => v.putPred f.dest.s e (v.newKey f e)
      scalar := some (f.src2.reg, BitVec.ofNat 64 (v.elems.filter (v.newKey f)).length) } }) := by
  refine State.runPlain_eq hs.1 rfl ?_
  rw [VEnv.firstPoison_clean (v := slotEnv s cv) hs.2]

end

end Sys2Proof.Machine

namespace Sys2Proof.Proofs

open Sys2Proof Sys2Proof.Machine Sys2Proof.Claims

/-- Settles O27: the loop of a predicate instruction only writes bits, the set bits are listed in ascending order, and no
slice is poisoned, so that no slot can fault. -/
theorem predicateAndScalarSlots : Obligations.PredicateAndScalarSlots := by
  unfold Obligations.PredicateAndScalarSlots
  intro s cv f hs v row bits scalar ones i j
  exact ⟨State.runPlain_predOp hs rfl _, State.runPlain_predOp hs rfl _, State.runPlain_predOp hs rfl _,
    State.runPlain_predOp hs rfl _, State.runPlain_predOp hs rfl _, State.runPlain_predOp hs rfl _,
    State.runPlain_eq hs.1 rfl rfl, fun e he hmin => exec_pfirst_least hs he hmin, fun h => exec_pfirst_none hs h,
    exec_vext hs, fun h => exec_vins_active hs h, fun h => exec_vins_inactive hs h, exec_vsetfib hs⟩

end Sys2Proof.Proofs
end

section
/-! A VT slot whose items are open (R214, R228, R229), tprune, tprune.t, tpackt and tunpack (R237 to R240), and O37. -/

namespace Sys2Proof.Machine

open Sys2Proof.Claims

/-! ## Slots whose items are open -/

theorem State.tileUe_clean {s : State} (h : s.tilePoison = []) (l : List (Nat × Nat × Nat)) : s.tileUe l = none := by
  simp [State.tileUe, h]

section
variable {s : State} {cv : Convoy} {i j : Instr} {run : VEnv → SlotRes} {items : List Nat}

/-- A VT slot whose items are open does what its operation does. -/
theorem State.runTile_eq (ho : itemsOpen s items) (hj : vtItems j = some items) :
    ∃ run', s.runTile j run = .next (s.runSlot j run') ∧ run' (slotEnv s cv) = run (slotEnv s cv) := by
  obtain ⟨hoff, hfree, -⟩ := ho
  refine ⟨_, rfl, ?_⟩
  have hoff' : (slotEnv s cv).c.tileOff items = none := hoff
  have hfree' : (slotEnv s cv).s.tokensName (slotEnv s cv).c items = false := hfree
  simp only [hj, Option.getD_some, hoff', hfree', Bool.false_eq_true, ↓reduceIte]

/-- A VT slot that completes. -/
theorem State.runTile_done {a : VAcc} (hs : openSlot s cv) (ho : itemsOpen s items) (hi : asRun i = j)
    (hj : vtItems j = some items) (hrun : run (slotEnv s cv) = .done a s) : s.runTile j run = .next (slotRan s cv i a) := by
  obtain ⟨run', hexec, hsame⟩ := State.runTile_eq (run := run) ho hj
  rw [hexec, State.runSlot_done hs.1 hi (hsame.trans hrun), slotRan]

/-- A VT slot that breaks a rule of its shapes. -/
theorem State.runTile_whole {t : TrapInfo} (hs : openSlot s cv) (ho : itemsOpen s items) (hi : asRun i = j)
    (hj : vtItems j = some items) (hrun : run (slotEnv s cv) = .whole {} t s) :
    s.runTile j run = .next (wholeRan s s cv i t) := by
  obtain ⟨run', hexec, hsame⟩ := State.runTile_eq (run := run) ho hj
  rw [hexec, State.runSlot_whole hs.1 (hsame.trans hrun), wholeRan, logged, hi]
  rfl

end

/-! ## tprune, tpackt and tunpack -/

/-- tprune and tprune.t are one operation, which the fn field of its word tells apart (R237, R238). -/
theorem exec_prune_cases {i : Instr} {f : VT} {trans : Bool}
    (h : i = .tprune f ∧ trans = decide (f.fn = 1) ∨ i = .tpruneT f ∧ trans = true) (s : State) :
    ∃ g : VT, exec i s = s.prune g ∧ asRun i = .tprune g ∧ g.td = f.td ∧ g.ta = f.ta ∧ decide (g.fn = 1) = trans := by
  obtain ⟨rfl, rfl⟩ | ⟨rfl, rfl⟩ := h
  · exact ⟨f, rfl, rfl, rfl, rfl, rfl⟩
  · exact ⟨{ f with fn := 1 }, rfl, rfl, rfl, rfl, rfl⟩

end Sys2Proof.Machine

namespace Sys2Proof.Proofs

open Sys2Proof Sys2Proof.Machine Sys2Proof.Claims

/-- Settles O37: each instruction makes its shape checks in the order of its clauses, and past the last of them no row is
poisoned, so that it logs its writes. -/
theorem tilePruneAndPackSlots : Obligations.TilePruneAndPackSlots := by
  unfold Obligations.TilePruneAndPackSlots
  intro s cv f hs ho cls d a wd wa b rows row val m shape group block kept fits
  have clean := State.tileUe_clean ho.2.2
  refine ⟨fun i trans hi => ?_, ?_, ?_⟩
  · obtain ⟨g, hexec, hrun, hd, ha, htrans⟩ := exec_prune_cases hi s
    have items : vtItems (.tprune g) = some [f.td.toNat, f.ta.toNat] := by simp only [vtItems, hd, ha]
    have misfit : (m ≤ 1 ∨ rows ≠ tcRows wd ∨ tcCols wa ≠ tcCols wd ∨ tcFmt wa ≠ tcFmt wd ∨ tcCols wa % m ≠ 0) ↔ ¬ fits := by
      simp only [fits, not_and_or, not_lt, ne_eq]
    refine ⟨fun h => ?_, fun h1 h2 => ?_, fun h1 h2 h3 h4 => ?_, fun h1 h2 h3 => ?_⟩
    · refine hexec.trans (State.runTile_whole hs ho hrun items ?_)
      rw [hd, ha]
      exact if_pos h
    · refine hexec.trans (State.runTile_whole hs ho hrun items ?_)
      rw [hd, ha]
      exact (if_neg (not_not.2 h1)).trans (if_pos (misfit.2 h2))
    · refine hexec.trans (State.runTile_whole hs ho hrun items ?_)
      rw [hd, ha]
      exact (if_neg (not_not.2 h1)).trans ((if_neg fun h => misfit.1 h h2).trans (if_pos ⟨htrans.trans h3, h4⟩))
    · refine hexec.trans (State.runTile_done hs ho hrun items ?_)
      rw [hd, ha, htrans]
      refine (if_neg (not_not.2 h1)).trans ((if_neg fun h => misfit.1 h h2).trans ((if_neg fun h => h.2 (h3 h.1)).trans ?_))
      simp only [slotEnv, clean]
      rfl
  · intro turned
    have misfit : (tcRows wd ≠ tcCols wa ∨ tcCols wd ≠ rows ∨ tcN wd ≠ tcN wa ∨ tcM wd ≠ tcM wa ∨ tcFmt wd ≠ tcFmt wa) ↔
        ¬ turned := by
      simp only [turned, not_and_or, ne_eq]
    have transposed : tcTR wa = true → ¬ (!tcTR wa) = true := fun h => by simp [h]
    refine ⟨fun h => ?_, fun h1 h2 => ?_, fun h1 h2 h3 => ?_, fun h1 h2 h3 => ?_⟩
    · exact State.runTile_whole hs ho rfl rfl (if_pos (congrArg Bool.not h))
    · exact State.runTile_whole hs ho rfl rfl ((if_neg (transposed h1)).trans (if_pos (misfit.2 h2)))
    · exact State.runTile_whole hs ho rfl rfl
        ((if_neg (transposed h1)).trans ((if_neg fun h => misfit.1 h h2).trans (if_pos h3)))
    · refine State.runTile_done hs ho rfl rfl
        ((if_neg (transposed h1)).trans ((if_neg fun h => misfit.1 h h2).trans ((if_neg (not_not.2 h3)).trans ?_)))
      simp only [slotEnv, clean]
      rfl
  · intro same column
    have misfit : (m ≠ 1 ∨ tcFmt wd ≠ tcFmt wa ∨ tcRows wd ≠ rows ∨ tcCols wd ≠ tcCols wa) ↔ ¬ same := by
      simp only [same, not_and_or, ne_eq]
    refine ⟨fun h => State.runTile_whole hs ho rfl rfl (if_pos (misfit.2 h)), fun h => ?_⟩
    refine State.runTile_done hs ho rfl rfl ((if_neg fun h' => misfit.1 h' h).trans ?_)
    simp only [slotEnv, clean]
    rfl

end Sys2Proof.Proofs
end

section
/-! What dispatch and completion of a token change in the matrix nodes of its span, and the dispatch of an mx instruction
(R221, R222, R226, R227, R284). -/

namespace Sys2Proof.Machine

open Sys2Proof.Claims

/-! ## A change of the nodes of some clusters -/

/-- A share's node of a cluster is replaced by what a function makes of it. -/
def State.onNode (share : Nat) (h : Node → Node) (s : State) (cl : Nat) : State :=
  s.setCl cl { s.clAt cl with nodes := smPut share (h (s.nodeAt cl share)) (s.clAt cl).nodes }

section
variable {share : Nat} {h : Node → Node} {s : State} {cl k : Nat}

theorem State.nodeAt_onNode_same : (s.onNode share h cl).nodeAt cl share = h (s.nodeAt cl share) := by
  unfold State.nodeAt State.onNode
  rw [State.clAt_setCl_same, smGet_put_same]
  rfl

theorem State.clAt_onNode_other (hk : k ≠ cl) : (s.onNode share h cl).clAt k = s.clAt k :=
  State.clAt_setCl_other _ hk _

theorem State.nodeAt_congr {t : State} (h : t.clAt k = s.clAt k) : t.nodeAt k share = s.nodeAt k share := by
  simp only [State.nodeAt, h]

/-- A change of a node leaves the configuration of its cluster's scratchpad and command channel. -/
theorem State.onNode_config (s : State) (cl k : Nat) : ((s.onNode share h cl).clAt k).spcfg = (s.clAt k).spcfg ∧
    ((s.onNode share h cl).clAt k).nodeCmd = (s.clAt k).nodeCmd := by
  by_cases hk : k = cl
  · rw [hk, State.onNode, State.clAt_setCl_same]
    exact ⟨rfl, rfl⟩
  · rw [State.clAt_onNode_other hk]
    exact ⟨rfl, rfl⟩

variable (share h)

theorem State.clAt_foldl_onNode_other (l : List Nat) (s : State) (hk : k ∉ l) :
    (l.foldl (State.onNode share h) s).clAt k = s.clAt k := by
  induction l generalizing s with
  | nil => rfl
  | cons cl l ih =>
    rw [List.mem_cons, not_or] at hk
    rw [List.foldl_cons, ih _ hk.2, State.clAt_onNode_other hk.1]

theorem State.nodeAt_foldl_onNode (l : List Nat) (s : State) (hl : l.Nodup) (hk : k ∈ l) :
    (l.foldl (State.onNode share h) s).nodeAt k share = h (s.nodeAt k share) := by
  induction l generalizing s with
  | nil => cases hk
  | cons cl l ih =>
    rw [List.nodup_cons] at hl
    rw [List.foldl_cons]
    rcases List.mem_cons.1 hk with rfl | hk
    · rw [State.nodeAt_congr (State.clAt_foldl_onNode_other share h l _ hl.1), State.nodeAt_onNode_same]
    · have hne : k ≠ cl := fun e => hl.1 (e ▸ hk)
      rw [ih _ hl.2 hk, State.nodeAt_congr (State.clAt_onNode_other hne)]

theorem State.foldl_onNode_config (l : List Nat) (s : State) (k : Nat) :
    ((l.foldl (State.onNode share h) s).clAt k).spcfg = (s.clAt k).spcfg ∧
      ((l.foldl (State.onNode share h) s).clAt k).nodeCmd = (s.clAt k).nodeCmd :=
  Prod.mk.inj (foldl_keeps _ (fun s : State => ((s.clAt k).spcfg, (s.clAt k).nodeCmd))
    (fun s cl => Prod.ext (s.onNode_config cl k).1 (s.onNode_config cl k).2) l s)

/-- Nothing but the clusters changes. -/
theorem State.foldl_onNode_frame : ∀ (l : List Nat) (s : State),
    l.foldl (State.onNode share h) s = { s with clusters := (l.foldl (State.onNode share h) s).clusters }
  | [], _ => rfl
  | cl :: l, s => by
    rw [List.foldl_cons, State.foldl_onNode_frame l (s.onNode share h cl)]
    rfl

end

/-! ## Tokens that complete and tokens that are dispatched -/

/-- A node from whose FIFO its head has gone. -/
def Node.pop (n : Node) : Node := { n with fifo := n.fifo.tail }

/-- A node that has completed one more token (R226). -/
def Node.count (n : Node) : Node := { n with completed := n.completed + 1 }

/-- A node to which a token is dispatched whose stream starts at a cycle (R226, R227). -/
def Node.accept (start : Nat) (t : Token) (n : Node) : Node :=
  if t.null then { n with dispatched := n.dispatched + 1, completed := n.completed + 1 }
  else
    { n with
      fifo := n.fifo ++ [{ t with doneAt := start + t.stream.1 + t.stream.2 }]
      streamEnd := start + t.stream.1
      dispatched := n.dispatched + 1 }

theorem State.popToken_eq (share : Nat) : State.popToken share = State.onNode share Node.pop := rfl

theorem State.perfCount_none {s : State} (h : s.perf = []) (block code : Nat) (pasid : Option Word) (n : Nat) :
    s.perfCount block code pasid n = s := by
  simp [State.perfCount, State.perfCountOf, h]

/-- Without counters that count and without a milestone of the node, a completion does no more than count. -/
theorem State.tokenDone_eq {s : State} {cl : Nat} (hperf : s.perf = []) (hcmd : (s.clAt cl).nodeCmd = none) (share sid : Nat) :
    s.tokenDone cl share sid = s.onNode share Node.count cl := by
  have hperf' : (s.onNode share Node.count cl).perf = [] := hperf
  unfold State.tokenDone
  dsimp only
  split
  next => exact State.perfCount_none hperf' ..
  next k hk => exact absurd (hcmd.symm.trans hk) nofun

theorem State.foldl_tokenDone_eq (share sid : Nat) : ∀ (l : List Nat) (s : State), s.perf = [] →
    (∀ cl ∈ l, (s.clAt cl).nodeCmd = none) →
    l.foldl (fun s cl => s.tokenDone cl share sid) s = l.foldl (State.onNode share Node.count) s
  | [], _, _, _ => rfl
  | cl :: l, s, hperf, hcmd => by
    rw [List.foldl_cons, List.foldl_cons, State.tokenDone_eq hperf (hcmd cl (.head l))]
    exact State.foldl_tokenDone_eq share sid l _ hperf fun k hk => (s.onNode_config cl k).2.trans (hcmd k (.tail _ hk))

/-- Two changes of one node are one. -/
theorem State.onNode_onNode (share : Nat) (g h : Node → Node) (s : State) (cl : Nat) :
    (s.onNode share g cl).onNode share h cl = s.onNode share (h ∘ g) cl := by
  have hnode : (s.onNode share g cl).nodeAt cl share = g (s.nodeAt cl share) := State.nodeAt_onNode_same
  rw [State.onNode, hnode, State.onNode, State.clAt_setCl_same]
  simp only [State.setCl, smPut_put, State.onNode, Function.comp_apply]

theorem State.pushToken_eq {s : State} {cl : Nat} {t : Token}
    (hnull : t.null = true → s.perf = [] ∧ (s.clAt cl).nodeCmd = none) (start share : Nat) :
    State.pushToken start share t s cl = s.onNode share (Node.accept start t) cl := by
  unfold State.pushToken Node.accept
  dsimp only
  split
  next ht =>
    obtain ⟨hperf, hcmd⟩ := hnull ht
    have hperf' : (s.onNode share (fun n => { n with dispatched := n.dispatched + 1 }) cl).perf = [] := hperf
    refine (State.tokenDone_eq hperf' ((s.onNode_config cl cl).2.trans hcmd) share t.sid).trans ?_
    exact State.onNode_onNode ..
  next => rfl

theorem State.foldl_pushToken_eq {t : Token} (start share : Nat) : ∀ (l : List Nat) (s : State),
    (t.null = true → s.perf = [] ∧ ∀ cl ∈ l, (s.clAt cl).nodeCmd = none) →
    l.foldl (State.pushToken start share t) s = l.foldl (State.onNode share (Node.accept start t)) s
  | [], _, _ => rfl
  | cl :: l, s, hnull => by
    rw [List.foldl_cons, List.foldl_cons, State.pushToken_eq fun h => ⟨(hnull h).1, (hnull h).2 cl (.head l)⟩]
    exact State.foldl_pushToken_eq start share l _ fun h =>
      ⟨(hnull h).1, fun k hk => (s.onNode_config cl k).2.trans ((hnull h).2 k (.tail _ hk))⟩

/-- A token that completes at once counts alone: no counter counts it, and no milestone hears of it. -/
def State.dispatchesPlainly (s : State) (t : Token) : Prop :=
  t.null = true → s.perf = [] ∧ ∀ cl ∈ t.span, (s.clAt cl).nodeCmd = none

section
variable {s : State} {t : Token} (hnull : s.dispatchesPlainly t) (share : Nat)
include hnull

theorem State.dispatch_eq : s.dispatch share t =
    t.span.foldl (State.onNode share (Node.accept (s.streamStart t.span share) { t with num := s.nextId }))
      { s with nextId := s.nextId + 1 } :=
  State.foldl_pushToken_eq _ share t.span _ hnull

theorem State.dispatch_frame :
    s.dispatch share t = { s with clusters := (s.dispatch share t).clusters, nextId := s.nextId + 1 } := by
  rw [State.dispatch_eq hnull share]
  exact State.foldl_onNode_frame ..

theorem State.clAt_dispatch_other {cl : Nat} (hcl : cl ∉ t.span) : (s.dispatch share t).clAt cl = s.clAt cl := by
  rw [State.dispatch_eq hnull share, State.clAt_foldl_onNode_other _ _ _ _ hcl]
  rfl

theorem State.nodeAt_dispatch (hspan : t.span.Nodup) {cl : Nat} (hcl : cl ∈ t.span) :
    (s.dispatch share t).nodeAt cl share =
      Node.accept (s.streamStart t.span share) { t with num := s.nextId } (s.nodeAt cl share) := by
  rw [State.dispatch_eq hnull share, State.nodeAt_foldl_onNode _ _ _ _ hspan hcl]
  rfl

end

/-! ## mx instructions -/

theorem exec_eq_mxOp {i : Instr} {op rm : BitVec 3} {acc ta tb : Nat} (h : mxOf i = some (op, acc, ta, tb, rm)) (s : State) :
    exec i s = s.mxOp op acc ta tb rm := by
  unfold mxOf at h
  split at h <;> cases h
  all_goals rfl

theorem Ctx.clusters_nodup (c : Ctx) : c.clusters.Nodup := by
  unfold Ctx.clusters
  split
  · exact List.nodup_range.map fun _ _ h => Nat.add_left_cancel h
  · exact List.nodup_singleton _

theorem State.nodesFull_iff (s : State) (c : Ctx) :
    s.nodesFull c = true ↔ ∃ cl ∈ c.clusters, 16 ≤ (nodeOf s cl c.shareNo).fifo.length := by
  simp only [State.nodesFull, List.any_eq_true, decide_eq_true_eq]
  rfl

section
variable {s : State} {op rm : BitVec 3} {acc ta tb : Nat} {t : Token}

theorem State.mxOp_full
    (hcheck : s.me.tokenCheck (s.me.token s.cur op acc ta tb rm s.me.mxm.toNat s.me.mxn.toNat s.me.mxk.toNat) = none)
    (hfull : ∃ cl ∈ s.me.clusters, 16 ≤ (nodeOf s cl s.me.shareNo).fifo.length) :
    s.mxOp op acc ta tb rm = .next (s.setMe { s.me with wait := some .engine }) := by
  unfold State.mxOp
  dsimp only
  rw [hcheck]
  exact if_pos ((s.nodesFull_iff s.me).2 hfull)

/-- The token joins the nodes of its span, and the strand goes on with the token's latency in MXLAT. -/
theorem State.mxOp_dispatch
    (ht : t = s.me.token s.cur op acc ta tb rm s.me.mxm.toNat s.me.mxn.toNat s.me.mxk.toNat)
    (hcheck : s.me.tokenCheck t = none) (hroom : ∀ cl ∈ s.me.clusters, (nodeOf s cl s.me.shareNo).fifo.length < 16) :
    let c := { s.me with mxlat := BitVec.ofNat 64 (s.tokenLatency s.me.shareNo t % 2 ^ 16) }
    s.mxOp op acc ta tb rm = .next (((s.setMe c).releasePackage s.cur).dispatch s.me.shareNo t).pass := by
  have hfull : ¬ s.nodesFull s.me = true := by
    rw [s.nodesFull_iff]
    rintro ⟨cl, hcl, hlen⟩
    exact absurd (hroom cl hcl) (by omega)
  subst ht
  unfold State.mxOp
  dsimp only
  rw [hcheck]
  exact if_neg hfull

/-- What a state is after an mx instruction has dispatched its token (R221, R226, R227, R284). -/
structure State.Dispatched (s u : State) (t : Token) : Prop where
  node : ∀ cl ∈ s.me.clusters, nodeOf u cl s.me.shareNo =
    Node.accept (s.streamStart s.me.clusters s.me.shareNo) { t with num := s.nextId } (nodeOf s cl s.me.shareNo)
  other : ∀ cl, cl ∉ s.me.clusters → u.clAt cl = s.clAt cl
  frame : u = { s with clusters := u.clusters, ctxs := u.ctxs, nextId := s.nextId + 1, writes := u.writes, moment := u.moment }
  order : s.writes = [] → u.writes = [] ∧ u.moment = s.moment
  me : u.me = onward { s.me with mxlat := BitVec.ofNat 64 (s.tokenLatency s.me.shareNo t % 2 ^ 16) }

/-- A release and a dispatch change the order of writes, the nodes and MXLAT. -/
theorem State.dispatched_after_release {c : Ctx} (hspan : t.span = s.me.clusters) (hnull : s.dispatchesPlainly t)
    (hc : c = { s.me with mxlat := BitVec.ofNat 64 (s.tokenLatency s.me.shareNo t % 2 ^ 16) }) :
    s.Dispatched (((s.setMe c).releasePackage s.cur).dispatch s.me.shareNo t).pass t := by
  have hsame := State.releaseTo_sameBut (s.setMe c) s.cur 0xFFFF ((s.setMe c).ctxAt s.cur).die 3
  have hkept : s.writes = [] → _ := fun h => State.releaseTo_none (s := s.setMe c) h s.cur 0xFFFF ((s.setMe c).ctxAt s.cur).die 3
  unfold State.releasePackage
  generalize (s.setMe c).releaseTo s.cur 0xFFFF ((s.setMe c).ctxAt s.cur).die 3 = r at hsame hkept
  obtain ⟨ws, m, rfl⟩ : ∃ ws m, r = { s.setMe c with writes := ws, moment := m } := ⟨_, _, hsame⟩
  generalize hr : ({ s.setMe c with writes := ws, moment := m } : State) = r at hkept
  have hnull' : r.dispatchesPlainly t := hr ▸ hnull
  have hframe := State.dispatch_frame hnull' s.me.shareNo
  refine ⟨fun cl hcl => ?_, fun cl hcl => ?_, ?_, fun hw => ?_, ?_⟩
  · refine (State.nodeAt_dispatch hnull' s.me.shareNo (hspan ▸ s.me.clusters_nodup) (hspan ▸ hcl)).trans ?_
    rw [hspan, ← hr]
    rfl
  · refine (State.clAt_dispatch_other hnull' s.me.shareNo (hspan ▸ hcl)).trans ?_
    rw [← hr]
    rfl
  · rw [hframe, ← hr]
    rfl
  · rw [hframe, hkept hw]
    exact ⟨hw, rfl⟩
  · rw [hframe, State.pass_me, ← hr, ← hc]
    exact congrArg onward (State.me_setMe s c)

end

end Sys2Proof.Machine
end

section
/-! Logged writes to tile state: which entry or bit a list of them leaves, and the bits of tile elements (R212, R214, R229). -/

namespace Sys2Proof.Machine

open Sys2Proof.Claims

/-! ## Lists of writes -/

/-- Without poison a list of writes is performed one by one, and nothing is healed. -/
theorem State.applyTiles_clean {s : State} (h : s.tilePoison = []) (n : Nat) (l : List TileWrite) :
    s.applyTiles n l = l.foldl (fun s w => s.applyTile n w) s := by
  have kept : ∀ w (s : State), (s.applyTile n w).tilePoison = s.tilePoison := fun w s => by cases w <;> rfl
  have hclean : (l.foldl (fun s w => s.applyTile n w) s).tilePoison = [] :=
    (foldl_keeps _ State.tilePoison (fun s w => kept w s) l s).trans h
  unfold State.applyTiles State.healTiles
  rw [hclean]
  generalize l.foldl (fun s w => s.applyTile n w) s = t at hclean
  dsimp only
  rw [List.filter_nil, ← hclean]

/-- The write of an accumulator entry, and the write of bits of a tile byte. -/
def TileWrite.isAcc (w : TileWrite) : Prop := ∃ k v, w = .acc k v
def TileWrite.isByte (w : TileWrite) : Prop := ∃ k v m, w = .byte k v m

section
variable (n : Nat)

theorem State.foldl_acc_frame (l : List TileWrite) (s : State) (hl : ∀ w ∈ l, w.isAcc) :
    l.foldl (fun s w => s.applyTile n w) s = { s with accs := (l.foldl (fun s w => s.applyTile n w) s).accs } := by
  induction l generalizing s with
  | nil => rfl
  | cons w l ih =>
    obtain ⟨k, v, rfl⟩ := hl w (.head l)
    rw [List.foldl_cons, ih _ fun w hw => hl w (.tail _ hw)]
    rfl

theorem State.foldl_byte_frame (l : List TileWrite) (s : State) (hl : ∀ w ∈ l, w.isByte) :
    l.foldl (fun s w => s.applyTile n w) s = { s with tiles := (l.foldl (fun s w => s.applyTile n w) s).tiles } := by
  induction l generalizing s with
  | nil => rfl
  | cons w l ih =>
    obtain ⟨k, v, m, rfl⟩ := hl w (.head l)
    rw [List.foldl_cons, ih _ fun w hw => hl w (.tail _ hw)]
    rfl

/-- An entry that no write of a list names keeps its value. -/
theorem State.foldl_acc_other (q : Nat) (l : List TileWrite) (s : State) (hl : ∀ w ∈ l, w.isAcc) (hq : ∀ v, .acc q v ∉ l) :
    smGet 0 (l.foldl (fun s w => s.applyTile n w) s).accs q = smGet 0 s.accs q := by
  induction l generalizing s with
  | nil => rfl
  | cons w l ih =>
    obtain ⟨k, v, rfl⟩ := hl w (.head l)
    have hk : q ≠ k := fun e => hq v (e ▸ .head l)
    rw [List.foldl_cons, ih _ (fun w hw => hl w (.tail _ hw)) fun v hv => hq v (.tail _ hv)]
    exact smGet_set_other 0 hk v s.accs

/-- Where all the writes of an entry in a list agree, the entry gets their value. -/
theorem State.foldl_acc_value (q : Nat) (x : BitVec 40) (l : List TileWrite) (s : State) (hs : smWf (0 : BitVec 40) s.accs = true)
    (hl : ∀ w ∈ l, w.isAcc) (hagree : ∀ v, .acc q v ∈ l → v = x) (hx : .acc q x ∈ l ∨ smGet 0 s.accs q = x) :
    smGet 0 (l.foldl (fun s w => s.applyTile n w) s).accs q = x := by
  induction l generalizing s with
  | nil => exact hx.resolve_left List.not_mem_nil
  | cons w l ih =>
    obtain ⟨k, v, rfl⟩ := hl w (.head l)
    rw [List.foldl_cons]
    refine ih _ (smWf_set 0 k v hs) (fun w hw => hl w (.tail _ hw)) (fun v hv => hagree v (.tail _ hv)) ?_
    by_cases hk : q = k
    · subst hk
      exact .inr ((smGet_set_same 0 v hs).trans (hagree v (.head l)))
    · refine hx.imp (fun h => ?_) fun h => (smGet_set_other 0 hk v s.accs).trans h
      exact (List.mem_cons.1 h).resolve_left fun e => hk (TileWrite.acc.inj e).1

/-! ## Bits of tile bytes -/

/-- A write gives bit p of the byte at a key a value. -/
def TileWrite.setsBit (w : TileWrite) (k p : Nat) (x : Bool) : Prop :=
  ∃ v m, w = .byte k v m ∧ m.getLsbD p = true ∧ v.getLsbD p = x

/-- A bit of the byte at a key. -/
def State.tileBit (s : State) (k p : Nat) : Bool := (smGet (0 : Byte) s.tiles k).getLsbD p

theorem State.tileBit_applyTile_byte {s : State} (hs : Memory.wf s.tiles = true) (k p q : Nat) (v m : Byte) :
    (s.applyTile n (.byte k v m)).tileBit q p =
      if q = k ∧ m.getLsbD p = true then v.getLsbD p else s.tileBit q p := by
  have hget : smGet (0 : Byte) (s.applyTile n (.byte k v m)).tiles q =
      if q = k then (smGet 0 s.tiles k &&& ~~~m) ||| (v &&& m) else smGet 0 s.tiles q := by
    split
    next h => exact h ▸ smGet_set_same 0 _ hs
    next h => exact smGet_set_other 0 h _ s.tiles
  unfold State.tileBit
  rw [hget]
  by_cases h : q = k
  · subst h
    by_cases hp : p < 8
    · simp only [BitVec.getLsbD_or, BitVec.getLsbD_and, BitVec.getLsbD_not, hp, decide_true, Bool.true_and, if_true, true_and]
      cases m.getLsbD p <;> simp
    · have hge : 8 ≤ p := by omega
      simp [BitVec.getLsbD_of_ge _ _ hge]
  · simp [h]

/-- Where all the writes of a bit in a list agree, the bit gets their value; a bit that none writes keeps its own. -/
theorem State.foldl_byte_bit (q p : Nat) (x : Bool) (l : List TileWrite) (s : State) (hs : Memory.wf s.tiles = true)
    (hl : ∀ w ∈ l, w.isByte) (hagree : ∀ w ∈ l, ∀ y, w.setsBit q p y → y = x)
    (hx : (∃ w ∈ l, w.setsBit q p x) ∨ s.tileBit q p = x) :
    (l.foldl (fun s w => s.applyTile n w) s).tileBit q p = x := by
  induction l generalizing s with
  | nil => exact hx.resolve_left fun ⟨w, hw, _⟩ => List.not_mem_nil hw
  | cons w l ih =>
    obtain ⟨k, v, m, rfl⟩ := hl w (.head l)
    rw [List.foldl_cons]
    refine ih _ (Memory.wf_set hs k _) (fun w hw => hl w (.tail _ hw)) (fun w hw => hagree w (.tail _ hw)) ?_
    rw [State.tileBit_applyTile_byte n hs]
    split
    next h =>
      obtain ⟨rfl, hm⟩ := h
      exact .inr (hagree _ (.head l) _ ⟨v, m, rfl, hm, rfl⟩)
    next h =>
      refine hx.imp_left fun ⟨w, hw, hset⟩ => ?_
      rcases List.mem_cons.1 hw with rfl | hw
      · obtain ⟨v', m', e, hm, -⟩ := hset
        cases e
        exact absurd ⟨rfl, hm⟩ h
      · exact ⟨w, hw, hset⟩

/-- A byte that no write of a list names keeps its value. -/
theorem State.foldl_byte_other (q : Nat) (l : List TileWrite) (s : State) (hl : ∀ w ∈ l, w.isByte)
    (hq : ∀ v m, .byte q v m ∉ l) : smGet 0 (l.foldl (fun s w => s.applyTile n w) s).tiles q = smGet 0 s.tiles q := by
  induction l generalizing s with
  | nil => rfl
  | cons w l ih =>
    obtain ⟨k, v, m, rfl⟩ := hl w (.head l)
    have hk : q ≠ k := fun e => hq v m (e ▸ .head l)
    rw [List.foldl_cons, ih _ (fun w hw => hl w (.tail _ hw)) fun v m h => hq v m (.tail _ h)]
    exact smGet_set_other 0 hk _ s.tiles

end

/-! ## Elements of tile rows -/

theorem tileKey_add (cl t row y i : Nat) : tileKey cl t row (y + i) = tileKey cl t row y + i := (Nat.add_assoc ..).symm

/-- Bit i of element j of a row is bit b * j + i of the row. -/
theorem State.testBit_tileElem (s : State) {b : Nat} (hb : b ≤ 16) (cl t row j i : Nat) :
    (s.tileElem cl t row b j).testBit i =
      (decide (i < b) && s.tileBit (tileKey cl t row ((b * j + i) / 8)) ((b * j + i) % 8)) := by
  by_cases hi : i < b
  swap
  · simp [State.tileElem, hi]
  generalize hz : b * j = z
  have hkey : tileKey cl t row ((z + i) / 8) = tileKey cl t row (z / 8) + (z % 8 + i) / 8 := by
    rw [← tileKey_add]
    congr 1
    omega
  have hbit : (z + i) % 8 = (z % 8 + i) % 8 := by omega
  unfold State.tileElem State.tileBit
  dsimp only
  rw [hz, hkey, hbit, Nat.testBit_mod_two_pow, Nat.testBit_div_two_pow, Nat.add_comm i]
  generalize tileKey cl t row (z / 8) = k
  obtain ⟨q, hq⟩ : ∃ q, q = z % 8 + i := ⟨_, rfl⟩
  have hlt : q < 24 := by omega
  rw [← hq]
  have hsplit : (smGet (0 : Byte) s.tiles k).toNat + 256 * (smGet (0 : Byte) s.tiles (k + 1)).toNat +
      65536 * (smGet (0 : Byte) s.tiles (k + 2)).toNat =
      2 ^ 8 * (2 ^ 8 * (smGet (0 : Byte) s.tiles (k + 2)).toNat + (smGet (0 : Byte) s.tiles (k + 1)).toNat) +
        (smGet (0 : Byte) s.tiles k).toNat := by ring
  rw [hsplit, Nat.testBit_two_pow_mul_add _ (BitVec.isLt _), Nat.testBit_two_pow_mul_add _ (BitVec.isLt _)]
  simp only [BitVec.testBit_toNat]
  congr 1
  obtain h | h | h : q / 8 = 0 ∨ q / 8 = 1 ∨ q / 8 = 2 := by omega
  · rw [h, if_pos (by omega), show q % 8 = q by omega]
    rfl
  · rw [h, if_neg (by omega), if_pos (by omega), show q % 8 = q - 8 by omega]
  · rw [h, if_neg (by omega), if_neg (by omega), show q % 8 = q - 8 - 8 by omega]

/-- Bit p of byte c of a value that begins at bit sh. -/
theorem getLsbD_shiftedByte (x sh c p : Nat) : (BitVec.ofNat 8 (x * 2 ^ sh / 256 ^ c)).getLsbD p =
    (decide (p < 8) && (decide (sh ≤ 8 * c + p) && x.testBit (8 * c + p - sh))) := by
  rw [show (256 : Nat) = 2 ^ 8 from rfl, ← Nat.pow_mul, BitVec.getLsbD_ofNat, Nat.testBit_div_two_pow, Nat.testBit_mul_two_pow,
    Nat.add_comm p]

/-- The writes of element j of a row write its bits and no other. -/
theorem tileWrites_setsBit (cl t row b j x k p : Nat) (y : Bool) :
    (∃ w ∈ tileWrites cl t row b j x, w.setsBit k p y) ↔
      ∃ i, i < b ∧ k = tileKey cl t row ((b * j + i) / 8) ∧ p = (b * j + i) % 8 ∧ y = x.testBit i := by
  unfold tileWrites
  dsimp only
  generalize b * j = z
  constructor
  · rintro ⟨w, hw, v, m, rfl, hm, rfl⟩
    obtain ⟨c, -, e⟩ := List.mem_map.1 hw
    injection e with hk hv hm'
    subst hk hv hm'
    simp only [getLsbD_shiftedByte, Nat.testBit_two_pow_sub_one, Bool.and_eq_true, decide_eq_true_eq] at hm
    obtain ⟨hp, hsh, hi⟩ := hm
    refine ⟨8 * c + p - z % 8, hi, ?_, by omega, ?_⟩
    · rw [← tileKey_add]
      congr 1
      omega
    · simp only [getLsbD_shiftedByte, hp, hsh, decide_true, Bool.true_and, Nat.testBit_mod_two_pow, hi]
  · rintro ⟨i, hi, rfl, rfl, rfl⟩
    have hp : (z + i) % 8 < 8 := Nat.mod_lt _ (by decide)
    have hsh : z % 8 ≤ 8 * ((z % 8 + i) / 8) + (z + i) % 8 := by omega
    have hbit : 8 * ((z % 8 + i) / 8) + (z + i) % 8 - z % 8 = i := by omega
    have hkey : tileKey cl t row (z / 8) + (z % 8 + i) / 8 = tileKey cl t row ((z + i) / 8) := by
      rw [← tileKey_add, show z / 8 + (z % 8 + i) / 8 = (z + i) / 8 by omega]
    refine ⟨_, List.mem_map.2 ⟨(z % 8 + i) / 8, List.mem_range.2 (by omega), rfl⟩, _, _,
      congrArg (fun q => TileWrite.byte q _ _) hkey, ?_, ?_⟩
    · simp only [getLsbD_shiftedByte, hp, hsh, hbit, Nat.testBit_two_pow_sub_one, hi, decide_true, Bool.true_and]
    · simp only [getLsbD_shiftedByte, hp, hsh, hbit, Nat.testBit_mod_two_pow, hi, decide_true, Bool.true_and]

theorem tileWrites_isByte {cl t row b j x : Nat} : ∀ w ∈ tileWrites cl t row b j x, w.isByte := by
  intro w hw
  obtain ⟨c, -, rfl⟩ := List.mem_map.1 hw
  exact ⟨_, _, _, rfl⟩

/-- The writes of an element that lies in its row write bytes of that row alone. -/
theorem mem_tileWrites_key {cl t row b j x k : Nat} {v m : Byte} (hj : b * (j + 1) ≤ 2048)
    (h : .byte k v m ∈ tileWrites cl t row b j x) :
    ∃ y, y < 256 ∧ k = tileKey cl t row y := by
  obtain ⟨c, hc, e⟩ := List.mem_map.1 h
  injection e with hk
  rw [Nat.mul_add, Nat.mul_one] at hj
  have hc := List.mem_range.1 hc
  exact ⟨b * j / 8 + c, by omega, by rw [← hk, tileKey_add]⟩

end Sys2Proof.Machine
end

section
/-! What a completed token writes on the clusters of its span, as one list of writes (R212, R224, R225). -/

namespace Sys2Proof.Machine

open Sys2Proof.Claims

/-! ## Keys -/

theorem accKey_inj {cl cl' a row row' j j' : Nat} (hrow : row < 128) (hrow' : row' < 128) (hj : j < 128) (hj' : j' < 128)
    (h : accKey cl a row j = accKey cl' a row' j') : cl = cl' ∧ row = row' ∧ j = j' := by
  unfold accKey at h
  omega

theorem tileKey_inj {cl cl' t row row' y y' : Nat} (hrow : row < 128) (hrow' : row' < 128) (hy : y < 256) (hy' : y' < 256)
    (h : tileKey cl t row y = tileKey cl' t row' y') : cl = cl' ∧ row = row' ∧ y = y' := by
  unfold tileKey at h
  omega

/-! ## The writes on one cluster -/

/-- A token's lengths stay within the rows and columns of its items. -/
structure Token.InRange (t : Token) : Prop where
  m : t.lowRow + t.m ≤ 128
  rows : t.lowRow + t.rows ≤ 128
  n : t.n ≤ 128
  op : t.op.toNat ≤ 3

/-- Bits of the elements of a token's tile A, which mx.rnd writes (R212). -/
def Token.elemBits (t : Token) : Nat := fmtBits (tcFmt t.fmtA)

theorem Token.elemBits_bounds (t : Token) : 0 < t.elemBits ∧ t.elemBits ≤ 16 := by
  unfold Token.elemBits fmtBits
  split
  · decide
  split
  · decide
  split <;> decide

/-- Rows and columns of the accumulator that a token writes. -/
def Token.accSize (t : Token) : Nat × Nat :=
  if t.op.toNat ≤ 1 then (t.m, t.n) else if t.op.toNat = 2 then (t.rows, 128) else (0, 0)

theorem Token.InRange.accSize {t : Token} (ht : t.InRange) {i j : Nat} (hi : i < t.accSize.1) (hj : j < t.accSize.2) :
    t.lowRow + i < 128 ∧ j < 128 := by
  obtain ⟨hm, hrows, hn, -⟩ := ht
  unfold Token.accSize at hi hj
  split at hi
  next h =>
    rw [if_pos h] at hj
    exact ⟨by omega, by omega⟩
  next h =>
    rw [if_neg h] at hj
    split at hi
    next h2 =>
      rw [if_pos h2] at hj
      exact ⟨by omega, by omega⟩
    next => cases hi

/-- What a token makes of an accumulator entry (R224). -/
def State.tokenAcc (s : State) (cl : Nat) (t : Token) (i j : Nat) : BitVec 40 :=
  if t.op.toNat ≤ 1 then BitVec.ofNat 40 (s.tokenEntry cl t (s.tokenSteps cl t i) i j) else 0

/-- What mx.rnd makes of an accumulator entry (R225). -/
def State.tokenRound (s : State) (cl : Nat) (t : Token) (i j : Nat) : Nat :=
  rndValue (t.accfmt.toNat / 4 ^ t.acc % 4) (tcFmt t.fmtA) t.rm (s.accAt cl t.acc (t.lowRow + i) j)

theorem mem_cells {rows cols : Nat} {p : Nat × Nat} : p ∈ cells rows cols ↔ p.1 < rows ∧ p.2 < cols := by
  simp only [cells, List.mem_flatMap, List.mem_map, List.mem_range]
  constructor
  · rintro ⟨i, hi, j, hj, rfl⟩
    exact ⟨hi, hj⟩
  · exact fun h => ⟨p.1, h.1, p.2, h.2, rfl⟩

section
variable {s u : State} {t : Token} {cl k : Nat} {w : TileWrite}

theorem State.tokenWrites_product (h : t.op.toNat ≤ 1) : s.tokenWrites cl t = State.tokenWrites.prod s cl t := by
  obtain h | h : t.op.toNat = 0 ∨ t.op.toNat = 1 := by omega
  · simp only [State.tokenWrites, h]
  · simp only [State.tokenWrites, h]

theorem State.tokenWrites_zacc (h : t.op.toNat = 2) :
    s.tokenWrites cl t = (cells t.rows 128).map fun p => .acc (accKey cl t.acc (t.lowRow + p.1) p.2) 0 := by
  simp only [State.tokenWrites, h]

theorem State.tokenWrites_rnd (h : t.op.toNat = 3) :
    s.tokenWrites cl t = (cells t.m t.n).flatMap fun p =>
      tileWrites cl t.ta (t.lowRow + p.1) (t.elemBits) p.2 (s.tokenRound cl t p.1 p.2) := by
  simp only [State.tokenWrites, State.tokenRound, Token.elemBits, h]

/-- Products and mx.zacc write accumulator entries alone. -/
theorem State.mem_tokenWrites_acc (h : t.op.toNat ≤ 2) : w ∈ s.tokenWrites cl t ↔
    ∃ i j, i < t.accSize.1 ∧ j < t.accSize.2 ∧ w = .acc (accKey cl t.acc (t.lowRow + i) j) (s.tokenAcc cl t i j) := by
  unfold Token.accSize State.tokenAcc
  by_cases h1 : t.op.toNat ≤ 1
  · simp only [State.tokenWrites_product h1, State.tokenWrites.prod, h1, if_true, List.mem_flatMap, List.mem_map, List.mem_range]
    constructor
    · rintro ⟨i, hi, j, hj, rfl⟩
      exact ⟨i, j, hi, hj, rfl⟩
    · rintro ⟨i, j, hi, hj, rfl⟩
      exact ⟨i, hi, j, hj, rfl⟩
  · have h2 : t.op.toNat = 2 := by omega
    simp only [State.tokenWrites_zacc h2, h2, if_true, List.mem_map, mem_cells]
    constructor
    · rintro ⟨p, ⟨hi, hj⟩, rfl⟩
      exact ⟨p.1, p.2, hi, hj, rfl⟩
    · rintro ⟨i, j, hi, hj, rfl⟩
      exact ⟨(i, j), ⟨hi, hj⟩, rfl⟩

/-- mx.rnd writes tile elements alone. -/
theorem State.mem_tokenWrites_rnd (h : t.op.toNat = 3) : w ∈ s.tokenWrites cl t ↔
    ∃ i j, i < t.m ∧ j < t.n ∧
      w ∈ tileWrites cl t.ta (t.lowRow + i) (t.elemBits) j (s.tokenRound cl t i j) := by
  simp only [State.tokenWrites_rnd h, List.mem_flatMap, mem_cells]
  constructor
  · rintro ⟨p, ⟨hi, hj⟩, hw⟩
    exact ⟨p.1, p.2, hi, hj, hw⟩
  · rintro ⟨i, j, hi, hj, hw⟩
    exact ⟨(i, j), ⟨hi, hj⟩, hw⟩

theorem State.tokenWrites_isAcc (h : t.op.toNat ≤ 2) : ∀ w ∈ s.tokenWrites cl t, w.isAcc := by
  intro w hw
  obtain ⟨i, j, -, -, rfl⟩ := (State.mem_tokenWrites_acc h).1 hw
  exact ⟨_, _, rfl⟩

theorem State.tokenWrites_isByte (h : t.op.toNat = 3) : ∀ w ∈ s.tokenWrites cl t, w.isByte := by
  intro w hw
  obtain ⟨i, j, -, -, hw⟩ := (State.mem_tokenWrites_rnd h).1 hw
  exact tileWrites_isByte w hw

/-- The writes of a token depend on the tiles and indices that it multiplies, and on its own accumulator entries. -/
theorem State.tokenWrites_congr (hidxs : u.idxs = s.idxs) (htiles : t.op.toNat ≤ 1 → u.tiles = s.tiles)
    (hacc : ∀ i j, i < t.m → j < t.n → u.accAt cl t.acc (t.lowRow + i) j = s.accAt cl t.acc (t.lowRow + i) j)
    (hop : t.op.toNat ≤ 3) : u.tokenWrites cl t = s.tokenWrites cl t := by
  obtain h | h | h : t.op.toNat ≤ 1 ∨ t.op.toNat = 2 ∨ t.op.toNat = 3 := by omega
  · have hsteps : ∀ i, u.tokenSteps cl t i = s.tokenSteps cl t i := fun i => by
      simp only [State.tokenSteps, State.idxAt, hidxs]
    have hentry : ∀ l i j, i < t.m → j < t.n → u.tokenEntry cl t l i j = s.tokenEntry cl t l i j := fun l i j hi hj => by
      simp only [State.tokenEntry, State.tileElem, htiles h, hacc i j hi hj]
    simp only [State.tokenWrites_product h, State.tokenWrites.prod]
    refine List.flatMap_congr fun i hi => List.map_congr_left fun j hj => ?_
    rw [hsteps, hentry _ _ _ (List.mem_range.1 hi) (List.mem_range.1 hj)]
  · rw [State.tokenWrites_zacc h, State.tokenWrites_zacc h]
  · rw [State.tokenWrites_rnd h, State.tokenWrites_rnd h]
    refine List.flatMap_congr fun p hp => ?_
    obtain ⟨hi, hj⟩ := mem_cells.1 hp
    rw [State.tokenRound, hacc _ _ hi hj, State.tokenRound]

/-! ## The writes on a span -/

/-- The state after the writes of a token on one cluster. -/
def State.wroteToken (t : Token) (s : State) (cl : Nat) : State :=
  (s.tokenWrites cl t).foldl (fun s w => s.applyTile t.ctx w) s

/-- A token's writes on a cluster change nothing that it looks at on another. -/
theorem State.tokenWrites_wroteToken (ht : t.InRange) (hk : k ≠ cl) :
    (State.wroteToken t s cl).tokenWrites k t = s.tokenWrites k t := by
  unfold State.wroteToken
  by_cases h : t.op.toNat ≤ 2
  · have hframe := State.foldl_acc_frame t.ctx _ s (State.tokenWrites_isAcc (s := s) (cl := cl) h)
    refine State.tokenWrites_congr (by rw [hframe]) (fun _ => by rw [hframe]) (fun i j hi hj => ?_) ht.op
    refine congrArg BitVec.toNat (State.foldl_acc_other t.ctx _ _ s (State.tokenWrites_isAcc h) fun v hv => ?_)
    obtain ⟨i', j', hi', hj', e⟩ := (State.mem_tokenWrites_acc h).1 hv
    obtain ⟨hrow', hcol'⟩ := ht.accSize hi' hj'
    obtain ⟨hm, -, hn, -⟩ := ht
    exact hk (accKey_inj (by omega) hrow' (by omega) hcol' (TileWrite.acc.inj e).1).1
  · have h3 : t.op.toNat = 3 := by have := ht.op; omega
    have hframe := State.foldl_byte_frame t.ctx _ s (State.tokenWrites_isByte (s := s) (cl := cl) h3)
    exact State.tokenWrites_congr (by rw [hframe]) (fun h1 => by omega) (fun i j _ _ => by rw [hframe]; rfl) ht.op

theorem State.wroteToken_tilePoison (s : State) (t : Token) (cl : Nat) : (State.wroteToken t s cl).tilePoison = s.tilePoison :=
  foldl_keeps _ State.tilePoison (fun s w => by cases w <;> rfl) _ s

/-- The writes of a token, cluster by cluster, each as its own state gives them, are one list of writes. -/
theorem State.foldl_applyTiles_span (ht : t.InRange) (l : List Nat) (s : State) (hl : l.Nodup) (hs : s.tilePoison = []) :
    l.foldl (fun s cl => s.applyTiles t.ctx (s.tokenWrites cl t)) s =
      (l.flatMap fun cl => s.tokenWrites cl t).foldl (fun s w => s.applyTile t.ctx w) s := by
  induction l generalizing s with
  | nil => rfl
  | cons cl l ih =>
    rw [List.nodup_cons] at hl
    have hfirst : s.applyTiles t.ctx (s.tokenWrites cl t) = State.wroteToken t s cl := State.applyTiles_clean hs _ _
    have hrest : (l.flatMap fun k => (State.wroteToken t s cl).tokenWrites k t) = l.flatMap fun k => s.tokenWrites k t :=
      List.flatMap_congr fun k hk => State.tokenWrites_wroteToken ht fun e => hl.1 (e ▸ hk)
    rw [List.foldl_cons, hfirst, ih _ hl.2 ((s.wroteToken_tilePoison t cl).trans hs), hrest, List.flatMap_cons, List.foldl_append]
    rfl

end

end Sys2Proof.Machine
end

section
/-! The accumulator entries and tile elements after a token has completed (R212, R224, R225). -/

namespace Sys2Proof.Machine

open Sys2Proof.Claims

/-- The tiles and accumulators after a token has written on every cluster of its span. -/
def State.tokenTiles (s : State) (t : Token) : State :=
  t.span.foldl (fun s cl => s.applyTiles t.ctx (s.tokenWrites cl t)) s

/-- All writes of a token, as the state before them gives them. -/
def State.spanWrites (s : State) (t : Token) : List TileWrite := t.span.flatMap fun cl => s.tokenWrites cl t

section
variable {s : State} {t : Token}

theorem State.mem_spanWrites_acc (h : t.op.toNat ≤ 2) {w : TileWrite} : w ∈ s.spanWrites t ↔ ∃ cl ∈ t.span, ∃ i j,
    i < t.accSize.1 ∧ j < t.accSize.2 ∧ w = .acc (accKey cl t.acc (t.lowRow + i) j) (s.tokenAcc cl t i j) := by
  simp only [State.spanWrites, List.mem_flatMap, State.mem_tokenWrites_acc h]

theorem State.spanWrites_isAcc (h : t.op.toNat ≤ 2) : ∀ w ∈ s.spanWrites t, w.isAcc := by
  intro w hw
  obtain ⟨cl, -, i, j, -, -, rfl⟩ := (State.mem_spanWrites_acc h).1 hw
  exact ⟨_, _, rfl⟩

theorem State.mem_spanWrites_rnd (h : t.op.toNat = 3) {w : TileWrite} : w ∈ s.spanWrites t ↔
    ∃ cl ∈ t.span, ∃ i j, i < t.m ∧ j < t.n ∧ w ∈ tileWrites cl t.ta (t.lowRow + i) (t.elemBits) j (s.tokenRound cl t i j) := by
  simp only [State.spanWrites, List.mem_flatMap, State.mem_tokenWrites_rnd h]

theorem State.spanWrites_isByte (h : t.op.toNat = 3) : ∀ w ∈ s.spanWrites t, w.isByte := by
  intro w hw
  obtain ⟨cl, -, i, j, -, -, hw⟩ := (State.mem_spanWrites_rnd h).1 hw
  exact tileWrites_isByte w hw

/-- An element of the columns written lies in its row. -/
theorem Token.InRange.element (ht : t.InRange) {j : Nat} (hj : j < t.n) : t.elemBits * (j + 1) ≤ 2048 :=
  calc t.elemBits * (j + 1) ≤ 16 * 128 :=
        Nat.mul_le_mul t.elemBits_bounds.2 (by have := ht.n; omega)
    _ = 2048 := rfl

/-- The bits of an element that lies in its row are written where its column is, each once. -/
theorem State.spanWrites_setsBit (ht : t.InRange) (h : t.op.toNat = 3) {cl i j p : Nat} {y : Bool} (hcl : cl ∈ t.span)
    (hi : i < t.m) (hj : t.elemBits * (j + 1) ≤ 2048) (hp : p < t.elemBits) :
    (∃ w ∈ s.spanWrites t, w.setsBit (tileKey cl t.ta (t.lowRow + i) ((t.elemBits * j + p) / 8))
      ((t.elemBits * j + p) % 8) y) ↔ j < t.n ∧ y = (s.tokenRound cl t i j).testBit p := by
  have inRow : ∀ {j p}, t.elemBits * (j + 1) ≤ 2048 → p < t.elemBits →
      (t.elemBits * j + p) / 8 < 256 := fun {j p} hj hp => by
    rw [Nat.mul_add, Nat.mul_one] at hj
    omega
  constructor
  · rintro ⟨w, hw, hset⟩
    obtain ⟨cl', -, i', j', hi', hj', hw⟩ := (State.mem_spanWrites_rnd h).1 hw
    obtain ⟨p', hp', hkey, hmod, rfl⟩ := (tileWrites_setsBit ..).1 ⟨w, hw, hset⟩
    have hm := ht.m
    obtain ⟨rfl, hii, hdiv⟩ := tileKey_inj (by omega) (by omega) (inRow hj hp) (inRow (ht.element hj') hp') hkey
    obtain rfl : i = i' := Nat.add_left_cancel hii
    have hsame : t.elemBits * j + p = t.elemBits * j' + p' := by omega
    have hpos := t.elemBits_bounds.1
    have hjj : j = j' := by
      have := congrArg (· / t.elemBits) hsame
      simpa only [Nat.mul_add_div hpos, Nat.div_eq_of_lt hp, Nat.div_eq_of_lt hp', Nat.add_zero] using this
    subst hjj
    obtain rfl : p = p' := Nat.add_left_cancel hsame
    exact ⟨hj', rfl⟩
  · rintro ⟨hj, rfl⟩
    obtain ⟨w, hw, hset⟩ := (tileWrites_setsBit cl t.ta (t.lowRow + i) (t.elemBits) j (s.tokenRound cl t i j) _ _ _).2
      ⟨p, hp, rfl, rfl, rfl⟩
    exact ⟨w, (State.mem_spanWrites_rnd h).2 ⟨cl, hcl, i, j, hi, hj, hw⟩, hset⟩

end

section
variable {s : State} {t : Token} (ht : t.InRange) (hspan : t.span.Nodup) (hs : s.tilePoison = [])
include ht hspan hs

theorem State.tokenTiles_eq : s.tokenTiles t = (s.spanWrites t).foldl (fun s w => s.applyTile t.ctx w) s :=
  State.foldl_applyTiles_span ht t.span s hspan hs

/-! ## Products and mx.zacc -/

section
variable (h : t.op.toNat ≤ 2)
include h

theorem State.tokenTiles_acc_frame : s.tokenTiles t = { s with accs := (s.tokenTiles t).accs } := by
  rw [State.tokenTiles_eq ht hspan hs]
  exact State.foldl_acc_frame _ _ _ (State.spanWrites_isAcc h)

theorem State.tokenTiles_acc (hwf : smWf (0 : BitVec 40) s.accs = true) {cl i j : Nat} (hcl : cl ∈ t.span)
    (hi : i < t.accSize.1) (hj : j < t.accSize.2) :
    smGet 0 (s.tokenTiles t).accs (accKey cl t.acc (t.lowRow + i) j) = s.tokenAcc cl t i j := by
  rw [State.tokenTiles_eq ht hspan hs]
  refine State.foldl_acc_value t.ctx _ _ _ s hwf (State.spanWrites_isAcc h) (fun v hv => ?_)
    (.inl ((State.mem_spanWrites_acc h).2 ⟨cl, hcl, i, j, hi, hj, rfl⟩))
  obtain ⟨cl', -, i', j', hi', hj', e⟩ := (State.mem_spanWrites_acc h).1 hv
  obtain ⟨hkey, rfl⟩ := TileWrite.acc.inj e
  obtain ⟨hrow, hcol⟩ := ht.accSize hi hj
  obtain ⟨hrow', hcol'⟩ := ht.accSize hi' hj'
  obtain ⟨rfl, hii, rfl⟩ := accKey_inj hrow hrow' hcol hcol' hkey
  rw [Nat.add_left_cancel hii]

theorem State.tokenTiles_acc_other {q : Nat}
    (hq : ∀ cl ∈ t.span, ∀ i j, i < t.accSize.1 → j < t.accSize.2 → q ≠ accKey cl t.acc (t.lowRow + i) j) :
    smGet 0 (s.tokenTiles t).accs q = smGet 0 s.accs q := by
  rw [State.tokenTiles_eq ht hspan hs]
  refine State.foldl_acc_other t.ctx _ _ s (State.spanWrites_isAcc h) fun v hv => ?_
  obtain ⟨cl, hcl, i, j, hi, hj, e⟩ := (State.mem_spanWrites_acc h).1 hv
  exact hq cl hcl i j hi hj (TileWrite.acc.inj e).1

end

/-! ## mx.rnd -/

section
variable (h : t.op.toNat = 3)
include h

theorem State.tokenTiles_tile_frame : s.tokenTiles t = { s with tiles := (s.tokenTiles t).tiles } := by
  rw [State.tokenTiles_eq ht hspan hs]
  exact State.foldl_byte_frame _ _ _ (State.spanWrites_isByte h)

theorem State.tokenTiles_tileElem (hwf : Memory.wf s.tiles = true) {cl i j : Nat} (hcl : cl ∈ t.span) (hi : i < t.m)
    (hj : t.elemBits * (j + 1) ≤ 2048) :
    (s.tokenTiles t).tileElem cl t.ta (t.lowRow + i) (t.elemBits) j =
      if j < t.n then s.tokenRound cl t i j % 2 ^ t.elemBits
      else s.tileElem cl t.ta (t.lowRow + i) (t.elemBits) j := by
  have hb := t.elemBits_bounds.2
  have bits := fun p hp y => State.spanWrites_setsBit (s := s) (y := y) (p := p) ht h hcl hi hj hp
  rw [State.tokenTiles_eq ht hspan hs]
  refine Nat.eq_of_testBit_eq fun p => ?_
  rw [State.testBit_tileElem _ hb]
  by_cases hp : p < t.elemBits
  swap
  · split
    · simp [hp, Nat.testBit_mod_two_pow]
    · simp [hp, State.testBit_tileElem _ hb]
  rw [decide_eq_true hp, Bool.true_and]
  refine State.foldl_byte_bit t.ctx _ _ _ _ s hwf (State.spanWrites_isByte h) (fun w hw y hset => ?_) ?_
  · obtain ⟨hn, rfl⟩ := (bits p hp y).1 ⟨w, hw, hset⟩
    rw [if_pos hn, Nat.testBit_mod_two_pow, decide_eq_true hp, Bool.true_and]
  · split
    next hn =>
      rw [Nat.testBit_mod_two_pow, decide_eq_true hp, Bool.true_and]
      exact .inl ((bits p hp _).2 ⟨hn, rfl⟩)
    next =>
      rw [State.testBit_tileElem _ hb, decide_eq_true hp, Bool.true_and]
      exact .inr rfl

theorem State.tokenTiles_tiles_other {q : Nat}
    (hq : ∀ cl ∈ t.span, ∀ i y, i < t.m → y < 256 → q ≠ tileKey cl t.ta (t.lowRow + i) y) :
    smGet 0 (s.tokenTiles t).tiles q = smGet 0 s.tiles q := by
  rw [State.tokenTiles_eq ht hspan hs]
  refine State.foldl_byte_other t.ctx _ _ s (State.spanWrites_isByte h) fun v m hv => ?_
  obtain ⟨cl, hcl, i, j, hi, hj, hw⟩ := (State.mem_spanWrites_rnd h).1 hv
  obtain ⟨y, hy, hkey⟩ := mem_tileWrites_key (ht.element hj) hw
  exact hq cl hcl i y hi hy hkey

end

end

/-! ## The shape that mx.rnd sets -/

theorem tcWord_toNat {fb tr : Bool} {m n cols rows fmt : Nat} (hm : m < 32) (hn : n < 16) (hcols : cols < 256)
    (hrows : rows < 256) (hfmt : fmt < 8) :
    (tcWord fb tr m n cols rows fmt).toNat = (if fb then 2 ^ 39 else 0) + (if tr then 2 ^ 38 else 0) + m * 2 ^ 33 +
      n * 2 ^ 29 + cols * 2 ^ 21 + rows * 2 ^ 13 + fmt := by
  rw [tcWord, BitVec.toNat_ofNat, Nat.mod_eq_of_lt]
  split <;> split <;> omega

/-- TCFG holds the fields from which it is made (R215). -/
theorem tcWord_fields {fb tr : Bool} {m n cols rows fmt : Nat} (hm : m < 32) (hn : n < 16) (hcols : cols < 256)
    (hrows : rows < 256) (hfmt : fmt < 8) :
    let w := tcWord fb tr m n cols rows fmt
    tcM w = m ∧ tcN w = n ∧ tcCols w = cols ∧ tcRows w = rows ∧ tcFmt w = fmt := by
  unfold tcM tcN tcCols tcRows tcFmt
  dsimp only
  rw [tcWord_toNat hm hn hcols hrows hfmt]
  split <;> split <;> omega

theorem Ctx.tc_setTc {c : Ctx} {t : Nat} (ht : t < 8) (w : Word) : (c.setTc t w).tc t = w := by
  unfold Ctx.tc Ctx.setTc
  rw [dif_pos ht, dif_pos ht]
  exact Vector.getElem_set_self ..

theorem Ctx.setTc_setTc (c : Ctx) (t : Nat) (v w : Word) : (c.setTc t v).setTc t w = c.setTc t w := by
  unfold Ctx.setTc
  split
  · simp only [Vector.set_set]
  · rfl

theorem State.rndShapeSet_other {s : State} {t : Token} (h : t.op.toNat ≠ 3) : s.rndShapeSet t = s := by
  unfold State.rndShapeSet
  split
  · rfl
  · exact if_neg h

theorem State.rndShapeSet_frame (s : State) (t : Token) : s.rndShapeSet t = { s with ctxs := (s.rndShapeSet t).ctxs } := by
  unfold State.rndShapeSet
  split
  · rfl
  · split <;> rfl

/-- mx.rnd sets the rows and columns of its tile to its lengths, and clears TR and FB (R225). -/
theorem State.rndShapeSet_ctxAt {s : State} {t : Token} {n : Nat} (h : t.op.toNat = 3) (hta : t.ta < 8) (hm : t.m < 256)
    (hn : t.n < 256) (hctx : s.ctxOf t.sid = some n) :
    (s.rndShapeSet t).ctxAt n = (s.ctxAt n).setTc t.ta (tcWord false false (tcM ((s.ctxAt n).tc t.ta))
      (tcN ((s.ctxAt n).tc t.ta)) t.n t.m (tcFmt ((s.ctxAt n).tc t.ta))) := by
  unfold State.rndShapeSet
  rw [hctx]
  dsimp only
  rw [if_pos h]
  unfold State.applyTile
  dsimp only
  generalize (s.ctxAt n).tc t.ta = w
  obtain ⟨eM, eN, eCols, eRows, eFmt⟩ := tcWord_fields (fb := tcFB w) (tr := tcTR w) (m := tcM w) (n := tcN w) (fmt := tcFmt w)
    (Nat.mod_lt _ (by decide)) (Nat.mod_lt _ (by decide)) hn hm (Nat.mod_lt _ (by decide))
  rw [State.ctxAt_setCtx_same, State.ctxAt_setCtx_same, Ctx.tc_setTc hta, Ctx.setTc_setTc, eM, eN, eCols, eRows, eFmt]

end Sys2Proof.Machine
end

section
/-! Matrix tokens at their completion time: their nodes, what they write, and the report of a poisoned row (R214, R224 to
R227). -/

namespace Sys2Proof.Machine

open Sys2Proof.Claims

/-! ## Completion -/

/-- A token leaves the FIFOs of its nodes. -/
def State.poppedOn (s : State) (share : Nat) (t : Token) : State := t.span.foldl (State.onNode share Node.pop) s

/-- A token is counted on its nodes. -/
def State.countedOn (s : State) (share : Nat) (t : Token) : State := t.span.foldl (State.onNode share Node.count) s

/-- What a due token makes of the state before it is counted: its outputs, or the report of a poisoned row (R214). -/
def State.tokenEffect (s : State) (t : Token) : State :=
  match s.tileUe (t.span.flatMap t.reads) with
  | some u => match s.ctxOf t.sid with
    | some k => s.due k u
    | none => s
  | none => s.tokenOutputs t

section
variable {s : State} {cl share : Nat} {t : Token} {rest : List Token}

/-- The token at the head of all its nodes, its time having come, completes. -/
theorem exec_mxTokenComplete (hhead : (nodeOf s cl share).fifo = t :: rest)
    (hdue : ∀ k ∈ t.span, ∃ h l, (nodeOf s k share).fifo = h :: l ∧ h.num = t.num ∧ h.doneAt ≤ s.cycle) :
    exec (.mxTokenComplete cl share) s = .next (s.completeToken share t) := by
  have hall : t.span.all (s.headDue share t) = true := List.all_eq_true.2 fun k hk => by
    obtain ⟨h, l, hfifo, hnum, hdone⟩ := hdue k hk
    have hfifo' : (s.nodeAt k share).fifo = h :: l := hfifo
    simp only [State.headDue, hfifo', hnum, beq_self_eq_true, hdone, decide_true, Bool.and_self]
  change execMxTokenComplete cl share s = _
  have hhead' : (s.nodeAt cl share).fifo = t :: rest := hhead
  simp only [execMxTokenComplete, hhead', hall, if_true]

theorem State.applyTiles_keeps (s : State) (n : Nat) (l : List TileWrite) :
    (s.applyTiles n l).clusters = s.clusters ∧ (s.applyTiles n l).perf = s.perf :=
  Prod.mk.inj (foldl_keeps (fun s w => s.applyTile n w) (fun s => (s.clusters, s.perf)) (fun s w => by cases w <;> rfl) l s)

theorem State.tokenOutputs_keeps (s : State) (t : Token) :
    (s.tokenOutputs t).clusters = s.clusters ∧ (s.tokenOutputs t).perf = s.perf := by
  have written := foldl_keeps (fun (s : State) cl => s.applyTiles t.ctx (s.tokenWrites cl t)) (fun s => (s.clusters, s.perf))
    (fun s cl => Prod.ext (s.applyTiles_keeps _ _).1 (s.applyTiles_keeps _ _).2) t.span s
  rw [State.tokenOutputs, State.rndShapeSet_frame]
  exact Prod.mk.inj written

/-- A token's effect leaves what its counting depends on. -/
theorem State.tokenEffect_keeps (s : State) (t : Token) :
    (s.tokenEffect t).clusters = s.clusters ∧ (s.tokenEffect t).perf = s.perf := by
  unfold State.tokenEffect
  split
  · split
    · exact ⟨rfl, rfl⟩
    · exact ⟨rfl, rfl⟩
  · exact s.tokenOutputs_keeps t

theorem State.completeToken_eq (hperf : s.perf = []) (hcmd : ∀ k ∈ t.span, (s.clAt k).nodeCmd = none) :
    s.completeToken share t = ((s.poppedOn share t).tokenEffect t).countedOn share t := by
  obtain ⟨hclusters, hperf'⟩ := (s.poppedOn share t).tokenEffect_keeps t
  refine State.foldl_tokenDone_eq share t.sid t.span ((s.poppedOn share t).tokenEffect t) ?_ fun k hk => ?_
  · rw [hperf', State.poppedOn, State.foldl_onNode_frame]
    exact hperf
  · have hclAt : ((s.poppedOn share t).tokenEffect t).clAt k = (s.poppedOn share t).clAt k := by
      simp only [State.clAt, hclusters]
    rw [hclAt]
    exact (State.foldl_onNode_config share Node.pop t.span s k).2.trans (hcmd k hk)

/-- Each node of the span has lost the token and counts it. -/
theorem State.nodeAt_completed (hspan : t.span.Nodup) {k : Nat} (hk : k ∈ t.span) :
    nodeOf (((s.poppedOn share t).tokenEffect t).countedOn share t) k share =
      { nodeOf s k share with fifo := (nodeOf s k share).fifo.tail, completed := (nodeOf s k share).completed + 1 } := by
  have hclAt : ((s.poppedOn share t).tokenEffect t).clAt k = (s.poppedOn share t).clAt k := by
    simp only [State.clAt, (State.tokenEffect_keeps _ _).1]
  refine (State.nodeAt_foldl_onNode share Node.count t.span _ hspan hk).trans ?_
  rw [State.nodeAt_congr hclAt, State.poppedOn, State.nodeAt_foldl_onNode share Node.pop t.span s hspan hk]
  rfl

/-- No scratchpad is mapped anew. -/
theorem State.spcfg_completed (k : Nat) :
    ((((s.poppedOn share t).tokenEffect t).countedOn share t).clAt k).spcfg = (s.clAt k).spcfg := by
  have hclAt : ((s.poppedOn share t).tokenEffect t).clAt k = (s.poppedOn share t).clAt k := by
    simp only [State.clAt, (State.tokenEffect_keeps _ _).1]
  refine (State.foldl_onNode_config share Node.count t.span _ k).1.trans ?_
  rw [hclAt]
  exact (State.foldl_onNode_config share Node.pop t.span s k).1

theorem State.poppedOn_frame (s : State) (share : Nat) (t : Token) : ∃ c, s.poppedOn share t = { s with clusters := c } :=
  ⟨_, State.foldl_onNode_frame ..⟩

theorem State.countedOn_frame (s : State) (share : Nat) (t : Token) : ∃ c, s.countedOn share t = { s with clusters := c } :=
  ⟨_, State.foldl_onNode_frame ..⟩

/-- A poisoned row is reported to the strand, and nothing is written. -/
theorem State.completed_poisoned {x : TrapInfo} {n : Nat} (hx : s.tileUe (t.span.flatMap t.reads) = some x)
    (hn : s.ctxOf t.sid = some n) :
    ∃ c, ((s.poppedOn share t).tokenEffect t).countedOn share t = { s.due n x with clusters := c } := by
  obtain ⟨c, hpop⟩ := s.poppedOn_frame share t
  have heffect : (s.poppedOn share t).tokenEffect t = { s.due n x with clusters := c } := by
    have hx' : ({ s with clusters := c } : State).tileUe (t.span.flatMap t.reads) = some x := hx
    have hn' : ({ s with clusters := c } : State).ctxOf t.sid = some n := hn
    rw [hpop, State.tokenEffect, hx', hn']
    rfl
  obtain ⟨c', hcount⟩ := State.countedOn_frame ((s.poppedOn share t).tokenEffect t) share t
  exact ⟨c', by rw [hcount, heffect]⟩

/-- What a token that meets no poisoned row writes, and what it leaves (R224, R225). -/
structure State.TokenWritten (s u : State) (t : Token) : Prop where
  frame : u = { s with clusters := u.clusters, accs := u.accs, tiles := u.tiles, ctxs := u.ctxs }
  acc : ∀ k ∈ t.span, ∀ i j, i < t.accSize.1 → j < t.accSize.2 →
    smGet 0 u.accs (accKey k t.acc (t.lowRow + i) j) = s.tokenAcc k t i j
  accOther : ∀ q, (∀ k ∈ t.span, ∀ i j, i < t.accSize.1 → j < t.accSize.2 → q ≠ accKey k t.acc (t.lowRow + i) j) →
    smGet 0 u.accs q = smGet 0 s.accs q
  unrounded : t.op.toNat ≠ 3 → u.tiles = s.tiles ∧ u.ctxs = s.ctxs
  elem : t.op.toNat = 3 → ∀ k ∈ t.span, ∀ i j, i < t.m → t.elemBits * (j + 1) ≤ 2048 →
    u.tileElem k t.ta (t.lowRow + i) (t.elemBits) j =
      if j < t.n then s.tokenRound k t i j % 2 ^ t.elemBits
      else s.tileElem k t.ta (t.lowRow + i) (t.elemBits) j
  tileOther : t.op.toNat = 3 → ∀ q, (∀ k ∈ t.span, ∀ i y, i < t.m → y < 256 → q ≠ tileKey k t.ta (t.lowRow + i) y) →
    smGet 0 u.tiles q = smGet 0 s.tiles q
  shape : t.op.toNat = 3 → ∀ n, s.ctxOf t.sid = some n →
    u.ctxAt n = (s.ctxAt n).setTc t.ta (tcWord false false (tcM ((s.ctxAt n).tc t.ta)) (tcN ((s.ctxAt n).tc t.ta)) t.n t.m
      (tcFmt ((s.ctxAt n).tc t.ta)))

/-- The outputs of a token. -/
theorem State.tokenOutputs_written (ht : t.InRange) (hta : t.ta < 8) (hspan : t.span.Nodup) (hs : s.tilePoison = [])
    (haccs : smWf (0 : BitVec 40) s.accs = true) (htiles : Memory.wf s.tiles = true) :
    s.TokenWritten (s.tokenOutputs t) t := by
  change s.TokenWritten ((s.tokenTiles t).rndShapeSet t) t
  by_cases h : t.op.toNat = 3
  · have hframe := State.tokenTiles_tile_frame ht hspan hs h
    have hset := State.rndShapeSet_frame (s.tokenTiles t) t
    have hsize : t.accSize = (0, 0) := by simp [Token.accSize, h]
    refine ⟨?_, fun k _ i j hi _ => ?_, fun q _ => ?_, fun h' => absurd h h', fun _ k hk i j hi hj => ?_, fun _ q hq => ?_,
      fun _ n hn => ?_⟩
    · rw [hset, hframe]
    · rw [hsize] at hi
      cases hi
    · rw [hset, hframe]
    · rw [hset]
      exact State.tokenTiles_tileElem ht hspan hs h htiles hk hi hj
    · rw [hset]
      exact State.tokenTiles_tiles_other ht hspan hs h hq
    · have hm := ht.m
      have hcols := ht.n
      rw [hframe]
      exact State.rndShapeSet_ctxAt h hta (by omega) (by omega) hn
  · have h2 : t.op.toNat ≤ 2 := by have := ht.op; omega
    have hframe := State.tokenTiles_acc_frame ht hspan hs h2
    rw [State.rndShapeSet_other h]
    refine ⟨?_, fun k hk i j hi hj => ?_, fun q hq => ?_, fun _ => ?_, fun h' => absurd h' h, fun h' => absurd h' h,
      fun h' => absurd h' h⟩
    · rw [hframe]
    · exact State.tokenTiles_acc ht hspan hs h2 haccs hk hi hj
    · exact State.tokenTiles_acc_other ht hspan hs h2 hq
    · rw [hframe]
      exact ⟨rfl, rfl⟩

/-- A token that meets no poisoned row. -/
theorem State.completed_written (ht : t.InRange) (hta : t.ta < 8) (hspan : t.span.Nodup) (hs : s.tilePoison = [])
    (haccs : smWf (0 : BitVec 40) s.accs = true) (htiles : Memory.wf s.tiles = true) :
    s.TokenWritten (((s.poppedOn share t).tokenEffect t).countedOn share t) t := by
  obtain ⟨c, hpop⟩ := s.poppedOn_frame share t
  have hclean : (s.poppedOn share t).tileUe (t.span.flatMap t.reads) = none := by
    rw [hpop]
    exact State.tileUe_clean hs _
  have heffect : (s.poppedOn share t).tokenEffect t = (s.poppedOn share t).tokenOutputs t := by
    rw [State.tokenEffect, hclean]
  obtain ⟨c', hcount⟩ := State.countedOn_frame ((s.poppedOn share t).tokenEffect t) share t
  rw [hcount, heffect, hpop]
  obtain ⟨frame, acc, accOther, unrounded, elem, tileOther, shape⟩ :=
    State.tokenOutputs_written (s := { s with clusters := c }) ht hta hspan hs haccs htiles
  refine ⟨?_, acc, accOther, unrounded, elem, tileOther, shape⟩
  rw [frame]

end

end Sys2Proof.Machine
end

section
/-! O23: the matrix instructions and the completion of their tokens. -/

namespace Sys2Proof.Machine

open Sys2Proof.Claims

section
variable {s u : State} {t : Token}

/-- A token that streams joins the FIFOs of its nodes (R221, R227). -/
theorem State.Dispatched.streams (h : s.Dispatched u t) (hnull : t.null = false) :
    (∀ cl ∈ s.me.clusters, nodeOf u cl s.me.shareNo =
      { nodeOf s cl s.me.shareNo with
        fifo := (nodeOf s cl s.me.shareNo).fifo ++ [{ t with
          num := s.nextId, doneAt := s.streamStart s.me.clusters s.me.shareNo + t.stream.1 + t.stream.2 }]
        streamEnd := s.streamStart s.me.clusters s.me.shareNo + t.stream.1
        dispatched := (nodeOf s cl s.me.shareNo).dispatched + 1 }) ∧
    s.tokenLatency s.me.shareNo t = s.streamStart t.span s.me.shareNo + t.stream.1 + t.stream.2 - s.cycle := by
  have hne : ¬ t.null = true := hnull ▸ Bool.false_ne_true
  exact ⟨fun cl hcl => (h.node cl hcl).trans (if_neg hne), if_neg hne⟩

/-- A null token is counted as dispatched and as completed (R226). -/
theorem State.Dispatched.counts (h : s.Dispatched u t) (hnull : t.null = true) :
    (∀ cl ∈ s.me.clusters, nodeOf u cl s.me.shareNo =
      { nodeOf s cl s.me.shareNo with
        dispatched := (nodeOf s cl s.me.shareNo).dispatched + 1, completed := (nodeOf s cl s.me.shareNo).completed + 1 }) ∧
    s.tokenLatency s.me.shareNo t = 0 :=
  ⟨fun cl hcl => (h.node cl hcl).trans (if_pos hnull), if_pos hnull⟩

/-- An mx instruction whose checks pass and whose nodes have room. -/
theorem exec_mx_dispatched {i : Instr} {op rm : BitVec 3} {acc ta tb : Nat} (hi : mxOf i = some (op, acc, ta, tb, rm))
    (ht : t = s.me.token s.cur op acc ta tb rm s.me.mxm.toNat s.me.mxn.toNat s.me.mxk.toNat)
    (hcheck : s.me.tokenCheck t = none) (hroom : ∀ cl ∈ s.me.clusters, (nodeOf s cl s.me.shareNo).fifo.length < 16)
    (hnull : s.dispatchesPlainly t) : completes i s fun u => s.Dispatched u t := by
  have hspan : t.span = s.me.clusters := by rw [ht]; rfl
  exact ⟨_, (exec_eq_mxOp hi s).trans (State.mxOp_dispatch ht hcheck hroom), State.dispatched_after_release hspan hnull rfl⟩

theorem exec_mxSettl (hs : s.me.share ≠ 0) (xm xn xk : XReg) :
    let m := BitVec.ofNat 64 (min (s.me.reg xm).toNat s.me.shareRows)
    let n := BitVec.ofNat 64 (min (s.me.reg xn).toNat 128)
    let k := BitVec.ofNat 64 (min (s.me.reg xk).toNat s.me.shareRows)
    exec (.mxSettl xm xn xk) s = .next (s.setMe (onward { putReg (putReg (putReg s.me xm m) xn n) xk k with
      mxm := m, mxn := n, mxk := k })) := by
  intro m n k
  simp only [putReg_eq_setReg]
  exact if_neg hs

/-- Bytes depend on memory, the scratchpads, and how addresses reach their cells. -/
theorem State.sameBytes_of_spcfg (hmem : u.mem = s.mem) (hsp : u.sp = s.sp) (hglox : u.glox = s.glox)
    (hcfg : ∀ k, (u.clAt k).spcfg = (s.clAt k).spcfg) : sameBytes s u :=
  ⟨fun _ => by simp only [State.readByte, State.cell, hmem, hglox],
   fun _ _ => by simp only [State.readSp, State.spCell, hsp, hcfg]⟩

/-- The entries of a product become the accumulation of their steps (R224). -/
theorem State.TokenWritten.product (h : s.TokenWritten u t) (hop : t.op.toNat ≤ 1) {k i j : Nat} (hk : k ∈ t.span) (hi : i < t.m)
    (hj : j < t.n) : u.accAt k t.acc (t.lowRow + i) j = s.tokenEntry k t (s.tokenSteps k t i) i j % 2 ^ 40 := by
  have hsize : t.accSize = (t.m, t.n) := if_pos hop
  rw [State.accAt, h.acc k hk i j (hsize ▸ hi) (hsize ▸ hj), State.tokenAcc, if_pos hop, BitVec.toNat_ofNat]

/-- Those of mx.zacc become 0. -/
theorem State.TokenWritten.zacc (h : s.TokenWritten u t) (hop : t.op.toNat = 2) {k i j : Nat} (hk : k ∈ t.span) (hi : i < t.rows)
    (hj : j < 128) : u.accAt k t.acc (t.lowRow + i) j = 0 := by
  have hne : ¬ t.op.toNat ≤ 1 := by omega
  have hsize : t.accSize = (t.rows, 128) := (if_neg hne).trans (if_pos hop)
  rw [State.accAt, h.acc k hk i j (hsize ▸ hi) (hsize ▸ hj), State.tokenAcc, if_neg hne]
  rfl

end

end Sys2Proof.Machine

namespace Sys2Proof.Proofs

open Sys2Proof Sys2Proof.Machine Sys2Proof.Claims

/-- Settles O23: a dispatch and a completion change the nodes of a span one by one, and the writes of a token on all its
clusters are one list that writes each entry, or each bit of an element, once. -/
theorem matrixTokens : Obligations.MatrixTokens := by
  unfold Obligations.MatrixTokens
  refine ⟨fun s i op acc ta tb rm xm xn xk => ⟨fun hi => ?_, fun hs => exec_mxSettl hs xm xn xk⟩, ?_⟩
  · intro c t start others hcheck
    refine ⟨fun hfull => (exec_eq_mxOp hi s).trans (State.mxOp_full hcheck hfull), fun hroom => ⟨fun hnull => ?_,
      fun hnull hperf hcmd => ?_⟩⟩
    · have plain : s.dispatchesPlainly t := fun h => absurd (hnull.symm.trans h) nofun
      obtain ⟨u, hexec, h⟩ := exec_mx_dispatched hi rfl hcheck hroom plain
      obtain ⟨hnode, hlat⟩ := h.streams hnull
      refine ⟨u, hexec, hnode, ⟨h.other, h.frame, h.order⟩, ?_⟩
      rw [h.me, hlat]
      rfl
    · obtain ⟨u, hexec, h⟩ := exec_mx_dispatched hi rfl hcheck hroom fun _ => ⟨hperf, hcmd⟩
      obtain ⟨hnode, hlat⟩ := h.counts hnull
      refine ⟨u, hexec, hnode, ⟨h.other, h.frame, h.order⟩, ?_⟩
      rw [h.me, hlat]
      rfl
  · intro s cl share t rest hhead hspan hdue hperf hcmd popped
    have hexec := (exec_mxTokenComplete hhead hdue).trans (congrArg _ (State.completeToken_eq hperf hcmd))
    have hnodes : popped _ := fun k hk => State.nodeAt_completed (s := s) (share := share) hspan hk
    refine ⟨fun x n hx hn => ⟨_, hexec, hnodes, ?_⟩, ?_⟩
    · obtain ⟨c, hu⟩ := State.completed_poisoned (share := share) hx hn
      rw [hu]
      exact ⟨rfl, rfl, rfl, State.ctxAt_setCtx_same ..⟩
    · intro hs haccs htiles hacc hta hm hrows hn hop b size
      have hcfg := State.spcfg_completed (s := s) (share := share) (t := t)
      have written := State.completed_written (share := share) ⟨hm, hrows, hn, hop⟩ hta hspan hs haccs htiles
      have frame := written.frame
      refine ⟨_, hexec, hnodes, State.sameBytes_of_spcfg (by rw [frame]) (by rw [frame]) (by rw [frame]) hcfg, by rw [frame],
        fun k hk => ⟨fun h i j => written.product h hk, fun h i j => written.zacc h hk, fun h i j => written.elem h k hk i j⟩,
        written.accOther, fun h => ?_, fun h => ⟨written.tileOther h, written.shape h⟩⟩
      obtain ⟨htiles, hctxs⟩ := written.unrounded h
      exact ⟨htiles, fun n => by simp only [State.ctxAt, hctxs]⟩

end Sys2Proof.Proofs
end

section
/-! O60 fails: OUT[v] of a plane counts modulo 2^32 (R389), and a stamp lists the new count even where it has come round to 0,
the value that an unlisted count reads as. -/

namespace Sys2Proof.Proofs

open Sys2Proof Sys2Proof.Machine Sys2Proof.Claims

/-- A strand on cluster 0 that stands at address 0. -/
def farStrand : Ctx := ({} : Ctx).placed

/-- Driver 0 is to issue from it. Its page lies in the memory of endpoint 1, which plane 0 reaches, and plane 0 has one packet
less than 2^32 under way. -/
def farFetch : State :=
  { agenda := [.issue 0]
    ctxs := [(0, farStrand)]
    tlbs := [(sDie, [{ flatEntry farStrand with out := 2 * 2 ^ 56 + 2 ^ 40 }])]
    glox := { ({} : Gloxel) with
      routes := [(routeKey 0 false 0 false 1, 0x8001)], stamped := [(outKey 0 false, 0xFFFFFFFF)] } }

theorem farFetch_sound : farFetch.canonical = true ∧ farFetch.keyed = true := by decide +kernel

/-- The fetch sends a packet, whose stamp lists a count of 0. -/
theorem farFetch_stamps : (match step farFetch with
    | .next t => decide (t.glox.stamped = [(outKey 0 false, 0)])
    | _ => false) = true := by decide +kernel

/-- A table that lists a count of 0 is not in canonical form. -/
theorem keyed_of_stamped_zero {t : State} {k : Nat} (h : t.glox.stamped = [(k, 0)]) : t.keyed = false := by
  simp [State.keyed, h, smWf]

/-- Refutes O60: the fetch of a parcel from another endpoint's memory stamps the packet that brings 2^32 of them under way. -/
theorem not_stepKeepsTheTables : ¬ Obligations.StepKeepsTheTables := by
  unfold Obligations.StepKeepsTheTables
  intro h
  have hstamps := farFetch_stamps
  split at hstamps
  next t hstep =>
    obtain ⟨-, hkeyed⟩ := h farFetch t farFetch_sound.1 farFetch_sound.2 hstep
    rw [keyed_of_stamped_zero (of_decide_eq_true hstamps)] at hkeyed
    cases hkeyed
  · cases hstamps

end Sys2Proof.Proofs
end

section
/-! What spcfg does (R272 to R274): the wait for the engines, and the configuration that its convoy switches at its end. -/

namespace Sys2Proof.Machine

open Sys2Proof.Claims

/-! ## The slot -/

section
variable {s : State} {cv : Convoy} {f : VM}

theorem exec_spcfg (hs : openSlot s cv) (hwork : s.engineWork s.me.sid = false) (hchild : s.childConvoys s.me = false) :
    exec (.spcfg f) s = .next (slotRan s cv (.spcfg f) { log := { spcfg := some (s.me.reg f.base) } }) :=
  congrArg Host.Outcome.next (State.runSlot_done hs.1 rfl (by simp only [slotEnv, hwork, hchild]; rfl))

/-- A command of the strand in an engine, or a convoy of a child, makes it wait for that engine. -/
theorem slotWaits_spcfg (hs : openSlot s cv) (hbusy : s.engineWork s.me.sid = true ∨ s.childConvoys s.me = true) :
    slotWaits (.spcfg f) s .engine := by
  have hbusy : (s.engineWork s.me.sid || s.childConvoys s.me) = true := Bool.or_eq_true_iff.2 hbusy
  refine ⟨_, congrArg Host.Outcome.next (State.runSlot_wait (s' := s.setMe { s.me with wait := some .engine }) hs.1 ?_),
    rfl, ?_, fun m hm => ?_⟩
  · simp only [slotEnv, hbusy, if_true]
  · rw [State.me_setMe, State.me_setMe, ← hs.1]
  · exact (State.ctxAt_setMe_other (s.setMe _) hm _).trans (State.ctxAt_setMe_other s hm _)

end

/-! ## The end of its convoy -/

/-- A fold that configures clusters reaches just those of its list. -/
theorem State.clAt_foldl_spcfg (v : Word) (k : Nat) : ∀ (l : List Nat) (s : State),
    (l.foldl (fun s cl => s.setCl cl { s.clAt cl with spcfg := v }) s).clAt k =
      if k ∈ l then { s.clAt k with spcfg := v } else s.clAt k
  | [], s => by simp
  | cl :: l, s => by
    rw [List.foldl_cons, State.clAt_foldl_spcfg v k l]
    by_cases h : k = cl
    · subst h
      simp
    · simp [h, State.clAt_setCl_other s h]

theorem State.clAt_setSpcfg (s : State) (c : Ctx) (v : Word) (k : Nat) :
    (s.setSpcfg c v).clAt k = if k ∈ c.clusters then { s.clAt k with spcfg := v } else s.clAt k :=
  State.clAt_foldl_spcfg v k c.clusters s

theorem State.setSpcfg_frame (s : State) (c : Ctx) (v : Word) : ∃ k, s.setSpcfg c v = { s with clusters := k } := by
  unfold State.setSpcfg
  induction c.clusters generalizing s with
  | nil => exact ⟨s.clusters, rfl⟩
  | cons cl l ih => exact ih _

/-- A slot without stores writes no byte. -/
theorem State.storeMems_none {g : SlotLog} (h : g.mems = []) (s : State) (c : Ctx) (keep : Nat → Bool) :
    (s.storeMems c g keep).mem = s.mem ∧ (s.storeMems c g keep).sp = s.sp := by
  obtain ⟨u, home, hviews, heq⟩ := s.storeMems_eq c g keep
  rw [h] at hviews
  rw [heq, hviews]
  exact ⟨rfl, rfl⟩

/-- Nor does the commitment of its rows change a byte, a cluster or a counter. -/
theorem State.putRows_storeAll_none {s : State} {g : SlotLog} (h : g.mems = []) (hperf : s.perf = []) (c : Ctx) :
    let u := (s.storeAll c [g] fun _ => true).putRows [g]
    u.clusters = s.clusters ∧ u.perf = [] ∧ u.sp = s.sp ∧ u.mem = s.mem := by
  intro u
  obtain ⟨hmem, hsp⟩ := State.storeMems_none h s c fun _ => true
  have hstores : s.StoresOnly (s.storeMems c g fun _ => true) := s.storeMems_storesOnly _ _ _
  refine ⟨?_, ?_, hsp, hmem⟩
  · change (s.storeMems c g fun _ => true).clusters = _
    rw [hstores]
  · change (s.storeMems c g fun _ => true).perf = _
    rw [hstores]
    exact hperf

/-- Its units are the clusters that it configures, and poison of tiles at most. -/
theorem State.putUnits_spcfg {g : SlotLog} {w : Word} (s : State) (n : Nat) (c : Ctx) (hpush : g.push = none)
    (hpop : g.pop = none) (htiles : g.tiles = []) (hspcfg : g.spcfg = some w) :
    ∃ p, s.putUnits n c [g] = ({ s with tilePoison := p } : State).setSpcfg c w := by
  simp only [State.putUnits, State.commitChans, List.foldl_cons, List.foldl_nil, hpush, hpop, List.flatMap_cons, List.flatMap_nil,
    htiles, List.append_nil, List.findSome?_cons, hspcfg, State.applyTiles]
  exact ⟨_, rfl⟩

/-- A convoy of one slot, an spcfg, configures the clusters of its span, and writes no byte. -/
theorem convoyRetire_spcfg {s : State} {n : Nat} {cv : Convoy} {g : SlotLog} {w : Word} (hviq : (s.ctxAt n).viq = [cv])
    (htodo : cv.todo = []) (hwhole : cv.whole = none) (hfault : cv.fault = none) (hlogs : cv.logs = [g])
    (hspcfg : g.spcfg = some w) (hplain : plainLog { g with spcfg := none }) (hperf : s.perf = []) :
    completes (.convoyRetire n) s fun t => (∀ cl, t.clAt cl =
      if cl ∈ (s.ctxAt n).clusters then { s.clAt cl with spcfg := w } else s.clAt cl) ∧ t.sp = s.sp ∧ t.mem = s.mem := by
  obtain ⟨hmems, hamos, hpop, hpush, htiles, -⟩ := hplain
  have hpop : g.pop = none := hpop
  have hpush : g.push = none := hpush
  have htiles : g.tiles = [] := htiles
  have hchans : s.chansHold (s.ctxAt n) cv.logs = true := by simp [State.chansHold, hlogs, hpush, hpop]
  obtain ⟨c, -, heq⟩ := State.retireOk_ends (s := s) (n := n) (cv := cv) (by simpa [hlogs] using hamos) hchans
  obtain ⟨hclusters, hperf, hsp, hmem⟩ := State.putRows_storeAll_none (g := g) hmems hperf (s.ctxAt n)
  obtain ⟨p, hunits⟩ := State.putUnits_spcfg ((s.storeAll (s.ctxAt n) [g] fun _ => true).putRows [g]) n (s.ctxAt n) hpush hpop htiles hspcfg
  rw [hlogs, hunits] at heq
  generalize (s.storeAll (s.ctxAt n) [g] fun _ => true).putRows [g] = u at hclusters hperf hsp hmem heq
  obtain ⟨k, hframe⟩ := ({ u with tilePoison := p } : State).setSpcfg_frame (s.ctxAt n) w
  rw [State.countRows_none (by rw [hframe]; exact hperf)] at heq
  refine ⟨_, (exec_convoyRetire_ok hviq htodo hwhole hfault).trans (congrArg _ heq), fun cl => ?_, ?_, ?_⟩
  · have hcl : u.clAt cl = s.clAt cl := by simp only [State.clAt, hclusters]
    rw [← hcl]
    exact ({ u with tilePoison := p } : State).clAt_setSpcfg (s.ctxAt n) w cl
  · rw [hframe]
    exact hsp
  · rw [hframe]
    exact hmem

end Sys2Proof.Machine

namespace Sys2Proof.Proofs

open Sys2Proof Sys2Proof.Machine Sys2Proof.Claims

/-- Settles O33: a slot of vpf logs nothing, one of spcfg its word or a wait, and the end of its convoy configures the span. -/
theorem prefetchAndScratchpadConfiguration : Obligations.PrefetchAndScratchpadConfiguration := by
  unfold Obligations.PrefetchAndScratchpadConfiguration
  intro s cv f n w g
  refine ⟨fun hs => ⟨State.runPlain_eq hs.1 rfl rfl, exec_spcfg hs, slotWaits_spcfg hs⟩,
    fun hviq htodo hwhole hfault hlogs hspcfg hplain hperf => ?_⟩
  obtain ⟨t, hexec, hcl, hsp, hmem⟩ := convoyRetire_spcfg hviq htodo hwhole hfault hlogs hspcfg hplain hperf
  refine ⟨t, hexec, fun cl h => ?_, fun cl h => ?_, hsp, hmem⟩
  · rw [hcl, if_pos h]
  · rw [hcl, if_neg h]

end Sys2Proof.Proofs
end

section
/-! Tables that lose the entries of some keys, sums of distinct powers of 2, and where the cells of a scratchpad lie. -/

namespace Sys2Proof.Machine

/-! ## Tables -/

variable {α : Type}

/-- A table that keeps the keys of a set. -/
theorem smFind_filter_key (p : Nat → Bool) (k : Nat) : ∀ m : SMap α,
    smFind k (m.filter fun e => p e.1) = if p k then smFind k m else none
  | [] => by simp [smFind]
  | (j, v) :: m => by
    have ih := smFind_filter_key p k m
    by_cases hj : j = k
    · subst hj
      cases hp : p j <;> simp [hp, smFind, ih]
    · cases hp : p j <;> simp [hp, smFind, hj, ih]

/-- A table into which the entries of another, whose keys rise, are set one after another. -/
theorem smGet_foldl_set [DecidableEq α] (d : α) (k : Nat) : ∀ (l : SMap α) {lo : Option Nat} {m : SMap α},
    smRising lo l = true → smWf d m = true →
    smGet d (l.foldl (fun m e => smSet d m e.1 e.2) m) k = (smFind k l).getD (smGet d m k)
  | [], _, _, _, _ => rfl
  | (j, v) :: l, lo, m, hl, hm => by
    have hrest : smRising (some j) l = true := smRising_tail hl
    rw [List.foldl_cons, smGet_foldl_set d k l hrest (smWf_set d j v hm)]
    by_cases hj : j = k
    · subst hj
      rw [smFind_below hrest (Nat.le_refl j), Option.getD_none, smGet_set_same d v hm]
      simp [smFind]
    · rw [smGet_set_other d (Ne.symm hj)]
      simp [smFind, hj]

/-! ## Sums of powers of 2 -/

/-- The sum of the powers of 2 at the places of a set below n has just the bits of those places. -/
theorem foldl_pow_bits (p : Nat → Bool) : ∀ n : Nat,
    let sum := ((List.range n).filter p).foldl (fun a i => a + 2 ^ i) 0
    sum < 2 ^ n ∧ ∀ i, sum.testBit i = (decide (i < n) && p i)
  | 0 => by simp
  | n + 1 => by
    obtain ⟨hlt, hbits⟩ := foldl_pow_bits p n
    intro sum
    have hsum : sum = (if p n then 2 ^ n else 0) + ((List.range n).filter p).foldl (fun a i => a + 2 ^ i) 0 := by
      unfold sum
      rw [List.range_succ, List.filter_append, List.foldl_append]
      cases hp : p n <;> simp [hp, Nat.add_comm]
    generalize ((List.range n).filter p).foldl (fun a i => a + 2 ^ i) 0 = below at hlt hbits hsum
    have hpow : (2 : Nat) ^ (n + 1) = 2 ^ n + 2 ^ n := by omega
    cases hp : p n with
    | false =>
      rw [hp, if_neg Bool.false_ne_true, Nat.zero_add] at hsum
      refine ⟨by omega, fun i => ?_⟩
      rw [hsum, hbits]
      by_cases hi : i = n
      · subst hi
        simp [hp]
      · congr 1
        exact decide_eq_decide.2 (by omega)
    | true =>
      rw [hp, if_pos rfl] at hsum
      refine ⟨by omega, fun i => ?_⟩
      rw [hsum]
      obtain hi | hi | hi := Nat.lt_trichotomy i n
      · rw [Nat.testBit_two_pow_add_gt hi, hbits]
        simp [hi, Nat.lt_succ_of_lt hi]
      · subst hi
        rw [Nat.testBit_two_pow_add_eq, Nat.testBit_lt_two_pow hlt]
        simp [hp]
      · rw [Nat.testBit_lt_two_pow (by have := Nat.pow_le_pow_right (n := 2) (by decide) hi; omega)]
        simp [Nat.not_lt.2 (Nat.succ_le_of_lt hi)]

/-! ## Cells of a scratchpad (R255) -/

theorem foldChunks_lt (c : Nat) : ∀ n v : Nat, foldChunks c n v < 2 ^ c
  | 0, _ => Nat.two_pow_pos c
  | n + 1, _ => Nat.xor_lt_two_pow (Nat.mod_lt _ (Nat.two_pow_pos c)) (foldChunks_lt c n _)

/-- A cluster has 256 banks of 2,048 rows. -/
theorem spBankRow_lt (cfg : Word) {a : Nat} (ha : a < 2 ^ 22) : (spBankRow cfg a).1 < 2 ^ 8 ∧ (spBankRow cfg a).2 < 2 ^ 11 := by
  have hp : spParts cfg < 4 := Nat.mod_lt _ (by decide)
  unfold spBankRow
  dsimp only
  generalize spParts cfg = p at hp
  have hbank : ∀ w row, (if spLinear cfg then w % 2 ^ (8 - p) else Nat.xor (w % 2 ^ (8 - p)) (foldChunks (8 - p) 11 row)) < 2 ^ (8 - p) := by
    intro w row
    have hw : w % 2 ^ (8 - p) < 2 ^ (8 - p) := Nat.mod_lt _ (Nat.two_pow_pos _)
    split
    · exact hw
    · exact Nat.xor_lt_two_pow hw (foldChunks_lt _ _ _)
  have hb := hbank (a / 8 % 2 ^ (19 - p)) (a / 8 % 2 ^ (19 - p) / 2 ^ (8 - p))
  generalize (if spLinear cfg then _ else _ : Nat) = b at hb ⊢
  obtain rfl | rfl | rfl | rfl : p = 0 ∨ p = 1 ∨ p = 2 ∨ p = 3 := by omega
  all_goals omega

/-- Every cell that an offset of a cluster names is one of that cluster. -/
theorem State.spCell_cluster (s : State) (cl a : Nat) : s.spCell cl a / 2 ^ 22 = cl := by
  obtain ⟨hbank, hrow⟩ := spBankRow_lt (s.clAt cl).spcfg (Nat.mod_lt a (by decide : 0 < 2 ^ 22))
  unfold State.spCell
  generalize spBankRow (s.clAt cl).spcfg (a % 2 ^ 22) = x at hbank hrow
  obtain ⟨bank, row⟩ := x
  dsimp only at hbank hrow ⊢
  omega

end Sys2Proof.Machine
end

section
/-! Clock gating, the reset and READY (R243, R253, R433, R437), and O53. -/

namespace Sys2Proof.Machine

open Sys2Proof.Claims

/-! ## Gating (R437) -/

/-- What ungating a cluster does to it: its scratchpad and its milestones read 0. -/
def State.ungate (s : State) (cl : Nat) : State := (s.clearScratch cl).setCl cl { s.clAt cl with ms := [] }

/-- No milestone of a cluster and no byte of its scratchpad is listed. -/
def State.ungated (s : State) (cl : Nat) : Prop := (s.clAt cl).ms = [] ∧ ∀ k, k / 2 ^ 22 = cl → smFind k s.sp = none

theorem smFind_clearScratch (s : State) (cl k : Nat) :
    smFind k (s.clearScratch cl).sp = if k / 2 ^ 22 = cl then none else smFind k s.sp := by
  have h := smFind_filter_key (fun i => decide (i < cl * 2 ^ 22) || decide (cl * 2 ^ 22 + 2 ^ 22 ≤ i)) k s.sp
  refine h.trans ?_
  by_cases hk : k / 2 ^ 22 = cl
  · rw [if_pos hk, if_neg]
    simp only [Bool.or_eq_true, decide_eq_true_eq]
    omega
  · rw [if_neg hk, if_pos]
    simp only [Bool.or_eq_true, decide_eq_true_eq]
    omega

theorem State.ungate_ungated (s : State) (cl : Nat) : (s.ungate cl).ungated cl := by
  refine ⟨?_, fun k hk => ?_⟩
  · rw [State.ungate, State.clAt_setCl_same]
  · exact (smFind_clearScratch s cl k).trans (if_pos hk)

theorem State.ungate_keeps {s : State} {cl k : Nat} (h : s.ungated k) : (s.ungate cl).ungated k := by
  by_cases hk : k = cl
  · subst hk
    exact s.ungate_ungated k
  · obtain ⟨hms, hsp⟩ := h
    refine ⟨?_, fun j hj => ?_⟩
    · rw [State.ungate, State.clAt_setCl_other _ hk]
      exact hms
    · exact (smFind_clearScratch s cl j).trans (by rw [if_neg (hj ▸ hk), hsp j hj])

/-- The clusters of a set are ungated one after another. -/
def State.ungateAll (s : State) (p : Nat → Bool) (l : List Nat) : State :=
  l.foldl (fun s cl => if p cl then s.ungate cl else s) s

theorem State.ungateAll_ungated (p : Nat → Bool) {k : Nat} : ∀ (l : List Nat) (s : State),
    s.ungated k ∨ (k ∈ l ∧ p k = true) → (s.ungateAll p l).ungated k
  | [], _, h => h.elim id fun h => absurd h.1 List.not_mem_nil
  | cl :: l, s, h => by
    refine State.ungateAll_ungated p l (if p cl then s.ungate cl else s) ?_
    obtain h | ⟨hmem, hp⟩ := h
    · left
      split
      · exact State.ungate_keeps h
      · exact h
    · obtain rfl | hmem := List.mem_cons.1 hmem
      · left
        rw [if_pos hp]
        exact s.ungate_ungated k
      · exact .inr ⟨hmem, hp⟩

theorem State.ungateAll_frame (p : Nat → Bool) : ∀ (l : List Nat) (s : State), ∃ sp w bad k,
    s.ungateAll p l = { s with sp := sp, writes := w, spPoison := bad, clusters := k }
  | [], s => ⟨s.sp, s.writes, s.spPoison, s.clusters, rfl⟩
  | cl :: l, s => by
    by_cases hp : p cl = true
    · have hstep : s.ungateAll p (cl :: l) = (s.ungate cl).ungateAll p l :=
        congrArg (State.ungateAll · p l) (if_pos hp)
      rw [hstep]
      exact State.ungateAll_frame p l (s.ungate cl)
    · have hstep : s.ungateAll p (cl :: l) = s.ungateAll p l := congrArg (State.ungateAll · p l) (if_neg hp)
      rw [hstep]
      exact State.ungateAll_frame p l s

/-- Gating ungates the clusters whose bit is cleared, and notes the bits of those that hold nothing. -/
theorem State.gate_eq (s : State) (w : Word) : ∃ u,
    u = s.ungateAll (fun cl => s.ctl.clgate.getLsbD cl && !w.getLsbD cl) (List.range 64) ∧
    s.gate w = { u with ctl := { u.ctl with clgate := BitVec.ofNat 64 (((List.range 64).filter fun cl =>
      w.getLsbD cl && (s.ctl.clgate.getLsbD cl || !u.clusterHeld cl fun _ => false)).foldl (fun a cl => a + 2 ^ cl) 0) } } :=
  ⟨_, rfl, rfl⟩

theorem State.gate_clgate (s : State) (w : Word) {cl : Nat} (hcl : cl < 64) : (s.gate w).ctl.clgate.getLsbD cl =
    (w.getLsbD cl && (s.ctl.clgate.getLsbD cl || !s.clusterHeld cl fun _ => false)) := by
  obtain ⟨u, hu, hgate⟩ := s.gate_eq w
  obtain ⟨sp, ws, bad, k, hframe⟩ :=
    s.ungateAll_frame (fun cl => s.ctl.clgate.getLsbD cl && !w.getLsbD cl) (List.range 64)
  have hheld : u.clusterHeld cl (fun _ => false) = s.clusterHeld cl fun _ => false := by
    rw [hu, hframe]
    rfl
  rw [hgate]
  dsimp only
  rw [BitVec.getLsbD_ofNat, (foldl_pow_bits _ 64).2, hheld]
  simp [hcl]

/-- A cluster that is ungated reads 0. -/
theorem State.gate_ungates (s : State) (w : Word) {cl : Nat} (hcl : cl < 64) (hold : s.ctl.clgate.getLsbD cl = true)
    (hnew : w.getLsbD cl = false) : ((s.gate w).clAt cl).ms = [] ∧ ∀ a, (s.gate w).readSp cl a = 0 := by
  obtain ⟨u, hu, hgate⟩ := s.gate_eq w
  have hmem : cl ∈ List.range 64 ∧ (s.ctl.clgate.getLsbD cl && !w.getLsbD cl) = true :=
    ⟨List.mem_range.2 hcl, by rw [hold, hnew]; rfl⟩
  obtain ⟨hms, hsp⟩ := State.ungateAll_ungated (fun cl => s.ctl.clgate.getLsbD cl && !w.getLsbD cl) (List.range 64) s (.inr hmem)
  rw [← hu] at hms hsp
  rw [hgate]
  refine ⟨hms, fun a => ?_⟩
  have hcell := hsp _ (u.spCell_cluster cl a)
  change smGet 0 u.sp (u.spCell cl a) = 0
  rw [smGet, hcell]
  rfl

theorem State.gate_frame (s : State) (w : Word) : (s.gate w).mem = s.mem ∧ (s.gate w).ctxs = s.ctxs := by
  obtain ⟨u, hu, hgate⟩ := s.gate_eq w
  obtain ⟨sp, ws, bad, k, hframe⟩ :=
    s.ungateAll_frame (fun cl => s.ctl.clgate.getLsbD cl && !w.getLsbD cl) (List.range 64)
  rw [hgate, hu, hframe]
  exact ⟨rfl, rfl⟩

/-! ## Reset (R253, R433, R434) -/

/-- Where every dirty byte is of host memory, the retained memory reads 0 in HBM, and elsewhere what its home has. -/
theorem State.retained_byte {s : State} (hc : s.canonical = true) (hk : s.keyed = true) (k : Nat) :
    smGet 0 s.retained k = if regionOf k = 0 then 0 else (smFind k s.home).getD (smGet 0 s.mem k) := by
  have hmem : Memory.wf s.mem = true := by
    simp only [State.canonical, Bool.and_eq_true] at hc
    tauto
  have hhome : smRising none s.home = true ∧ (s.home.all fun e => decide (regionOf e.1 = 1)) = true := by
    simp only [State.keyed, Bool.and_eq_true] at hk
    tauto
  obtain ⟨hrising, hhost⟩ := hhome
  have hout : smFind k (outsideMem s.mem) = if regionOf k = 0 then none else smFind k s.mem := by
    have h := smFind_filter_key (fun i => decide (regionOf i ≠ 0)) k s.mem
    refine h.trans ?_
    by_cases hr : regionOf k = 0 <;> simp [hr]
  have hwf : smWf 0 (outsideMem s.mem) = true := smWf_filter 0 _ hmem
  rw [State.retained, smGet_foldl_set 0 k s.home hrising hwf, smGet, hout]
  split
  next hr =>
    have hnone : smFind k s.home = none := by
      refine smFind_eq_none_of_not_mem fun hmem => ?_
      obtain ⟨e, he, rfl⟩ := List.mem_map.1 hmem
      have := of_decide_eq_true (List.all_eq_true.1 hhost e he)
      omega
    rw [hnone]
    rfl
  · rfl

/-- What a reset leaves, whether of power-on or of DEVCTL.RESET: the boot ROM has run over the reset values and what outlives
them, the fabric's own tables among these. -/
structure State.Booted (s t : State) : Prop where
  frame : t = { State.reset with
    agenda := s.agenda, free := s.free, mem := s.retained, memPoison := outsidePoison s.memPoison, hdm := s.hdm
    interleave := s.interleave, glox := t.glox, nalo := t.nalo, ctl := t.ctl, repair := s.repair }
  routes : t.glox.routes = []
  packets : t.glox.packets = []
  endpoint : t.glox.endpoint = s.glox.endpoint
  rollback : t.nalo.rollback = s.nalo.rollback
  running : t.nalo.running = s.nalo.bootImage
  identity : t.nalo.identity = s.nalo.bootImage.map fun i => Config.deriveKey s.nalo.secret (sha384 (i.header ++ i.body))
  ctl : t.ctl = { State.reset.ctl with boot := if s.nalo.bootImage.isSome then 1 else 3 }

theorem State.boot_booted (s : State) : s.Booted s.boot := ⟨rfl, rfl, rfl, rfl, rfl, rfl, rfl, rfl⟩

theorem State.resetWrite_booted {s : State} (h : 2 ≤ s.ctl.boot) : s.Booted s.resetWrite := by
  rw [State.resetWrite, if_neg (BitVec.not_lt.2 h)]
  exact ⟨rfl, rfl, rfl, rfl, rfl, rfl, rfl, rfl⟩

theorem State.Booted.readByte {s t : State} (h : s.Booted t) (hc : s.canonical = true) (hk : s.keyed = true) (a : Nat) :
    t.readByte a = if regionOf (s.cell a) = 0 then 0 else (smFind (s.cell a) s.home).getD (s.readByte a) := by
  have hcell : t.cell a = s.cell a := by simp only [State.cell, h.endpoint]
  have hmem : t.mem = s.retained := by rw [h.frame]
  rw [State.readByte, hcell, hmem, State.retained_byte hc hk]
  rfl

/-! ## Records -/

/-- A record that is held is posted. -/
theorem State.post_posted {s : State} (h : holdsRecords s) (r : FqRec) :
    posted s (s.post r) r.kind ∧ s.post r = { s with fq := (s.post r).fq, seq := (s.post r).seq } := by
  rw [State.post_held h.1 h.2]
  exact ⟨⟨_, rfl, rfl, rfl, rfl⟩, rfl⟩

/-! ## Images (R434) -/

theorem Nalo.accepts_iff (n : Nalo) (i : FwImage) : n.accepts i = true ↔
    ecdsaOk i.key (imageDigest i) i.sig = true ∧ keyDigest i.key ∈ n.digests ∧ keyDigest i.key ∉ n.revoked ∧
      n.rollback ≤ i.version := by
  simp only [Nalo.accepts, Bool.and_eq_true, List.contains_iff_mem, Bool.not_eq_true', decide_eq_true_eq,
    ← Bool.not_eq_true, and_assoc]

end Sys2Proof.Machine

namespace Sys2Proof.Proofs

open Sys2Proof Sys2Proof.Machine Sys2Proof.Claims

/-- Settles O53: a reset leaves what the ROM and the retained memory give, and gating is a sum of bits beside the clusters
that it clears. -/
theorem powerAndReset : Obligations.PowerAndReset := by
  unfold Obligations.PowerAndReset
  intro s p stk w img n cl key
  refine ⟨fun hp htrip => ?_, fun h => ?_, fun h => ?_, fun htrip hrec => ?_, rfl, rfl, fun hcl => ?_, fun i hi hboot => ?_,
    fun h => ?_, fun h => ?_, ?_, ?_⟩
  · refine congrArg Host.Outcome.next (if_neg fun h => ?_)
    obtain h | ⟨ht, hlt⟩ := h
    · exact hp h
    · obtain h | h := htrip
      · rw [h] at ht
        cases ht
      · exact absurd hlt (BitVec.not_lt.2 h)
  · exact congrArg Host.Outcome.next (if_pos h)
  · exact congrArg Host.Outcome.next (if_neg h)
  · obtain ⟨hposted, hpost⟩ := State.post_posted
      (s := { s with ctl := { s.ctl with trip := true, reqP := 2 } }) hrec { seq := 0, time := 0, kind := 9 }
    refine ⟨_, if_neg (by rw [htrip]; exact Bool.false_ne_true), ?_, hposted⟩
    rw [hpost]
  · obtain ⟨hmem, hctxs⟩ := s.gate_frame w
    refine ⟨_, rfl, s.gate_clgate w hcl, fun hold hnew => ?_, hmem, hctxs⟩
    obtain ⟨hms, hsp⟩ := s.gate_ungates w hcl hold hnew
    exact ⟨hms, fun _ => hsp⟩
  · have hbooted : ∃ t, exec i s = .next t ∧ s.Booted t := by
      obtain rfl | rfl : i = .powerOn ∨ i = .deviceReset := by simpa using hi
      · exact ⟨_, rfl, s.boot_booted⟩
      · exact ⟨_, rfl, State.resetWrite_booted (hboot rfl)⟩
    obtain ⟨t, hexec, hb⟩ := hbooted
    refine ⟨t, hexec, ?_⟩
    have hread := hb.readByte
    obtain ⟨hframe, hroutes, hpackets, -, hrollback, hrunning, hidentity, hctl⟩ := hb
    exact ⟨congrArg State.ctxs hframe, congrArg State.clusters hframe, congrArg State.sp hframe, congrArg State.queues hframe,
      congrArg State.slots hframe, congrArg State.tlbs hframe, congrArg State.walks hframe, congrArg State.perf hframe,
      congrArg State.seq hframe, congrArg State.pms hframe, hroutes, hpackets, by rw [hframe], hrollback, hrunning,
      hidentity, hctl, hread⟩
  · exact congrArg Host.Outcome.next (if_pos h)
  · refine ⟨_, if_pos h, rfl, fun e => ?_, rfl⟩
    simp [outsideMem]
  · intro good
    have hgood : s.nalo.accepts img = true ↔ good := s.nalo.accepts_iff img
    refine ⟨fun hboot h => if_pos ⟨hboot, hgood.2 h⟩, fun h => if_neg fun hacc => ?_⟩
    exact h.elim (· hacc.1) (· (hgood.1 hacc.2))
  · change execAdvanceRollbackCounter n s = _
    unfold execAdvanceRollbackCounter
    split <;> rfl

end Sys2Proof.Proofs
end

section
/-! Counters of events and of errors (R418 to R420), and O52. -/

namespace Sys2Proof.Machine

open Sys2Proof.Claims

/-! ## Records count nothing -/

theorem State.writeBytes_perf : ∀ (l : List Byte) (s : State) (pa : Nat), (s.writeBytes pa l).perf = s.perf
  | [], _, _ => rfl
  | b :: l, s, pa => State.writeBytes_perf l (s.writeByte pa b) (pa + 1)

theorem State.fqWrite_perf (s : State) (r : FqRec) : (s.fqWrite r).perf = s.perf := by
  have h := State.writeBytes_perf (fqBytes r) s s.fqPa
  unfold State.fqWrite State.writePhys
  generalize s.writeBytes s.fqPa (fqBytes r) = t at h
  exact h

theorem State.post_perf (s : State) (r : FqRec) : (s.post r).perf = s.perf := by
  unfold State.post
  dsimp only
  split
  · exact State.fqWrite_perf _ _
  · split <;> rfl

/-! ## A performance counter (R418) -/

section
variable {s : State} {block i n : Nat}

/-- The words of a block's counters, after one of them counted: its COUNT modulo 2^48, and OVF in its CTL where it wrapped. -/
theorem State.perfAdd_perf (s : State) (block i n : Nat) :
    let ctl := smGet (0 : Word) s.perf (block * 64 + 2 * i)
    let v := (smGet (0 : Word) s.perf (block * 64 + 2 * i + 1)).toNat + n
    let counted := smSet (0 : Word) s.perf (block * 64 + 2 * i + 1) (BitVec.ofNat 64 (v % 2 ^ 48))
    (s.perfAdd block i n).perf = if v < 2 ^ 48 then counted else smSet 0 counted (block * 64 + 2 * i) (ctl ||| 0x400) := by
  unfold State.perfAdd
  dsimp only
  split
  · rfl
  · split
    · exact State.post_perf _ _
    · rfl

theorem State.perfAdd_wf (h : smWf (0 : Word) s.perf = true) : smWf (0 : Word) (s.perfAdd block i n).perf = true := by
  rw [State.perfAdd_perf]
  split
  · exact smWf_set 0 _ _ h
  · exact smWf_set 0 _ _ (smWf_set 0 _ _ h)

theorem State.perfAdd_other {k : Nat} (hctl : k ≠ block * 64 + 2 * i) (hcount : k ≠ block * 64 + 2 * i + 1) :
    smGet 0 (s.perfAdd block i n).perf k = smGet 0 s.perf k := by
  rw [State.perfAdd_perf]
  split
  · rw [smGet_set_other 0 hcount]
  · rw [smGet_set_other 0 hctl, smGet_set_other 0 hcount]

theorem State.perfAdd_count (h : smWf (0 : Word) s.perf = true) :
    smGet 0 (s.perfAdd block i n).perf (block * 64 + 2 * i + 1) =
      BitVec.ofNat 64 (((smGet (0 : Word) s.perf (block * 64 + 2 * i + 1)).toNat + n) % 2 ^ 48) := by
  rw [State.perfAdd_perf]
  split
  · rw [smGet_set_same 0 _ h]
  · rw [smGet_set_other 0 (by omega), smGet_set_same 0 _ h]

theorem State.perfAdd_ctl (h : smWf (0 : Word) s.perf = true) :
    smGet 0 (s.perfAdd block i n).perf (block * 64 + 2 * i) =
      if (smGet (0 : Word) s.perf (block * 64 + 2 * i + 1)).toNat + n < 2 ^ 48 then smGet 0 s.perf (block * 64 + 2 * i)
      else smGet 0 s.perf (block * 64 + 2 * i) ||| 0x400 := by
  rw [State.perfAdd_perf]
  split
  · rw [smGet_set_other 0 (by omega)]
  · rw [smGet_set_same 0 _ (smWf_set 0 _ _ h)]

theorem posted_iff_of_perf {t : State} {p : SMap Word} {kind : Nat} : posted { s with perf := p } t kind ↔ posted s t kind := Iff.rfl

theorem holdsRecords_of_perf (h : holdsRecords s) (p : SMap Word) : holdsRecords { s with perf := p } := h

/-- A counter that wraps with OVIE posts its record; else it changes its words alone. -/
theorem State.perfAdd_wraps (h : holdsRecords s)
    (hv : 2 ^ 48 ≤ (smGet (0 : Word) s.perf (block * 64 + 2 * i + 1)).toNat + n) :
    ((smGet (0 : Word) s.perf (block * 64 + 2 * i)).getLsbD 9 = true → posted s (s.perfAdd block i n) 7) ∧
    ((smGet (0 : Word) s.perf (block * 64 + 2 * i)).getLsbD 9 = false →
      s.perfAdd block i n = { s with perf := (s.perfAdd block i n).perf }) := by
  unfold State.perfAdd
  dsimp only
  rw [if_neg (Nat.not_lt.2 hv)]
  refine ⟨fun hie => ?_, fun hie => ?_⟩
  · rw [if_pos hie]
    exact posted_iff_of_perf.1 (posted_iff_of_perf.1
      (State.post_posted (holdsRecords_of_perf (holdsRecords_of_perf h _) _) { seq := 0, time := 0, kind := 7 }).1)
  · rw [if_neg (by rw [hie]; exact Bool.false_ne_true)]

/-! ## The counters of a block that select an event (R419) -/

variable {code : Nat} {pasids : List Word}

theorem State.perf1_wf (h : smWf (0 : Word) s.perf = true) : smWf (0 : Word) (s.perf1 block code pasids n i).perf = true := by
  unfold State.perf1
  dsimp only
  split
  · exact State.perfAdd_wf h
  · exact h

theorem State.perf1_other {k : Nat} (hctl : k ≠ block * 64 + 2 * i) (hcount : k ≠ block * 64 + 2 * i + 1) :
    smGet 0 (s.perf1 block code pasids n i).perf k = smGet 0 s.perf k := by
  unfold State.perf1
  dsimp only
  split
  · exact State.perfAdd_other hctl hcount
  · rfl

/-- A counter that is enabled for every PASID counts the events that it selects. -/
theorem State.perf1_on (hon : (smGet (0 : Word) s.perf (block * 64 + 2 * i)).getLsbD 8 = true)
    (hall : (smGet (0 : Word) s.perf (block * 64 + 2 * i)).getLsbD 11 = false)
    (hcode : (smGet (0 : Word) s.perf (block * 64 + 2 * i)).toNat % 256 = code) :
    s.perf1 block code pasids n i = s.perfAdd block i n := by
  unfold State.perf1
  dsimp only
  rw [hon, hall, decide_eq_true hcode]
  rfl

theorem State.foldl_perf1_wf : ∀ (l : List Nat) {s : State}, smWf (0 : Word) s.perf = true →
    smWf (0 : Word) (l.foldl (fun s i => s.perf1 block code pasids n i) s).perf = true
  | [], _, h => h
  | _ :: l, _, h => State.foldl_perf1_wf l (State.perf1_wf h)

theorem State.foldl_perf1_other {k : Nat} : ∀ (l : List Nat) (s : State),
    (∀ i ∈ l, k ≠ block * 64 + 2 * i ∧ k ≠ block * 64 + 2 * i + 1) →
    smGet 0 (l.foldl (fun s i => s.perf1 block code pasids n i) s).perf k = smGet 0 s.perf k
  | [], _, _ => rfl
  | i :: l, s, h => by
    obtain ⟨hctl, hcount⟩ := h i List.mem_cons_self
    exact (State.foldl_perf1_other l _ fun j hj => h j (List.mem_cons_of_mem _ hj)).trans (State.perf1_other hctl hcount)

/-- A counter of a block that is enabled for every PASID, and selects an event, counts it. -/
theorem State.perfCount_counts {pasid : Option Word} (hi : i < blockCounters block) (hwf : smWf (0 : Word) s.perf = true)
    (hon : (smGet (0 : Word) s.perf (block * 64 + 2 * i)).getLsbD 8 = true)
    (hall : (smGet (0 : Word) s.perf (block * 64 + 2 * i)).getLsbD 11 = false)
    (hcode : (smGet (0 : Word) s.perf (block * 64 + 2 * i)).toNat % 256 = code)
    (hroom : (smGet (0 : Word) s.perf (block * 64 + 2 * i + 1)).toNat + 1 < 2 ^ 48) :
    smGet 0 (s.perfCount block code pasid 1).perf (block * 64 + 2 * i + 1) =
      BitVec.ofNat 64 ((smGet (0 : Word) s.perf (block * 64 + 2 * i + 1)).toNat + 1) ∧
    smGet 0 (s.perfCount block code pasid 1).perf (block * 64 + 2 * i) = smGet 0 s.perf (block * 64 + 2 * i) := by
  have hne : s.perf.isEmpty = false := by
    cases hp : s.perf with
    | nil =>
      simp [smGet, smFind, hp] at hon
    | cons e m => rfl
  obtain ⟨before, after, hl⟩ := List.append_of_mem (List.mem_range.2 hi)
  have hnodup : (before ++ i :: after).Nodup := hl ▸ List.nodup_range
  obtain ⟨-, hafter, hapart⟩ := List.nodup_append.1 hnodup
  have hbefore : ∀ j ∈ before, j ≠ i := fun j hj => hapart j hj i List.mem_cons_self
  have hafter : ∀ j ∈ after, j ≠ i := fun j hj h => (List.nodup_cons.1 hafter).1 (h ▸ hj)
  have hkeys : ∀ {j k : Nat}, j ≠ i → (k = block * 64 + 2 * i ∨ k = block * 64 + 2 * i + 1) →
      k ≠ block * 64 + 2 * j ∧ k ≠ block * 64 + 2 * j + 1 := fun hj hk => by omega
  have hcount : s.perfCount block code pasid 1 =
      after.foldl (fun s j => s.perf1 block code pasid.toList 1 j)
        ((before.foldl (fun s j => s.perf1 block code pasid.toList 1 j) s).perf1 block code pasid.toList 1 i) := by
    unfold State.perfCount State.perfCountOf
    rw [hne, hl, List.foldl_append]
    rfl
  have hsame : ∀ k, k = block * 64 + 2 * i ∨ k = block * 64 + 2 * i + 1 →
      smGet 0 (before.foldl (fun s j => s.perf1 block code pasid.toList 1 j) s).perf k = smGet 0 s.perf k :=
    fun k hk => State.foldl_perf1_other before s fun j hj => hkeys (hbefore j hj) hk
  have hwfu : smWf (0 : Word) (before.foldl (fun s j => s.perf1 block code pasid.toList 1 j) s).perf = true :=
    State.foldl_perf1_wf before hwf
  rw [hcount]
  generalize before.foldl (fun s j => s.perf1 block code pasid.toList 1 j) s = u at hsame hwfu
  have hctl := hsame _ (.inl rfl)
  have hold := hsame _ (.inr rfl)
  rw [State.perf1_on (hctl ▸ hon) (hctl ▸ hall) (hctl ▸ hcode)]
  refine ⟨?_, ?_⟩
  · rw [State.foldl_perf1_other after _ fun j hj => hkeys (hafter j hj) (.inr rfl), State.perfAdd_count hwfu, hold,
      Nat.mod_eq_of_lt hroom]
  · rw [State.foldl_perf1_other after _ fun j hj => hkeys (hafter j hj) (.inl rfl), State.perfAdd_ctl hwfu, hold, hctl,
      if_pos hroom]

end

/-! ## Errors (R420) -/

section
variable {s u : State} {site : ErrSite} {block src : Nat} {loc : Word}

/-- An error at a site that exists is found there. -/
theorem State.errorAt_of_siteOk (h : siteOk s site = some (block, src, loc, u)) :
    s.errorAt site = some (block, src, loc) ∧ s.poisonAt site = u := by
  cases site
  case registers => cases h
  case csrs => cases h
  all_goals
    unfold siteOk at h
    dsimp only at h
    split at h
    next hok =>
      cases h
      exact ⟨if_pos hok, rfl⟩
    · cases h

theorem exec_uncorrectableError (h : siteOk s site = some (block, src, loc, u)) :
    exec (.uncorrectableError site) s = .next (u.countUe block src loc) := by
  obtain ⟨hat, hpoison⟩ := State.errorAt_of_siteOk h
  change execUncorrectableError site s = _
  unfold execUncorrectableError
  cases site
  case registers => cases h
  case csrs => cases h
  all_goals
    dsimp only
    rw [hat, hpoison]

theorem exec_correctedError (h : siteOk s site = some (block, src, loc, u)) : exec (.correctedError site) s =
    .next ((if src = 7 then s.perfCount block 0x48 none 1 else s).countCe block src loc) := by
  obtain ⟨hat, -⟩ := State.errorAt_of_siteOk h
  change execCorrectedError site s = _
  unfold execCorrectedError
  rw [hat]

/-- A site's poison is no record, no count and no word of the sources. -/
theorem siteOk_frame (h : siteOk s site = some (block, src, loc, u)) :
    u.ras = s.ras ∧ u.fq = s.fq ∧ u.seq = s.seq ∧ u.ctl = s.ctl := by
  rw [← (State.errorAt_of_siteOk h).2]
  cases site <;> exact ⟨rfl, rfl, rfl, rfl⟩

/-- The words of a source, with ERRCNT and ERRLOC written. -/
def State.setErr (s : State) (block src : Nat) (cnt loc : Word) : State := (s.setRas block src 0 cnt).setRas block src 1 loc

theorem State.setErr_rasWord (s : State) (block src : Nat) (cnt loc : Word) :
    (s.setErr block src cnt loc).rasWord block src 0 = cnt ∧ (s.setErr block src cnt loc).rasWord block src 1 = loc := by
  refine ⟨?_, smGet_put_same _ _ _ _⟩
  exact (smGet_put_other _ (by omega) _ _).trans (smGet_put_same _ _ _ _)

theorem State.countUe_eq (h : holdsRecords s) (block src : Nat) (loc : Word) : ∃ r : FqRec, r.kind = 8 ∧ r.seq = s.seq + 1 ∧
    s.countUe block src loc = { s.setErr block src (BitVec.ofNat 64
      (if (s.rasWord block src 0).toNat / 2 ^ 16 % 2 ^ 16 < 2 ^ 16 - 1 then (s.rasWord block src 0).toNat + 2 ^ 16
        else (s.rasWord block src 0).toNat)) loc with seq := s.seq + 1, fq := s.fq ++ [r] } :=
  ⟨_, rfl, rfl, State.post_held (s := s.setErr block src _ loc) h.1 h.2 { seq := 0, time := 0, kind := 8, eval := loc }⟩

theorem State.countCe_eq (s : State) (block src : Nat) (loc : Word) :
    let word := (s.rasWord block src 0).toNat
    let ce := word / 2 ^ 32
    let thr := (s.rasWord block src 2).toNat
    let t := s.setErr block src (BitVec.ofNat 64 (if ce < 2 ^ 32 - 1 then word + 2 ^ 32 else word)) loc
    s.countCe block src loc = if ce < 2 ^ 32 - 1 ∧ thr ≠ 0 ∧ (ce + 1) % thr = 0 then
      t.post { seq := 0, time := 0, kind := 8, eval := loc } else t := by
  intro word ce thr t
  have hrise : (if ce < 2 ^ 32 - 1 then word + 2 ^ 32 else word) ≠ word ↔ ce < 2 ^ 32 - 1 := by
    split <;> omega
  exact if_congr ⟨fun ⟨hthr, hne, hmod⟩ => ⟨hrise.1 hne, hthr, hmod⟩, fun ⟨hlt, hthr, hmod⟩ => ⟨hthr, hrise.2 hlt, hmod⟩⟩ rfl rfl

theorem State.countCe_perf (s : State) (block src : Nat) (loc : Word) : (s.countCe block src loc).perf = s.perf := by
  rw [State.countCe_eq]
  split
  · exact State.post_perf _ _
  · rfl

end

end Sys2Proof.Machine

namespace Sys2Proof.Proofs

open Sys2Proof Sys2Proof.Machine Sys2Proof.Claims

section
variable {s u : State} {site : ErrSite} {block src : Nat} {loc : Word}

theorem uncorrectableError_completes (hrec : holdsRecords s) (h : siteOk s site = some (block, src, loc, u)) :
    completes (.uncorrectableError site) s fun t =>
      t.rasWord block src 0 = BitVec.ofNat 64 (if (s.rasWord block src 0).toNat / 2 ^ 16 % 2 ^ 16 < 2 ^ 16 - 1 then
          (s.rasWord block src 0).toNat + 2 ^ 16 else (s.rasWord block src 0).toNat) ∧
        t.rasWord block src 1 = loc ∧ posted s t 8 ∧ t = { u with ras := t.ras, fq := t.fq, seq := t.seq } := by
  obtain ⟨hras, hfq, hseq, hctl⟩ := siteOk_frame h
  have hu : holdsRecords u := ⟨hctl ▸ hrec.1, hfq ▸ hrec.2⟩
  obtain ⟨r, hkind, hnum, heq⟩ := State.countUe_eq hu block src loc
  obtain ⟨hcnt, hloc⟩ := u.setErr_rasWord block src (BitVec.ofNat 64
    (if (u.rasWord block src 0).toNat / 2 ^ 16 % 2 ^ 16 < 2 ^ 16 - 1 then (u.rasWord block src 0).toNat + 2 ^ 16
      else (u.rasWord block src 0).toNat)) loc
  have hword : u.rasWord block src 0 = s.rasWord block src 0 := by simp only [State.rasWord, hras]
  refine ⟨_, exec_uncorrectableError h, ?_⟩
  rw [heq]
  refine ⟨?_, hloc, ⟨r, ?_, hkind, ?_, ?_⟩, rfl⟩
  · rw [← hword]
    exact hcnt
  · rw [← hfq]
  · rw [hnum, hseq]
  · rw [← hseq]

theorem correctedError_completes (hrec : holdsRecords s) (h : siteOk s site = some (block, src, loc, u)) (hperf : src = 7 → s.perf = []) :
    let word := (s.rasWord block src 0).toNat
    let ce := word / 2 ^ 32
    let thr := (s.rasWord block src 2).toNat
    let due := ce < 2 ^ 32 - 1 ∧ thr ≠ 0 ∧ (ce + 1) % thr = 0
    completes (.correctedError site) s fun t =>
      t.rasWord block src 0 = BitVec.ofNat 64 (if ce < 2 ^ 32 - 1 then word + 2 ^ 32 else word) ∧
        t.rasWord block src 1 = loc ∧ (due → posted s t 8) ∧ (¬ due → t.fq = s.fq ∧ t.seq = s.seq) ∧
        t = { s with ras := t.ras, fq := t.fq, seq := t.seq } := by
  intro word ce thr due
  have hcounts : (if src = 7 then s.perfCount block 0x48 none 1 else s) = s := by
    split
    next h7 => exact State.perfCount_none (hperf h7) _ _ _ _
    · rfl
  obtain ⟨hcnt, hloc⟩ := s.setErr_rasWord block src (BitVec.ofNat 64 (if ce < 2 ^ 32 - 1 then word + 2 ^ 32 else word)) loc
  refine ⟨_, (exec_correctedError h).trans (by rw [hcounts, State.countCe_eq]), ?_⟩
  by_cases hdue : due
  · obtain ⟨hposted, hframe⟩ := State.post_posted (s := s.setErr block src (BitVec.ofNat 64
      (if ce < 2 ^ 32 - 1 then word + 2 ^ 32 else word)) loc) hrec { seq := 0, time := 0, kind := 8, eval := loc }
    rw [if_pos hdue]
    refine ⟨?_, ?_, fun _ => hposted, fun hno => absurd hdue hno, ?_⟩
    all_goals rw [hframe]
    · exact hcnt
    · exact hloc
    · rfl
  · rw [if_neg hdue]
    exact ⟨hcnt, hloc, fun hd => absurd hd hdue, fun _ => ⟨rfl, rfl⟩, rfl⟩

/-- An error in a context's registers or CSRs posts its record and falls due. -/
theorem registerError_completes {n sub : Nat} (hrec : holdsRecords s) (hn : n < 256) (hmode : (s.ctxAt n).mode ≠ .free) :
    let t := s.registerError n sub
    posted s t 8 ∧ (∃ v, (t.ctxAt n).async = (s.ctxAt n).async ++ [trapOf causeHwUe sub v]) ∧
      ∀ q, (t.ctxAt n).reg q = (s.ctxAt n).reg q := by
  intro t
  have ht : t = State.due (s.takeFree.2.post { s.takeFree.2.recordOf n 8 with eval := s.takeFree.1 }) n
      (trapOf causeHwUe sub s.takeFree.1) := if_neg fun h => h.elim hmode (Nat.not_le.2 hn)
  have hfree : holdsRecords s.takeFree.2 := hrec
  obtain ⟨hposted, hpost⟩ := State.post_posted hfree { s.takeFree.2.recordOf n 8 with eval := s.takeFree.1 }
  generalize s.takeFree.2.post { s.takeFree.2.recordOf n 8 with eval := s.takeFree.1 } = p at ht hposted hpost
  have hctx : p.ctxAt n = s.ctxAt n := by
    rw [hpost]
    rfl
  have hdue : t.ctxAt n = { s.ctxAt n with async := (s.ctxAt n).async ++ [trapOf causeHwUe sub s.takeFree.1] } := by
    rw [ht, State.due, State.ctxAt_setCtx_same, hctx]
  refine ⟨?_, ⟨_, by rw [hdue]⟩, fun q => by rw [hdue]; rfl⟩
  rw [ht]
  exact hposted

theorem counterWrap_completes {n : Nat} (hrec : holdsRecords s) (hb : block < 73) (hn : n < blockCounters block)
    (hon : (smGet (0 : Word) s.perf (block * 64 + 2 * n)).getLsbD 8 = true)
    (helse : countedElsewhere block ((smGet (0 : Word) s.perf (block * 64 + 2 * n)).toNat % 256) = true)
    (hwf : smWf (0 : Word) s.perf = true) :
    let key := block * 64 + 2 * n
    let ctl := smGet (0 : Word) s.perf key
    completes (.counterWrap block n) s fun t =>
      smGet 0 t.perf key = ctl ||| 0x400 ∧ smGet (0 : Word) t.perf (key + 1) = 0 ∧
        (∀ k, k ≠ key → k ≠ key + 1 → smGet (0 : Word) t.perf k = smGet 0 s.perf k) ∧
        (ctl.getLsbD 9 = true → posted s t 7) ∧ (ctl.getLsbD 9 = false → t = { s with perf := t.perf }) := by
  intro key ctl
  have hruns : ctlRuns block ctl = true := by
    unfold ctlRuns
    rw [hon, helse]
    rfl
  have hword : (s.perfWord block (2 * n + 1)).toNat = (smGet (0 : Word) s.perf (key + 1)).toNat % 2 ^ 48 := by
    have hodd : ¬ (2 * n + 1) % 2 = 0 := by omega
    have hmask : ∀ v : Word, (v &&& 0xFFFFFFFFFFFF).toNat = v.toNat % 2 ^ 48 := fun v => by
      rw [and_lowMask 48 (by decide) v, lowBits_toNat (by decide)]
    unfold State.perfWord
    dsimp only
    rw [if_neg hodd, hmask]
    rfl
  have hv : (smGet (0 : Word) s.perf (key + 1)).toNat + (2 ^ 48 - (s.perfWord block (2 * n + 1)).toNat) =
      2 ^ 48 * ((smGet (0 : Word) s.perf (key + 1)).toNat / 2 ^ 48 + 1) := by omega
  obtain ⟨hposts, hquiet⟩ := State.perfAdd_wraps (block := block) (i := n) hrec
    (n := 2 ^ 48 - (s.perfWord block (2 * n + 1)).toNat) (by rw [hv]; omega)
  refine ⟨_, if_pos ⟨hn, hb, hruns⟩, ?_, ?_, fun k hctl hcount => State.perfAdd_other hctl hcount, hposts, hquiet⟩
  · rw [State.perfAdd_ctl hwf, if_neg (by rw [hv]; omega)]
  · rw [State.perfAdd_count hwf, hv, Nat.mul_mod_right]
    rfl

end

/-- Settles O52: an error writes the words of its source and posts at most one record, and a counter its own two words. -/
theorem errorsAndRepair : Obligations.ErrorsAndRepair := by
  unfold Obligations.ErrorsAndRepair
  intro s u site block src n cl lane pa loc hrec word
  refine ⟨fun h => ⟨uncorrectableError_completes hrec h, correctedError_completes hrec h⟩, fun hn hmode k hk => ?_,
    fun hcl hlane hheld hspare => if_pos ⟨hcl, hlane, hspare, hheld⟩,
    fun hb hn hon helse hwf => counterWrap_completes hrec hb hn hon helse hwf,
    fun hcl hpa hn hwf => ?_⟩
  · obtain rfl | rfl : k = (.registers n, 2) ∨ k = (.csrs n, 4) := by simpa using hk
    · exact ⟨_, rfl, registerError_completes hrec hn hmode⟩
    · exact ⟨_, rfl, registerError_completes hrec hn hmode⟩
  · intro key ctl count hon hall hcode hroom
    have hblock : blockCounters (64 + cl / 2) = 32 := if_neg (by omega)
    have hsite : siteOk s (.gloxel cl pa) = some (64 + cl / 2, 7, BitVec.ofNat 64 pa, s) := if_pos ⟨hcl, hpa⟩
    have hcounts := State.perfCount_counts (pasid := none) (hblock ▸ hn) hwf hon hall hcode hroom
    refine ⟨_, exec_correctedError hsite, ?_⟩
    beta_reduce
    rw [State.countCe_perf, if_pos rfl]
    exact hcounts

end Sys2Proof.Proofs
end

section
/-! Accesses of the host and of other endpoints, and the MMIO space (R250, R291, R408, R426 to R433), and O51. -/

namespace Sys2Proof.Machine

open Sys2Proof.Claims

/-! ## Device memory (R250, R259, R291, R437) -/

theorem State.writeBytes_storesOnly : ∀ (l : List Byte) (s : State) (pa : Nat), s.StoresOnly (s.writeBytes pa l)
  | [], s, _ => .refl s
  | b :: l, s, pa => State.StoresOnly.trans (t := s.writeByte pa b) rfl (State.writeBytes_storesOnly l _ _)

theorem State.writePhys_storesOnly (s : State) (pa : Nat) (l : List Byte) : s.StoresOnly (s.writePhys pa l) :=
  (State.writeBytes_storesOnly l s pa).trans rfl

/-- Stores wake no stack and let none sleep. -/
theorem State.StoresOnly.asleep {s t : State} (h : s.StoresOnly t) (pa : Nat) : t.asleep pa = s.asleep pa := by
  rw [h]
  rfl

theorem State.asleep_hbmsr {s : State} {pa : Nat} (h : s.asleep pa = true) : (s.ctl.hbmsr != 0) = true := by
  simp only [State.asleep, Bool.and_eq_true] at h
  exact h.1.1

theorem State.asleepRange_iff (s : State) (pa n : Nat) : s.asleepRange pa n = true ↔ ∃ i, i < n ∧ s.asleep (pa + i) = true := by
  simp only [State.asleepRange, Bool.and_eq_true, List.any_eq_true, List.mem_range]
  exact ⟨fun h => h.2, fun ⟨i, hi, h⟩ => ⟨State.asleep_hbmsr h, i, hi, h⟩⟩

theorem State.outsideAccess_awake {s : State} {pa : Nat} {l : List Byte} (h : inAwakeHbm s pa l.length) :
    s.outsideAccess pa (some l) = s.writePhys pa l := by
  obtain ⟨hin, hawake⟩ := h
  have hrange : ¬ s.asleepRange pa l.length = true := fun hs => by
    obtain ⟨i, hi, h⟩ := (s.asleepRange_iff pa l.length).1 hs
    rw [hawake i hi] at h
    cases h
  exact (if_pos hin).trans (if_neg hrange)

theorem State.outsideAccess_asleep {s : State} {pa : Nat} {l : List Byte} (h : inSleepingHbm s pa l.length) :
    s.outsideAccess pa (some l) = { s with waiting := s.waiting ++ [(pa, l)] } :=
  (if_pos h.1).trans (if_pos ((s.asleepRange_iff pa l.length).2 h.2))

/-- A packet's elements are stored one after another. -/
theorem State.foldl_outsideAccess : ∀ (es : List (Nat × List Byte)) (s : State),
    (∀ e ∈ es, inAwakeHbm s e.1 e.2.length) → es.foldl (fun s e => s.outsideAccess e.1 (some e.2)) s =
      es.foldl (fun t e => t.writePhys e.1 e.2) s
  | [], _, _ => rfl
  | e :: es, s, h => by
    rw [List.foldl_cons, List.foldl_cons, State.outsideAccess_awake (h e List.mem_cons_self)]
    refine State.foldl_outsideAccess es _ fun x hx => ?_
    obtain ⟨hin, hawake⟩ := h x (List.mem_cons_of_mem _ hx)
    exact ⟨hin, fun i hi => ((s.writePhys_storesOnly e.1 e.2).asleep _).trans (hawake i hi)⟩

theorem exec_hostCxlMemAccess {s : State} (hboot : s.ctl.boot ≠ 3) (pa : Nat) (write : Option (List Byte)) :
    exec (.hostCxlMemAccess pa write) s = .next (s.outsideAccess pa write) := congrArg Host.Outcome.next (if_neg hboot)

theorem exec_requestPacket {s : State} (hboot : s.ctl.boot ≠ 3) (e : Nat × List Byte) (es : List (Nat × List Byte))
    (h : ∀ x ∈ e :: es, inAwakeHbm s x.1 x.2.length) :
    exec (.requestPacket e es) s = .next (es.foldl (fun t e => t.writePhys e.1 e.2) (s.writePhys e.1 e.2)) :=
  congrArg Host.Outcome.next ((if_neg hboot).trans (State.foldl_outsideAccess (e :: es) s h))

/-! ## Queues (R429) -/

theorem exec_queueConfigWrite (s : State) {n i : Nat} (hn : n < 4096) (hi : i < 8) (v : Word) :
    exec (.queueConfigWrite n (8 * i) v) s = .next (s.queueWrite n i v) := by
  have hword : n < 4096 ∧ 8 * i < 64 ∧ 8 * i % 8 = 0 := by omega
  have hdiv : 8 * i / 8 = i := by omega
  refine congrArg Host.Outcome.next ((if_pos hword).trans ?_)
  rw [hdiv]

/-- An enabled queue keeps all but word 1. -/
theorem Queue.cfgPut_enabled {q : Queue} (h : q.enable = true) {i : Nat} (hi : i ≠ 1) (v : Word) : q.cfgPut i v = some q := by
  unfold Queue.cfgPut
  dsimp only
  rw [if_pos h, if_neg hi]

/-- A write that a queue's block takes changes that queue, and how long queues have waited. -/
theorem State.queueWrite_takes {s : State} {n i : Nat} {v : Word} {q : Queue} (h : (s.queueAt n).cfgPut i v = some q) :
    (s.setQueue n { q with enable := q.enable && (s.ctl.ready || (s.queueAt n).enable) }).SameButWaits (s.queueWrite n i v) := by
  unfold State.queueWrite
  rw [h]
  exact State.fillSlots_sameButWaits _

theorem queueConfigWrite_completes {s : State} {n i : Nat} {v : Word} {q : Queue} (hn : n < 4096) (hi : i < 8)
    (h : (s.queueAt n).cfgPut i v = some q) : completes (.queueConfigWrite n (8 * i) v) s fun t =>
      (∃ w, t.queueAt n = { q with enable := q.enable && (s.ctl.ready || (s.queueAt n).enable), w := w }) ∧
        (∀ k, k ≠ n → ∃ w, t.queueAt k = { s.queueAt k with w := w }) ∧ t.mem = s.mem ∧ t.ctxs = s.ctxs := by
  have hsame := State.queueWrite_takes h
  refine ⟨_, exec_queueConfigWrite s hn hi v, ?_, fun k hk => ?_, hsame.mem, hsame.ctxs⟩
  · obtain ⟨w, hw⟩ := hsame.queue n
    rw [State.queueAt_setQueue, if_pos rfl] at hw
    exact ⟨w, hw⟩
  · obtain ⟨w, hw⟩ := hsame.queue k
    rw [State.queueAt_setQueue, if_neg hk] at hw
    exact ⟨w, hw⟩

theorem queueConfigWrite_enabled {s : State} {n i : Nat} {v : Word} (hn : n < 4096) (hi : i < 8)
    (henable : (s.queueAt n).enable = true) (h1 : i ≠ 1) : completes (.queueConfigWrite n (8 * i) v) s fun t =>
      ∃ w, t.queueAt n = { s.queueAt n with w := w } := by
  obtain ⟨t, hexec, ⟨w, hw⟩, -⟩ := queueConfigWrite_completes hn hi (Queue.cfgPut_enabled henable h1 v)
  have hstays : ((s.queueAt n).enable && (s.ctl.ready || (s.queueAt n).enable)) = (s.queueAt n).enable := by
    rw [henable, Bool.or_true]
    rfl
  refine ⟨t, hexec, w, hw.trans ?_⟩
  rw [hstays]

/-! ## Milestones and hotness (R379, R408) -/

theorem State.msAt_setMs (s : State) (cl : Nat) (n : MsName) (m : Milestone) : (s.setMs cl n m).msAt cl n = m := by
  unfold State.setMs State.msAt
  cases n.pkg <;> simp

theorem milestoneHostWrite_completes {s : State} {off cl : Nat} {ms : MsName} (hoff : off % 8 = 0)
    (h : msOffset off = some (cl, ms)) (v : Word) : completes (.milestoneHostWrite off v) s fun t =>
      t.msAt cl ms = { s.msAt cl ms with
        count := v.setWidth 32, ovf := v.getLsbD 32
        owned := if ms.pkg then v.getLsbD 35 else (s.msAt cl ms).owned
        owner := if ms.pkg then v.extractLsb' 36 20 else (s.msAt cl ms).owner } := by
  refine ⟨_, congrArg Host.Outcome.next (if_pos hoff), ?_⟩
  unfold State.msWrite
  rw [h]
  dsimp only
  rw [State.msAt_setMs]
  unfold Milestone.mmioPut
  cases ms.pkg <;> rfl

theorem hotnessReadClear_completes {s : State} {n : Nat} {h : Hot} (hfind : smFind n s.hot = some h) (hn : n < 2 ^ 15) :
    completes (.hotnessReadClear (0x400000 + 16 * n + 8)) s fun t =>
      smFind n t.hot = some { h with unit := 0, strided := 0, indexed := 0 } ∧ t = { s with hot := t.hot } := by
  have hoff : 0x400000 ≤ 0x400000 + 16 * n + 8 ∧ 0x400000 + 16 * n + 8 < 0x480000 ∧ (0x400000 + 16 * n + 8) % 16 = 8 := by omega
  have hentry : (0x400000 + 16 * n + 8 - 0x400000) / 16 = n := by omega
  have hword : (0x400000 + 16 * n + 8 - 0x400000) / 8 % 2 = 1 := by omega
  refine ⟨_, congrArg Host.Outcome.next (if_pos hoff), ?_⟩
  unfold State.hotRead
  dsimp only
  rw [hentry, hfind, hword]
  exact ⟨smFind_put_same _ _ _, rfl⟩

/-! ## The fault queue (R432) -/

theorem State.fqFlush_empty {s : State} (h : s.fq = []) : ∀ n, State.fqFlush n s = s
  | 0 => rfl
  | n + 1 => by
    unfold State.fqFlush
    rw [h]

theorem State.fqFlush_shut {s : State} (h : s.fqOpen = false) : ∀ n, State.fqFlush n s = s
  | 0 => rfl
  | n + 1 => by
    unfold State.fqFlush
    split
    · rfl
    · rw [h, if_neg Bool.false_ne_true]

/-- The write of a record takes none of the held ones. -/
theorem State.fqWrite_fq (s : State) (r : FqRec) : (s.fqWrite r).fq = s.fq := by
  have h := s.writePhys_storesOnly s.fqPa (fqBytes r)
  unfold State.fqWrite
  generalize s.writePhys s.fqPa (fqBytes r) = t at h
  rw [h]

/-- The one record that is held goes to the ring. -/
theorem State.fqFlush_one {s : State} {r : FqRec} (hfq : s.fq = [r]) (h : s.fqOpen = true) (n : Nat) :
    State.fqFlush (n + 1) s = ({ s with fq := [] } : State).fqWrite r := by
  have hstep : State.fqFlush (n + 1) s = State.fqFlush n (({ s with fq := [] } : State).fqWrite r) := by
    conv_lhs => unfold State.fqFlush
    rw [hfq]
    exact if_pos h
  rw [hstep]
  exact State.fqFlush_empty (State.fqWrite_fq _ r) n

/-- Stores look at no control register and no held record. -/
theorem State.writeBytes_ctl_fq (c : Control) (q : List FqRec) : ∀ (l : List Byte) (s : State) (pa : Nat),
    ({ s with ctl := c, fq := q } : State).writeBytes pa l = { s.writeBytes pa l with ctl := c, fq := q }
  | [], _, _ => rfl
  | b :: l, s, pa => State.writeBytes_ctl_fq c q l (s.writeByte pa b) (pa + 1)

theorem State.writePhys_ctl_fq (s : State) (c : Control) (q : List FqRec) (pa : Nat) (l : List Byte) :
    ({ s with ctl := c, fq := q } : State).writePhys pa l = { s.writePhys pa l with ctl := c, fq := q } := by
  unfold State.writePhys
  rw [State.writeBytes_ctl_fq]
  rfl

/-- What a vector raises, by its mask (R425): nothing but a pending bit, or a message. -/
theorem Control.raise_eq (c : Control) (vec : Nat) : (c.raise vec).fqtail = c.fqtail ∧
    (c.raise vec).messages = if (smGet ({} : Msix) c.msix vec).masked = false then
      c.messages ++ [((smGet ({} : Msix) c.msix vec).addr, (smGet ({} : Msix) c.msix vec).data)] else c.messages := by
  unfold Control.raise
  dsimp only
  cases (smGet ({} : Msix) c.msix vec).masked <;> exact ⟨rfl, rfl⟩

/-- FQCTL as it is written: LOST, IE and ENABLE, and LOG2N while the queue is disabled. -/
def Control.fqPut (c : Control) (v : Word) : Control :=
  { c with
    lost := v.extractLsb' 16 16, fqie := v.getLsbD 9, fqen := v.getLsbD 8
    fqlog2n := if !c.fqen && decide (6 ≤ v.toNat % 32) && decide (v.toNat % 32 ≤ 16) then v.toNat % 32 else c.fqlog2n }

theorem exec_faultQueueEnable (s : State) (v : Word) :
    exec (.faultQueueEnable v) s = .next (State.fqFlush 256 { s with ctl := s.ctl.fqPut v }) := rfl

theorem faultQueueEnable_empty {s : State} (h : s.fq = []) (v : Word) : completes (.faultQueueEnable v) s fun t =>
    t.ctl.fqen = v.getLsbD 8 ∧ t.ctl.fqie = v.getLsbD 9 ∧ t.ctl.lost = v.extractLsb' 16 16 ∧
      (s.ctl.fqen = true → t.ctl.fqlog2n = s.ctl.fqlog2n) ∧ t = { s with ctl := t.ctl } := by
  refine ⟨_, exec_faultQueueEnable s v, ?_⟩
  rw [State.fqFlush_empty (s := { s with ctl := s.ctl.fqPut v }) h]
  refine ⟨rfl, rfl, rfl, fun hen => if_neg ?_, rfl⟩
  rw [hen]
  exact Bool.false_ne_true

/-- The ring takes a record from a queue that FQCTL enables, once it has room and its memory is awake. -/
theorem Control.fqPut_open {s : State} {v : Word} {m : Nat} (hon : v.getLsbD 8 = true) (hlog : (s.ctl.fqPut v).fqlog2n = m) :
    State.fqOpen { s with ctl := s.ctl.fqPut v } =
      (!decide ((s.ctl.fqtail.toNat + 1) % 2 ^ m = s.ctl.fqhead.toNat % 2 ^ m) &&
        !s.asleepRange (s.hostPa (s.ctl.fqbase.toNat + 64 * s.ctl.fqtail.toNat)) 64) := by
  have hen : (s.ctl.fqPut v).fqen = true := hon
  unfold State.fqOpen Control.fqFull
  dsimp only
  rw [hlog, hen, Bool.true_and]
  rfl

/-- The control registers after a record: the next TAIL, and the vector that IE raises. -/
def Control.fqNext (c : Control) : Control :=
  let next := { c with fqtail := BitVec.ofNat 16 ((c.fqtail.toNat + 1) % 2 ^ c.fqlog2n) }
  if c.fqie then next.raise 0 else next

theorem Control.fqNext_tail (c : Control) :
    c.fqNext.fqtail = BitVec.ofNat 16 ((c.fqtail.toNat + 1) % 2 ^ c.fqlog2n) := by
  unfold Control.fqNext
  dsimp only
  split
  · rw [(Control.raise_eq _ 0).1]
  · rfl

theorem Control.fqNext_messages (c : Control) :
    let entry := smGet ({} : Msix) c.msix 0
    c.fqNext.messages = if c.fqie = true ∧ entry.masked = false then c.messages ++ [(entry.addr, entry.data)]
      else c.messages := by
  unfold Control.fqNext
  dsimp only
  split
  next hie =>
    rw [(Control.raise_eq _ 0).2]
    exact if_congr ⟨fun h => ⟨hie, h⟩, And.right⟩ rfl rfl
  next hie => exact (if_neg fun h => hie h.1).symm

theorem State.fqWrite_eq (s : State) (r : FqRec) :
    s.fqWrite r = { s.writePhys s.fqPa (fqBytes r) with ctl := s.ctl.fqNext } := by
  have h := s.writePhys_storesOnly s.fqPa (fqBytes r)
  unfold State.fqWrite Control.fqNext
  dsimp only
  rw [congrArg State.ctl h]

/-- The one record that is held goes to the ring of a queue that is enabled. -/
theorem State.fqFlush_held {s : State} {c : Control} {r : FqRec} (hfq : s.fq = [r])
    (hopen : State.fqOpen { s with ctl := c } = true) :
    State.fqFlush 256 { s with ctl := c } =
      { s.writePhys (State.fqPa { s with ctl := c }) (fqBytes r) with ctl := c.fqNext, fq := [] } := by
  rw [State.fqFlush_one (s := { s with ctl := c }) hfq hopen 255, State.fqWrite_eq]
  have hpa : State.fqPa { s with ctl := c, fq := [] } = State.fqPa { s with ctl := c } := rfl
  dsimp only
  rw [hpa, State.writePhys_ctl_fq]

theorem faultQueueEnable_held {s : State} {r : FqRec} {v : Word} (hfq : s.fq = [r]) (hoff : s.ctl.fqen = false)
    (hon : v.getLsbD 8 = true) :
    let m := if 6 ≤ v.toNat % 32 ∧ v.toNat % 32 ≤ 16 then v.toNat % 32 else s.ctl.fqlog2n
    let entry := smGet ({} : Msix) s.ctl.msix 0
    let pa := s.hostPa (s.ctl.fqbase.toNat + 64 * s.ctl.fqtail.toNat)
    (s.asleepRange pa 64 = true → completes (.faultQueueEnable v) s fun t => t.fq = [r] ∧ t.mem = s.mem) ∧
    (s.asleepRange pa 64 = false → (s.ctl.fqtail.toNat + 1) % 2 ^ m ≠ s.ctl.fqhead.toNat % 2 ^ m →
      completes (.faultQueueEnable v) s fun t =>
        t.fq = [] ∧ t.ctl.fqtail = BitVec.ofNat 16 ((s.ctl.fqtail.toNat + 1) % 2 ^ m) ∧
        t.mem = (s.writePhys pa (fqBytes r)).mem ∧
        t.ctl.messages = (if v.getLsbD 9 = true ∧ entry.masked = false then s.ctl.messages ++ [(entry.addr, entry.data)]
          else s.ctl.messages)) := by
  intro m entry pa
  have hlog : (s.ctl.fqPut v).fqlog2n = m := by
    unfold Control.fqPut
    dsimp only
    rw [hoff]
    exact if_congr (by simp) rfl rfl
  have hopen := Control.fqPut_open hon hlog
  refine ⟨fun hsleep => ⟨_, exec_faultQueueEnable s v, ?_⟩, fun hawake hroom => ⟨_, exec_faultQueueEnable s v, ?_⟩⟩
  · have hshut : State.fqOpen { s with ctl := s.ctl.fqPut v } = false := by
      rw [hopen, hsleep]
      exact Bool.and_false _
    rw [State.fqFlush_shut hshut]
    exact ⟨hfq, rfl⟩
  · have hgoes : State.fqOpen { s with ctl := s.ctl.fqPut v } = true := by
      rw [hopen, hawake, decide_eq_false hroom]
      rfl
    have hpa : State.fqPa { s with ctl := s.ctl.fqPut v } = pa := rfl
    rw [State.fqFlush_held hfq hgoes, hpa]
    refine ⟨rfl, ?_, ?_, (s.ctl.fqPut v).fqNext_messages⟩
    · rw [← hlog]
      exact (s.ctl.fqPut v).fqNext_tail
    · dsimp only

theorem exec_fqHeadWrite {s : State} (h : s.fq = []) (v : Word) :
    exec (.fqHeadWrite v) s = .next { s with ctl := { s.ctl with fqhead := v.setWidth 16 } } :=
  congrArg Host.Outcome.next (State.fqFlush_empty (s := { s with ctl := { s.ctl with fqhead := v.setWidth 16 } }) h 256)

/-! ## BAR0 of the functions (R425, R427, R428, R430) -/

/-- Physical function 0 reaches the MMIO space. -/
theorem exec_mmioRegisterWrite_pf0 (s : State) {off : Nat} (h8 : off % 8 = 0) (hoff : off < 2 ^ 26) (v : Word) :
    exec (.mmioRegisterWrite off v) s = .next (s.mmioWrite true off v) :=
  (if_neg (not_not.2 h8)).trans (if_pos hoff)

/-- Virtual function i has its QCMD at 0 and its QARG at 8. -/
theorem exec_mmioRegisterWrite_vf (s : State) {i off : Nat} (hi : i < 16) (h8 : off % 8 = 0) (hoff : off < 2 ^ 26) (v : Word) :
    exec (.mmioRegisterWrite ((i + 1) * 2 ^ 26 + off) v) s = .next (if off = 0 then s.qWrite (i + 1) v
      else if off = 8 then s.setQport (i + 1) { s.qport (i + 1) with qarg := v } else s) := by
  have hmod : ¬ ((i + 1) * 2 ^ 26 + off) % 8 ≠ 0 := by omega
  have hpf : ¬ (i + 1) * 2 ^ 26 + off < 2 ^ 26 := by omega
  have hvf : (i + 1) * 2 ^ 26 + off < 17 * 2 ^ 26 := by omega
  have hdiv : ((i + 1) * 2 ^ 26 + off) / 2 ^ 26 = i + 1 := by omega
  have hrest : ((i + 1) * 2 ^ 26 + off) % 2 ^ 26 = off := by omega
  refine ((if_neg hmod).trans ((if_neg hpf).trans (if_pos hvf))).trans ?_
  dsimp only
  rw [hdiv, hrest]

/-- The assignment of queues to virtual function i. -/
theorem exec_mmioRegisterWrite_vfs (s : State) {i : Nat} {v : Word} (hi : i < 16) (hn : v.toNat / 2 ^ 16 % 2 ^ 16 % 16 = 0)
    (hmax : v.toNat / 2 ^ 16 % 2 ^ 16 ≤ 240) (hend : v.toNat % 2 ^ 16 + v.toNat / 2 ^ 16 % 2 ^ 16 ≤ 4096) :
    exec (.mmioRegisterWrite (17 * 2 ^ 26 + 8 * i) v) s = .next { s with ctl := { s.ctl with
      vfs := smPut i (v.toNat % 2 ^ 16, v.toNat / 2 ^ 16 % 2 ^ 16) s.ctl.vfs } } := by
  have hmod : ¬ (17 * 2 ^ 26 + 8 * i) % 8 ≠ 0 := by omega
  have hpf : ¬ 17 * 2 ^ 26 + 8 * i < 2 ^ 26 := by omega
  have hvf : ¬ 17 * 2 ^ 26 + 8 * i < 17 * 2 ^ 26 := by omega
  have hpf1 : ¬ 18 * 2 ^ 26 ≤ 17 * 2 ^ 26 + 8 * i := by omega
  have hdiv : (17 * 2 ^ 26 + 8 * i - 17 * 2 ^ 26) / 8 = i := by omega
  refine ((if_neg hmod).trans ((if_neg hpf).trans ((if_neg hvf).trans (if_neg hpf1)))).trans ?_
  dsimp only
  rw [hdiv]
  exact congrArg Host.Outcome.next (if_pos ⟨hi, hn, hmax, hend⟩)

/-- Physical function 1 does not reach the configuration of a virtual function's queues. -/
theorem exec_mmioRegisterWrite_pf1 (s : State) {off : Nat} (h8 : off % 8 = 0) (hoff : off < 2 ^ 26) (v : Word) :
    exec (.mmioRegisterWrite (18 * 2 ^ 26 + off) v) s =
      .next (if s.vfQueueAt off = true then s else s.mmioWrite true off v) := by
  have hmod : ¬ (18 * 2 ^ 26 + off) % 8 ≠ 0 := by omega
  have hpf : ¬ 18 * 2 ^ 26 + off < 2 ^ 26 := by omega
  have hvf : ¬ 18 * 2 ^ 26 + off < 17 * 2 ^ 26 := by omega
  have hsub : 18 * 2 ^ 26 + off - 18 * 2 ^ 26 = off := by omega
  have hout : 2 ^ 26 ≤ off ∨ s.vfQueueAt off = true ↔ s.vfQueueAt off = true :=
    ⟨fun h => h.resolve_left (Nat.not_le.2 hoff), .inr⟩
  refine ((if_neg hmod).trans ((if_neg hpf).trans ((if_neg hvf).trans (if_pos (by omega))))).trans ?_
  dsimp only
  rw [hsub]
  exact congrArg Host.Outcome.next (if_congr hout rfl rfl)

theorem State.mmioWrite_queue (s : State) {n i : Nat} (hn : n < 4096) (hi : i < 8) (v : Word) :
    s.mmioWrite true (0x40000 + 64 * n + 8 * i) v = s.queueWrite n i v := by
  have hctl : ¬ 0x40000 + 64 * n + 8 * i < 0x1000 := by omega
  have hblock : 0x40000 ≤ 0x40000 + 64 * n + 8 * i ∧ 0x40000 + 64 * n + 8 * i < 0x80000 := by omega
  have hq : (0x40000 + 64 * n + 8 * i - 0x40000) / 64 = n := by omega
  have hword : (0x40000 + 64 * n + 8 * i) / 8 % 8 = i := by omega
  unfold State.mmioWrite
  rw [if_neg hctl, if_pos hblock, hq, hword]
  rfl

theorem State.vfQueueAt_iff (s : State) {n i : Nat} (hn : n < 4096) (hi : i < 8) :
    s.vfQueueAt (0x40000 + 64 * n + 8 * i) = true ↔ ∃ e ∈ s.ctl.vfs, e.2.1 ≤ n ∧ n < e.2.1 + e.2.2 := by
  have hblock : 0x40000 ≤ 0x40000 + 64 * n + 8 * i ∧ 0x40000 + 64 * n + 8 * i < 0x80000 := by omega
  have hq : (0x40000 + 64 * n + 8 * i - 0x40000) / 64 = n := by omega
  unfold State.vfQueueAt
  dsimp only
  rw [hq, decide_eq_true hblock]
  simp only [Bool.true_and, List.any_eq_true, Bool.and_eq_true, decide_eq_true_eq]

/-- The status of a window is that of the last record stored there (R430). -/
theorem State.vfRead_window (s : State) (i j : Nat) : s.vfRead i (0x10000 + 4096 * j + 64) =
    if j < (smGet (0, 0) s.ctl.vfs i).2 then BitVec.ofNat 64 (smGet 0 s.ctl.vfWin (4096 * i + j)) else 0 := by
  have h0 : ¬ 0x10000 + 4096 * j + 64 = 0 := by omega
  have h8 : ¬ 0x10000 + 4096 * j + 64 = 8 := by omega
  have h16 : ¬ 0x10000 + 4096 * j + 64 = 16 := by omega
  have hpage : 0x10000 ≤ 0x10000 + 4096 * j + 64 ∧ (0x10000 + 4096 * j + 64) % 4096 = 64 := by omega
  have hj : (0x10000 + 4096 * j + 64 - 0x10000) / 4096 = j := by omega
  unfold State.vfRead
  dsimp only
  rw [if_neg h0, if_neg h8, if_neg h16, hj]
  exact if_congr ⟨fun h => h.2.2, fun h => ⟨hpage.1, hpage.2, h⟩⟩ rfl rfl

theorem State.vfRead_nothing (s : State) (i : Nat) {off : Nat} (h0 : off ≠ 0) (h8 : off ≠ 8) (h16 : off ≠ 16)
    (hpage : off < 0x10000 ∨ off % 4096 ≠ 64) : s.vfRead i off = 0 := by
  unfold State.vfRead
  dsimp only
  rw [if_neg h0, if_neg h8, if_neg h16]
  exact if_neg fun h => hpage.elim (Nat.not_lt.2 h.1) (· h.2.1)

theorem State.mmioRead_window (s : State) {n : Nat} (hn : n < 4096) :
    (s.mmioRead (0x1000000 + 4096 * n + 64)).1 = BitVec.ofNat 64 (s.queueAt n).winStatus := by
  have hctl : ¬ 0x1000000 + 4096 * n + 64 < 0x1000 := by omega
  have hqueues : ¬ (0x40000 ≤ 0x1000000 + 4096 * n + 64 ∧ 0x1000000 + 4096 * n + 64 < 0x80000) := by omega
  have hgroups : ¬ (0x110000 ≤ 0x1000000 + 4096 * n + 64 ∧ 0x1000000 + 4096 * n + 64 < 0x110800) := by omega
  have hhot : ¬ (0x400000 ≤ 0x1000000 + 4096 * n + 64 ∧ 0x1000000 + 4096 * n + 64 < 0x480000) := by omega
  have hwindows : 0x1000000 ≤ 0x1000000 + 4096 * n + 64 ∧ 0x1000000 + 4096 * n + 64 < 0x2000000 := by omega
  have hq : (0x1000000 + 4096 * n + 64 - 0x1000000) / 4096 = n := by omega
  unfold State.mmioRead
  rw [if_neg hctl, if_neg hqueues, if_neg hgroups, if_neg hhot, if_pos hwindows, hq]
  exact if_pos (by omega)

end Sys2Proof.Machine

namespace Sys2Proof.Proofs

open Sys2Proof Sys2Proof.Machine Sys2Proof.Claims

/-- Settles O51: what an access does is a lemma about its unit, and each offset of a BAR0 reaches one of them. -/
theorem hostAccesses : Obligations.HostAccesses := by
  unfold Obligations.HostAccesses
  intro s pa n i cl l es v q h ms r
  refine ⟨fun hb ha => (exec_hostCxlMemAccess hb pa _).trans (congrArg _ (State.outsideAccess_awake ha)),
    fun hb ha => (exec_hostCxlMemAccess hb pa _).trans (congrArg _ (State.outsideAccess_asleep ha)),
    congrArg Host.Outcome.next (ite_self s), fun hb he => exec_requestPacket hb (pa, l) es he,
    fun hb => ⟨congrArg Host.Outcome.next (if_pos hb), congrArg Host.Outcome.next (if_pos hb)⟩,
    queueConfigWrite_enabled, queueConfigWrite_completes, fun hi hms => milestoneHostWrite_completes hi hms v,
    hotnessReadClear_completes, fun hfq => faultQueueEnable_empty hfq v, faultQueueEnable_held, fun hi hn hmax hend => ?_,
    fun hfq => exec_fqHeadWrite hfq v, exec_mmioRegisterWrite_pf0 s (by decide) (by decide) v,
    exec_mmioRegisterWrite_pf0 s (by decide) (by decide) v, exec_mmioRegisterWrite_pf0 s (by decide) (by decide) v,
    fun hn hi => ?_, fun hn hi => ?_, fun hi => ?_, s.mmioRead_window, fun hoff => ?_⟩
  · exact ⟨_, exec_mmioRegisterWrite_vfs s hi hn hmax hend, smGet_put_same _ _ _ _, fun k hk => smGet_put_other _ hk _ _, rfl⟩
  · rw [exec_mmioRegisterWrite_pf0 s (by omega) (by omega), s.mmioWrite_queue hn hi, exec_queueConfigWrite s hn hi]
  · have hoff : 18 * 2 ^ 26 + 0x40000 + 64 * n + 8 * i = 18 * 2 ^ 26 + (0x40000 + 64 * n + 8 * i) := by omega
    have hexec := exec_mmioRegisterWrite_pf1 s (off := 0x40000 + 64 * n + 8 * i) (by omega) (by omega) v
    have hgiven := s.vfQueueAt_iff hn hi
    rw [hoff, hexec]
    refine ⟨fun hg => congrArg Host.Outcome.next (if_pos (hgiven.2 hg)), fun hg => ?_⟩
    rw [if_neg (mt hgiven.1 hg), s.mmioWrite_queue hn hi, exec_queueConfigWrite s hn hi]
  · exact ⟨exec_mmioRegisterWrite_vf s hi (by decide) (by decide) v, fun off h8 h0 hne hoff =>
      (exec_mmioRegisterWrite_vf s hi h8 hoff v).trans (congrArg _ ((if_neg h0).trans (if_neg hne))), rfl, rfl, rfl,
      s.vfRead_window i, fun off => s.vfRead_nothing i⟩
  · refine ⟨{ s with ctl := { s.ctl with fqbase := v &&& 0xFFFFFFFFFFFFFFC0 } }, ?_, rfl, rfl⟩
    refine (exec_mmioRegisterWrite_pf0 s (by decide) (by decide) v).trans (congrArg Host.Outcome.next ?_)
    change (if s.ctl.fqen then s else _) = _
    rw [hoff]
    rfl

end Sys2Proof.Proofs
end

section
/-! Cache maintenance, prefetches and cached translations of scalar accesses (R252, R253, R261, R281, R366, R372), and O12. -/

namespace Sys2Proof.Machine

open Sys2Proof.Claims

/-! ## Performed writes (R281) -/

/-- A performance marks the views given, and keeps what was marked before. -/
theorem smFind_mark_isSome (m d : Nat) : ∀ (v : List Nat) (k : SMap Nat), d ∈ v ∨ (smFind d k).isSome = true →
    (smFind d (v.foldl (fun k d => if (smFind d k).isSome then k else smPut d m k) k)).isSome = true
  | [], _, h => h.resolve_left List.not_mem_nil
  | e :: v, k, h => by
    refine smFind_mark_isSome m d v _ ?_
    dsimp only
    by_cases hde : d = e
    · subst hde
      refine .inr ?_
      split
      next hk => exact hk
      next => rw [smFind_put_same, Option.isSome_some]
    · obtain hd | hd := h
      · exact .inl ((List.mem_cons.1 hd).resolve_left hde)
      · refine .inr ?_
        split
        next => exact hd
        next => rwa [smFind_put_other hde]

/-- The newest write is performed where it has a view. -/
theorem performList_newest (m : Nat) {f : Write → List Nat} (g : Write → List Nat) {x : Write} (hx : f x ≠ []) :
    ∀ l : List Write, ∃ k, ({ x with seen := k }, true) ∈ performList m f g (l ++ [x])
  | [] => by
    have hsome : (!(f x ++ []).isEmpty) = true := by simpa using hx
    refine ⟨_, List.mem_singleton.2 (Prod.ext rfl hsome.symm)⟩
  | _ :: l => by
    obtain ⟨k, hk⟩ := performList_newest m g hx l
    exact ⟨k, List.mem_cons_of_mem _ hk⟩

/-- The newest write is performed in its views, and a write that leads to it on its own L-die. -/
theorem performList_led (m : Nat) {f : Write → List Nat} (g : Write → List Nat) {x : Write} (hx : f x ≠ []) :
    ∀ (l : List Write), ∀ p ∈ performList m f g (l ++ [x]), ∃ k,
      (p.1 = { x with seen := k } ∧ ∀ d ∈ f x, (smFind d k).isSome = true) ∨
        ∃ w ∈ l, p.1 = { w with seen := k } ∧ (w.leads x = true → (smFind w.die k).isSome = true)
  | [], p, hp => by
    rw [List.mem_singleton.1 hp]
    exact ⟨_, .inl ⟨rfl, fun d hd => smFind_mark_isSome m d _ _ (.inl (List.mem_append_left _ hd))⟩⟩
  | w :: l, p, hp => by
    rw [List.cons_append] at hp
    obtain rfl | hp := List.mem_cons.1 hp
    · refine ⟨_, .inr ⟨w, List.mem_cons_self, rfl, fun hleads => ?_⟩⟩
      obtain ⟨k, hk⟩ := performList_newest m g hx l
      have hled : ((performList m f g (l ++ [x])).any fun p => p.2 && w.leads p.1) = true :=
        List.any_eq_true.2 ⟨_, hk, hleads⟩
      refine smFind_mark_isSome m _ _ _ (.inl (List.mem_append_right _ ?_))
      rw [hled, if_pos rfl]
      exact List.mem_cons_self
    · obtain ⟨k, hnew | ⟨v, hv, hold⟩⟩ := performList_led m g hx l p hp
      · exact ⟨k, .inl hnew⟩
      · exact ⟨k, .inr ⟨v, List.mem_cons_of_mem _ hv, hold⟩⟩

/-- A write of one element between two states, as it is held. -/
def State.heldWrite (s t : State) (sid cls : Nat) (y : WriteAt) : Write :=
  { num := (s.moment + 1) * 2 ^ 20 + 0, sid := sid, cls := cls, port := y.port, instr := s.moment + 1, die := y.die
    bytes := y.locs.map fun b => (b.scratch, b.key, s.locByte b, t.locByte b) }

theorem State.heldWrite_num (s t : State) (sid cls : Nat) (y : WriteAt) :
    (s.heldWrite t sid cls y).num = (s.moment + 1) * 2 ^ 20 + 0 := by
  unfold State.heldWrite
  dsimp only

/-- Of a performance, what stays held is what it made of the writes, if anything. -/
theorem State.mem_performWith {s : State} {f g : Write → List Nat} {w : Write} (hw : w ∈ (s.performWith f g).writes) :
    ∃ p ∈ performList (s.moment + 1) f g s.writes, w = p.1 := by
  unfold State.performWith at hw
  split at hw
  next hnone =>
    rw [List.isEmpty_iff.1 hnone] at hw
    cases hw
  next =>
    obtain h | h := State.settleWrites_cases { s with
      moment := s.moment + 1
      writes := (performList (s.moment + 1) f g s.writes).map Prod.fst }
    · rw [h] at hw
      obtain ⟨p, hp, rfl⟩ := List.mem_map.1 hw
      exact ⟨p, hp, rfl⟩
    · rw [h] at hw
      cases hw

/-- The note of one element performs its write in the views where it does not lag. -/
theorem State.noteWith_one (s t : State) (lag : Nat → Nat) (left : List Nat) (sid cls : Nat) (y : WriteAt) : ∃ f,
    s.noteWith t lag left sid cls [y] = ({ t with
      moment := s.moment, lags := left, writes := s.writes ++ [s.heldWrite t sid cls y] } : State).performFor f ∧
    f (s.heldWrite t sid cls y) = (List.range 10).filter fun v => !(lag y.elem).testBit v := by
  refine ⟨_, rfl, ?_⟩
  have hfind : ([(y, 0)].find? fun q => decide ((s.moment + 1) * 2 ^ 20 + q.2 = (s.heldWrite t sid cls y).num)) =
      some (y, 0) := List.find?_cons_of_pos (decide_eq_true (s.heldWrite_num t sid cls y).symm)
  rw [List.zipIdx_singleton, hfind]

/-- A write that no access lags behind is performed in every view, and the writes that lead to it on their L-dies. -/
theorem State.noteWrites_led {s t : State} (ht : t.writes = s.writes) (hlags : s.lags = []) {sid cls : Nat} {y : WriteAt}
    {w : Write} (hw : w ∈ (s.noteWrites t sid cls [y]).writes) : ∃ k,
      (w = { s.heldWrite t sid cls y with seen := k } ∧ ∀ d < 10, (smFind d k).isSome = true) ∨
        ∃ v ∈ s.writes, w = { v with seen := k } ∧ (v.leads (s.heldWrite t sid cls y) = true → (smFind v.die k).isSome = true) := by
  unfold State.noteWrites at hw
  split at hw
  next hnone =>
    rw [ht, List.isEmpty_iff.1 hnone.1] at hw
    cases hw
  next =>
    obtain ⟨f, hnote, hf⟩ := s.noteWith_one t (fun e => s.lags.getD e 0) (s.lags.drop ([y].foldl (fun k x => max k (x.elem + 1)) 0))
      sid cls y
    rw [hnote] at hw
    have hviews : f (s.heldWrite t sid cls y) = List.range 10 := by
      rw [hf, hlags]
      simp
    have hsome : f (s.heldWrite t sid cls y) ≠ [] := by simp [hviews]
    obtain ⟨p, hp, rfl⟩ := State.mem_performWith hw
    obtain ⟨k, ⟨hnew, hseen⟩ | hold⟩ := performList_led _ _ hsome s.writes p hp
    · exact ⟨k, .inl ⟨hnew, fun d hd => hseen d (hviews ▸ List.mem_range.2 hd)⟩⟩
    · exact ⟨k, .inr hold⟩

/-- A strand's earlier write in a class leads to its later write of the class at no port. -/
theorem Write.leads_of_class {w x : Write} (hsid : w.sid = x.sid) (hinstr : w.instr < x.instr) (hport : x.port = none)
    (hcls : w.cls = x.cls ∨ w.cls = 15 ∨ x.cls = 15) : w.leads x = true := by
  unfold Write.leads kept
  rw [hport]
  rcases hcls with h | h | h <;> simp [hsid, hinstr, h]

theorem Ctx.die_lt (c : Ctx) : c.die < 10 := by
  unfold Ctx.die Ctx.firstCl
  omega

/-! ## Cache maintenance (R252, R261) -/

theorem State.scalarHot_eq (s : State) (c : Ctx) (va n : Nat) : s.scalarHot c va n = { s with hot := (s.scalarHot c va n).hot } :=
  s.hotCount_eq c 0 _

theorem State.lineOp_window {s : State} {a : Word} (h : inWindow a.toNat = true) (cls : Nat) : s.lineOp cls a = s.pass := if_pos h

theorem State.ViewsOnly.flowed {s t : State} (h : s.ViewsOnly t) : (flowed s).ViewsOnly (flowed t) := by
  rw [h]
  rfl

/-- The write of its class that cache maintenance counts as. -/
def lineWrite (s : State) : WriteAt := { elem := 0, port := none, die := s.me.die, locs := [] }

/-- Cache maintenance outside the window: the access counts, the line is clean, and a write is noted. -/
theorem State.lineOp_ok {s s' : State} {a : Word} {pa : Nat} (hw : inWindow a.toNat = false)
    (h : s.translate s.me 0 (s.me.noMmio 0 a.toNat) a.toNat = .ok pa s') (cls : Nat) :
    s.lineOp cls a = flowed (({ s' with hot := (s'.scalarHot s.me a.toNat 1).hot } : State).noteWrites
      { s' with home := s'.home.filter fun e => decide (e.1 / 64 ≠ s'.cell pa / 64), hot := (s'.scalarHot s.me a.toNat 1).hot }
      s'.me.sid cls [lineWrite s']) := by
  have hhot : s.translateHot s.me 0 (s.me.noMmio 0 a.toNat) a.toNat 1 = .ok pa s' := by
    unfold State.translateHot
    rw [h]
  unfold State.lineOp
  rw [if_neg (by rw [hw]; exact Bool.false_ne_true), hhot, Res.andThen_ok]
  dsimp only
  rw [s'.scalarHot_eq]
  rfl

/-! ## A cached translation of a scalar access (R366, R372) -/

theorem State.translate_hit {s : State} {c : Ctx} {d : PteFormat} {e : TlbEntry} {kind va : Nat} (hd : c.desc = some d)
    (hit : (smGet [] s.tlbs sDie).find? (fun x => x.serves c d va && x.allows kind (!c.sup) false) = some e) (gate : Gate)
    (hok : s.leafOk d (e.addr va) = true) (hregion : regionOf (s.outPa d (e.addr va)) ≠ 3) :
    s.translate c kind gate va = .ok (s.outPa d (e.addr va)) s := by
  have hhit : s.hit sDie c d kind (!c.sup) va = some e := hit
  have hgate : gate.at (s.outPa d (e.addr va)) = none := if_neg hregion
  have hout : s.translateOut sDie c kind gate va = .ok (e.addr va) s := by
    unfold State.translateOut
    rw [hd]
    dsimp only
    rw [hhit]
    dsimp only
    rw [hok, hgate]
    rfl
  unfold State.translate
  rw [hout, Res.andThen_ok]
  unfold State.ctxPa
  rw [hd]

end Sys2Proof.Machine

namespace Sys2Proof.Proofs

open Sys2Proof Sys2Proof.Machine Sys2Proof.Claims

/-- Settles O12: pf passes, cflush and cinv are one operation on a line, and a hit of the scalar TLB changes nothing. -/
theorem cacheMaintenanceAndTranslation : Obligations.CacheMaintenanceAndTranslation := by
  unfold Obligations.CacheMaintenanceAndTranslation
  refine ⟨fun s s' ra imm k pa => ⟨rfl, fun hw hok => ?_, fun hw => ?_⟩, fun s c d e kind va hd hit => ?_⟩
  · intro hot u
    have hline := State.lineOp_ok hw hok k.toNat
    have hviews := State.noteWrites_viewsOnly { s' with hot := hot } u s'.me.sid k.toNat [lineWrite s']
    refine ⟨_, congrArg Host.Outcome.next hline, congrArg Host.Outcome.next hline, hviews.flowed, fun hw hl => ?_,
      fun hl hinstr v hv hsid hcls => ?_⟩
    · exact congrArg flowed (State.noteWrites_none (s := { s' with hot := hot }) hw hl u _ _ _)
    · obtain ⟨j, ⟨rfl, hseen⟩ | ⟨x, hx, rfl, hled⟩⟩ := State.noteWrites_led (s := { s' with hot := hot }) (t := u) rfl hl hv
      · exact hseen _ s'.me.die_lt
      · have hclass : x.cls = k.toNat ∨ x.cls = 15 ∨ k.toNat = 15 := hcls.imp_right (Or.imp_right (congrArg BitVec.toNat))
        exact hled (Write.leads_of_class hsid (Nat.lt_succ_of_le (hinstr x hx)) rfl hclass)
  · have hpass := State.lineOp_window (s := s) hw k.toNat
    exact ⟨congrArg Host.Outcome.next hpass, congrArg Host.Outcome.next hpass⟩
  · exact State.translate_hit hd hit _

end Sys2Proof.Proofs
end
